-- ==== Sys2Proof/Word.lean ====
section
/-! DEFINITION. Word types of Gyhorn and the one shape in which sparse storage is held. -/

namespace Sys2Proof

/-- A 64-bit register value (R60). -/
abbrev Word := BitVec 64

/-- A byte of memory (R4). -/
abbrev Byte := BitVec 8

/-- A parcel is 32 bits (R4, R22). -/
abbrev Parcel := BitVec 32

/-- Storage that is mostly at its reset value: pairs of a key and a value, keys strictly rising, and no
pair that holds the value an unlisted key reads as. -/
abbrev Sparse (α : Type) := List (Nat × α)

end Sys2Proof
end

