-- ==== Sys2Proof/Syntax.lean ====
section
/-! DEFINITION. The instructions and events of spec/opcode_table.json as ONE inductive, and the operand forms of
the chapters 02 (parcels, formats) that they carry. -/

namespace Sys2Proof

/-- The four sequencers of a core, ids 0 to 3 (R18). -/
inductive SeqId where
  | c | t | v | m
deriving DecidableEq, Repr, Inhabited

/-- The SYN field of a head parcel: two token masks in token mode (R26), an idle count in timetable mode (R28). -/
abbrev Syn := BitVec 8

/-- Operand B of a control instruction: XK 00, 01, 11, or form C3 (R30, R264). -/
inductive CB where
  | reg (sb : BitVec 6)
  | simm (imm : BitVec 32)
  | zimm (imm : BitVec 32)
  | imm64 (imm : BitVec 64)
deriving DecidableEq, Repr, Inhabited

/-- The fields of forms C2, C3 and the branch form (R30). -/
structure COp where
  sd : BitVec 6
  sa : BitVec 6
  b : CB
deriving DecidableEq, Repr, Inhabited

/-- The fields of form E2 (R32). -/
structure E2 where
  xd : BitVec 5
  xa : BitVec 5
  sub : BitVec 4
  imm : BitVec 32
deriving DecidableEq, Repr, Inhabited

/-- The second operand of a vector instruction (R33): register, constant-bank entry, V2I immediate, V3L literal. -/
inductive VSrc where
  | reg (vb : BitVec 10)
  | kbank (kb : BitVec 10)
  | imm20 (imm : BitVec 20)
  | lit (w : BitVec 32)
deriving DecidableEq, Repr, Inhabited

/-- The fields of forms V2R, V2I and V3L (R33). V2I carries no TYPE, RM or OPX: they are 0 there. -/
structure VOp where
  pred : BitVec 4
  vd : BitVec 10
  va : BitVec 10
  ty : BitVec 4
  rm : BitVec 2
  opx : BitVec 4
  b : VSrc
deriving DecidableEq, Repr, Inhabited

/-- The fields of the two-parcel vector memory forms and of KLD (R157, R161). -/
structure VMemOp where
  pred : BitVec 4
  vd : BitVec 10
  xa : BitVec 5
  vb : BitVec 10
  ty : BitVec 4
  opx : BitVec 4
deriving DecidableEq, Repr, Inhabited

/-- The fields of the two-parcel form of the random group (R196). -/
structure VRndOp where
  pred : BitVec 4
  vd : BitVec 10
  xk : BitVec 5
  xs : BitVec 5
  vb : BitVec 10
  ty : BitVec 4
  rm : BitVec 2
  kb : Bool
  opx : BitVec 4
deriving DecidableEq, Repr, Inhabited

/-- One operand of a loop-nest record: its BR and BM bits, base and strides (R37, R38). -/
structure RecOperand where
  br : Bool
  bm : Bool
  base : BitVec 32
  s0 : BitVec 16
  s1 : BitVec 16
  s2 : BitVec 16
  s3 : BitVec 16
deriving DecidableEq, Repr, Inhabited

/-- A loop-nest record without its head's OPC and SYN (R37, R38). Trip counts are stored less one (R39). -/
structure Rec where
  bmsel : BitVec 3
  opm : BitVec 5
  trip0 : BitVec 16
  trip1 : BitVec 16
  trip2 : BitVec 16
  trip3 : BitVec 16
  stamp : BitVec 32
  d : RecOperand
  a : RecOperand
  b : RecOperand
  aux0 : BitVec 32
  aux1 : BitVec 32
  aux2 : BitVec 32
deriving DecidableEq, Repr, Inhabited

/-- A vector memory instruction: the two-parcel form (R157) or the record (R160). -/
inductive VMemForm where
  | two (o : VMemOp)
  | record (r : Rec)
deriving DecidableEq, Repr, Inhabited

/-- A draw of the random group: the two-parcel form (R196) or the record (R200). -/
inductive VRndForm where
  | two (o : VRndOp)
  | record (r : Rec)
deriving DecidableEq, Repr, Inhabited

/-- The register BNZD counts down: an s register on C, an x register on an engine (R41). -/
inductive CountReg where
  | s (r : BitVec 6)
  | x (r : BitVec 5)
deriving DecidableEq, Repr, Inhabited

/-- A reflected flit that reaches this module: its sender and which of the sender's paths to this module it travels (R228), receive
index, lease epoch, window offset of its 64-byte block, byte mask, data, and the granules in the order of the first store that
touched each (R222, R224, R226). -/
structure InFlit where
  src : Nat
  path : Nat
  rx : Nat
  epoch : Nat
  off : Nat
  mask : BitVec 64
  data : BitVec 512
  order : List Nat
deriving DecidableEq, Repr, Inhabited

/-- A collective packet as it reaches this module (R253): header and payload. `hops` counts the hops left after
this one, `ops` and `route` hold one nibble each, the next one lowest, and `back` the ports by which it has come, the latest lowest. -/
structure CollPacket where
  src : Nat
  cid : Nat
  gen : Nat
  block : Nat
  hops : Nat
  ops : BitVec 32
  route : BitVec 32
  back : BitVec 32
  lwin : Nat
  loff : Nat
  lhalf : Nat
  data : BitVec 512
deriving DecidableEq, Repr, Inhabited

/-- What the patrol scrubber finds on a line (R93, R94): clean, one symbol in error, two symbols in error; `raced` says that a
store reached the line between the read and the write-back. -/
inductive ScrubFind where
  | clean
  | correctable (raced : Bool)
  | uncorrectable
deriving DecidableEq, Repr, Inhabited

/-- A piece of a load on its way: the load's id, the tick at which it is due, since the single issues of one record share an id, and which of
its pieces. -/
structure LoadAt where
  id : Nat
  due : Nat
  piece : Nat
deriving DecidableEq, Repr, Inhabited

/-- A copy of a flit that leaves: the member position that it is for, and the port (R233). -/
structure FlitExit where
  member : Nat
  port : Nat
deriving DecidableEq, Repr, Inhabited

/-- A register that an outside party writes: Milnos, or, at an offset of BAR0, the host (R347). `moduleNumber` and `domainShape` are what
the bring-up sets (R15, R290), `measure` extends a measurement register (R351), `islandVoltage` is in millivolts (R357). An entry of
the extent table of a stopped task is 256 bits wide; `bank` 2 and 3 name the table of the task saved from bank 0 and 1 (R90, R92). -/
inductive MgmtReg where
  | bar0 (off : Nat)
  | mbdoor
  | moduleNumber
  | domainShape
  | measure (i : Nat)
  | islandVoltage (island : Nat)
  | partCsr (first : Nat) (num : BitVec 12)
  | moduleCsr (num : BitVec 12)
  | coreCsr (core : Nat) (num : BitVec 12)
  | hostDrop
  | mailbox (i : Nat)
  | slotWheel (wheel pos : Nat)
  | slotOwner (set : Nat)
  | slotMask (set port quarter : Nat)
  | extent (core bank entry : Nat)
deriving DecidableEq, Repr, Inhabited

/-- A function of the part that becomes ready (R355). -/
inductive ReadyFn where
  | mgmt | host | timelock | sorus | digest | crypto
  | port (p : Nat) | stack (d : Nat) | cluster (c : Nat)
deriving DecidableEq, Repr, Inhabited

/-- Every row of spec/opcode_table.json: the instructions of R41 to R45, then the events. An instruction carries its
SYN field first. An event carries what the outside party or the schedule supplies. -/
inductive Instr where
  -- control: integer group (R265, R266)
  | add (y : Syn) (o : COp) | sub (y : Syn) (o : COp) | and (y : Syn) (o : COp) | or (y : Syn) (o : COp)
  | xor (y : Syn) (o : COp) | sll (y : Syn) (o : COp) | srl (y : Syn) (o : COp) | sra (y : Syn) (o : COp)
  | mul (y : Syn) (o : COp) | mulh (y : Syn) (o : COp) | mulhu (y : Syn) (o : COp) | div (y : Syn) (o : COp)
  | divu (y : Syn) (o : COp) | rem (y : Syn) (o : COp) | remu (y : Syn) (o : COp) | min (y : Syn) (o : COp)
  | max (y : Syn) (o : COp) | minu (y : Syn) (o : COp) | maxu (y : Syn) (o : COp) | slt (y : Syn) (o : COp)
  | sltu (y : Syn) (o : COp) | seq (y : Syn) (o : COp) | li (y : Syn) (o : COp) | clz (y : Syn) (o : COp)
  | popc (y : Syn) (o : COp) | rotl (y : Syn) (o : COp) | bext (y : Syn) (o : COp) | bins (y : Syn) (o : COp)
  -- control: branches (R267)
  | j (y : Syn) (o : COp) | jal (y : Syn) (o : COp) | jr (y : Syn) (o : COp) | beq (y : Syn) (o : COp)
  | bne (y : Syn) (o : COp) | blt (y : Syn) (o : COp) | bge (y : Syn) (o : COp) | bltu (y : Syn) (o : COp)
  | bgeu (y : Syn) (o : COp) | bbs (y : Syn) (o : COp)
  -- control: loads and stores (R268 to R270)
  | ldb (y : Syn) (o : COp) | ldh (y : Syn) (o : COp) | ldw (y : Syn) (o : COp) | ldd (y : Syn) (o : COp)
  | ldbu (y : Syn) (o : COp) | ldhu (y : Syn) (o : COp) | ldwu (y : Syn) (o : COp) | stb (y : Syn) (o : COp)
  | sth (y : Syn) (o : COp) | stw (y : Syn) (o : COp) | std (y : Syn) (o : COp) | ldsc (y : Syn) (o : COp)
  | stsc (y : Syn) (o : COp)
  -- control: engines, tokens, semaphores, barriers, fences, time (R271 to R282)
  | start (y : Syn) (m v t : Bool) | param (y : Syn) (o : COp) | fmtq (y : Syn) (o : COp)
  | sig (y : Syn) (e : BitVec 2) (n : BitVec 8) | wait (y : Syn) (e : BitVec 2) (n : BitVec 8)
  | semadd (y : Syn) (o : COp) | semwait (y : Syn) (o : COp) | semset (y : Syn) (o : COp)
  | arrive (y : Syn) (n : BitVec 6) | bwait (y : Syn) (n : BitVec 6) | barm (y : Syn) (o : COp)
  | binit (y : Syn) (o : COp) | qfence (y : Syn) (q : BitVec 4) | fence (y : Syn) (scope : BitVec 2)
  | rfence (y : Syn) (o : COp) | waitt (y : Syn) (o : COp) | rdcc (y : Syn) (o : COp) | rdgt (y : Syn) (o : COp)
  | align (y : Syn) (o : COp)
  -- control: tasks and CSRs (R283 to R287, R193)
  | launch (y : Syn) (o : COp) | child (y : Syn) (o : COp) | yield (y : Syn) (o : COp) | trap (y : Syn) (code : BitVec 14)
  | csrr (y : Syn) (o : COp) | csrw (y : Syn) (o : COp) | setkey (y : Syn) (o : COp) | halt (y : Syn)
  -- control: the fabric group (R218 to R222, R248 to R258)
  | coll (y : Syn) (o : COp) | collw (y : Syn) (o : COp) | collwRetire (y : Syn) (o : COp) | spore (y : Syn) (o : COp)
  | sorw (y : Syn) (o : COp) | a2a (y : Syn) (o : COp) | wmap (y : Syn) (o : COp) | wunmap (y : Syn) (o : COp)
  | lrecall (y : Syn) (o : COp)
  -- the common group (R41)
  | nop (y : Syn) | idle (y : Syn) (n : BitVec 14) | region (y : Syn) | endStream (y : Syn)
  | jmp (y : Syn) (off : BitVec 32) | bnzd (y : Syn) (r : CountReg) (off : BitVec 32) | pop (y : Syn) (xd : BitVec 5)
  | xadd (y : Syn) (o : E2)
  -- vector: floating point (R144)
  | vadd (y : Syn) (o : VOp) | vsub (y : Syn) (o : VOp) | vmul (y : Syn) (o : VOp) | vfma (y : Syn) (o : VOp)
  | vfms (y : Syn) (o : VOp) | vdiv (y : Syn) (o : VOp) | vmin (y : Syn) (o : VOp) | vmax (y : Syn) (o : VOp)
  | vabs (y : Syn) (o : VOp) | vneg (y : Syn) (o : VOp) | vsqrt (y : Syn) (o : VOp) | vrcp (y : Syn) (o : VOp)
  | vrsq (y : Syn) (o : VOp) | vexp2 (y : Syn) (o : VOp) | vlog2 (y : Syn) (o : VOp) | vmov (y : Syn) (o : VOp)
  -- vector: integer and bitwise (R145)
  | viadd (y : Syn) (o : VOp) | visub (y : Syn) (o : VOp) | vimul (y : Syn) (o : VOp) | vand (y : Syn) (o : VOp)
  | vor (y : Syn) (o : VOp) | vxor (y : Syn) (o : VOp) | vshl (y : Syn) (o : VOp) | vshr (y : Syn) (o : VOp)
  | vsra (y : Syn) (o : VOp) | vimin (y : Syn) (o : VOp) | vimax (y : Syn) (o : VOp)
  -- vector: compares, selection, predicates (R146 to R149)
  | vcmp (y : Syn) (o : VOp) | vsel (y : Syn) (o : VOp)
  | pand (y : Syn) (pd pa pb : BitVec 4) | por (y : Syn) (pd pa pb : BitVec 4) | pxor (y : Syn) (pd pa pb : BitVec 4)
  | pnot (y : Syn) (pd pa : BitVec 4) | pset (y : Syn) (pd v : BitVec 4) | pcnt (y : Syn) (xd : BitVec 5) (pa : BitVec 4)
  -- vector: conversion, reductions, permutes (R150 to R156)
  | vcvt (y : Syn) (o : VOp) | vqnt (y : Syn) (o : VOp) | vdqnt (y : Syn) (o : VOp) | vsrnd (y : Syn) (o : VOp)
  | vrsum (y : Syn) (o : VOp) | vrmax (y : Syn) (o : VOp) | vrmin (y : Syn) (o : VOp) | vdot (y : Syn) (o : VOp)
  | vperm (y : Syn) (o : VOp) | vslide (y : Syn) (o : VOp) | vbcast (y : Syn) (o : VOp) | vzip (y : Syn) (o : VOp)
  | vunzip (y : Syn) (o : VOp)
  -- vector: memory, control, draws (R157 to R164, R196 to R200)
  | vld (y : Syn) (f : VMemForm) | vst (y : Syn) (f : VMemForm) | vlds (y : Syn) (f : VMemForm)
  | vsts (y : Syn) (f : VMemForm) | vgath (y : Syn) (f : VMemForm) | vscat (y : Syn) (f : VMemForm)
  | kld (y : Syn) (o : VMemOp) | vsetvl (y : Syn) (n : BitVec 8)
  | vsetvlReg (y : Syn) (xd xa xb : BitVec 5) (opx : BitVec 4) | loopv (y : Syn) (xc : BitVec 5) (off : BitVec 20)
  | rotset (y : Syn) (n : BitVec 7) | vz (y : Syn) (f : VRndForm) | vzacc (y : Syn) (f : VRndForm)
  | vunif (y : Syn) (f : VRndForm) | vcat (y : Syn) (o : VRndOp) | vdrop (y : Syn) (f : VRndForm)
  -- transfer (R104 to R120)
  | ldx (y : Syn) (r : Rec) | stx (y : Syn) (r : Rec) | cpx (y : Syn) (r : Rec) | mcx (y : Syn) (r : Rec)
  | gthx (y : Syn) (r : Rec) | sctx (y : Syn) (r : Rec) | bmx (y : Syn) (r : Rec) | bmld (y : Syn) (o : E2)
  | scacc (y : Syn) (r : Rec) | sccfg (y : Syn) (o : E2) | zfx (y : Syn) (r : Rec) | tagx (y : Syn) (o : E2)
  -- matrix (R167 to R183, R207)
  | wld (y : Syn) (r : Rec) | mma (y : Syn) (r : Rec) | gate (y : Syn) (r : Rec) | adrn (y : Syn) (r : Rec)
  | aswap (y : Syn) (acc : BitVec 2) | azero (y : Syn) (bank acc : BitVec 2) | achk (y : Syn) (bank acc : BitVec 2)
  | asave (y : Syn) (r : Rec) | aload (y : Syn) (r : Rec) | avset (y : Syn) (o : E2) | fdrop (y : Syn) (n : BitVec 5)
  | epsset (y : Syn) (o : E2)
  -- events of the sequencers (R39, R363, R124, R103, R281, R282, R28, R262, R99, R46)
  | recordSingleIssue (core : Nat) (q : SeqId) | engineResultWrite (core : Nat) (q : SeqId) (id : Nat)
  | loadDataArrival (core : Nat) (q : SeqId) (load : LoadAt) | storePerformed (core : Nat) (q : SeqId) (n : Nat)
  | waittTargetReached (core : Nat) | alignRelease (core : Nat) | schedMiss (core : Nat) (q : SeqId)
  | watchdogStall (core : Nat) (q : SeqId) | leaseWaitExpiry (core : Nat) (q : SeqId)
  | illegalOpcode (core : Nat) (q : SeqId) (head : BitVec 32)
  -- events of the fabric (R224 to R231, R97, R98, R219 to R222)
  | flitDeparture (flit : Nat) (copy : FlitExit) | flitDelivery (f : InFlit) | flitAckArrival (flit : Nat) (bitmap : BitVec 64)
  | ackTimeout (flit : Nat) (missing : BitVec 64) | memberDisabled (m : Nat)
  | leaseRequest (src rx need : Nat) | leaseReply (tx pos : Nat) (granted : Bool) (base epoch : Nat)
  | wmapMemberTimeout (tx : Nat) | leaseRecall (tx pos : Nat) | leaseRelease (tx pos : Nat)
  | leaseReleaseArrival (rx src : Nat) | lrecallSilentSource (rx src : Nat) | leaseRegrant (tx pos base epoch : Nat)
  | leaseReturn (rx src : Nat)
  -- events of the sorus (R242 to R249)
  | sorusRecordArrival (off : Nat) (record : BitVec 256) (sender : Nat) | sorusSeal (step : Nat)
  | sorusStepDeadline (step : Nat) | gapRetransmit (step : Nat) | gapRequestArrival (req : BitVec 1024)
  | gapReplyArrival (rep : BitVec 512) | sorusGapBound (core : Nat) | sorfirstWrite (v : BitVec 64)
  -- events of the collectives (R253 to R256)
  | collPacketArrival (p : CollPacket) | collPacketAck (part cid gen : Nat) | collFinishCount (part cid member count : Nat)
  | collOverrun (core : Nat) | collwTimeout (core : Nat)
  -- time, refresh, scrubbing (R86, R94, R236 to R238, R356)
  | timingMessage (corr : Int) | timelockReady (jump : Nat) | timelockLost | hbmRefresh (stack : Nat)
  | patrolScrub (line : Nat) (find : ScrubFind) | gtadjSetLock | gtadjClearLock | gtadjCorrection (adj : BitVec 32)
  -- launches (R309 to R318, R348, R350)
  | launchPrepare (part : Nat) | launchStart (part id core : Nat) | launchRecordFinal (part : Nat)
  | lqtailWrite (first : Nat) (tail : BitVec 32) | submit (first desc : Nat) (host : Bool) | endlaunch (id : Nat) (host : Bool)
  -- traps, cuts, restores (R323, R328, R330, R337 to R342, R350)
  | preboundExpiry (core bank : Nat) | unansweredRecordExpiry (core bank : Nat) | taskRestore (core bank : Nat)
  | lateTrapRecord (core bank : Nat) | answerResume (part slot : Nat) | answerEnd (part slot : Nat)
  | cut (core bank : Nat) (host : Bool) | readbank (core bank dst : Nat) (host : Bool)
  | regpart (first size addr : Nat) (host : Bool) | regtq (first addr : Nat) (host : Bool) | partitionDestroy (first : Nat)
  -- host, boot, supplies, heat (R346 to R359, R7)
  | bar2Read (off len : Nat) | bar2Write (off : Nat) (bytes : List Byte) | registerWrite (r : MgmtReg) (v : BitVec 256)
  | attestationReport (nonce : BitVec 256) | moduleReset (hostBoot : Bool) (image : List Byte) (readOk : Bool)
  | bootHostBuffer (addr : BitVec 64) (image : List Byte) (readOk : Bool)
  | pwrok | railLoss (rail : Nat) | thermalThrottle (die : Nat) (f : Nat) | thermtrip (die : Nat)
  | islandFrequencyChange (island f : Nat) | functionReady (f : ReadyFn) | driveDma (addr : Nat) (bytes : List Byte)
  | spdmMessage (stream : Nat) (key : BitVec 256)
deriving DecidableEq, Repr, Inhabited

/-- What two bits in error strike (R344): a word of a scratchpad by its number, or a word of a storage of the task in a bank; of an accumulator,
which has no code of its own, the bits of an element that change. -/
inductive UpsetAt where
  | spad (core word : Nat)
  | v (core bank phys word : Nat)
  | k (core bank i : Nat)
  | pq (core bank e i : Nat)
  | fq (core bank i : Nat)
  | acc (core bank a b k : Nat) (flip : BitVec 96)
deriving DecidableEq, Repr, Inhabited

/-- What moves next: a sequencer of a core, one event, or the clocks (MCC cycles and ns of GT pass). The others are what the
outside does besides the rows of the opcode table: a sequencer makes one read, the `n`-th of those that the instruction at its PC can make now,
before it goes on (R293); whether the cluster port of a core is busy (R125); the next granule of landing `n` (R226, R253); the next packet of a COLL that no core
waits for (R257); the `n`-th COLL that no core issued is tried, or makes one of its reads (R257); a request or a reply of gap recovery departs (R247); a digest unit reads range `range` of a launch that is over (R317); `symbols` of a line of HBM, or two bits of a word
elsewhere, come to be in error (R93, R344); a flit that the FEC of a port cannot correct (R234); the host reads a register of BAR0 (R347). -/
inductive Turn where
  | seq (core : Nat) (q : SeqId)
  | event (i : Instr)
  | clock (cycles ns : Nat)
  | early (core : Nat) (q : SeqId) (n : Nat)
  | port (core : Nat) (busy : Bool)
  | land (n : Nat)
  | packet (part n port : Nat)
  | coll (part n : Nat) (pick : Option Nat)
  | gap (id port : Nat)
  | digest (part id range : Nat)
  | lineUpset (line symbols : Nat)
  | wordUpset (w : UpsetAt)
  | fecDiscard (port : Nat)
  | bar0Read (off : Nat)
deriving DecidableEq, Repr, Inhabited

end Sys2Proof
end

