-- ==== Sys2Proof/Machine/Fields.lean ====
section
/-! DEFINITION. The field checks of R25 step 6 that depend on the bits of the instruction alone, form by form. The own bit
of SYN and STAMP in timetable mode also depend on the mode (R26, R28, R40) and stand at the end. -/

namespace Sys2Proof

/-- The CSR numbers of R288. -/
def csrAssigned (n : Nat) : Bool :=
  n ≤ 9 || (0x010 ≤ n && n ≤ 0x05F) || (0x100 ≤ n && n ≤ 0x150)

/-- The CSRs whose write by CSRW is privileged (R288). -/
def csrPrivileged (n : Nat) : Bool :=
  (0x100 ≤ n && n ≤ 0x106) || n == 0x108 || (0x10A ≤ n && n ≤ 0x11F) || (0x130 ≤ n && n ≤ 0x150)

/-- Operand B is a register, with its number (XK 00). -/
def CB.isReg : CB → Bool
  | .reg _ => true
  | _ => false

/-- Operand B is register field 0: the forms "XK 00 with SB = 0" (R264). -/
def CB.isReg0 : CB → Bool
  | .reg r => r == 0
  | _ => false

/-- XK 01. -/
def CB.isSimm : CB → Bool
  | .simm _ => true
  | _ => false

/-- XK 11. -/
def CB.isZimm : CB → Bool
  | .zimm _ => true
  | _ => false

/-- XK 11 with a value that satisfies `p`. -/
def CB.zimmAnd (p : BitVec 32 → Bool) : CB → Bool
  | .zimm v => p v
  | _ => false

/-- Form C3. -/
def CB.isImm64 : CB → Bool
  | .imm64 _ => true
  | _ => false

/-- BEXT and BINS: the field specification of R266. -/
def bitFieldOk (v : BitVec 32) : Bool :=
  v.extractLsb' 12 20 == 0 && (v.extractLsb' 0 6).toNat + (v.extractLsb' 6 6).toNat + 1 ≤ 64

/-- The size in bytes of the element of a vector TYPE 0 to 9 (R61: FP32, BF16, FP16, two binary8, INT32, INT16, INT8,
UINT8, UINT32). -/
def typeBytes (ty : Nat) : Nat :=
  if ty == 0 || ty == 5 || ty == 9 then 4 else if ty == 1 || ty == 2 || ty == 6 then 2 else 1

/-- V2R, V2I and V3L (R33 to R36): V2I has no TYPE, RM or OPX field, a literal fits its type, and `VA` is 0 where
`one` says that the instruction takes its one operand from B. -/
def vopShape (o : VOp) (tys : List Nat) (i20 lit rounds one : Bool) (opx : Nat → Bool) : Bool :=
  (match o.b with
   | .imm20 _ => i20 && o.ty == 0 && o.rm == 0 && o.opx == 0
   | .lit w => lit && tys.contains o.ty.toNat && (w.toNat < 2 ^ (8 * typeBytes o.ty.toNat) : Bool) && opx o.opx.toNat
   | _ => tys.contains o.ty.toNat && opx o.opx.toNat)
  && (rounds || o.rm == 0) && (!one || o.va == 0)

def tyFloat : List Nat := [0, 1, 2]
def tyInt : List Nat := [5, 6, 7, 8, 9]
def tyAll : List Nat := [0, 1, 2, 3, 4, 5, 6, 7, 8, 9]

/-- A span of `k` names from `n` ends at v1023 or before (R142). -/
def spanOk (n k : Nat) : Bool := n + k ≤ 1024

/-- A vector-register operand B spans `k` names; a constant-bank entry spans none (R150). -/
def srcSpanOk (b : VSrc) (k : Nat) : Bool :=
  match b with
  | .reg n => spanOk n.toNat k
  | _ => true

/-- B is a register or a constant-bank entry: form V2R. -/
def VSrc.isV2R : VSrc → Bool
  | .reg _ => true
  | .kbank _ => true
  | _ => false

/-- VCMP (R146): VD carries IT, COND and PD. -/
def vcmpOk (o : VOp) : Bool :=
  vopShape o [0, 1, 2, 5, 6, 7, 8, 9] true true false false (· == 0) && o.vd.extractLsb' 7 2 == 0
    && o.vd.extractLsb' 4 3 != 7 && (o.vd.extractLsb' 9 1 == 0 || (match o.b with | .imm20 _ => true | _ => false))

def isIntType (ty : Nat) : Bool := 5 ≤ ty

/-- VCVT (R151): the span of the wider side ends at v1023 or before. Between integer types it does not round, so that RM is 0 (R36). -/
def vcvtOk (o : VOp) : Bool :=
  o.b.isV2R && vopShape o tyAll false false (!(isIntType o.ty.toNat && isIntType o.opx.toNat)) true (· ≤ 9) &&
  (let wd := typeBytes o.ty.toNat; let ws := typeBytes o.opx.toNat
   spanOk o.vd.toNat (if wd > ws then wd / ws else 1) && srcSpanOk o.b (if ws > wd then ws / wd else 1))

/-- The number of scale registers of VQNT and VDQNT (R152). -/
def scaleSpan (ty b : Nat) : Nat :=
  let n := 256 / typeBytes ty
  let k := (n + 2 ^ b - 1) / 2 ^ b
  (k + 63) / 64

/-- VQNT and VDQNT (R152). -/
def vqntOk (o : VOp) (toWide : Bool) : Bool :=
  o.b.isV2R && vopShape o [1, 2, 3, 4, 7, 8] false false true false (· ≤ 8) &&
  (let r := 4 / typeBytes o.ty.toNat
   spanOk o.va.toNat (scaleSpan o.ty.toNat o.opx.toNat) &&
   (if toWide then spanOk o.vd.toNat r else srcSpanOk o.b r))

/-- The permutes that take a register or constant-bank B (R156). -/
def vpermOk (o : VOp) (opx : Nat → Bool) : Bool := o.b.isV2R && vopShape o tyAll false false false false opx

/-- VSLIDE and VBCAST: VB is a number and KB is 0 (R156). -/
def vslideOk (o : VOp) : Bool :=
  (match o.b with | .reg _ => true | _ => false) && vopShape o tyAll false false false false (· == 0)

def vbcastOk (o : VOp) : Bool :=
  vslideOk o && (match o.b with | .reg j => j.toNat < 256 / typeBytes o.ty.toNat | _ => false)

/-- An operand that a record does not use is all zeros (R40). -/
def recUnused (x : RecOperand) : Bool :=
  !x.br && !x.bm && x.base == 0 && x.s0 == 0 && x.s1 == 0 && x.s2 == 0 && x.s3 == 0

/-- A register reference names x0 to x31 in base[4:0]; every pattern is legal (R39). A register operand of V has its name
in base[9:0], one of M its row in base[7:0]. -/
def recReg (bits : Nat) (x : RecOperand) : Bool := !x.br && !x.bm && (x.base.toNat < 2 ^ bits : Bool)

/-- BMSEL is 0 where no BM bit is set (R38). -/
def bmselOk (r : Rec) : Bool := r.d.bm || r.a.bm || r.b.bm || r.bmsel == 0

/-- Where a record of the vector memory group has its register, its address and its index (R160). -/
def vrecOk (r : Rec) (regD idx strided : Bool) : Bool :=
  r.opm.toNat < 10 && r.bmsel == 0 && r.stamp == 0 && !r.d.bm && !r.a.bm && !r.b.bm && r.aux1 == 0 && r.aux2 == 0
    && (strided || r.aux0 == 0) && recReg 10 (if regD then r.d else r.a) && (if idx then recReg 10 r.b else recUnused r.b)

/-- The two-parcel vector memory forms (R157). -/
def vmemOk (o : VMemOp) (strided : Bool) : Bool := o.ty.toNat ≤ 9 && (strided || o.opx == 0)

def vmemFormOk (f : VMemForm) (regD idx strided : Bool) : Bool :=
  match f with
  | .two o => vmemOk o strided
  | .record r => vrecOk r regD idx strided

/-- KLD (R161): the count less one stands in VB. -/
def kldOk (o : VMemOp) : Bool :=
  o.pred == 0 && o.ty == 0 && o.opx == 0 && o.vd.toNat + o.vb.toNat + 1 ≤ 1024

/-- The draws (R197 to R201): VZ and VZACC (`dist`), VUNIF, VDROP (`drop`). -/
def vrndOk (ty : Nat) (kb : Bool) (vb opx : Nat) (dist drop : Bool) : Bool :=
  ty ≤ 2 && (drop || (if dist then opx ≤ 1 else opx == 0)) && (!drop || (kb && vb ≤ 1022))

/-- The word AUX0 of a draw record, laid out as p1 of R196 (R200). -/
def rndWordOk (w : BitVec 32) (dist drop : Bool) : Bool :=
  vrndOk (w.extractLsb' 8 4).toNat (w.getLsbD 5) (w.extractLsb' 12 10).toNat (w.extractLsb' 1 4).toNat dist drop && !w.getLsbD 0

def vrndFormOk (f : VRndForm) (dist drop : Bool) : Bool :=
  match f with
  | .two o => vrndOk o.ty.toNat o.kb o.vb.toNat o.opx.toNat dist drop
  | .record r => r.opm == 0 && r.bmsel == 0 && r.stamp == 0 && recReg 10 r.d && !r.a.br && !r.a.bm && recUnused r.b
      && r.aux1 == 0 && r.aux2 == 0 && rndWordOk r.aux0 dist drop

/-- VCAT (R199, R201). -/
def vcatOk (o : VRndOp) : Bool := o.ty == 0 && o.rm == 0 && !o.kb && o.opx == 0

/-- A transfer record (R104, R109): which operands it uses, on which a BM bit may stand, which AUX parcels it uses. -/
def trecOk (r : Rec) (useA useB bmD bmA aux0 aux1 tag count : Bool) : Bool :=
  r.stamp == 0 && bmselOk r && r.opm.extractLsb' 2 2 == 0 && (useA || recUnused r.a) && (if useB then !r.b.bm else recUnused r.b)
    && (bmD || !r.d.bm) && (bmA || !r.a.bm) && (aux0 || r.aux0 == 0) && (aux1 || r.aux1 == 0)
    && (tag || !r.opm.getLsbD 4) && (r.opm.getLsbD 4 || r.aux2.extractLsb' 16 16 == 0) && r.aux2.extractLsb' 5 11 == 0
    && (count || r.aux2.extractLsb' 0 5 == 0)

/-- The element size in bytes of a transfer record (R38). -/
def esBytes (opm : BitVec 5) : Nat :=
  match (opm.extractLsb' 0 2).toNat with
  | 0 => 1
  | 1 => 2
  | 2 => 4
  | _ => 16

/-- ZFX with an element of 1 B or 2 B: the bits of AUX0 above the element are 0 (R106). -/
def zfxOk (r : Rec) : Bool :=
  trecOk r false false true false true false false false && (esBytes r.opm ≥ 4 || (r.aux0.toNat < 2 ^ (8 * esBytes r.opm) : Bool))

/-- MCX (R107): a peer mask in AUX0[7:0], not 0. -/
def mcxOk (r : Rec) : Bool :=
  trecOk r true false false false true false true false && r.aux0 != 0 && (r.aux0.toNat < 256 : Bool)

/-- WLD (R171). -/
def wldOk (r : Rec) : Bool :=
  bmselOk r && recReg 8 r.d && recUnused r.a && r.opm.extractLsb' 0 2 == 0 && !r.aux2.getLsbD 31 && !r.aux2.getLsbD 19
    && (r.opm.getLsbD 4 || (r.opm == 0 && r.aux0 == 0 && r.aux1 == 0 && r.aux2.extractLsb' 0 19 == 0))

/-- The column fields of AUX1 on MMA and ADRN (R171). -/
def colAuxOk (v : BitVec 32) : Bool := v.extractLsb' 19 13 == 0 && !v.getLsbD 15 && !v.getLsbD 7

/-- MMA (R171). -/
def mmaOk (r : Rec) : Bool :=
  bmselOk r && recReg 8 r.d && recUnused r.b && r.aux0.extractLsb' 16 16 == 0 && colAuxOk r.aux1
    && r.aux2.extractLsb' 10 6 == 0 && (r.aux2.getLsbD 9 || r.aux2.extractLsb' 16 16 == 0)

/-- ADRN (R171). -/
def adrnOk (r : Rec) : Bool :=
  bmselOk r && recReg 8 r.a && recUnused r.b && r.opm.extractLsb' 3 2 == 0 && r.aux0.extractLsb' 16 16 == 0 && colAuxOk r.aux1
    && r.aux2.extractLsb' 16 16 == 0

/-- ASAVE and ALOAD (R171, R182): the fixed trips and the fixed stride of the memory operand `x`; `z` is unused. -/
def imageRecOk (r : Rec) (x z : RecOperand) : Bool :=
  r.bmsel == 0 && !x.bm && recUnused z && recUnused r.b && r.opm.toNat < 8 && r.aux0 == 0 && r.aux1 == 0 && r.aux2 == 0
    && r.trip0 == 3184 && r.trip1 == 0 && r.trip2 == 0 && r.trip3 == 0 && x.s0 == 1 && x.s1 == 0 && x.s2 == 0 && x.s3 == 0

/-- GATE (R207). -/
def gateOk (r : Rec) : Bool :=
  bmselOk r && r.opm.toNat < 4 && !r.b.bm && r.b.s0 == 0 && r.b.s1 == 0 && r.b.s2 == 0 && r.b.s3 == 0
    && r.aux1.extractLsb' 3 13 == 0 && r.aux2 == 0

/-- The tile commands and images carry STAMP 0 in token mode, but MMA and ADRN with VCHK (R40, R171). -/
def stampOk (timed vchk : Bool) (r : Rec) : Bool :=
  if timed then !vchk else if vchk then r.stamp.extractLsb' 16 16 == 0 else r.stamp == 0

/-- The integer group and ROTL accept every B. -/
def loadOk (o : COp) : Bool := o.b.isSimm

/-- The field checks of one instruction that its bits alone decide. An event has no field to check. -/
def fieldsOk : Instr → Bool
  | .li _ o => o.sa == 0 && !o.b.isReg
  | .clz _ o => o.b.isReg0
  | .popc _ o => o.b.isReg0
  | .bext _ o => o.b.zimmAnd bitFieldOk
  | .bins _ o => o.b.zimmAnd bitFieldOk
  | .j _ o => o.b.isSimm && o.sd == 0 && o.sa == 0
  | .jal _ o => o.b.isSimm && o.sa == 0
  | .jr _ o => o.b.isSimm
  | .beq _ o => o.b.isSimm
  | .bne _ o => o.b.isSimm
  | .blt _ o => o.b.isSimm
  | .bge _ o => o.b.isSimm
  | .bltu _ o => o.b.isSimm
  | .bgeu _ o => o.b.isSimm
  | .bbs _ o => o.b.isSimm
  | .ldb _ o => loadOk o
  | .ldh _ o => loadOk o
  | .ldw _ o => loadOk o
  | .ldd _ o => loadOk o
  | .ldbu _ o => loadOk o
  | .ldhu _ o => loadOk o
  | .ldwu _ o => loadOk o
  | .stb _ o => loadOk o
  | .sth _ o => loadOk o
  | .stw _ o => loadOk o
  | .std _ o => loadOk o
  | .ldsc _ o => loadOk o
  | .stsc _ o => loadOk o
  | .start _ m v t => m || v || t
  | .param _ o => !o.b.isImm64 && o.sd != 0 && o.sd.toNat < 4
  | .fmtq _ o => o.sd == 0 && (o.b.isReg0 || (o.b.isImm64 && o.sa == 0))
  | .sig _ e n => e != 0 && n != 0
  | .wait _ e n => e != 0 && n != 0
  | .semadd _ o => !o.b.isImm64
  | .semwait _ o => !o.b.isImm64
  | .semset _ o => !o.b.isImm64
  | .barm _ o => o.b.isSimm
  | .binit _ o => !o.b.isImm64
  | .qfence _ q => q != 0
  | .rfence _ o => o.b.isReg0 || ((o.b.isSimm || o.b.isZimm) && o.sa == 0)
  | .waitt _ o => !o.b.isImm64
  | .rdcc _ o => o.b.isReg0 && o.sa == 0
  | .rdgt _ o => o.b.isReg0 && o.sa == 0
  | .align _ o => o.sd == 0 && o.b.zimmAnd (fun v => v.extractLsb' 5 27 == 0 && !v.getLsbD 0)
  | .launch _ o => o.b.isSimm
  | .child _ o => o.b.isSimm
  | .yield _ o => o.b.zimmAnd (fun v => (v.toNat ≤ 8 : Bool) && (v == 0 || o.sa != 0) && (o.sa.toNat + v.toNat ≤ 64 : Bool))
  | .csrr _ o => o.sa == 0 && o.b.zimmAnd (fun v => (v.toNat < 4096 : Bool) && csrAssigned v.toNat)
  | .csrw _ o => o.b.zimmAnd (fun v => (v.toNat < 4096 : Bool) && csrAssigned v.toNat)
  | .setkey _ o => o.b.isReg0
  | .coll _ o => o.b.isSimm
  | .collw _ o => o.b.isSimm
  | .collwRetire _ o => o.b.isZimm
  | .spore _ o => o.b.isSimm
  | .sorw _ o => o.b.isSimm
  | .a2a _ o => o.b.isSimm
  | .wmap _ o => o.b.isSimm
  | .wunmap _ o => o.b.isSimm
  | .lrecall _ o => o.b.isSimm
  | .bnzd _ r _ => match r with | .s r => r != 0 | .x r => r != 0
  | .pop _ xd => xd != 0
  | .xadd _ o => o.sub == 0 && o.xd != 0
  | .vadd _ o => vopShape o tyFloat true true true false (· == 0)
  | .vsub _ o => vopShape o tyFloat true true true false (· == 0)
  | .vmul _ o => vopShape o tyFloat true true true false (· == 0)
  | .vfma _ o => vopShape o tyFloat true true true false (· == 0)
  | .vfms _ o => vopShape o tyFloat true true true false (· == 0)
  | .vdiv _ o => vopShape o tyFloat true true true false (· == 0)
  | .vmin _ o => vopShape o tyFloat true true false false (· == 0)
  | .vmax _ o => vopShape o tyFloat true true false false (· == 0)
  | .vabs _ o => vopShape o tyFloat true true false true (· == 0)
  | .vneg _ o => vopShape o tyFloat true true false true (· == 0)
  | .vsqrt _ o => vopShape o tyFloat true true true true (· == 0)
  | .vrcp _ o => vopShape o tyFloat true true true true (· == 0)
  | .vrsq _ o => vopShape o tyFloat true true true true (· == 0)
  | .vexp2 _ o => vopShape o tyFloat true true true true (· == 0)
  | .vlog2 _ o => vopShape o tyFloat true true true true (· == 0)
  | .vmov _ o => vopShape o tyAll true true false true (· == 0)
  | .viadd _ o => vopShape o tyInt true true false false (· ≤ 1)
  | .visub _ o => vopShape o tyInt true true false false (· ≤ 1)
  | .vimul _ o => vopShape o tyInt true true false false (· ≤ 1)
  | .vand _ o => vopShape o tyAll true true false false (· == 0)
  | .vor _ o => vopShape o tyAll true true false false (· == 0)
  | .vxor _ o => vopShape o tyAll true true false false (· == 0)
  | .vshl _ o => vopShape o tyInt true true false false (· == 0)
  | .vshr _ o => vopShape o tyInt true true false false (· == 0)
  | .vsra _ o => vopShape o tyInt true true false false (· == 0)
  | .vimin _ o => vopShape o tyInt true true false false (· == 0)
  | .vimax _ o => vopShape o tyInt true true false false (· == 0)
  | .vcmp _ o => vcmpOk o
  | .vsel _ o => o.b.isV2R && vopShape o tyAll false false false false (fun _ => true)
  | .pset _ _ v => v.toNat ≤ 1
  | .pcnt _ xd _ => xd != 0
  | .vcvt _ o => vcvtOk o
  | .vqnt _ o => vqntOk o false
  | .vdqnt _ o => vqntOk o true
  | .vsrnd _ o => o.b.isV2R && vopShape o [1, 2, 3, 4] false false true true (· == 0)
  | .vrsum _ o => o.b.isV2R && vopShape o [0, 1, 2, 5, 9] false false false true (· == 0)
  | .vrmax _ o => o.b.isV2R && vopShape o [0, 1, 2, 5, 6, 7, 8, 9] false false false true (· == 0)
  | .vrmin _ o => o.b.isV2R && vopShape o [0, 1, 2, 5, 6, 7, 8, 9] false false false true (· == 0)
  | .vdot _ o => o.b.isV2R && vopShape o tyFloat false false false false (· == 0)
  | .vperm _ o => vpermOk o (· == 0)
  | .vslide _ o => vslideOk o
  | .vbcast _ o => vbcastOk o
  | .vzip _ o => vpermOk o (· ≤ 1)
  | .vunzip _ o => vpermOk o (· ≤ 1)
  | .vld _ f => vmemFormOk f true false false
  | .vst _ f => vmemFormOk f false false false
  | .vlds _ f => vmemFormOk f true false true
  | .vsts _ f => vmemFormOk f false false true
  | .vgath _ f => vmemFormOk f true true false
  | .vscat _ f => vmemFormOk f false true false
  | .kld _ o => kldOk o
  | .vsetvlReg _ xd _ _ opx => opx.toNat < 8 && (!opx.getLsbD 2 || xd != 0)
  | .loopv _ xc _ => xc != 0
  | .rotset _ n => n.toNat ≤ 64
  | .vz _ f => vrndFormOk f true false
  | .vzacc _ f => vrndFormOk f true false
  | .vunif _ f => vrndFormOk f false false
  | .vcat _ o => vcatOk o
  | .vdrop _ f => vrndFormOk f false true
  | .ldx _ r => trecOk r true false true true false false true false
  | .stx _ r => trecOk r true false true true false false true false
  | .cpx _ r => trecOk r true false true true false false true false
  | .mcx _ r => mcxOk r
  | .gthx _ r => trecOk r true true false false true true true false
  | .sctx _ r => trecOk r true true false false true true true false
  | .bmx _ r => trecOk r true false true true false true true true && (r.d.bm || r.a.bm)
  | .bmld _ o => o.xd == 0 && o.sub.toNat < 8
  | .scacc _ r => trecOk r true true false false true true true false && esBytes r.opm == 4
  | .sccfg _ o => o.xd == 0 && o.xa == 0 && o.sub == 0 && o.imm.extractLsb' 12 20 == 0 && o.imm.extractLsb' 4 4 == 0
      && [0, 5, 9].contains (o.imm.extractLsb' 8 4).toNat && (o.imm.extractLsb' 0 4).toNat ≤ 5
  | .zfx _ r => zfxOk r
  | .tagx _ o => o.xd == 0 && o.sub == 0 && o.imm.extractLsb' 24 8 == 0
  | .wld _ r => wldOk r
  | .mma _ r => mmaOk r
  | .gate _ r => gateOk r
  | .adrn _ r => adrnOk r
  | .azero _ bank _ => bank != 3
  | .achk _ bank _ => bank != 3
  | .asave _ r => imageRecOk r r.d r.a
  | .aload _ r => imageRecOk r r.a r.d
  | .avset _ o => o.xd == 0 && o.sub.toNat < 4 && o.imm.extractLsb' 16 16 == 0
  | .epsset _ o => o.xd == 0 && o.xa == 0 && o.sub.toNat < 8
  | _ => true

/-- The number of a sequencer (R18). -/
def SeqId.num : SeqId → Nat
  | .c => 0
  | .t => 1
  | .v => 2
  | .m => 3

/-- SYN in token mode names no token of the sequencer itself (R26). -/
def synOk (q : SeqId) (y : Syn) : Bool := !y.getLsbD q.num && !y.getLsbD (q.num + 4)

/-- The record that an instruction carries. -/
def Instr.record? : Instr → Option Rec
  | .ldx _ r => some r
  | .stx _ r => some r
  | .cpx _ r => some r
  | .mcx _ r => some r
  | .gthx _ r => some r
  | .sctx _ r => some r
  | .bmx _ r => some r
  | .scacc _ r => some r
  | .zfx _ r => some r
  | .wld _ r => some r
  | .mma _ r => some r
  | .gate _ r => some r
  | .adrn _ r => some r
  | .asave _ r => some r
  | .aload _ r => some r
  | .vld _ (.record r) => some r
  | .vst _ (.record r) => some r
  | .vlds _ (.record r) => some r
  | .vsts _ (.record r) => some r
  | .vgath _ (.record r) => some r
  | .vscat _ (.record r) => some r
  | .vz _ (.record r) => some r
  | .vzacc _ (.record r) => some r
  | .vunif _ (.record r) => some r
  | .vdrop _ (.record r) => some r
  | _ => none

/-- The checks that the mode of the launch decides (R26, R28, R40, R171): in timetable mode a record on M carries no
idle count, and STAMP is a cycle. -/
def modeOk (timed : Bool) (q : SeqId) (y : Syn) (i : Instr) : Bool :=
  (timed || synOk q y) &&
  (match q, i with
   | .m, .mma _ r => stampOk timed (r.opm.getLsbD 2) r && (!timed || y == 0)
   | .m, .adrn _ r => stampOk timed (r.opm.getLsbD 2) r && (!timed || y == 0)
   | .m, .wld _ r => stampOk timed false r && (!timed || y == 0)
   | .m, .gate _ r => stampOk timed false r && (!timed || y == 0)
   | .m, .asave _ r => stampOk timed false r && (!timed || y == 0)
   | .m, .aload _ r => stampOk timed false r && (!timed || y == 0)
   | _, _ => true)

end Sys2Proof
end

