-- ==== Sys2Proof/Decode.lean ====
section
/-! DEFINITION. The decoder of chapter 02, total on any parcels: opcode, length, then the reserved fields (R23 to R46).
Then the encoder of the same forms. The value checks of R25 step 6 stand in Machine/Fields.lean. -/

namespace Sys2Proof

/-- Why a list of parcels is no instruction: R25 steps 2, 3 and 6; `short` when a parcel is missing. -/
inductive DecodeError where
  | opcode
  | form
  | field
  | short
deriving DecidableEq, Repr, Inhabited

/-- The head parcel (R23). -/
def headOf (len : BitVec 2) (opc : BitVec 8) (y : Syn) (f0 : BitVec 14) : Parcel := len ++ opc ++ y ++ f0
def hLen (h : Parcel) : BitVec 2 := h.extractLsb' 30 2
def hOpc (h : Parcel) : BitVec 8 := h.extractLsb' 22 8
def hSyn (h : Parcel) : Syn := h.extractLsb' 14 8
def hF0 (h : Parcel) : BitVec 14 := h.extractLsb' 0 14

/-- The parcels after the head (R22, R23). -/
def extraParcels (len : BitVec 2) : Nat :=
  match len.toNat with
  | 0 => 0
  | 1 => 1
  | 2 => 2
  | _ => 15

/-- The lengths that the common group accepts (R41); POP and XADD are unassigned in C. -/
def commonLens (q : SeqId) (opc : Nat) : Option (List Nat) :=
  if opc ≤ 0xE3 then some [0] else if opc ≤ 0xE5 then some [1]
  else if q == .c then none else if opc == 0xE6 then some [0] else if opc == 0xE7 then some [1] else none

/-- R42. -/
def lensC (opc : Nat) : Option (List Nat) :=
  if opc ≤ 0x16 then some [1, 2] else if opc ≤ 0x18 then some [1] else if opc == 0x19 then some [1, 2]
  else if opc ≤ 0x1B then some [1] else if opc < 0x20 then none else if opc ≤ 0x29 then some [1]
  else if opc < 0x30 then none else if opc ≤ 0x3C then some [1] else if opc < 0x40 then none
  else if opc == 0x40 then some [0] else if opc == 0x41 then some [1] else if opc == 0x42 then some [1, 2]
  else if opc ≤ 0x44 then some [0] else if opc ≤ 0x47 then some [1] else if opc ≤ 0x49 then some [0]
  else if opc ≤ 0x4B then some [1] else if opc ≤ 0x4D then some [0] else if opc == 0x4E then some [1]
  else if opc == 0x4F then none else if opc ≤ 0x53 then some [1] else if opc < 0x58 then none
  else if opc ≤ 0x5A then some [1] else if opc == 0x5B then some [0] else if opc ≤ 0x5E then some [1]
  else if opc == 0x5F then some [0] else if opc ≤ 0x67 then some [1] else none

/-- R43. -/
def lensV (opc : Nat) : Option (List Nat) :=
  if opc ≤ 0x1A then some [1, 2] else if opc < 0x20 then none else if opc == 0x20 then some [1, 2]
  else if opc == 0x21 then some [1] else if opc ≤ 0x27 then some [0] else if opc < 0x30 then none
  else if opc ≤ 0x33 then some [1] else if opc < 0x38 then none else if opc ≤ 0x3B then some [1]
  else if opc < 0x40 then none else if opc ≤ 0x44 then some [1] else if opc < 0x48 then none
  else if opc ≤ 0x4D then some [1, 3] else if opc == 0x4E then some [1] else if opc == 0x4F then none
  else if opc == 0x50 then some [0, 1] else if opc == 0x51 then some [1] else if opc == 0x52 then some [0]
  else if opc < 0x58 then none else if opc ≤ 0x5A then some [1, 3] else if opc == 0x5B then some [1]
  else if opc == 0x5C then some [1, 3] else none

/-- R44. -/
def lensT (opc : Nat) : Option (List Nat) :=
  if opc ≤ 0x06 then some [3] else if opc == 0x07 then some [1] else if opc == 0x08 then some [3]
  else if opc == 0x09 then some [1] else if opc == 0x0A then some [3] else if opc == 0x0B then some [1] else none

/-- R45. -/
def lensM (opc : Nat) : Option (List Nat) :=
  if opc ≤ 0x03 then some [3] else if opc ≤ 0x06 then some [0] else if opc ≤ 0x08 then some [3]
  else if opc == 0x09 then some [1] else if opc == 0x0A then some [0] else if opc == 0x0B then some [1] else none

/-- The lengths that an opcode accepts in a space; none where it is unassigned (R24, R46). -/
def opcLens (q : SeqId) (opc : Nat) : Option (List Nat) :=
  if 0xE0 ≤ opc then commonLens q opc
  else match q with
    | .c => lensC opc
    | .t => lensT opc
    | .v => lensV opc
    | .m => lensM opc

/-- The opcodes whose every form is privileged (R42): HALT, WMAP, WUNMAP, LRECALL. -/
def opcPrivileged (q : SeqId) (opc : Nat) : Bool :=
  q == .c && (opc == 0x5F || (0x65 ≤ opc && opc ≤ 0x67))

/-- Forms C2, C3 and the branch form (R30). -/
def parseCOp (h : Parcel) (rest : List Parcel) : Option COp :=
  let sd := h.extractLsb' 8 6
  let sa := h.extractLsb' 2 6
  match (h.extractLsb' 0 2).toNat, rest with
  | 0, [p1] => if p1.extractLsb' 0 26 == 0 then some ⟨sd, sa, .reg (p1.extractLsb' 26 6)⟩ else none
  | 1, [p1] => some ⟨sd, sa, .simm p1⟩
  | 3, [p1] => some ⟨sd, sa, .zimm p1⟩
  | 2, [p1, p2] => some ⟨sd, sa, .imm64 (p2 ++ p1)⟩
  | _, _ => none

def encCOp (opc : BitVec 8) (y : Syn) (o : COp) : List Parcel :=
  match o.b with
  | .reg sb => [headOf 1 opc y (o.sd ++ o.sa ++ 0#2), sb ++ 0#26]
  | .simm v => [headOf 1 opc y (o.sd ++ o.sa ++ 1#2), v]
  | .zimm v => [headOf 1 opc y (o.sd ++ o.sa ++ 3#2), v]
  | .imm64 v => [headOf 2 opc y (o.sd ++ o.sa ++ 2#2), v.extractLsb' 0 32, v.extractLsb' 32 32]

/-- Form E2 (R32). -/
def parseE2 (h : Parcel) (rest : List Parcel) : Option E2 :=
  match rest with
  | [p1] => some ⟨h.extractLsb' 9 5, h.extractLsb' 4 5, h.extractLsb' 0 4, p1⟩
  | _ => none

def encE2 (opc : BitVec 8) (y : Syn) (o : E2) : List Parcel := [headOf 1 opc y (o.xd ++ o.xa ++ o.sub), o.imm]

/-- Forms V2R, V2I and V3L (R33, R35). -/
def parseVOp (h : Parcel) (rest : List Parcel) : Option VOp :=
  let pred := h.extractLsb' 10 4
  let vd := h.extractLsb' 0 10
  match rest with
  | [p1] =>
    if p1.getLsbD 0 then
      if p1.getLsbD 1 then none
      else some ⟨pred, vd, p1.extractLsb' 22 10, 0, 0, 0, .imm20 (p1.extractLsb' 2 20)⟩
    else some ⟨pred, vd, p1.extractLsb' 22 10, p1.extractLsb' 8 4, p1.extractLsb' 6 2, p1.extractLsb' 1 4,
      if p1.getLsbD 5 then .kbank (p1.extractLsb' 12 10) else .reg (p1.extractLsb' 12 10)⟩
  | [p1, p2] =>
    if p1.extractLsb' 12 10 == 0 && !p1.getLsbD 5 && !p1.getLsbD 0 then
      some ⟨pred, vd, p1.extractLsb' 22 10, p1.extractLsb' 8 4, p1.extractLsb' 6 2, p1.extractLsb' 1 4, .lit p2⟩
    else none
  | _ => none

def encVOp (opc : BitVec 8) (y : Syn) (o : VOp) : List Parcel :=
  match o.b with
  | .reg vb => [headOf 1 opc y (o.pred ++ o.vd), o.va ++ vb ++ o.ty ++ o.rm ++ 0#1 ++ o.opx ++ 0#1]
  | .kbank kb => [headOf 1 opc y (o.pred ++ o.vd), o.va ++ kb ++ o.ty ++ o.rm ++ 1#1 ++ o.opx ++ 0#1]
  | .imm20 v => [headOf 1 opc y (o.pred ++ o.vd), o.va ++ v ++ 0#1 ++ 1#1]
  | .lit w => [headOf 2 opc y (o.pred ++ o.vd), o.va ++ 0#10 ++ o.ty ++ o.rm ++ 0#1 ++ o.opx ++ 0#1, w]

/-- The two-parcel vector memory forms and KLD (R157, R161). -/
def parseVMem (h : Parcel) (rest : List Parcel) : Option VMemOp :=
  match rest with
  | [p1] =>
    if p1.extractLsb' 22 5 == 0 && p1.extractLsb' 6 2 == 0 && !p1.getLsbD 5 && !p1.getLsbD 0 then
      some ⟨h.extractLsb' 10 4, h.extractLsb' 0 10, p1.extractLsb' 27 5, p1.extractLsb' 12 10, p1.extractLsb' 8 4, p1.extractLsb' 1 4⟩
    else none
  | _ => none

def encVMem (opc : BitVec 8) (y : Syn) (o : VMemOp) : List Parcel :=
  [headOf 1 opc y (o.pred ++ o.vd), o.xa ++ 0#5 ++ o.vb ++ o.ty ++ 0#3 ++ o.opx ++ 0#1]

/-- The two-parcel form of the random group (R196). -/
def parseVRnd (h : Parcel) (rest : List Parcel) : Option VRndOp :=
  match rest with
  | [p1] =>
    if p1.getLsbD 0 then none
    else some ⟨h.extractLsb' 10 4, h.extractLsb' 0 10, p1.extractLsb' 27 5, p1.extractLsb' 22 5, p1.extractLsb' 12 10,
      p1.extractLsb' 8 4, p1.extractLsb' 6 2, p1.getLsbD 5, p1.extractLsb' 1 4⟩
  | _ => none

def encVRnd (opc : BitVec 8) (y : Syn) (o : VRndOp) : List Parcel :=
  [headOf 1 opc y (o.pred ++ o.vd), o.xk ++ o.xs ++ o.vb ++ o.ty ++ o.rm ++ BitVec.ofBool o.kb ++ o.opx ++ 0#1]

/-- One operand of a record from its three parcels (R37). -/
def recOperandOf (br bm : Bool) (base s10 s32 : Parcel) : RecOperand :=
  ⟨br, bm, base, s10.extractLsb' 0 16, s10.extractLsb' 16 16, s32.extractLsb' 0 16, s32.extractLsb' 16 16⟩

/-- The loop-nest record (R37, R38). -/
def parseRec (h : Parcel) (rest : List Parcel) : Option Rec :=
  match rest with
  | [p1, p2, p3, p4, p5, p6, p7, p8, p9, p10, p11, p12, p13, p14, p15] =>
    some ⟨h.extractLsb' 5 3, h.extractLsb' 0 5, p1.extractLsb' 0 16, p1.extractLsb' 16 16, p2.extractLsb' 0 16, p2.extractLsb' 16 16,
      p3, recOperandOf (h.getLsbD 13) (h.getLsbD 10) p4 p5 p6, recOperandOf (h.getLsbD 12) (h.getLsbD 9) p7 p8 p9,
      recOperandOf (h.getLsbD 11) (h.getLsbD 8) p10 p11 p12, p13, p14, p15⟩
  | _ => none

/-- MOD of a record (R38). -/
def recMod (r : Rec) : BitVec 14 :=
  BitVec.ofBool r.d.br ++ BitVec.ofBool r.a.br ++ BitVec.ofBool r.b.br ++ BitVec.ofBool r.d.bm ++ BitVec.ofBool r.a.bm
    ++ BitVec.ofBool r.b.bm ++ r.bmsel ++ r.opm

def encRec (opc : BitVec 8) (y : Syn) (r : Rec) : List Parcel :=
  [headOf 3 opc y (recMod r), r.trip1 ++ r.trip0, r.trip3 ++ r.trip2, r.stamp,
   r.d.base, r.d.s1 ++ r.d.s0, r.d.s3 ++ r.d.s2, r.a.base, r.a.s1 ++ r.a.s0, r.a.s3 ++ r.a.s2,
   r.b.base, r.b.s1 ++ r.b.s0, r.b.s3 ++ r.b.s2, r.aux0, r.aux1, r.aux2]

def parseVMemForm (h : Parcel) (rest : List Parcel) : Option VMemForm :=
  if hLen h == 3 then (parseRec h rest).map .record else (parseVMem h rest).map .two

def encVMemForm (opc : BitVec 8) (y : Syn) (f : VMemForm) : List Parcel :=
  match f with
  | .two o => encVMem opc y o
  | .record r => encRec opc y r

def parseVRndForm (h : Parcel) (rest : List Parcel) : Option VRndForm :=
  if hLen h == 3 then (parseRec h rest).map .record else (parseVRnd h rest).map .two

def encVRndForm (opc : BitVec 8) (y : Syn) (f : VRndForm) : List Parcel :=
  match f with
  | .two o => encVRnd opc y o
  | .record r => encRec opc y r

/-- The value `i`, if the reserved bits named by `z` are 0. -/
def ifZero (z : Bool) (i : Instr) : Option Instr := if z then some i else none

/-- The common group (R41); the register of BNZD is an s register in C. -/
def decodeCommon (q : SeqId) (opc : Nat) (y : Syn) (h : Parcel) (rest : List Parcel) : Option Instr :=
  match opc, rest with
  | 0xE0, [] => ifZero (hF0 h == 0) (.nop y)
  | 0xE1, [] => some (.idle y (hF0 h))
  | 0xE2, [] => ifZero (hF0 h == 0) (.region y)
  | 0xE3, [] => ifZero (hF0 h == 0) (.endStream y)
  | 0xE4, [p1] => ifZero (hF0 h == 0) (.jmp y p1)
  | 0xE5, [p1] =>
    if q == .c then ifZero (h.extractLsb' 0 8 == 0) (.bnzd y (.s (h.extractLsb' 8 6)) p1)
    else ifZero (h.extractLsb' 0 9 == 0) (.bnzd y (.x (h.extractLsb' 9 5)) p1)
  | 0xE6, [] => ifZero (h.extractLsb' 0 9 == 0) (.pop y (h.extractLsb' 9 5))
  | 0xE7, _ => (parseE2 h rest).map (.xadd y)
  | _, _ => none

/-- COLLW: XK 01 waits, XK 11 waits and retires (R256). -/
def collwOf (y : Syn) (o : COp) : Instr :=
  match o.b with
  | .zimm _ => .collwRetire y o
  | _ => .collw y o

/-- The control space (R42). -/
def decodeC (opc : Nat) (y : Syn) (h : Parcel) (rest : List Parcel) : Option Instr :=
  match opc with
  | 0x40 => ifZero (h.extractLsb' 4 10 == 0 && !h.getLsbD 0) (.start y (h.getLsbD 3) (h.getLsbD 2) (h.getLsbD 1))
  | 0x43 => ifZero (h.extractLsb' 8 4 == 0) (.sig y (h.extractLsb' 12 2) (h.extractLsb' 0 8))
  | 0x44 => ifZero (h.extractLsb' 8 4 == 0) (.wait y (h.extractLsb' 12 2) (h.extractLsb' 0 8))
  | 0x48 => ifZero (h.extractLsb' 6 8 == 0) (.arrive y (h.extractLsb' 0 6))
  | 0x49 => ifZero (h.extractLsb' 6 8 == 0) (.bwait y (h.extractLsb' 0 6))
  | 0x4C => ifZero (h.extractLsb' 4 10 == 0) (.qfence y (h.extractLsb' 0 4))
  | 0x4D => ifZero (h.extractLsb' 2 12 == 0) (.fence y (h.extractLsb' 0 2))
  | 0x5B => some (.trap y (hF0 h))
  | 0x5F => ifZero (hF0 h == 0) (.halt y)
  | 0x00 => (parseCOp h rest).map (.add y)
  | 0x01 => (parseCOp h rest).map (.sub y)
  | 0x02 => (parseCOp h rest).map (.and y)
  | 0x03 => (parseCOp h rest).map (.or y)
  | 0x04 => (parseCOp h rest).map (.xor y)
  | 0x05 => (parseCOp h rest).map (.sll y)
  | 0x06 => (parseCOp h rest).map (.srl y)
  | 0x07 => (parseCOp h rest).map (.sra y)
  | 0x08 => (parseCOp h rest).map (.mul y)
  | 0x09 => (parseCOp h rest).map (.mulh y)
  | 0x0A => (parseCOp h rest).map (.mulhu y)
  | 0x0B => (parseCOp h rest).map (.div y)
  | 0x0C => (parseCOp h rest).map (.divu y)
  | 0x0D => (parseCOp h rest).map (.rem y)
  | 0x0E => (parseCOp h rest).map (.remu y)
  | 0x0F => (parseCOp h rest).map (.min y)
  | 0x10 => (parseCOp h rest).map (.max y)
  | 0x11 => (parseCOp h rest).map (.minu y)
  | 0x12 => (parseCOp h rest).map (.maxu y)
  | 0x13 => (parseCOp h rest).map (.slt y)
  | 0x14 => (parseCOp h rest).map (.sltu y)
  | 0x15 => (parseCOp h rest).map (.seq y)
  | 0x16 => (parseCOp h rest).map (.li y)
  | 0x17 => (parseCOp h rest).map (.clz y)
  | 0x18 => (parseCOp h rest).map (.popc y)
  | 0x19 => (parseCOp h rest).map (.rotl y)
  | 0x1A => (parseCOp h rest).map (.bext y)
  | 0x1B => (parseCOp h rest).map (.bins y)
  | 0x20 => (parseCOp h rest).map (.j y)
  | 0x21 => (parseCOp h rest).map (.jal y)
  | 0x22 => (parseCOp h rest).map (.jr y)
  | 0x23 => (parseCOp h rest).map (.beq y)
  | 0x24 => (parseCOp h rest).map (.bne y)
  | 0x25 => (parseCOp h rest).map (.blt y)
  | 0x26 => (parseCOp h rest).map (.bge y)
  | 0x27 => (parseCOp h rest).map (.bltu y)
  | 0x28 => (parseCOp h rest).map (.bgeu y)
  | 0x29 => (parseCOp h rest).map (.bbs y)
  | 0x30 => (parseCOp h rest).map (.ldb y)
  | 0x31 => (parseCOp h rest).map (.ldh y)
  | 0x32 => (parseCOp h rest).map (.ldw y)
  | 0x33 => (parseCOp h rest).map (.ldd y)
  | 0x34 => (parseCOp h rest).map (.ldbu y)
  | 0x35 => (parseCOp h rest).map (.ldhu y)
  | 0x36 => (parseCOp h rest).map (.ldwu y)
  | 0x37 => (parseCOp h rest).map (.stb y)
  | 0x38 => (parseCOp h rest).map (.sth y)
  | 0x39 => (parseCOp h rest).map (.stw y)
  | 0x3A => (parseCOp h rest).map (.std y)
  | 0x3B => (parseCOp h rest).map (.ldsc y)
  | 0x3C => (parseCOp h rest).map (.stsc y)
  | 0x41 => (parseCOp h rest).map (.param y)
  | 0x42 => (parseCOp h rest).map (.fmtq y)
  | 0x45 => (parseCOp h rest).map (.semadd y)
  | 0x46 => (parseCOp h rest).map (.semwait y)
  | 0x47 => (parseCOp h rest).map (.semset y)
  | 0x4A => (parseCOp h rest).map (.barm y)
  | 0x4B => (parseCOp h rest).map (.binit y)
  | 0x4E => (parseCOp h rest).map (.rfence y)
  | 0x50 => (parseCOp h rest).map (.waitt y)
  | 0x51 => (parseCOp h rest).map (.rdcc y)
  | 0x52 => (parseCOp h rest).map (.rdgt y)
  | 0x53 => (parseCOp h rest).map (.align y)
  | 0x58 => (parseCOp h rest).map (.launch y)
  | 0x59 => (parseCOp h rest).map (.child y)
  | 0x5A => (parseCOp h rest).map (.yield y)
  | 0x5C => (parseCOp h rest).map (.csrr y)
  | 0x5D => (parseCOp h rest).map (.csrw y)
  | 0x5E => (parseCOp h rest).map (.setkey y)
  | 0x60 => (parseCOp h rest).map (.coll y)
  | 0x61 => (parseCOp h rest).map (collwOf y)
  | 0x62 => (parseCOp h rest).map (.spore y)
  | 0x63 => (parseCOp h rest).map (.sorw y)
  | 0x64 => (parseCOp h rest).map (.a2a y)
  | 0x65 => (parseCOp h rest).map (.wmap y)
  | 0x66 => (parseCOp h rest).map (.wunmap y)
  | 0x67 => (parseCOp h rest).map (.lrecall y)
  | _ => none

/-- The vector space (R43). -/
def decodeV (opc : Nat) (y : Syn) (h : Parcel) (rest : List Parcel) : Option Instr :=
  match opc with
  | 0x22 => ifZero (h.extractLsb' 12 2 == 0) (.pand y (h.extractLsb' 8 4) (h.extractLsb' 4 4) (h.extractLsb' 0 4))
  | 0x23 => ifZero (h.extractLsb' 12 2 == 0) (.por y (h.extractLsb' 8 4) (h.extractLsb' 4 4) (h.extractLsb' 0 4))
  | 0x24 => ifZero (h.extractLsb' 12 2 == 0) (.pxor y (h.extractLsb' 8 4) (h.extractLsb' 4 4) (h.extractLsb' 0 4))
  | 0x25 => ifZero (h.extractLsb' 12 2 == 0 && h.extractLsb' 0 4 == 0) (.pnot y (h.extractLsb' 8 4) (h.extractLsb' 4 4))
  | 0x26 => ifZero (h.extractLsb' 12 2 == 0 && h.extractLsb' 4 4 == 0) (.pset y (h.extractLsb' 8 4) (h.extractLsb' 0 4))
  | 0x27 => ifZero (!h.getLsbD 8 && h.extractLsb' 0 4 == 0) (.pcnt y (h.extractLsb' 9 5) (h.extractLsb' 4 4))
  | 0x4E => (parseVMem h rest).map (.kld y)
  | 0x50 =>
    match rest with
    | [] => ifZero (h.extractLsb' 8 6 == 0) (.vsetvl y (h.extractLsb' 0 8))
    | [p1] => ifZero (h.extractLsb' 5 9 == 0 && p1.extractLsb' 22 5 == 0 && p1.extractLsb' 5 12 == 0 && !p1.getLsbD 0)
        (.vsetvlReg y (h.extractLsb' 0 5) (p1.extractLsb' 27 5) (p1.extractLsb' 17 5) (p1.extractLsb' 1 4))
    | _ => none
  | 0x51 =>
    match rest with
    | [p1] => ifZero (h.extractLsb' 5 9 == 0 && p1.extractLsb' 0 12 == 0) (.loopv y (h.extractLsb' 0 5) (p1.extractLsb' 12 20))
    | _ => none
  | 0x52 => ifZero (h.extractLsb' 7 7 == 0) (.rotset y (h.extractLsb' 0 7))
  | 0x5B => (parseVRnd h rest).map (.vcat y)
  | 0x00 => (parseVOp h rest).map (.vadd y)
  | 0x01 => (parseVOp h rest).map (.vsub y)
  | 0x02 => (parseVOp h rest).map (.vmul y)
  | 0x03 => (parseVOp h rest).map (.vfma y)
  | 0x04 => (parseVOp h rest).map (.vfms y)
  | 0x05 => (parseVOp h rest).map (.vdiv y)
  | 0x06 => (parseVOp h rest).map (.vmin y)
  | 0x07 => (parseVOp h rest).map (.vmax y)
  | 0x08 => (parseVOp h rest).map (.vabs y)
  | 0x09 => (parseVOp h rest).map (.vneg y)
  | 0x0A => (parseVOp h rest).map (.vsqrt y)
  | 0x0B => (parseVOp h rest).map (.vrcp y)
  | 0x0C => (parseVOp h rest).map (.vrsq y)
  | 0x0D => (parseVOp h rest).map (.vexp2 y)
  | 0x0E => (parseVOp h rest).map (.vlog2 y)
  | 0x0F => (parseVOp h rest).map (.vmov y)
  | 0x10 => (parseVOp h rest).map (.viadd y)
  | 0x11 => (parseVOp h rest).map (.visub y)
  | 0x12 => (parseVOp h rest).map (.vimul y)
  | 0x13 => (parseVOp h rest).map (.vand y)
  | 0x14 => (parseVOp h rest).map (.vor y)
  | 0x15 => (parseVOp h rest).map (.vxor y)
  | 0x16 => (parseVOp h rest).map (.vshl y)
  | 0x17 => (parseVOp h rest).map (.vshr y)
  | 0x18 => (parseVOp h rest).map (.vsra y)
  | 0x19 => (parseVOp h rest).map (.vimin y)
  | 0x1A => (parseVOp h rest).map (.vimax y)
  | 0x20 => (parseVOp h rest).map (.vcmp y)
  | 0x21 => (parseVOp h rest).map (.vsel y)
  | 0x30 => (parseVOp h rest).map (.vcvt y)
  | 0x31 => (parseVOp h rest).map (.vqnt y)
  | 0x32 => (parseVOp h rest).map (.vdqnt y)
  | 0x33 => (parseVOp h rest).map (.vsrnd y)
  | 0x38 => (parseVOp h rest).map (.vrsum y)
  | 0x39 => (parseVOp h rest).map (.vrmax y)
  | 0x3A => (parseVOp h rest).map (.vrmin y)
  | 0x3B => (parseVOp h rest).map (.vdot y)
  | 0x40 => (parseVOp h rest).map (.vperm y)
  | 0x41 => (parseVOp h rest).map (.vslide y)
  | 0x42 => (parseVOp h rest).map (.vbcast y)
  | 0x43 => (parseVOp h rest).map (.vzip y)
  | 0x44 => (parseVOp h rest).map (.vunzip y)
  | 0x48 => (parseVMemForm h rest).map (.vld y)
  | 0x49 => (parseVMemForm h rest).map (.vst y)
  | 0x4A => (parseVMemForm h rest).map (.vlds y)
  | 0x4B => (parseVMemForm h rest).map (.vsts y)
  | 0x4C => (parseVMemForm h rest).map (.vgath y)
  | 0x4D => (parseVMemForm h rest).map (.vscat y)
  | 0x58 => (parseVRndForm h rest).map (.vz y)
  | 0x59 => (parseVRndForm h rest).map (.vzacc y)
  | 0x5A => (parseVRndForm h rest).map (.vunif y)
  | 0x5C => (parseVRndForm h rest).map (.vdrop y)
  | _ => none

/-- The transfer space (R44). -/
def decodeT (opc : Nat) (y : Syn) (h : Parcel) (rest : List Parcel) : Option Instr :=
  match opc with
  | 0x07 => (parseE2 h rest).map (.bmld y)
  | 0x09 => (parseE2 h rest).map (.sccfg y)
  | 0x0B => (parseE2 h rest).map (.tagx y)
  | 0x00 => (parseRec h rest).map (.ldx y)
  | 0x01 => (parseRec h rest).map (.stx y)
  | 0x02 => (parseRec h rest).map (.cpx y)
  | 0x03 => (parseRec h rest).map (.mcx y)
  | 0x04 => (parseRec h rest).map (.gthx y)
  | 0x05 => (parseRec h rest).map (.sctx y)
  | 0x06 => (parseRec h rest).map (.bmx y)
  | 0x08 => (parseRec h rest).map (.scacc y)
  | 0x0A => (parseRec h rest).map (.zfx y)
  | _ => none

/-- The matrix space (R45). -/
def decodeM (opc : Nat) (y : Syn) (h : Parcel) (rest : List Parcel) : Option Instr :=
  match opc with
  | 0x04 => ifZero (h.extractLsb' 2 12 == 0) (.aswap y (h.extractLsb' 0 2))
  | 0x05 => ifZero (h.extractLsb' 4 10 == 0) (.azero y (h.extractLsb' 2 2) (h.extractLsb' 0 2))
  | 0x06 => ifZero (h.extractLsb' 4 10 == 0) (.achk y (h.extractLsb' 2 2) (h.extractLsb' 0 2))
  | 0x09 => (parseE2 h rest).map (.avset y)
  | 0x0A => ifZero (h.extractLsb' 5 9 == 0) (.fdrop y (h.extractLsb' 0 5))
  | 0x0B => (parseE2 h rest).map (.epsset y)
  | 0x00 => (parseRec h rest).map (.wld y)
  | 0x01 => (parseRec h rest).map (.mma y)
  | 0x02 => (parseRec h rest).map (.gate y)
  | 0x03 => (parseRec h rest).map (.adrn y)
  | 0x07 => (parseRec h rest).map (.asave y)
  | 0x08 => (parseRec h rest).map (.aload y)
  | _ => none

/-- The form that the opcode and the length select, with its reserved fields checked. -/
def decodeForm (q : SeqId) (h : Parcel) (rest : List Parcel) : Option Instr :=
  let opc := (hOpc h).toNat
  if 0xE0 ≤ opc then decodeCommon q opc (hSyn h) h rest
  else match q with
    | .c => decodeC opc (hSyn h) h rest
    | .t => decodeT opc (hSyn h) h rest
    | .v => decodeV opc (hSyn h) h rest
    | .m => decodeM opc (hSyn h) h rest

/-- The instruction that a sequencer reads from parcels, in the order of R25. -/
def decode (q : SeqId) (ps : List Parcel) : Except DecodeError Instr :=
  match ps with
  | [] => .error .short
  | h :: rest =>
    match opcLens q (hOpc h).toNat with
    | none => .error .opcode
    | some ls =>
      if ls.contains (hLen h).toNat then
        if rest.length < extraParcels (hLen h) then .error .short
        else match decodeForm q h (rest.take (extraParcels (hLen h))) with
          | some i => .ok i
          | none => .error .field
      else .error .form

/-- The parcels of an instruction, from the same tables. An event has none. -/
def encode : Instr → List Parcel
  | .nop y => [headOf 0 0xE0 y 0]
  | .idle y n => [headOf 0 0xE1 y n]
  | .region y => [headOf 0 0xE2 y 0]
  | .endStream y => [headOf 0 0xE3 y 0]
  | .jmp y off => [headOf 1 0xE4 y 0, off]
  | .bnzd y (.s r) off => [headOf 1 0xE5 y (r ++ 0#8), off]
  | .bnzd y (.x r) off => [headOf 1 0xE5 y (r ++ 0#9), off]
  | .pop y xd => [headOf 0 0xE6 y (xd ++ 0#9)]
  | .xadd y o => encE2 0xE7 y o
  | .start y m v t => [headOf 0 0x40 y (0#10 ++ BitVec.ofBool m ++ BitVec.ofBool v ++ BitVec.ofBool t ++ 0#1)]
  | .sig y e n => [headOf 0 0x43 y (e ++ 0#4 ++ n)]
  | .wait y e n => [headOf 0 0x44 y (e ++ 0#4 ++ n)]
  | .arrive y n => [headOf 0 0x48 y (0#8 ++ n)]
  | .bwait y n => [headOf 0 0x49 y (0#8 ++ n)]
  | .qfence y q => [headOf 0 0x4C y (0#10 ++ q)]
  | .fence y c => [headOf 0 0x4D y (0#12 ++ c)]
  | .trap y code => [headOf 0 0x5B y code]
  | .halt y => [headOf 0 0x5F y 0]
  | .collwRetire y o => encCOp 0x61 y o
  | .pand y d a b => [headOf 0 0x22 y (0#2 ++ d ++ a ++ b)]
  | .por y d a b => [headOf 0 0x23 y (0#2 ++ d ++ a ++ b)]
  | .pxor y d a b => [headOf 0 0x24 y (0#2 ++ d ++ a ++ b)]
  | .pnot y d a => [headOf 0 0x25 y (0#2 ++ d ++ a ++ 0#4)]
  | .pset y d v => [headOf 0 0x26 y (0#2 ++ d ++ 0#4 ++ v)]
  | .pcnt y xd a => [headOf 0 0x27 y (xd ++ 0#1 ++ a ++ 0#4)]
  | .kld y o => encVMem 0x4E y o
  | .vsetvl y n => [headOf 0 0x50 y (0#6 ++ n)]
  | .vsetvlReg y xd xa xb opx => [headOf 1 0x50 y (0#9 ++ xd), xa ++ 0#5 ++ xb ++ 0#12 ++ opx ++ 0#1]
  | .loopv y xc off => [headOf 1 0x51 y (0#9 ++ xc), off ++ 0#12]
  | .rotset y n => [headOf 0 0x52 y (0#7 ++ n)]
  | .vcat y o => encVRnd 0x5B y o
  | .bmld y o => encE2 0x07 y o
  | .sccfg y o => encE2 0x09 y o
  | .tagx y o => encE2 0x0B y o
  | .aswap y acc => [headOf 0 0x04 y (0#12 ++ acc)]
  | .azero y bank acc => [headOf 0 0x05 y (0#10 ++ bank ++ acc)]
  | .achk y bank acc => [headOf 0 0x06 y (0#10 ++ bank ++ acc)]
  | .avset y o => encE2 0x09 y o
  | .fdrop y n => [headOf 0 0x0A y (0#9 ++ n)]
  | .epsset y o => encE2 0x0B y o
  | .add y o => encCOp 0x00 y o
  | .sub y o => encCOp 0x01 y o
  | .and y o => encCOp 0x02 y o
  | .or y o => encCOp 0x03 y o
  | .xor y o => encCOp 0x04 y o
  | .sll y o => encCOp 0x05 y o
  | .srl y o => encCOp 0x06 y o
  | .sra y o => encCOp 0x07 y o
  | .mul y o => encCOp 0x08 y o
  | .mulh y o => encCOp 0x09 y o
  | .mulhu y o => encCOp 0x0A y o
  | .div y o => encCOp 0x0B y o
  | .divu y o => encCOp 0x0C y o
  | .rem y o => encCOp 0x0D y o
  | .remu y o => encCOp 0x0E y o
  | .min y o => encCOp 0x0F y o
  | .max y o => encCOp 0x10 y o
  | .minu y o => encCOp 0x11 y o
  | .maxu y o => encCOp 0x12 y o
  | .slt y o => encCOp 0x13 y o
  | .sltu y o => encCOp 0x14 y o
  | .seq y o => encCOp 0x15 y o
  | .li y o => encCOp 0x16 y o
  | .clz y o => encCOp 0x17 y o
  | .popc y o => encCOp 0x18 y o
  | .rotl y o => encCOp 0x19 y o
  | .bext y o => encCOp 0x1A y o
  | .bins y o => encCOp 0x1B y o
  | .j y o => encCOp 0x20 y o
  | .jal y o => encCOp 0x21 y o
  | .jr y o => encCOp 0x22 y o
  | .beq y o => encCOp 0x23 y o
  | .bne y o => encCOp 0x24 y o
  | .blt y o => encCOp 0x25 y o
  | .bge y o => encCOp 0x26 y o
  | .bltu y o => encCOp 0x27 y o
  | .bgeu y o => encCOp 0x28 y o
  | .bbs y o => encCOp 0x29 y o
  | .ldb y o => encCOp 0x30 y o
  | .ldh y o => encCOp 0x31 y o
  | .ldw y o => encCOp 0x32 y o
  | .ldd y o => encCOp 0x33 y o
  | .ldbu y o => encCOp 0x34 y o
  | .ldhu y o => encCOp 0x35 y o
  | .ldwu y o => encCOp 0x36 y o
  | .stb y o => encCOp 0x37 y o
  | .sth y o => encCOp 0x38 y o
  | .stw y o => encCOp 0x39 y o
  | .std y o => encCOp 0x3A y o
  | .ldsc y o => encCOp 0x3B y o
  | .stsc y o => encCOp 0x3C y o
  | .param y o => encCOp 0x41 y o
  | .fmtq y o => encCOp 0x42 y o
  | .semadd y o => encCOp 0x45 y o
  | .semwait y o => encCOp 0x46 y o
  | .semset y o => encCOp 0x47 y o
  | .barm y o => encCOp 0x4A y o
  | .binit y o => encCOp 0x4B y o
  | .rfence y o => encCOp 0x4E y o
  | .waitt y o => encCOp 0x50 y o
  | .rdcc y o => encCOp 0x51 y o
  | .rdgt y o => encCOp 0x52 y o
  | .align y o => encCOp 0x53 y o
  | .launch y o => encCOp 0x58 y o
  | .child y o => encCOp 0x59 y o
  | .yield y o => encCOp 0x5A y o
  | .csrr y o => encCOp 0x5C y o
  | .csrw y o => encCOp 0x5D y o
  | .setkey y o => encCOp 0x5E y o
  | .coll y o => encCOp 0x60 y o
  | .collw y o => encCOp 0x61 y o
  | .spore y o => encCOp 0x62 y o
  | .sorw y o => encCOp 0x63 y o
  | .a2a y o => encCOp 0x64 y o
  | .wmap y o => encCOp 0x65 y o
  | .wunmap y o => encCOp 0x66 y o
  | .lrecall y o => encCOp 0x67 y o
  | .vadd y o => encVOp 0x00 y o
  | .vsub y o => encVOp 0x01 y o
  | .vmul y o => encVOp 0x02 y o
  | .vfma y o => encVOp 0x03 y o
  | .vfms y o => encVOp 0x04 y o
  | .vdiv y o => encVOp 0x05 y o
  | .vmin y o => encVOp 0x06 y o
  | .vmax y o => encVOp 0x07 y o
  | .vabs y o => encVOp 0x08 y o
  | .vneg y o => encVOp 0x09 y o
  | .vsqrt y o => encVOp 0x0A y o
  | .vrcp y o => encVOp 0x0B y o
  | .vrsq y o => encVOp 0x0C y o
  | .vexp2 y o => encVOp 0x0D y o
  | .vlog2 y o => encVOp 0x0E y o
  | .vmov y o => encVOp 0x0F y o
  | .viadd y o => encVOp 0x10 y o
  | .visub y o => encVOp 0x11 y o
  | .vimul y o => encVOp 0x12 y o
  | .vand y o => encVOp 0x13 y o
  | .vor y o => encVOp 0x14 y o
  | .vxor y o => encVOp 0x15 y o
  | .vshl y o => encVOp 0x16 y o
  | .vshr y o => encVOp 0x17 y o
  | .vsra y o => encVOp 0x18 y o
  | .vimin y o => encVOp 0x19 y o
  | .vimax y o => encVOp 0x1A y o
  | .vcmp y o => encVOp 0x20 y o
  | .vsel y o => encVOp 0x21 y o
  | .vcvt y o => encVOp 0x30 y o
  | .vqnt y o => encVOp 0x31 y o
  | .vdqnt y o => encVOp 0x32 y o
  | .vsrnd y o => encVOp 0x33 y o
  | .vrsum y o => encVOp 0x38 y o
  | .vrmax y o => encVOp 0x39 y o
  | .vrmin y o => encVOp 0x3A y o
  | .vdot y o => encVOp 0x3B y o
  | .vperm y o => encVOp 0x40 y o
  | .vslide y o => encVOp 0x41 y o
  | .vbcast y o => encVOp 0x42 y o
  | .vzip y o => encVOp 0x43 y o
  | .vunzip y o => encVOp 0x44 y o
  | .vld y f => encVMemForm 0x48 y f
  | .vst y f => encVMemForm 0x49 y f
  | .vlds y f => encVMemForm 0x4A y f
  | .vsts y f => encVMemForm 0x4B y f
  | .vgath y f => encVMemForm 0x4C y f
  | .vscat y f => encVMemForm 0x4D y f
  | .vz y f => encVRndForm 0x58 y f
  | .vzacc y f => encVRndForm 0x59 y f
  | .vunif y f => encVRndForm 0x5A y f
  | .vdrop y f => encVRndForm 0x5C y f
  | .ldx y r => encRec 0x00 y r
  | .stx y r => encRec 0x01 y r
  | .cpx y r => encRec 0x02 y r
  | .mcx y r => encRec 0x03 y r
  | .gthx y r => encRec 0x04 y r
  | .sctx y r => encRec 0x05 y r
  | .bmx y r => encRec 0x06 y r
  | .scacc y r => encRec 0x08 y r
  | .zfx y r => encRec 0x0A y r
  | .wld y r => encRec 0x00 y r
  | .mma y r => encRec 0x01 y r
  | .gate y r => encRec 0x02 y r
  | .adrn y r => encRec 0x03 y r
  | .asave y r => encRec 0x07 y r
  | .aload y r => encRec 0x08 y r
  | _ => []

/-- The spaces that hold an instruction (R41 to R45). BNZD counts an s register in C and an x register elsewhere. -/
def inSpace (q : SeqId) (i : Instr) : Bool :=
  match i with
  | .nop _ | .idle _ _ | .region _ | .endStream _ | .jmp _ _ => true
  | .bnzd _ (.s _) _ => q == .c
  | .bnzd _ (.x _) _ => q != .c
  | .pop _ _ | .xadd _ _ => q != .c
  | .add _ _ | .sub _ _ | .and _ _ | .or _ _ | .xor _ _ | .sll _ _ | .srl _ _ | .sra _ _ | .mul _ _ | .mulh _ _ | .mulhu _ _ | .div _ _ | .divu _ _ | .rem _ _ | .remu _ _ | .min _ _ | .max _ _ | .minu _ _ | .maxu _ _ | .slt _ _ | .sltu _ _ | .seq _ _ | .li _ _ | .clz _ _ | .popc _ _ | .rotl _ _ | .bext _ _ | .bins _ _ | .j _ _ | .jal _ _ | .jr _ _ | .beq _ _ | .bne _ _ | .blt _ _ | .bge _ _ | .bltu _ _ | .bgeu _ _ | .bbs _ _ | .ldb _ _ | .ldh _ _ | .ldw _ _ | .ldd _ _ | .ldbu _ _ | .ldhu _ _ | .ldwu _ _ | .stb _ _ | .sth _ _ | .stw _ _ | .std _ _ | .ldsc _ _ | .stsc _ _ | .param _ _ | .fmtq _ _ | .semadd _ _ | .semwait _ _ | .semset _ _ | .barm _ _ | .binit _ _ | .rfence _ _ | .waitt _ _ | .rdcc _ _ | .rdgt _ _ | .align _ _ | .launch _ _ | .child _ _ | .yield _ _ | .csrr _ _ | .csrw _ _ | .setkey _ _ | .coll _ _ | .collw _ _ | .spore _ _ | .sorw _ _ | .a2a _ _ | .wmap _ _ | .wunmap _ _ | .lrecall _ _ | .start _ _ _ _ | .sig _ _ _ | .wait _ _ _ | .arrive _ _ | .bwait _ _ | .qfence _ _ | .fence _ _ | .trap _ _ | .halt _ | .collwRetire _ _ => q == .c
  | .vadd _ _ | .vsub _ _ | .vmul _ _ | .vfma _ _ | .vfms _ _ | .vdiv _ _ | .vmin _ _ | .vmax _ _ | .vabs _ _ | .vneg _ _ | .vsqrt _ _ | .vrcp _ _ | .vrsq _ _ | .vexp2 _ _ | .vlog2 _ _ | .vmov _ _ | .viadd _ _ | .visub _ _ | .vimul _ _ | .vand _ _ | .vor _ _ | .vxor _ _ | .vshl _ _ | .vshr _ _ | .vsra _ _ | .vimin _ _ | .vimax _ _ | .vcmp _ _ | .vsel _ _ | .vcvt _ _ | .vqnt _ _ | .vdqnt _ _ | .vsrnd _ _ | .vrsum _ _ | .vrmax _ _ | .vrmin _ _ | .vdot _ _ | .vperm _ _ | .vslide _ _ | .vbcast _ _ | .vzip _ _ | .vunzip _ _ | .vld _ _ | .vst _ _ | .vlds _ _ | .vsts _ _ | .vgath _ _ | .vscat _ _ | .vz _ _ | .vzacc _ _ | .vunif _ _ | .vdrop _ _ | .pand _ _ _ _ | .por _ _ _ _ | .pxor _ _ _ _ | .pnot _ _ _ | .pset _ _ _ | .pcnt _ _ _ | .kld _ _ | .vsetvl _ _ | .vsetvlReg _ _ _ _ _ | .loopv _ _ _ | .rotset _ _ | .vcat _ _ => q == .v
  | .ldx _ _ | .stx _ _ | .cpx _ _ | .mcx _ _ | .gthx _ _ | .sctx _ _ | .bmx _ _ | .scacc _ _ | .zfx _ _ | .bmld _ _ | .sccfg _ _ | .tagx _ _ => q == .t
  | .wld _ _ | .mma _ _ | .gate _ _ | .adrn _ _ | .asave _ _ | .aload _ _ | .aswap _ _ | .azero _ _ _ | .achk _ _ _ | .avset _ _ | .fdrop _ _ | .epsset _ _ => q == .m
  | _ => false

/-- `n` parcels of `w`, the first one lowest. -/
def parcelsOf : Nat → Nat → List Parcel
  | 0, _ => []
  | n + 1, w => BitVec.ofNat 32 w :: parcelsOf n (w / 2 ^ 32)

/-- The first space, in the order C, V, T, M, in which the parcels decode (log 11). -/
def decodeAny (ps : List Parcel) : Option (SeqId × Instr) :=
  match decode .c ps with
  | .ok i => some (.c, i)
  | .error _ =>
    match decode .v ps with
    | .ok i => some (.v, i)
    | .error _ =>
      match decode .t ps with
      | .ok i => some (.t, i)
      | .error _ =>
        match decode .m ps with
        | .ok i => some (.m, i)
        | .error _ => none

/-- The instruction whose bits are `w` as spec/opcode_table.json numbers them. Bits above `nbits` are 0; the longest
instruction has 16 parcels. -/
def decodeTableWord (nbits w : Nat) : Option Instr :=
  (decodeAny (parcelsOf 16 (w % 2 ^ nbits))).map (·.2)

end Sys2Proof
end

