-- ==== Sys2Proof/Config.lean ====
section
/-! DEFINITION. What the manual leaves to the implementation or to the outside: free values without a body, and the
figures and constants that a rule states. -/

namespace Sys2Proof.Config

/-- Which agent moves when nothing outside has said so (log 2): the manual gives no order (R18). -/
opaque freeTurn : Nat → Turn

/-- The SM2 signature of a message by the device key, which never leaves the crypto unit (R316, R353; log 8). -/
opaque sm2Sign : List Byte → BitVec 512

/-- Whether the SM2 signature in a boot image holds under the fused root public key (R351; log 8). -/
opaque sm2Verifies : List Byte → Bool

/-- Whether a boot image's header is good, and the version it carries (R351, R352; log 8). -/
opaque headerGood : List Byte → Bool
opaque imageBody : List Byte → List Byte
opaque imageVersion : List Byte → Nat

/-- The fused rollback version (R351; log 8). -/
opaque rollbackVersion : Nat

/-- What the record of a launch that started no task holds in DIGEST, DCCSTART and DCCEND, by partition and launch id: the
manual gives the three only for a launch whose tasks ran (R316, R317; log 24). -/
opaque idleDigest : Nat → Nat → BitVec 256
opaque idleStart : Nat → Nat → BitVec 64
opaque idleEnd : Nat → Nat → BitVec 64

/-- What FADDR of an ECC_UNCORRECTABLE record holds where the word in error stands in a register or a queue, by the step number: the
manual gives "the address read", and such a word has none (R326, R344; log 73). -/
opaque eccAddr : Nat → Nat

/-- The latency of a vector operation in ticks, by group (R139). -/
def latPredicate : Nat := 3
def latInt : Nat := 2
def latFloat : Nat := 4
def latFma : Nat := 6
def latDraw : Nat := 8
def latRcp : Nat := 10
def latReduce : Nat := 12
def latLoad : Nat := 14
def latExpLog : Nat := 16
def latSqrt : Nat := 18
def latDiv : Nat := 20
/-- BMLD writes its map 14 ticks after issue (R116), a BMX skip counts after 2 (R115). -/
def latMap : Nat := 14
def latSkip : Nat := 2

/-- The three bases of the task address map (R88). -/
def spadBytes : Nat := 0x800000
def peerBase : Nat := 0x08000000
def txBase : Nat := 0x000100000000
def txTop : Nat := 0x000200000000
def hbmBase : Nat := 0x100000000000
def hbmTop : Nat := 0x200000000000

/-- The bounds of a timetable access, in cycles from its issue, by place: the own scratchpad, a peer's, task HBM space (R301, R260). A
store into the own scratchpad commits after the first figure also in token mode (R26, R139). -/
def ownStore : Nat := 2
def ownRead : Nat := 14
def peerAccess : Nat := 64
def hbmAccess : Nat := 800

/-- Queue bounds (R27, R272, R273). -/
def maxTokens : Nat := 255
def queueLen : Nat := 32

/-- A module that is asked for a lease or a recall answers within 10 us (R98, R219). -/
def answerNs : Nat := 10000

end Sys2Proof.Config
end

