-- ==== Sys2Proof/Machine/State.lean ====
section
/-! DEFINITION. The state of one Gyhorn module as plain data, the reasons a step can stop, and the state after reset. -/

namespace Sys2Proof.Machine

/-- Why a step stops for good. -/
inductive Fault where
  /-- Raised by an operation of the part on physical memory that no populated stack holds (R84), such as a trap record
  into a queue registered there. Safe: the manual gives no effect. -/
  | absentMemory (addr : Nat)
deriving DecidableEq, Repr, Inhabited

/-- Why a step is refused. -/
inductive Refusal where
  /-- Raised by an arm of exec that has no meaning yet. Safe: nothing can be proved of its effect. -/
  | notModelled (mnemonic : String)
deriving DecidableEq, Repr, Inhabited

/-- The causes of trap records (R326). -/
inductive Cause where
  | illegalOpcode | illegalForm | illegalField | privileged | fetch | extent | leaseWait | txLoad | misaligned
  | fmtUnderflow | schedMiss | tagMismatch | accCheck | accOvf | eccUncorrectable | collOverrun | invalidPeer | stall
  | software | preempt | sorusGap | counterOverlap
deriving DecidableEq, Repr, Inhabited

/-- Where an access of a task lands once it has been checked and translated (R88, R91): a scratchpad, physical HBM, or
a transmit window (by task address). -/
inductive Place where
  | spad (core off : Nat)
  | hbm (addr : Nat)
  | tx (addr : Nat)
deriving DecidableEq, Repr, Inhabited

/-- A register write that takes effect at its tick (R29). For `v` and `p` the mask names the byte lanes written. -/
inductive Write where
  | v (phys : Nat) (mask : BitVec 256) (val : BitVec 2048)
  | p (phys : Nat) (mask : BitVec 256) (val : BitVec 256)
  | k (i : Nat) (val : BitVec 32)
  | x (r : Nat) (val : Word)
  | xinc (r : Nat)
  | vl (val : BitVec 8)
  | vcsr (val : Word)
  | vrb (val : Word)
  | bm (n granule : Nat) (img : BitVec 128)
deriving DecidableEq, Repr, Inhabited

/-- Where loaded bytes go: into the lanes of physical v `reg` from `lane` on that `mask` names, into k `reg`, into s `reg`, extended (R268), or into a
granule of a bit map (R116). -/
inductive LoadDest where
  | v (reg lane : Nat) (mask : BitVec 256)
  | k (reg : Nat)
  | s (reg : Nat) (sgn : Bool)
  | bm (n granule : Nat)
deriving DecidableEq, Repr, Inhabited

/-- Bytes of one granule that a load has yet to read (R96, R293): from `place`, whose task address is `addr`. -/
structure LoadPiece where
  place : Place
  len : Nat
  dest : LoadDest
  addr : Nat
deriving DecidableEq, Repr, Inhabited

/-- A result on its way (R29, R139, R363): written at tick `due`, produced once its data is there and `lat` cycles have passed
since cycle `since`, on which the instruction at `pc` issued. `ordered`: its pieces are read in their order (R158, R159). -/
structure Pend where
  id : Nat
  due : Nat
  writes : List Write
  flags : BitVec 5
  loads : List LoadPiece
  produced : Bool
  region : Nat
  since : Nat
  lat : Nat
  pc : BitVec 48
  ordered : Bool
deriving DecidableEq, Repr, Inhabited

/-- An instruction that has issued and not completed, or whose tokens R296 holds back (R26). -/
structure Flight where
  id : Nat
  sig : BitVec 4
  took : BitVec 4
  region : Nat
deriving DecidableEq, Repr, Inhabited

/-- An update of the scatter-accumulate engine (R119, R120). -/
structure ScUpdate where
  ty : BitVec 4
  op : BitVec 4
  val : BitVec 32
deriving DecidableEq, Repr, Inhabited

/-- A store not yet performed (R103, R159, R263): one indivisible event; `none` is a byte that it does not name. With `upd`
it is an update of 4 bytes, whose old value is read when it is performed. It is performed no earlier than `lat` cycles after
cycle `since`, on which the instruction at `pc` issued (R139). Stores of one `chain` other than 0 are performed in order: the
updates of SCACC (R121), the writes of MCX to one peer (R107). `whole`: it is a granule of a store of a whole line (R93). -/
structure PStore where
  id : Nat
  place : Place
  bytes : List (Option Byte)
  upd : Option ScUpdate
  since : Nat
  lat : Nat
  pc : BitVec 48
  chain : Nat
  whole : Bool
deriving DecidableEq, Repr, Inhabited

/-- What an instruction in its waiting phase has begun (R332), or the stack whose wheel it waits for (R321). `ending` is END,
which waits for its earlier instructions (R41). A2A holds its result and the stores that it has yet to make, each with the
granule that it copies or its bytes (R258). -/
inductive OpProg where
  | none
  | sem
  | flits (ids : List Nat)
  | waitt (target : Word) (sd : Nat)
  | align (target : Word) (mask : BitVec 5)
  | issuedBefore (t v m : Nat)
  | wmap (tx : Nat)
  | wunmapTx (tx : Nat)
  | recall (rx : Nat) (addr : Nat) (unmap : Bool)
  | spore (ids : List Nat)
  | coll (gen : Nat)
  | collSend (addr gen : Nat)
  | lq (index : Nat)
  | a2a (v : Word) (rest : List (Option Place × Place × List (Option Byte)))
  | record
  | yielding
  | status (v : Word)
  | stack (d : Nat)
  | ending
deriving DecidableEq, Repr, Inhabited

/-- The waiting phase of the instruction at a sequencer's PC (R27, R262, R332): before it issues, or after it has taken
its tokens (`took`; `cred` from V's credits) and reserved room for its signals (`sig`; `supp` those that replay suppresses).
`ticks` is how many ticks its issue has counted. -/
structure Wait where
  kind : Nat
  since : Nat
  sinceGt : Nat
  issued : Bool
  id : Nat
  took : BitVec 4
  cred : BitVec 4
  sig : BitVec 4
  supp : BitVec 4
  sent : Nat
  op : OpProg
  addr : Nat
  ticks : Nat
deriving DecidableEq, Repr, Inhabited

/-- An aligned granule of 16 bytes that a sequencer has read for the instruction at its PC, or for a single issue of its record, before it goes
on (R293): by a fetch, or as data. -/
structure Early where
  fetch : Bool
  place : Place
  bytes : List Byte
deriving DecidableEq, Repr, Inhabited

/-- A loop-nest record in progress (R39, R340): its counters and everything it holds from its first single issue. Its
first single issue has the id before its own; `recheck` says that a cut came between (R118). `outs` are the stores of the
current single issue that wait for their window, once its operands have been read (R99); `got` are the operands that it has read so far,
each in an event of its own (R293); `refetch` says that the record was
restored and its parcels could not be fetched yet (R342). -/
structure RecProg where
  instr : Instr
  id : Nat
  pc : BitVec 48
  i0 : Nat
  i1 : Nat
  i2 : Nat
  i3 : Nat
  began : Bool
  baseD : Word
  baseA : Word
  baseB : Word
  fmt : Word
  key : Word
  map : BitVec 1024
  unitary : Sparse (BitVec 64)
  scType : BitVec 4
  scOp : BitVec 4
  lastBlock : Option Nat
  sent : Nat
  recheck : Bool
  outs : List (Place × List (Option Byte))
  got : List Nat
  refetch : Bool
deriving DecidableEq, Repr, Inhabited

/-- Whether a stream runs, is held, or has ended (R340). -/
inductive Stream where
  | running | held | ended
deriving DecidableEq, Repr, Inhabited

/-- One sequencer of a task (R18, R100, R259). `regs` are s0 to s63 of C, x0 to x31 of an engine; `timed` says that an
ALIGN has timed it (R28), `armed` that it has not issued since that ALIGN (R282). `alignAt` is the cycle of the ALIGN that
released it last, or, for C, of its own last ALIGN: an engine that is not held keeps its own timing (R282), so it also keeps
the ALIGN from which the STAMP of M counts (R40) and against which SCHED_MISS tells its cycles (R326; log 69). `tickAt` is the cycle
on which tick `tick` falls where nothing stalls (R28), `head` the head parcel of what issued last; `early` is what it has read and not yet used. -/
structure Seq where
  stream : Stream
  pc : BitVec 48
  regs : Sparse Word
  tick : Nat
  seqno : Word
  lastRegion : BitVec 48
  regionNo : Nat
  wait : Option Wait
  prog : Option RecProg
  pend : List Pend
  flights : List Flight
  stores : List PStore
  nextId : Nat
  timed : Bool
  lastIssue : Nat
  nextFree : Nat
  armed : Bool
  alignAt : Nat
  tickAt : Nat
  head : BitVec 48
  early : List Early
deriving DecidableEq, Repr, Inhabited

/-- An accumulator element: V and S (R72; S is 0 FIN, 1 OVF, 2 INF, 3 NAN). -/
structure Elem where
  v : BitVec 96
  s : BitVec 2
deriving DecidableEq, Repr, Inhabited

/-- One bank of an accumulator (R134): elements at i * 128 + j, checksums, tile flags. -/
structure AccBank where
  elems : Sparse Elem
  rowSum : Sparse (BitVec 96)
  colSum : Sparse (BitVec 96)
  prange : Bool
  ovf : Bool
deriving DecidableEq, Repr, Inhabited

/-- An extent (R90). -/
structure Extent where
  valid : Bool
  vbase : Nat
  pbase : Nat
  npages : Nat
  r : Bool
  w : Bool
  x : Bool
  prot : Bool
  range : Nat
deriving DecidableEq, Repr, Inhabited

/-- A word of 64 bits with two bits in error that SEC-DED detects when it is read (R344): word `word` of a vector register, the half k`i` of a
word of the constant bank, entry `i` of a parameter queue (by the sequencer id of its engine) or of the format queue, counted from the oldest. -/
inductive BadWord where
  | v (phys word : Nat)
  | k (i : Nat)
  | pq (e i : Nat)
  | fq (i : Nat)
deriving DecidableEq, Repr, Inhabited

/-- Why a resident task does not issue (R336, R328, R286). -/
inductive Hold where
  | none
  | record (slot : Nat)
  | noSlot
  | stopped
  | ended
deriving DecidableEq, Repr, Inhabited

/-- A trap record before it is laid out as 128 bytes (R331). -/
structure TrapRec where
  cause : Cause
  seq : Nat
  flags : BitVec 8
  noCore : Bool
  core : Nat
  bank : Nat
  dcc : Word
  faddr : Word
  fpc : Word
  cutpc : List Word
  seqno : List Word
  titer : List Nat
  miter : List Nat
  tokens : List Nat
  fqDepth : Nat
deriving DecidableEq, Repr, Inhabited

/-- A task in a context bank (R127, R137, R138). Token queue (a, b) has key 4a + b. `taken` and `sent` are V's W and S
counts since its last REGION, by sequencer id; `credit` and `mute` what replay mode has yet to consume of the counts that
the cut left; `owed` the credits to be returned as tokens; `atRegion` says that the next REGION is the one V resumed at (R334); `late` is a trap that waits for a slot (R328), or, `cutting`, for what has begun to complete (R332, R333);
`trapId` is the TRAP of C that waits for its answer (R285); `firstIssue` is DCC + 1 at the task's first issue, 0 before it (R316);
`bad` its words in error (R344). -/
structure Task where
  part : Nat
  launch : Nat
  rank : Nat
  prio : Nat
  priv : Bool
  timed : Bool
  hold : Hold
  late : Option TrapRec
  cutting : Bool
  trapId : Option Nat
  c : Seq
  t : Seq
  v : Seq
  m : Seq
  tok : Sparse Nat
  resv : Sparse Nat
  psig : Sparse Nat
  pqT : List Word
  pqV : List Word
  pqM : List Word
  heldV : Nat
  heldTaken : Nat
  fq : List Word
  key : Word
  cbase : Word
  sbase : Word
  rfstat : Word
  tfirst : BitVec 32
  tend : BitVec 32
  paramb : Word
  opbase : Sparse Word
  failw : Sparse Word
  phases : Sparse (BitVec 32)
  extents : Sparse Extent
  vreg : Sparse (BitVec 2048)
  preg : Sparse (BitVec 256)
  kreg : Sparse (BitVec 32)
  vl : Word
  vcsr : Word
  vrb : Word
  acc : Sparse AccBank
  version : Sparse (BitVec 16)
  w : Sparse (BitVec 16)
  wfmt : Sparse (BitVec 8)
  w8 : Bool
  wlast : BitVec 24
  eps : Sparse (BitVec 32)
  bm : Sparse (BitVec 1024)
  scType : BitVec 4
  scOp : BitVec 4
  taken : Sparse Nat
  sent : Sparse Nat
  replay : Bool
  atRegion : Bool
  credit : Sparse Nat
  mute : Sparse Nat
  owed : Sparse Nat
  regVl : Word
  regVrb : Word
  regVcsr : Word
  firstIssue : Nat
  bad : List BadWord
deriving DecidableEq, Repr, Inhabited

/-- One core (R13, R123, R137). -/
structure Core where
  spad : List Host.Cell
  spadBad : List Nat
  tags : Sparse (BitVec 16)
  bank0 : Option Task
  bank1 : Option Task
  bank : Nat
  wheel : Sparse Word
deriving DecidableEq, Repr, Inhabited

/-- A barrier of a partition (R276). -/
structure Barrier where
  e : Nat
  pending : Nat
  phase : BitVec 32
  arm : Option Nat
deriving DecidableEq, Repr, Inhabited

/-- A SEMWAIT that has reached its semaphore and is not yet satisfied (R275); `sem` is cluster * 64 + number. -/
structure SemWaiter where
  sem : Nat
  core : Nat
  bank : Nat
  need : BitVec 32
deriving DecidableEq, Repr, Inhabited

/-- A reservation of a counter range (R203). -/
structure Resv where
  launch : Nat
  seed : Word
  sbase : Word
  base : Nat
  len : Nat
deriving DecidableEq, Repr, Inhabited

/-- A collective entry (R254): the descriptor's bytes and the counters i and c; memory operations and acknowledgements by
generation; `fin` is how many generations the member at each position has finished. -/
structure Coll where
  addr : Nat
  desc : BitVec 1024
  mlist : List Nat
  issued : Nat
  issuedGt : Nat
  done : Nat
  applied : Sparse Nat
  acked : Sparse Nat
  fin : Sparse Nat
deriving DecidableEq, Repr, Inhabited

/-- A COLL that the flip of barrier `bar` issued, with the core that arrived last (R257); `late` is its record where that waits for a slot (R328);
`early` is what it has read so far, `stack` the stack whose wheel it waits for (R321). -/
structure CollPend where
  addr : Nat
  bar : Nat
  core : Nat
  bank : Nat
  sinceGt : Nat
  late : Option TrapRec
  early : List Early
  stack : Option Nat
deriving DecidableEq, Repr, Inhabited

/-- The packets of a generation that have yet to depart, from block `next` on, with the source as it was read (R255). -/
structure CollSend where
  addr : Nat
  desc : BitVec 1024
  gen : Nat
  next : Nat
  bytes : List Byte
deriving DecidableEq, Repr, Inhabited

/-- An entry of the launch queue that LAUNCH has entered and the command processor has not taken, or whose result LAUNCH has not
read (R283): its index, its task, and the status word once there is one. `dropped`: a cut took the LAUNCH back before that. -/
structure LqOwn where
  index : Nat
  core : Nat
  bank : Nat
  launch : Nat
  priv : Bool
  result : Option Word
  dropped : Bool
deriving DecidableEq, Repr, Inhabited

/-- How far a launch has come (R309). -/
inductive LStage where
  | accepted | prepared | started | over | final
deriving DecidableEq, Repr, Inhabited

/-- A launch of a partition (R306, R309, R316). `digest` is there once it is over: nothing that reaches a range later is in it (R317).
`coresStarted` are the cores on which it has started a task, `ranksOver` the ranks of its tasks that have ended; `toRead` are the ranges that digest units have yet to read, each as 16 times its number plus the stack; `dccStart` is DCC + 1
at the first issue of its tasks that have ended or given up their core, 0 for none; `ready` is GT + 1 at the moment at which it became ready for a core (R323). -/
structure Launch where
  id : Nat
  desc : BitVec 2048
  stage : LStage
  status : Nat
  child : Bool
  parent : Nat
  pool : Nat
  cbase : Word
  slot : Nat
  dccStart : Nat
  dccEnd : Word
  ovlp : Bool
  keychg : Bool
  preempted : Bool
  hostEnded : Bool
  extents : Sparse Extent
  coresStarted : List Nat
  ranksOver : List Nat
  ready : Sparse Nat
  digest : Option (BitVec 256)
  toRead : List Nat
deriving DecidableEq, Repr, Inhabited

/-- What YIELD keeps of a task that gave up its core (R284). -/
structure Yielded where
  launch : Nat
  rank : Nat
  core : Nat
  pcs : List (BitVec 48)
  streams : List Stream
  tok : Sparse Nat
  key : Word
  sa : Nat
  vals : List Word
  sd : Nat
  seqno : List Word
  regions : List (BitVec 48)
  firstIssue : Nat
deriving DecidableEq, Repr, Inhabited

/-- What a single issue of an engine has sent of its stores (R99). -/
structure PartSent where
  q : SeqId
  sent : Nat
  outs : List (Place × List (Option Byte))
deriving DecidableEq, Repr, Inhabited

/-- A task whose context image has been saved to memory (R337, R338), and its unanswered record if it has one; `sig` are
the signals that a TRAP sends when it is answered (R285), `failw` the failures of its flits that were reported meanwhile (R229). What an image has
no place for, and the task goes on from: `regions` are the last REGION of each sequencer (R331), `atRegion` and `owed` those of V (R334), `pieces`
what T and M have sent of a single issue, with its stores, `wait` an instruction of C whose effect has begun (R302, R332). -/
structure Saved where
  launch : Nat
  rank : Nat
  core : Nat
  bank : Nat
  prio : Nat
  slot : Option Nat
  answered : Bool
  extents : Sparse Extent
  sig : BitVec 4
  firstIssue : Nat
  failw : Sparse Word
  regions : List (BitVec 48)
  atRegion : Bool
  owed : Sparse Nat
  pieces : List PartSent
  wait : Option Wait
deriving DecidableEq, Repr, Inhabited

/-- An occupied slot of the trap queue (R328). -/
structure TqSlot where
  slot : Nat
  core : Nat
  bank : Nat
  noTask : Bool
  cls : Nat
  gt : Nat
deriving DecidableEq, Repr, Inhabited

/-- A partition (R16, R305, R319), keyed by its first cluster. `csr` holds its CSRs by number (R288). `subMcc` and `subCore` are the
cycle, plus 1, and the core of the last LAUNCH or CHILD that was accepted (R309). -/
structure Partition where
  present : Bool
  size : Nat
  mcc0 : Nat
  block : Nat
  tqBlock : Nat
  csr : Sparse Word
  halted : Bool
  fatal2 : Bool
  lost : Bool
  stopped : Bool
  tq : List TqSlot
  lqstat : Word
  chainhd : BitVec 256
  prev : BitVec 256
  cursor : Word
  resv : List Resv
  bars : Sparse Barrier
  sems : Sparse (BitVec 32)
  semq : List SemWaiter
  colls : List Coll
  collEarly : Sparse Nat
  collPend : List CollPend
  collSends : List CollSend
  lqOwn : List LqOwn
  subMcc : Nat
  subCore : Nat
  launches : List Launch
  nextId : Nat
  spill : List Nat
  yielded : List Yielded
  saved : List Saved
deriving DecidableEq, Repr, Inhabited

/-- A transmit window entry (R215, R216, R220, R225, R231). While WMAP asks for its leases it is not mapped, and `asker` is twice
the core plus the bank plus 1; `trapped` are the dead members that have stopped a store. -/
structure TxWin where
  mapped : Bool
  part : Nat
  lbase : Nat
  size : Nat
  rx : Nat
  rxOff : Nat
  allow : Nat
  slotset : Nat
  failtrap : Bool
  loop : Nat
  members : List Nat
  granted : BitVec 64
  refused : BitVec 64
  bases : Sparse Nat
  epochs : Sparse Nat
  dead : BitVec 64
  trapped : BitVec 64
  recalled : BitVec 64
  released : BitVec 64
  asker : Nat
  askedGt : Nat
deriving DecidableEq, Repr, Inhabited

/-- A receive window entry (R215 to R217, R220, R222): state 1 MAPPED, 2 RECALLED. -/
structure RxWin where
  state : Nat
  part : Nat
  lbase : Word
  size : Nat
  sources : List Nat
  epoch : Nat
  leases : List Nat
  released : List Nat
  silent : List Nat
  barred : List Nat
  recallGt : Nat
deriving DecidableEq, Repr, Inhabited

/-- A store that a flit holds: its sequencer, its instruction, with its head parcel, and the cycle on which it came. `bank` is 2 more than the bank
once its task has been saved from there (R338), 4 once its task is over. -/
structure Owner where
  bank : Nat
  q : SeqId
  id : Nat
  pc : BitVec 48
  since : Nat
deriving DecidableEq, Repr, Inhabited

/-- A flit opened and not yet acknowledged (R224, R225). `core` 512 stands for the sorus agent; `lost` are the members dead when it was opened,
`copies` those whose copy has yet to depart. -/
structure Flit where
  id : Nat
  win : Nat
  core : Nat
  block : Nat
  mask : BitVec 64
  data : BitVec 512
  order : List Nat
  isOpen : Bool
  lost : BitVec 64
  copies : BitVec 64
  departed : Bool
  departGt : Nat
  owners : List Owner
deriving DecidableEq, Repr, Inhabited

/-- A flit, a loop-back write or a combine that this module writes from `base` on, granule by granule (R226, R227, R253, R293):
`order` are the granules yet to be written, `part` the partition of the window. A flit of `src` on one of its paths is acknowledged after the last one; `coll` is a
packet, whose landing block is read and written. -/
structure Landing where
  src : Nat
  path : Nat
  rx : Nat
  part : Nat
  ack : Bool
  base : Place
  mask : BitVec 64
  data : BitVec 512
  order : List Nat
  coll : Option CollPacket
deriving DecidableEq, Repr, Inhabited

/-- A record that the sorus agent sends, until every sorus window has acknowledged it (R242). -/
structure SorSend where
  off : Nat
  record : BitVec 256
  flits : List Nat
  waiting : List Nat
deriving DecidableEq, Repr, Inhabited

/-- A step of the sorus that is open (R244 to R246). `held` are ABSENT spores and seals that wait for the sealer. -/
structure SorStep where
  step : Nat
  openGt : Nat
  mem : BitVec 512
  sealer : Option Nat
  complete : Bool
  sealSent : Bool
  asked : List Nat
  recoverGt : Nat
  recovering : Bool
  notRet : Bool
  held : List (Nat × BitVec 256 × Nat)
deriving DecidableEq, Repr, Inhabited

/-- A request or a reply of gap recovery on its way (R247). -/
inductive GapMsg where
  | ask (req : BitVec 1024)
  | answer (rep : BitVec 512)
deriving DecidableEq, Repr, Inhabited

/-- One that no acknowledgement has come for. `gone`: it has departed, at GT `gt`; `late` is GT + 1 at the time-out of its acknowledgement, 0 before it. -/
structure GapSend where
  id : Nat
  dst : Nat
  step : Nat
  gone : Bool
  gt : Nat
  late : Nat
  msg : GapMsg
deriving DecidableEq, Repr, Inhabited

/-- The sorus CSRs and the agent (R241 to R247). `memOld` lists the memberships that have been in
force, by their first step: a step below EFF takes the last one that begins at or before it (R243; log 70). `gapSent` are the requests
and replies of gap recovery that no acknowledgement has come for (R247). -/
structure Sorus where
  cfg : Word
  first : BitVec 32
  eff : BitVec 32
  dl : BitVec 32
  gap : BitVec 32
  mem : BitVec 512
  memOld : Sparse (BitVec 512)
  bad : BitVec 32
  last : BitVec 32
  steps : List SorStep
  spored : List Nat
  sends : List SorSend
  gapSent : List GapSend
deriving DecidableEq, Repr, Inhabited

/-- A message that has left the module or an interrupt, in order; what becomes of it is the outside's (log 1). A flit goes to the members, each with
its epoch, whose routes share the first hop (R229). -/
inductive Msg where
  | interrupt (first slot : Nat)
  | mgmtInterrupt (why : Nat)
  | flit (port : Nat) (dsts : List (Nat × Nat)) (rx off : Nat) (mask : BitVec 64) (data : BitVec 512) (order : List Nat)
  | ack (port dst : Nat) (ok : Bool)
  | leaseAsk (dst rx need : Nat)
  | leaseAnswer (dst : Nat) (ok : Bool) (base epoch : Nat)
  | leaseReturn (dst rx : Nat)
  | recall (dst rx : Nat)
  | released (dst : Nat)
  | regrant (dst rx base epoch : Nat)
  | packet (port : Nat) (p : CollPacket)
  | packetAck (port : Nat) (route : BitVec 32) (dst cid gen : Nat)
  | finish (dst cid count : Nat)
  | gapAsk (port dst : Nat) (req : BitVec 1024)
  | gapAnswer (port dst : Nat) (rep : BitVec 512)
  | hostRelay (req : BitVec 1024)
  | hostRead (ok : Bool) (bytes : List Byte)
  | report (bytes : List Byte) (sig : BitVec 512)
  | bootJump
deriving DecidableEq, Repr, Inhabited

/-- A granule that a bank of a scratchpad has served on this cycle, by its core, bank and row (R123, R124). -/
structure Served where
  core : Nat
  bank : Nat
  row : Nat
deriving DecidableEq, Repr, Inhabited

/-- Who executes: core and sequencer; the bank is the core's current one (R137). -/
structure Ctx where
  core : Nat
  q : SeqId
deriving DecidableEq, Repr, Inhabited

/-- The module. `hbm` lists physical bytes; an unlisted byte reads 0 (log 5). `poison` are the poisoned lines, with a bit for each granule
that a store of the whole line has not written over yet, and `errs` those with symbols in error that nothing has read yet: 1 correctable, 2 not, and 4
times the granules that such a store has written over (R93). MCC counts without end here: its low 64 bits are the register of R87, and
nothing reads it but modulo a wheel or as a difference. `pick` is the one read that the running turn makes, where it makes no more than one
(R293); it is none between turns. `lastServed` and `servedAt` are the partition that a wheel's free
positions served last, plus 1, and that cycle, plus 1 (R321). `mailbox` is Milnos's copy of the mailbox, `hostbox` that of BAR0
(R350); `ports` are the cores whose cluster port is busy (R125), `served` what the banks have served on this cycle (R124); `portDrop` counts the flits that a port's FEC discarded (R234); `orphans` are lease requests (window, member
position, member, receive entry) whose WMAP is over (R220). -/
structure State where
  cur : Ctx
  pick : Option Nat
  agenda : List Turn
  moves : Nat
  mcc : Nat
  gt : Nat
  slew : Int
  timelock : Bool
  lockedOnce : Bool
  hbm : List Host.Cell
  poison : Sparse Nat
  errs : Sparse Nat
  ports : List Nat
  served : List Served
  stkcap : Sparse Nat
  eccstat : Sparse Word
  modNum : Nat
  disabled : BitVec 512
  domshape : Word
  ready : Word
  ready1 : Word
  bootstat : Word
  bootsrc : Bool
  timedisc : Bool
  hostdrop : Word
  mailbox : Sparse Word
  hostbox : Sparse Word
  portDrop : Sparse Word
  wheels : Sparse Byte
  slotOwner : Sparse Byte
  slotMask : Sparse Word
  lastServed : Sparse Nat
  servedAt : Sparse Nat
  tx : Sparse TxWin
  rx : Sparse RxWin
  flits : List Flit
  nextFlit : Nat
  landings : List Landing
  orphans : List (Nat × Nat × Nat × Nat)
  sorus : Sorus
  meas : Sparse (BitVec 256)
  island : Sparse Nat
  volt : Sparse Nat
  rails : Sparse Bool
  pwrok : Bool
  thermtrip : Bool
  ide : Sparse (BitVec 256)
  cores : Sparse Core
  parts : Sparse Partition
  out : List Msg
deriving DecidableEq, Repr, Inhabited

/-- A sequencer whose stream has not begun (R138, R340). -/
def Seq.reset : Seq :=
  { stream := .ended, pc := 0, regs := [], tick := 0, seqno := 0, lastRegion := 0, regionNo := 0, wait := none,
    prog := none, pend := [], flights := [], stores := [], nextId := 0, timed := false, lastIssue := 0, nextFree := 0,
    armed := false, alignAt := 0, tickAt := 0, head := 0, early := [] }

/-- An accumulator bank after AZERO (R72, R138). -/
def AccBank.zero : AccBank := { elems := [], rowSum := [], colSum := [], prange := false, ovf := false }

/-- A context bank as R138 sets it when a task is assigned to it, before the task's own values are loaded. -/
def Task.reset : Task :=
  { part := 0, launch := 0, rank := 0, prio := 0, priv := false, timed := false, hold := .none, late := none, cutting := false, trapId := none,
    c := Seq.reset, t := Seq.reset, v := Seq.reset, m := Seq.reset, tok := [], resv := [], psig := [],
    pqT := [], pqV := [], pqM := [], heldV := 0, heldTaken := 0, fq := [], key := 0, cbase := 0, sbase := 0, rfstat := 0,
    tfirst := 0, tend := 0, paramb := 0, opbase := [], failw := [], phases := [], extents := [],
    vreg := [], preg := [], kreg := [], vl := 0, vcsr := 0, vrb := 0, acc := [], version := [],
    w := [], wfmt := [], w8 := false, wlast := 0, eps := [], bm := [], scType := 5, scOp := 0,
    taken := [], sent := [], replay := false, atRegion := false, credit := [], mute := [], owed := [],
    regVl := 0, regVrb := 0, regVcsr := 0, firstIssue := 0, bad := [] }

/-- A core after reset: scratchpad and tags clear, no task (R117, R126; log 4, log 5). -/
def Core.reset : Core :=
  { spad := [], spadBad := [], tags := [], bank0 := none, bank1 := none, bank := 0, wheel := [] }

/-- A barrier at partition creation (R276). -/
def Barrier.reset : Barrier := { e := 0, pending := 0, phase := 0, arm := none }

/-- A partition that has not been created (R16). -/
def Partition.absent : Partition :=
  { present := false, size := 0, mcc0 := 0, block := 0, tqBlock := 0, csr := [], halted := false, fatal2 := false,
    lost := false, stopped := false, tq := [], lqstat := 0, chainhd := 0, prev := 0, cursor := 0, resv := [], bars := [],
    sems := [], semq := [], colls := [], collEarly := [], collPend := [], collSends := [],
    lqOwn := [], subMcc := 0, subCore := 0, launches := [], nextId := 1, spill := [], yielded := [], saved := [] }

/-- A FREE transmit window entry (R215). -/
def TxWin.free : TxWin :=
  { mapped := false, part := 0, lbase := 0, size := 0, rx := 0, rxOff := 0, allow := 0, slotset := 0, failtrap := false,
    loop := 0, members := [], granted := 0, refused := 0, bases := [], epochs := [], dead := 0, trapped := 0, recalled := 0, released := 0,
    asker := 0, askedGt := 0 }

/-- A FREE receive window entry (R215). -/
def RxWin.free : RxWin :=
  { state := 0, part := 0, lbase := 0, size := 0, sources := [], epoch := 0, leases := [], released := [],
    silent := [], barred := [], recallGt := 0 }

/-- An extent entry in its reset state (R90). -/
def Extent.reset : Extent :=
  { valid := false, vbase := 0, pbase := 0, npages := 0, r := false, w := false, x := false, prot := false, range := 0 }

/-- The sorus after reset (R243): LAST is FIRST - 1. -/
def Sorus.reset : Sorus :=
  { cfg := 0, first := 0, eff := 0, dl := 20000, gap := 1000000, mem := 0, memOld := [], bad := 0, last := 0xFFFFFFFF,
    steps := [], spored := [], sends := [], gapSent := [] }

/-- The capacity of every stack after reset (R84, R21; log 4). -/
def resetCapacity : Nat := 95999229952

/-- The module right after reset: no partition, no task, every function not ready (R351 to R355). -/
def State.reset : State :=
  { cur := { core := 0, q := .c }, pick := none, agenda := [], moves := 0, mcc := 0, gt := 0, slew := 0, timelock := false,
    lockedOnce := false, hbm := [], poison := [], errs := [], ports := [], served := [], stkcap := [], eccstat := [], modNum := 0, disabled := 0, domshape := 0x111, ready := 0,
    ready1 := 0, bootstat := 0, bootsrc := false, timedisc := false, hostdrop := 0, mailbox := [], hostbox := [], portDrop := [], wheels := [], slotOwner := [], slotMask := [], lastServed := [], servedAt := [],
    tx := [], rx := [], flits := [], nextFlit := 0, landings := [], orphans := [], sorus := Sorus.reset, meas := [], island := [], volt := [], rails := [],
    pwrok := true, thermtrip := false, ide := [], cores := [], parts := [], out := [] }

end Sys2Proof.Machine
end

