-- ==== Sys2Proof/Machine/Store.lean ====
section
/-! DEFINITION. Sparse storage in its one canonical form, byte order, and access to the parts of State: cores, banks,
partitions, sequencers. -/

namespace Sys2Proof.Machine

/-- What key `k` reads as; `d` where nothing is listed. -/
def Sparse.get {α : Type} (d : α) : List (Nat × α) → Nat → α
  | [], _ => d
  | (a, v) :: t, k => if a = k then v else Sparse.get d t k

/-- `(k, v)` before the first greater key. -/
def Sparse.insert {α : Type} (k : Nat) (v : α) : List (Nat × α) → List (Nat × α)
  | [] => [(k, v)]
  | (a, w) :: t => if k < a then (k, v) :: (a, w) :: t else (a, w) :: Sparse.insert k v t

/-- The list without key `k`. -/
def Sparse.erase {α : Type} (k : Nat) (m : List (Nat × α)) : List (Nat × α) := m.filter (fun p => p.1 != k)

/-- A write: the value that an unlisted key reads as removes the entry. -/
def Sparse.set {α : Type} [DecidableEq α] (d : α) (k : Nat) (v : α) (m : List (Nat × α)) : List (Nat × α) :=
  if v = d then Sparse.erase k m else Sparse.insert k v (Sparse.erase k m)

/-- The canonical form: keys strictly rising, no entry that reads as an unlisted key does. -/
def Sparse.wf {α : Type} [DecidableEq α] (d : α) : List (Nat × α) → Bool
  | [] => true
  | [(_, v)] => v != d
  | (a, v) :: (b, w) :: t => a < b && v != d && Sparse.wf d ((b, w) :: t)

/-- The form that a memory keeps (log 5: an unlisted byte reads 0). -/
def Memory.wf (m : List Host.Cell) : Bool := Sparse.wf (0 : Byte) m

/-- One byte, and the bytes from `a` on. -/
def getByte (m : List Host.Cell) (a : Nat) : Byte := Sparse.get 0 m a

def getBytes (m : List Host.Cell) (a : Nat) : Nat → List Byte
  | 0 => []
  | n + 1 => getByte m a :: getBytes m (a + 1) n

def putByte (m : List Host.Cell) (a : Nat) (b : Byte) : List Host.Cell := Sparse.set 0 a b m

def putBytes (m : List Host.Cell) (a : Nat) : List Byte → List Host.Cell
  | [] => m
  | b :: bs => putBytes (putByte m a b) (a + 1) bs

/-- Bytes of a range set to 0 (R126, R328): every entry of the range leaves the list. -/
def clearBytes (m : List Host.Cell) (a n : Nat) : List Host.Cell := m.filter (fun p => !(a ≤ p.1 && p.1 < a + n))

/-- Little-endian (R4, R22): the first byte is the least significant. -/
def leBytes : Nat → Nat → List Byte
  | 0, _ => []
  | n + 1, w => BitVec.ofNat 8 w :: leBytes n (w / 256)

def leNat : List Byte → Nat
  | [] => 0
  | b :: bs => b.toNat + 256 * leNat bs

/-- `n` bytes of a memory as a number. -/
def getNat (m : List Host.Cell) (a n : Nat) : Nat := leNat (getBytes m a n)

/-- Bits [lo + len - 1 : lo] of a number. -/
def bits (w lo len : Nat) : Nat := w / 2 ^ lo % 2 ^ len

/-- A signed field of `len` bits. -/
def sbits (w lo len : Nat) : Int :=
  let v := bits w lo len
  if v < 2 ^ (len - 1) then v else (v : Int) - 2 ^ len

/-- An integer modulo 2^n, as a natural number. -/
def wrap (n : Nat) (z : Int) : Nat := (z % (2 ^ n : Nat)).toNat

/-- The values `f 0` to `f (n - 1)`. -/
def upTo {α : Type} (n : Nat) (f : Nat → α) : List α := (List.range n).map f

/-! ### Cores, banks, partitions -/

def State.core (s : State) (n : Nat) : Core := Sparse.get Core.reset s.cores n
def State.setCore (s : State) (n : Nat) (c : Core) : State := { s with cores := Sparse.set Core.reset n c s.cores }

def State.part (s : State) (p : Nat) : Partition := Sparse.get Partition.absent s.parts p
def State.setPart (s : State) (p : Nat) (x : Partition) : State := { s with parts := Sparse.set Partition.absent p x s.parts }

def Core.task? (c : Core) (b : Nat) : Option Task := if b = 0 then c.bank0 else c.bank1
def Core.setTask (c : Core) (b : Nat) (t : Option Task) : Core := if b = 0 then { c with bank0 := t } else { c with bank1 := t }

def State.task? (s : State) (n b : Nat) : Option Task := (s.core n).task? b
def State.setTask (s : State) (n b : Nat) (t : Option Task) : State := s.setCore n ((s.core n).setTask b t)

/-- The bank from which a core issues (R137). -/
def State.bankOf (s : State) (n : Nat) : Nat := (s.core n).bank

def Task.seq (t : Task) (q : SeqId) : Seq :=
  match q with
  | .c => t.c
  | .t => t.t
  | .v => t.v
  | .m => t.m

def Task.setSeq (t : Task) (q : SeqId) (u : Seq) : Task :=
  match q with
  | .c => { t with c := u }
  | .t => { t with t := u }
  | .v => { t with v := u }
  | .m => { t with m := u }

/-- The task that a core issues from; a bank without a task reads as the reset values of R138. -/
def State.here (s : State) : Task := (s.task? s.cur.core (s.bankOf s.cur.core)).getD Task.reset
def State.setHere (s : State) (t : Task) : State := s.setTask s.cur.core (s.bankOf s.cur.core) (some t)

/-- The sequencer that executes. -/
def State.me (s : State) : Seq := s.here.seq s.cur.q
def State.setMe (s : State) (u : Seq) : State := s.setHere (s.here.setSeq s.cur.q u)

/-- The partition of the task that executes. -/
def State.myPart (s : State) : Partition := s.part s.here.part
def State.setMyPart (s : State) (p : Partition) : State := s.setPart s.here.part p

/-- s0 to s63 of C, x0 to x31 of an engine; register 0 reads 0 and discards writes (R30, R32). -/
def Seq.reg (u : Seq) (r : Nat) : Word := if r = 0 then 0 else Sparse.get 0 u.regs r
def Seq.setReg (u : Seq) (r : Nat) (v : Word) : Seq := if r = 0 then u else { u with regs := Sparse.set 0 r v u.regs }

def State.reg (s : State) (r : Nat) : Word := s.me.reg r
def State.setReg (s : State) (r : Nat) (v : Word) : State := s.setMe (s.me.setReg r v)

/-- The bytes of the scratchpad of a core. -/
def State.setSpad (s : State) (n : Nat) (m : List Host.Cell) : State := s.setCore n { s.core n with spad := m }

/-- A partition's CSR by number, with its value at partition creation (R99, R229, R255, R290, R354; FGMASK log 4). -/
def csrReset (n : Nat) : Word :=
  if n = 0x101 then 50000 else if n = 0x102 then 10000 else if n = 0x103 then 100000 else if n = 0x104 then 0x01000000
  else if n = 0x105 then 200000 else 0

def Partition.csrVal (p : Partition) (n : Nat) : Word := (Sparse.get none (p.csr.map (fun e => (e.1, some e.2))) n).getD (csrReset n)
def Partition.setCsr (p : Partition) (n : Nat) (v : Word) : Partition :=
  if v = csrReset n then { p with csr := Sparse.erase n p.csr } else { p with csr := Sparse.insert n v (Sparse.erase n p.csr) }

/-- DCC of a partition: module cycles since its creation (R280, R87). -/
def State.dcc (s : State) (p : Nat) : Nat := s.mcc - (s.part p).mcc0

/-- The capacity of stack `d` in bytes (R84). -/
def State.capacity (s : State) (d : Nat) : Nat := Sparse.get resetCapacity s.stkcap d

/-- A physical range of `n` bytes lies inside one populated stack (R84). -/
def State.populated (s : State) (a n : Nat) : Bool :=
  a < 2 ^ 41 && a % 2 ^ 37 + n ≤ s.capacity (a / 2 ^ 37)

/-- The core's cluster, and its position in it (R13). -/
def clusterOf (core : Nat) : Nat := core / 8
def posOf (core : Nat) : Nat := core % 8

end Sys2Proof.Machine
end

