-- ==== Sys2Proof/Machine/Num.lean ====
section
/-! DEFINITION. Number formats (R60, R61, R67 to R70) and exact values. A finite value that is no dyadic number carries
a sticky bit: it lies strictly between m and m + 1 units of 2^e. -/

namespace Sys2Proof.Machine

/-- A decoded value. -/
inductive FVal where
  | nan
  | inf (neg : Bool)
  | fin (neg : Bool) (m : Nat) (e : Int) (sticky : Bool)
deriving DecidableEq, Repr, Inhabited

/-- A floating-point format: precision `p` with the hidden bit, bias, width, the magnitude codes of the largest finite
value and of Inf, the canonical NaN. -/
structure Fmt where
  p : Nat
  bias : Nat
  width : Nat
  maxMag : Nat
  infMag : Option Nat
  nanCode : Nat
  signed : Bool
  negZero : Bool
  ieee : Bool
deriving DecidableEq, Repr, Inhabited

/-- R61. -/
def fp32 : Fmt := ⟨24, 127, 32, 0x7F7FFFFF, some 0x7F800000, 0x7FC00000, true, true, true⟩
def fp16 : Fmt := ⟨11, 15, 16, 0x7BFF, some 0x7C00, 0x7E00, true, true, true⟩
def bf16 : Fmt := ⟨8, 127, 16, 0x7F7F, some 0x7F80, 0x7FC0, true, true, true⟩

/-- Signed binary8 of precision P (R67, R68). -/
def b8s (p : Nat) (inf : Bool) : Fmt :=
  ⟨p, 2 ^ (7 - p), 8, if inf then 0x7E else 0x7F, if inf then some 0x7F else none, 0x80, true, false, false⟩

/-- Unsigned binary8 of precision P (R69). -/
def b8u (p : Nat) (inf : Bool) : Fmt :=
  ⟨p, 2 ^ (8 - p), 8, if inf then 0xFD else 0xFE, if inf then some 0xFE else none, 0xFF, false, false, false⟩

/-- Number of bits of a natural number. -/
def bitLen (m : Nat) : Nat := if m = 0 then 0 else Nat.log2 m + 1

/-- Smallest exponent of a normal number. -/
def Fmt.emin (f : Fmt) : Int := 1 - f.bias

/-- The magnitude that a code without its sign stands for, in units of 2^e. -/
def Fmt.magOf (f : Fmt) (c : Nat) : Nat × Int :=
  let fr := c % 2 ^ (f.p - 1)
  let e := c / 2 ^ (f.p - 1)
  if e = 0 then (fr, f.emin - (f.p - 1 : Nat)) else (2 ^ (f.p - 1) + fr, (e : Int) - f.bias - (f.p - 1 : Nat))

/-- A code decoded (R61, R67, R69). -/
def Fmt.decode (f : Fmt) (c : Nat) : FVal :=
  let mag := if f.signed then c % 2 ^ (f.width - 1) else c
  let neg := f.signed && c.testBit (f.width - 1)
  let isNan := if f.ieee then (match f.infMag with | some i => mag > i | none => false) else c == f.nanCode
  if isNan then .nan
  else if f.infMag = some mag then .inf neg
  else let me := f.magOf mag; .fin neg me.1 me.2 false

/-- The code of magnitude M * 2^q, a value of the grid. -/
def Fmt.magCode (f : Fmt) (M : Nat) (q : Int) : Nat :=
  if M = 0 then 0
  else
    let k := bitLen M
    let M := if k > f.p then M / 2 ^ (k - f.p) else M
    let q := if k > f.p then q + (k - f.p : Nat) else q
    if M < 2 ^ (f.p - 1) then M
    else ((q + (f.p - 1 : Nat) + f.bias).toNat) * 2 ^ (f.p - 1) + (M - 2 ^ (f.p - 1))

def Fmt.signCode (f : Fmt) (neg : Bool) (mag : Nat) : Nat := if neg && f.signed then 2 ^ (f.width - 1) + mag else mag

/-- A natural number as a value. -/
def FVal.ofInt (z : Int) : FVal := .fin (z < 0) z.natAbs 0 false

def FVal.isNan : FVal → Bool
  | .nan => true
  | _ => false

def FVal.neg : FVal → FVal
  | .nan => .nan
  | .inf n => .inf (!n)
  | .fin n m e s => .fin (!n) m e s

def FVal.sign : FVal → Bool
  | .nan => false
  | .inf n => n
  | .fin n _ _ _ => n

def FVal.isZero : FVal → Bool
  | .fin _ m _ s => m == 0 && !s
  | _ => false

def FVal.isInf : FVal → Bool
  | .inf _ => true
  | _ => false

/-- The zero of a sign. -/
def fzero (neg : Bool) : FVal := .fin neg 0 0 false

/-- An exact finite value as an integer multiple of 2^e, for an `e` at or below its own. -/
def scaled (neg : Bool) (m : Nat) (e e' : Int) : Int :=
  let v : Int := (m * 2 ^ (e - e').toNat : Nat)
  if neg then -v else v

/-- Exact sum of two finite values. An exact zero is +0, but -0 + -0 (R62). -/
def finAdd (n1 : Bool) (m1 : Nat) (e1 : Int) (n2 : Bool) (m2 : Nat) (e2 : Int) : FVal :=
  let e := min e1 e2
  let z := scaled n1 m1 e1 e + scaled n2 m2 e2 e
  if z = 0 then fzero (n1 && n2 && m1 == 0 && m2 == 0) else .fin (z < 0) z.natAbs e false

/-- Order of two values that are no NaN: negative below positive, -0 below +0 (R62). -/
def FVal.le : FVal → FVal → Bool
  | .nan, _ => false
  | _, .nan => false
  | .inf true, _ => true
  | _, .inf false => true
  | .inf false, _ => false
  | _, .inf true => false
  | .fin n1 m1 e1 _, .fin n2 m2 e2 _ =>
    let e := min e1 e2
    let a := scaled n1 m1 e1 e
    let b := scaled n2 m2 e2 e
    if a = 0 && b = 0 then (n1 || !n2) else decide (a ≤ b)

/-- Numeric equality: -0 equals +0; false on a NaN (R146). -/
def FVal.eq : FVal → FVal → Bool
  | .inf a, .inf b => a == b
  | .fin n1 m1 e1 _, .fin n2 m2 e2 _ => let e := min e1 e2; scaled n1 m1 e1 e == scaled n2 m2 e2 e
  | _, _ => false

/-- Integer square root, from bit `n - 1` down. -/
def isqrtFrom (x : Nat) : Nat → Nat → Nat
  | 0, r => r
  | n + 1, r => isqrtFrom x n (if (r + 2 ^ n) * (r + 2 ^ n) ≤ x then r + 2 ^ n else r)

def isqrt (x : Nat) : Nat := isqrtFrom x ((bitLen x + 1) / 2) 0

/-- Fixed point with 256 fraction bits (log 7). -/
def fxBits : Nat := 256
def fxMul (a b : Nat) : Nat := a * b / 2 ^ fxBits

/-- ln 2. -/
def fxLn2 : Nat := 0xb17217f7d1cf79abc9e3b39803f2f6af40f343267298b62d8a0d175b8baafa2b

/-- The Taylor sum 1 + y + y^2/2 + …, `n` terms: `t` is the current term, `k` its index. -/
def fxExpSum (y : Nat) : Nat → Nat → Nat → Nat → Nat
  | 0, _, _, s => s
  | n + 1, k, t, s => let t := fxMul t y / k; fxExpSum y n (k + 1) t (s + t)

def fxSquare : Nat → Nat → Nat
  | 0, v => v
  | n + 1, v => fxSquare n (fxMul v v)

/-- 2^f for f = F / 2^256 below 1: y = f ln 2 / 256, its exponential, squared 8 times. -/
def fxExp2 (F : Nat) : Nat := fxSquare 8 (fxExpSum (fxMul F fxLn2 / 256) 40 1 (2 ^ fxBits) (2 ^ fxBits))

/-- The series z + z^3/3 + z^5/5 + …, `n` terms: `t` is the current power. -/
def fxAtanhSum (z2 : Nat) : Nat → Nat → Nat → Nat → Nat
  | 0, _, _, s => s
  | n + 1, k, t, s => fxAtanhSum z2 n (k + 2) (fxMul t z2) (s + t / k)

/-- log2 of M / 2^256 in [1, 2), as a fixed-point number: 2 atanh((M - 1) / (M + 1)) / ln 2. -/
def fxLog2 (M : Nat) : Nat :=
  let z := (M - 2 ^ fxBits) * 2 ^ fxBits / (M + 2 ^ fxBits)
  2 * fxAtanhSum (fxMul z z) 90 1 z 0 * 2 ^ fxBits / fxLn2

end Sys2Proof.Machine
end

