-- ==== Sys2Proof/Machine/Flags.lean ====
section
/-! DEFINITION. Every flag computation: rounding into a format (R64 to R66), the arithmetic operations of R62, R63 and
R71 with the flags they raise, the reduction tree (R81). Flags: NX 0, UF 1, OF 2, DZ 3, IV 4, as in VCSR. -/

namespace Sys2Proof.Machine

abbrev Flags := BitVec 5
def fNX : Flags := 1
def fUF : Flags := 2
def fOF : Flags := 4
def fDZ : Flags := 8
def fIV : Flags := 16

/-- The rounding modes of R64; the draw of a stochastic rounding is u * 2^-24 (R65). -/
inductive Mode where
  | rne
  | rtz
  | sto (u : Nat)
deriving DecidableEq, Repr, Inhabited

/-- Whether the neighbour of greater magnitude is taken: lo + rem / 2^d (with a sticky part) lies between lo and lo + 1. On a tie RNE takes
the even one of lo and lo + 1, counted in units of the lower binade. In binary8 with P = 1 both neighbours are powers of two, whose only
significand bit is 1: R64 picks neither, and the larger magnitude is taken (DESIGN CHOICE, log 74). -/
def roundUp (mode : Mode) (neg : Bool) (lo rem d : Nat) (sticky : Bool) : Bool :=
  match mode with
  | .rtz => false
  | .rne => let half := 2 ^ d; 2 * rem > half || (2 * rem == half && (sticky || lo % 2 == 1))
  | .sto u =>
    if neg then
      -- on signed values the upper neighbour is the one of smaller magnitude
      let small := if sticky then decide (rem * 2 ^ 24 < 2 ^ d * (2 ^ 24 - u) && (d ≥ 24 || (rem + 1) * 2 ^ 24 ≤ 2 ^ d * (2 ^ 24 - u)))
                   else decide (rem * 2 ^ 24 < 2 ^ d * (2 ^ 24 - u))
      !small
    else if sticky then decide (rem * 2 ^ 24 ≥ u * 2 ^ d) else decide (rem * 2 ^ 24 > u * 2 ^ d)

/-- A magnitude rounded to a multiple of 2^q: the multiple, and whether it differs. -/
def roundMag (mode : Mode) (neg : Bool) (m : Nat) (e : Int) (sticky : Bool) (q : Int) : Nat × Bool :=
  if q ≤ e then (m * 2 ^ (e - q).toNat, sticky)
  else
    let d := (q - e).toNat
    let lo := m / 2 ^ d
    let rem := m % 2 ^ d
    if rem == 0 && !sticky then (lo, false)
    else (if roundUp mode neg lo rem d sticky then lo + 1 else lo, true)

/-- InfOrLimit (R64). -/
def infOrLimit (f : Fmt) (neg sat : Bool) : Nat × Flags :=
  if !f.signed && neg then (if sat then (0, fIV ||| fNX) else (f.nanCode, fIV))
  else if sat then (f.signCode neg f.maxMag, fNX)
  else match f.infMag with
    | some i => (f.signCode neg i, 0)
    | none => (f.nanCode, 0)

/-- The exponent of the grid at a magnitude. -/
def gridExp (f : Fmt) (m : Nat) (e : Int) : Int := max (e + bitLen m - 1) f.emin - (f.p - 1 : Nat)

/-- RoundToFormat (R64): the code and the flags. -/
def roundTo (f : Fmt) (mode : Mode) (sat : Bool) (x : FVal) : Nat × Flags :=
  match x with
  | .nan => (f.nanCode, 0)
  | .inf n => infOrLimit f n sat
  | .fin neg m e sticky =>
    if m == 0 && !sticky then (f.signCode (neg && f.negZero) 0, 0)
    else
      let q := gridExp f m e
      if !f.signed && neg then
        if (roundMag mode false m e sticky q).1 == 0 then (0, fNX) else infOrLimit f true sat
      else
        let r := roundMag mode neg m e sticky q
        let mx := f.magOf f.maxMag
        let above := if q ≥ mx.2 then decide (r.1 * 2 ^ (q - mx.2).toNat > mx.1) else false
        if above then
          (if mode = .rtz || sat then f.signCode neg f.maxMag else (infOrLimit f neg false).1, fOF ||| fNX)
        else
          let code := f.magCode r.1 q
          let tiny := r.1 != 0 && code < 2 ^ (f.p - 1)
          (f.signCode (neg && (r.1 != 0 || f.negZero)) code, if r.2 then (if tiny then fNX ||| fUF else fNX) else 0)

/-- Conversion to an integer format of `w` bits (R66): the bits and the flags. -/
def roundToInt (w : Nat) (sgn : Bool) (mode : Mode) (x : FVal) : Nat × Flags :=
  let lo : Int := if sgn then -(2 ^ (w - 1) : Nat) else 0
  let hi : Int := if sgn then (2 ^ (w - 1) : Nat) - 1 else (2 ^ w : Nat) - 1
  match x with
  | .nan => (0, fIV)
  | .inf n => (wrap w (if n then lo else hi), fIV ||| fNX)
  | .fin neg m e sticky =>
    let r := roundMag mode neg m e sticky 0
    let z : Int := if neg then -(r.1 : Int) else r.1
    if z > hi then (wrap w hi, fIV ||| fNX)
    else if z < lo then (wrap w lo, fIV ||| fNX)
    else (wrap w z, if r.2 then fNX else 0)

/-! ### Exact operations and the invalid cases (R62, R63) -/

def fAdd (a b : FVal) : FVal × Flags :=
  match a, b with
  | .nan, _ => (.nan, 0)
  | _, .nan => (.nan, 0)
  | .inf n, .inf k => if n == k then (.inf n, 0) else (.nan, fIV)
  | .inf n, _ => (.inf n, 0)
  | _, .inf n => (.inf n, 0)
  | .fin n1 m1 e1 _, .fin n2 m2 e2 _ => (finAdd n1 m1 e1 n2 m2 e2, 0)

def fMul (a b : FVal) : FVal × Flags :=
  match a, b with
  | .nan, _ => (.nan, 0)
  | _, .nan => (.nan, 0)
  | .inf n, y => if y.isZero then (.nan, fIV) else (.inf (n != y.sign), 0)
  | x, .inf n => if x.isZero then (.nan, fIV) else (.inf (n != x.sign), 0)
  | .fin n1 m1 e1 _, .fin n2 m2 e2 _ => (.fin (n1 != n2) (m1 * m2) (e1 + e2) false, 0)

/-- x * y + z with one rounding to come; a NaN input raises nothing (R62). -/
def fFma (x y z : FVal) : FVal × Flags :=
  if x.isNan || y.isNan || z.isNan then (.nan, 0)
  else
    let p := fMul x y
    if p.1.isNan then p else fAdd p.1 z

/-- The quotient of two magnitudes to at least 64 bits. -/
def divMag (m1 : Nat) (e1 : Int) (m2 : Nat) (e2 : Int) (neg : Bool) : FVal :=
  let k := 200 + bitLen m2
  let n := m1 * 2 ^ k
  .fin neg (n / m2) (e1 - e2 - k) (n % m2 != 0)

/-- VDIV (R71). -/
def fDiv (a b : FVal) : FVal × Flags :=
  match a, b with
  | .nan, _ => (.nan, 0)
  | _, .nan => (.nan, 0)
  | .inf n, .inf _ => (.nan, if n then fIV else fIV)
  | .inf n, y => (.inf (n != y.sign), 0)
  | x, .inf n => (fzero (n != x.sign), 0)
  | .fin n1 m1 e1 _, .fin n2 m2 e2 _ =>
    if m2 == 0 then (if m1 == 0 then (.nan, fIV) else (.inf (n1 != n2), fDZ))
    else if m1 == 0 then (fzero (n1 != n2), 0)
    else (divMag m1 e1 m2 e2 (n1 != n2), 0)

/-- VRCP (R71). -/
def fRcp (b : FVal) : FVal × Flags := fDiv (.fin false 1 0 false) b

/-- VSQRT (R71): the root of m * 2^e, with an even exponent and at least 100 bits. -/
def fSqrt (b : FVal) : FVal × Flags :=
  match b with
  | .nan => (.nan, 0)
  | .inf n => if n then (.nan, fIV) else (.inf false, 0)
  | .fin neg m e _ =>
    if m == 0 then (fzero neg, 0)
    else if neg then (.nan, fIV)
    else
      let k : Nat := if (e - 200) % 2 = 0 then 200 else 201
      let x := m * 2 ^ k
      let r := isqrt x
      (.fin false r ((e - k) / 2) (r * r != x), 0)

/-- VRSQ (R71): 1 / sqrt(m * 2^e) is the root of 2^k / m, scaled. -/
def fRsq (b : FVal) : FVal × Flags :=
  match b with
  | .nan => (.nan, 0)
  | .inf n => if n then (.nan, fIV) else (fzero false, 0)
  | .fin neg m e _ =>
    if m == 0 then (.inf neg, fDZ)
    else if neg then (.nan, fIV)
    else
      let k : Nat := 300 + bitLen m + (if (e + 300 + bitLen m) % 2 = 0 then 0 else 1)
      let r := isqrt (2 ^ k / m)
      (.fin false r (-(e + k) / 2) (r * r * m != 2 ^ k), 0)

/-- VEXP2 (R71): 2^(n + f). An integer operand is exact; a result far outside every format is cut off at 2^±5000. -/
def fExp2 (b : FVal) : FVal × Flags :=
  match b with
  | .nan => (.nan, 0)
  | .inf n => if n then (fzero false, 0) else (.inf false, 0)
  | .fin neg m e _ =>
    if m == 0 then (.fin false 1 0 false, 0)
    else if e + bitLen m > 12 then (if neg then .fin false 1 (-5000) false else .fin false 1 5000 false, 0)
    else
      let z : Int := scaled neg m e (min e 0)
      let k := (-(min e 0)).toNat
      let n : Int := z / (2 ^ k : Nat)
      let F := (z % (2 ^ k : Nat)).toNat
      if F == 0 then (.fin false 1 n false, 0)
      else
        let v := fxExp2 (F * 2 ^ fxBits / 2 ^ k)
        (.fin false (v / 2 ^ 128) (n - 128) true, 0)

/-- VLOG2 (R71). -/
def fLog2 (b : FVal) : FVal × Flags :=
  match b with
  | .nan => (.nan, 0)
  | .inf n => if n then (.nan, fIV) else (.inf false, 0)
  | .fin neg m e _ =>
    if m == 0 then (.inf true, fDZ)
    else if neg then (.nan, fIV)
    else
      let E : Int := e + bitLen m - 1
      if m == 2 ^ (bitLen m - 1) then (FVal.ofInt E, 0)
      else
        let M := m * 2 ^ fxBits / 2 ^ (bitLen m - 1)
        let z : Int := E * (2 ^ fxBits : Nat) + fxLog2 M
        -- 40 guard bits are dropped; the value lies strictly between two units
        let w : Int := z / (2 ^ 40 : Nat)
        if w < 0 then (.fin true ((-w).toNat - 1) (-216) true, 0) else (.fin false w.toNat (-216) true, 0)

/-- Minimum and maximum of two codes of one format (R62); no flag. -/
def fMinMax (f : Fmt) (isMax : Bool) (a b : Nat) : Nat :=
  let x := f.decode a
  let y := f.decode b
  if x.isNan then (if y.isNan then f.nanCode else b)
  else if y.isNan then a
  else if x.le y then (if isMax then b else a) else (if isMax then a else b)

/-- One rounded operation: its own flags and those of the rounding. -/
def rounded (f : Fmt) (mode : Mode) (sat : Bool) (r : FVal × Flags) : Nat × Flags :=
  let c := roundTo f mode sat r.1
  (c.1, c.2 ||| r.2)

/-- An integer. -/
def FVal.isInt : FVal → Bool
  | .fin _ m e s => !s && (0 ≤ e || m % 2 ^ (-e).toNat == 0)
  | _ => false

/-- VEXP2 of a value (R71): 2^n of an integer n that the format does not hold raises OF, or UF, also where it rounds to 0 (log 14). -/
def exp2To (f : Fmt) (mode : Mode) (b : FVal) : Nat × Flags :=
  let r := rounded f mode false (fExp2 b)
  if b.isInt && r.2 &&& fNX != 0 && r.2 &&& fOF == 0 then (r.1, r.2 ||| fUF) else r

/-- An RNE addition of two codes of a format. -/
def addRne (f : Fmt) (a b : Nat) : Nat × Flags := rounded f .rne false (fAdd (f.decode a) (f.decode b))

/-! ### The canonical reduction tree (R81, R154) -/

/-- One level of PairTree: neighbours are joined, an odd last one passes up. -/
def pairLevel {α : Type} (op : α → α → α × Flags) : List α → List α × Flags
  | [] => ([], 0)
  | [x] => ([x], 0)
  | x :: y :: t =>
    let r := op x y
    let u := pairLevel op t
    (r.1 :: u.1, r.2 ||| u.2)

/-- PairTree over at most 2^n elements. -/
def pairTree {α : Type} (op : α → α → α × Flags) : Nat → List α → List α × Flags
  | 0, l => (l, 0)
  | n + 1, l =>
    let r := pairLevel op l
    let u := pairTree op n r.1
    (u.1, r.2 ||| u.2)

/-- An excluded element is NONE and never changes the place of another (R154). -/
def nodeOp {α : Type} (op : α → α → α × Flags) (a b : Option α) : Option α × Flags :=
  match a, b with
  | none, b => (b, 0)
  | a, none => (a, 0)
  | some x, some y => let r := op x y; (some r.1, r.2)

/-- The reduction of one register's elements. -/
def reduceTree {α : Type} (op : α → α → α × Flags) (l : List (Option α)) : Option α × Flags :=
  let r := pairTree (nodeOp op) 9 l
  (r.1.headD none, r.2)

/-- CanonicalSum of codes of a format; the empty sum is -0 (R81). -/
def canonicalSum (f : Fmt) (l : List Nat) : Nat × Flags :=
  let r := pairTree (addRne f) (bitLen l.length + 1) l
  (r.1.headD (f.signCode true 0), r.2)

end Sys2Proof.Machine
end

