-- ==== Sys2Proof/Machine/Lichen.lean ====
section
/-! DEFINITION. The Lichen generator and its draws (R188, R189). -/

namespace Sys2Proof.Machine

/-- R188. -/
def lichen (key : Word) (stream : BitVec 32) (pos : Word) : BitVec 32 :=
  let t := pos.extractLsb' 0 32 ^^^ key.extractLsb' 0 32
  let t := t * 0x2C1B3C6D#32
  let t := t ^^^ (t >>> 15)
  let t := t ^^^ pos.extractLsb' 32 32 ^^^ key.extractLsb' 32 32
  let t := t * 0x297A2D39#32
  let t := t ^^^ (t >>> 12)
  let t := t ^^^ (stream * 0x9E3779B1#32)
  let t := t * 0x68E31DA5#32
  t ^^^ (t >>> 16)

/-- Number of 1 bits among the lowest `n` of a number. -/
def popcount (n w : Nat) : Nat := ((upTo n id).filter (fun i => w.testBit i)).length

/-- RAD: +1 or -1 by bit 31 (R189). -/
def drawRad (t : BitVec 32) : Int := if t.getLsbD 31 then -1 else 1

/-- BIN8: the difference of two byte popcounts (R189). -/
def drawBin8 (t : BitVec 32) : Int := (popcount 8 (t.extractLsb' 0 8).toNat : Int) - popcount 8 (t.extractLsb' 8 8).toNat

/-- UNIF: the numerator of u over 2^24 (R189). -/
def drawUnif (t : BitVec 32) : Nat := (t.extractLsb' 8 24).toNat

/-- The value u of UNIF. -/
def unifVal (t : BitVec 32) : FVal := .fin false (drawUnif t) (-24) false

/-- The value of a RAD or BIN8 draw. -/
def drawVal (bin8 : Bool) (t : BitVec 32) : FVal := FVal.ofInt (if bin8 then drawBin8 t else drawRad t)

end Sys2Proof.Machine
end

