-- ==== Sys2Proof/Machine/Desc.lean ====
section
/-! DEFINITION. The fields of a launch descriptor, and the order among launches (R306, R307, R313). -/

namespace Sys2Proof.Machine

/-! ### Descriptors (R306, R307) -/

def dF (d : BitVec 2048) (o n : Nat) : Nat := bits d.toNat (8 * o) (8 * n)
def dCtl (d : BitVec 2048) : Nat := dF d 68 4
def dTimed (d : BitVec 2048) : Bool := bits (dCtl d) 0 2 == 1
def dOverlap (d : BitVec 2048) : Nat := bits (dCtl d) 2 2
def dPrio (d : BitVec 2048) : Nat := bits (dCtl d) 4 2
def dLevels (d : BitVec 2048) : Nat := bits (dCtl d) 10 2 + 1
def dPerm (d : BitVec 2048) (i : Nat) : Nat := bits (dCtl d) (12 + 2 * i) 2
def dConc (d : BitVec 2048) : Bool := (dCtl d).testBit 21
def dPriv (d : BitVec 2048) : Bool := (dCtl d).testBit 22
def dTrip (d : BitVec 2048) (l : Nat) : Nat := dF d (72 + 4 * l) 4
def dPage (d : BitVec 2048) (i : Nat) : Nat := dF d (128 + 8 * i) 4
def dNpg (d : BitVec 2048) (i : Nat) : Nat := dF d (132 + 8 * i) 4
def dCount (d : BitVec 2048) : Nat := dF d 56 8
def dCursor (d : BitVec 2048) : Bool := dF d 48 8 == 2 ^ 64 - 1
def dTiles (d : BitVec 2048) : Nat := (upTo (dLevels d) (dTrip d)).foldl (· * ·) 1

/-! ### Order among launches (R313, R323) -/

def Launch.over (l : Launch) : Bool := l.stage == .over || l.stage == .final
/-- Its tasks have started on every core. -/
def Launch.allStarted (p : Partition) (l : Launch) : Bool := l.coresStarted.length ≥ 8 * 2 ^ p.size

/-- R313, but for the free bank. -/
def gate (p : Partition) (l : Launch) : Bool :=
  (l.stage == .prepared || l.stage == .started) && p.launches.all (fun m =>
    m.id == l.id
      || ((m.over || m.allStarted p || !(dPrio l.desc < dPrio m.desc || (dPrio l.desc == dPrio m.desc && m.id < l.id)))
        && (dConc l.desc || !(m.id < l.id && dPrio l.desc ≤ dPrio m.desc) || (m.over && m.toRead.isEmpty))))

end Sys2Proof.Machine
end

