-- ==== Sys2Proof/Machine/Digest.lean ====
section
/-! DEFINITION. SM3, which records, digests and measurements use (R316, R317, R351; its algorithm is the published one,
log 8), and the CRC-32 of a spore (R240). -/

namespace Sys2Proof.Machine

/-- The chaining value of SM3: eight words. -/
structure Sm3 where
  a : BitVec 32
  b : BitVec 32
  c : BitVec 32
  d : BitVec 32
  e : BitVec 32
  f : BitVec 32
  g : BitVec 32
  h : BitVec 32
deriving DecidableEq, Repr, Inhabited

def sm3Iv : Sm3 :=
  { a := 0x7380166f, b := 0x4914b2b9, c := 0x172442d7, d := 0xda8a0600, e := 0xa96f30bc, f := 0x163138aa, g := 0xe38dee4d,
    h := 0xb0fb0e4e }

def sm3P0 (x : BitVec 32) : BitVec 32 := x ^^^ x.rotateLeft 9 ^^^ x.rotateLeft 17
def sm3P1 (x : BitVec 32) : BitVec 32 := x ^^^ x.rotateLeft 15 ^^^ x.rotateLeft 23

/-- One round with word W and W'. -/
def sm3Round (j : Nat) (v : Sm3) (w w' : BitVec 32) : Sm3 :=
  let t : BitVec 32 := if j < 16 then 0x79cc4519 else 0x7a879d8a
  let a12 := v.a.rotateLeft 12
  let ss1 := (a12 + v.e + t.rotateLeft (j % 32)).rotateLeft 7
  let ss2 := ss1 ^^^ a12
  let ff := if j < 16 then v.a ^^^ v.b ^^^ v.c else (v.a &&& v.b) ||| (v.a &&& v.c) ||| (v.b &&& v.c)
  let gg := if j < 16 then v.e ^^^ v.f ^^^ v.g else (v.e &&& v.f) ||| (~~~ v.e &&& v.g)
  let tt1 := ff + v.d + ss2 + w'
  let tt2 := gg + v.h + ss1 + w
  { a := tt1, b := v.a, c := v.b.rotateLeft 9, d := v.c, e := sm3P0 tt2, f := v.e, g := v.f.rotateLeft 19, h := v.g }

/-- The rounds from `j` on; `ws` holds W j to W (j + 15). -/
def sm3Rounds : Nat → Nat → Sm3 → List (BitVec 32) → Sm3
  | 0, _, v, _ => v
  | n + 1, j, v, ws =>
    let w (i : Nat) : BitVec 32 := ws.getD i 0
    let new := sm3P1 (w 0 ^^^ w 7 ^^^ (w 13).rotateLeft 15) ^^^ (w 3).rotateLeft 7 ^^^ w 10
    sm3Rounds n (j + 1) (sm3Round j v (w 0) (w 0 ^^^ w 4)) (ws.drop 1 ++ [new])

/-- A big-endian number. -/
def beNat (bs : List Byte) : Nat := bs.foldl (fun a b => 256 * a + b.toNat) 0

/-- One block of 64 bytes. -/
def sm3Block (v : Sm3) (bs : List Byte) : Sm3 :=
  let r := sm3Rounds 64 0 v (upTo 16 (fun i => BitVec.ofNat 32 (beNat ((bs.drop (4 * i)).take 4))))
  { a := r.a ^^^ v.a, b := r.b ^^^ v.b, c := r.c ^^^ v.c, d := r.d ^^^ v.d, e := r.e ^^^ v.e, f := r.f ^^^ v.f, g := r.g ^^^ v.g,
    h := r.h ^^^ v.h }

def sm3Blocks : Nat → Sm3 → List Byte → Sm3
  | 0, v, _ => v
  | n + 1, v, bs => sm3Blocks n (sm3Block v (bs.take 64)) (bs.drop 64)

/-- The SM3 of a byte string, as its 32 bytes. -/
def sm3 (bs : List Byte) : List Byte :=
  let n := bs.length
  let z := (119 - n % 64) % 64
  let padded := bs ++ [0x80] ++ List.replicate z 0 ++ (leBytes 8 (8 * n)).reverse
  let v := sm3Blocks (padded.length / 64) sm3Iv padded
  [v.a, v.b, v.c, v.d, v.e, v.f, v.g, v.h].flatMap (fun w => (leBytes 4 w.toNat).reverse)

/-- The same as a number whose least significant byte is the first. -/
def sm3Word (bs : List Byte) : BitVec 256 := BitVec.ofNat 256 (leNat (sm3 bs))

/-- One bit, and one byte, of the reflected CRC. -/
def crcBit (c : BitVec 32) : BitVec 32 := if c.getLsbD 0 then (c >>> 1) ^^^ 0xEDB88320 else c >>> 1
def crcByte (c : BitVec 32) (b : Byte) : BitVec 32 :=
  crcBit (crcBit (crcBit (crcBit (crcBit (crcBit (crcBit (crcBit (c ^^^ b.setWidth 32))))))))

/-- CRC-32 of IEEE 802.3 (R240). -/
def crc32 (bs : List Byte) : BitVec 32 := bs.foldl crcByte 0xFFFFFFFF ^^^ 0xFFFFFFFF

end Sys2Proof.Machine
end

