-- ==== Sys2Proof/Machine/Mem.lean ====
section
/-! DEFINITION. The task address map, translation, the access checks of R362, and reads and stores of bytes: scratchpads,
HBM with its ECC lines, and the stores of a sequencer that are not yet performed. -/

namespace Sys2Proof.Machine

/-- What an access does (R91). -/
inductive AccKind where
  | load
  | store
  | fetch
deriving DecidableEq, Repr

/-- The ranges that an operand may use (R104, R158, R172, R269). -/
structure Ranges where
  own : Bool
  peer : Bool
  tx : Bool
  hbm : Bool
deriving DecidableEq, Repr

/-- Own and peer scratchpads and task HBM space; the transmit windows accept stores only. -/
def Ranges.all : Ranges := ⟨true, true, true, true⟩
def Ranges.noTx : Ranges := ⟨true, true, false, true⟩
def Ranges.spads : Ranges := ⟨true, true, false, false⟩
def Ranges.ownHbm : Ranges := ⟨true, false, false, true⟩
def Ranges.hbmOnly : Ranges := ⟨false, false, false, true⟩
def Ranges.hbmTx : Ranges := ⟨false, false, true, true⟩

/-- A fault of an access: its cause and its FADDR (R326). -/
structure AccFault where
  cause : Cause
  addr : Nat
deriving DecidableEq, Repr

/-- The five ranges of R88. -/
def inOwn (a : Nat) : Bool := a < Config.spadBytes
def inPeer (a : Nat) : Bool := Config.peerBase ≤ a && a < Config.peerBase + 8 * Config.spadBytes
def inTx (a : Nat) : Bool := Config.txBase ≤ a && a < Config.txTop
def inHbm (a : Nat) : Bool := Config.hbmBase ≤ a && a < Config.hbmTop

/-- The extent covers address `a` (R91). -/
def Extent.covers (e : Extent) (a : Nat) : Bool := e.valid && e.vbase ≤ a && a < e.vbase + (e.npages + 1) * 4096

/-- The bit of stack `d` in READY (R355). -/
def State.stackReady (s : State) (d : Nat) : Bool := s.ready.getLsbD (18 + d)

/-- An entry takes effect only if the translator could have built it (R92). -/
def Extent.usable (s : State) (e : Extent) : Bool :=
  e.valid && !(e.w && e.x) && e.vbase % 4096 == 0 && e.pbase % 4096 == 0 && s.populated e.pbase ((e.npages + 1) * 4096)
    && s.stackReady (e.pbase / 2 ^ 37)

def Extent.allows (e : Extent) (k : AccKind) : Bool :=
  match k with
  | .load => e.r
  | .store => e.w
  | .fetch => e.x

/-- R91: the lowest entry that covers the address decides. -/
def translateIn (s : State) (xs : Sparse Extent) (k : AccKind) (a : Nat) : Option Nat :=
  match (upTo 32 (fun i => Sparse.get Extent.reset xs i)).find? (fun e => e.usable s && e.covers a) with
  | some e => if e.allows k then some (e.pbase + (a - e.vbase)) else none
  | none => none

/-- The transmit window of a partition that covers a task address (R88, R215). -/
def findTx (s : State) (part a : Nat) : Option Nat :=
  (s.tx.find? (fun e => e.2.mapped && e.2.part == part && e.2.lbase ≤ a && a < e.2.lbase + e.2.size)).map (·.1)

/-- `n` bytes at `a` touch a line of 64 bytes. -/
def touchesLine (a n line : Nat) : Bool := line * 64 < a + n && a < line * 64 + 64

/-- A poisoned line among those that a range touches (R93). -/
def poisonedIn (s : State) (a n : Nat) : Bool := s.poison.any (fun e => touchesLine a n e.1)

/-- How many symbols of a line are in error: 1, or 2 or more, of which nothing has read anything yet. -/
def errKind (e : Nat) : Nat := e % 4

/-- A line that a range touches with so many symbols in error (R93): the read of one with two faults as that of a poisoned line does. -/
def symbolsIn (s : State) (a n symbols : Nat) : Bool := s.errs.any (fun e => errKind e.2 == symbols && touchesLine a n e.1)

/-- A range of HBM that cannot be read (R93). -/
def unreadable (s : State) (a n : Nat) : Bool := poisonedIn s a n || symbolsIn s a n 2

/-- Words of 8 bytes of a scratchpad with an error that SEC-DED cannot correct (R344). -/
def spadBadIn (s : State) (core off n : Nat) : Bool := (s.core core).spadBad.any (fun w => w * 8 < off + n && off < w * 8 + 8)

/-- The order of R362 on one access of `size` bytes, all of which lie where the first one does. `align` is the alignment
asked for. The data check (step 4) is made for loads. A fetch in the transmit window range takes TX_LOAD, as R362 says; the table of
R88 names EXTENT for it (log 71). An access that both reads and writes its operand is checked as `k` says: SCACC's D as a load
(log 72). -/
def checkAccess (s : State) (core : Nat) (t : Task) (rs : Ranges) (k : AccKind) (a size align : Nat) : Except AccFault Place :=
  let extent : Except AccFault Place := .error ⟨.extent, a⟩
  let ecc (p : Place) : Except AccFault Place :=
    match k, p with
    | .store, _ => .ok p
    | _, .spad c off => if spadBadIn s c off size then .error ⟨.eccUncorrectable, a⟩ else .ok p
    | _, .hbm pa => if unreadable s pa size then .error ⟨.eccUncorrectable, a⟩ else .ok p
    | _, .tx _ => .ok p
  let aligned (e : Except AccFault Place) : Except AccFault Place := if a % align == 0 then e else .error ⟨.misaligned, a⟩
  if inOwn a then
    if rs.own && k != .fetch then aligned (ecc (.spad core a)) else extent
  else if inPeer a then
    if rs.peer && k != .fetch then
      aligned (ecc (.spad (8 * clusterOf core + (a - Config.peerBase) / Config.spadBytes) ((a - Config.peerBase) % Config.spadBytes)))
    else extent
  else if inTx a then
    match k with
    | .store => if rs.tx then aligned (match findTx s t.part a with | some _ => .ok (.tx a) | none => extent) else extent
    | _ => .error ⟨.txLoad, a⟩
  else if inHbm a then
    if rs.hbm then
      aligned (match translateIn s t.extents k a with | some pa => ecc (.hbm pa) | none => extent)
    else extent
  else extent

/-- The bytes at a place; a transmit window is never read (R88). -/
def readPlace (s : State) (p : Place) (n : Nat) : List Byte :=
  match p with
  | .spad c off => getBytes (s.core c).spad off n
  | .hbm a => getBytes s.hbm a n
  | .tx _ => List.replicate n 0

/-- Where in a place a byte stands: a space and an offset. Space 0 is HBM, space n + 1 the scratchpad of core n. -/
def Place.space : Place → Nat
  | .spad c _ => c + 1
  | .hbm _ => 0
  | .tx _ => 513

def Place.off : Place → Nat
  | .spad _ o => o
  | .hbm a => a
  | .tx a => a

/-- Two ranges touch one 16-byte granule (R96). -/
def sameGranule (p : Place) (n : Nat) (q : Place) (m : Nat) : Bool :=
  p.space == q.space && p.off / 16 ≤ (q.off + m - 1) / 16 && q.off / 16 ≤ (p.off + n - 1) / 16

/-- ECCSTATd after an event: bits are ORed in, LASTLINE is replaced where one is given (R95). -/
def noteEcc (s : State) (line : Nat) (setLine : Bool) (bit : Nat) : State :=
  let d := line * 64 / 2 ^ 37
  let v := Sparse.get (1 : Word) s.eccstat d
  let v := v ||| BitVec.ofNat 64 (2 ^ bit)
  let v := if setLine then (v &&& ~~~ (BitVec.ofNat 64 (2 ^ 41 - 64))) ||| BitVec.ofNat 64 (line * 64) else v
  { s with eccstat := Sparse.set 1 d v s.eccstat }

/-- The controller finds two symbols of a line in error: the line is poisoned, UNCOR is set (R93, R95). -/
def poisonLine (s : State) (line : Nat) : State :=
  let s := noteEcc s line true 2
  { s with errs := Sparse.erase line s.errs, poison := Sparse.set 0 line 15 s.poison }

/-- It finds one: the data is delivered corrected and written back, which changes no byte; CORR is set (R93, R95). -/
def correctLine (s : State) (line : Nat) : State :=
  let s := noteEcc s line false 1
  { s with errs := Sparse.erase line s.errs }

/-- The controller reads `n` bytes at `a` and finds symbols in error: lines with one are corrected, lines with two are poisoned (R93, R95). -/
def findErrors (s : State) (a n : Nat) : State :=
  (s.errs.filter (fun e => touchesLine a n e.1)).foldl (fun s e => if errKind e.2 == 1 then correctLine s e.1 else poisonLine s e.1) s

/-- What is left of the poison of a line, and of its symbols in error, once a store of all its 64 bytes has written granule `g`, which it does as
an event of its own (R93, R293): a poison is the granules not yet written over; of two symbols in error those written over are noted. -/
def poisonLeft (m g : Nat) : Nat := if m.testBit g then m - 2 ^ g else m
def errLeft (e g : Nat) : Nat :=
  if errKind e = 1 then 0
  else
    let d := if e = 0 || (e / 4).testBit g then e else e + 4 * 2 ^ g
    if d / 4 = 15 then 0 else d

/-- A store into one 64-byte line of HBM (R93): all 64 bytes clear the poison, also where they come granule by granule (`whole`); a narrower store
is merged into what the controller reads, and into a poisoned line it is discarded and counted. -/
def storeLine (s : State) (a : Nat) (bs : List Byte) (whole : Bool) : State :=
  let line := a / 64
  let put (s : State) : State := { s with hbm := putBytes s.hbm a bs }
  if bs.length == 64 then put { s with poison := Sparse.erase line s.poison, errs := Sparse.erase line s.errs }
  else if whole then
    let g := a % 64 / 16
    put { s with poison := Sparse.set 0 line (poisonLeft (Sparse.get 0 s.poison line) g) s.poison,
                 errs := Sparse.set 0 line (errLeft (Sparse.get 0 s.errs line) g) s.errs }
  else
    let s := findErrors s (64 * line) 64
    if Sparse.get 0 s.poison line != 0 then noteEcc s line true 3 else put s

/-- A store into HBM, line by line. `n` bounds the number of lines. -/
def storeHbm (whole : Bool) : Nat → State → Nat → List Byte → State
  | 0, s, _, _ => s
  | n + 1, s, a, bs =>
    match bs with
    | [] => s
    | _ =>
      let k := 64 - a % 64
      storeHbm whole n (storeLine s a (bs.take k) whole) (a + k) (bs.drop k)

/-- A store into a scratchpad; a word that it covers whole is rewritten with good check bits (R344). -/
def storeSpad (s : State) (c off : Nat) (bs : List Byte) : State :=
  let k := s.core c
  s.setCore c { k with spad := putBytes k.spad off bs,
                       spadBad := k.spadBad.filter (fun w => !(off ≤ w * 8 && w * 8 + 8 ≤ off + bs.length)) }

/-- A store is performed (R103): its bytes are in the bank, or with the stack controller. `whole`: they are a granule of a store of a whole
line. -/
def performPiece (s : State) (p : Place) (bs : List Byte) (whole : Bool) : State :=
  match p with
  | .spad c off => storeSpad s c off bs
  | .hbm a => storeHbm whole (bs.length / 64 + 2) s a bs
  | .tx _ => s

def performAt (s : State) (p : Place) (bs : List Byte) : State := performPiece s p bs false

/-- The place `k` bytes further on. -/
def Place.add (p : Place) (k : Nat) : Place :=
  match p with
  | .spad c off => .spad c (off + k)
  | .hbm a => .hbm (a + k)
  | .tx a => .tx (a + k)

/-- The runs of named bytes, each with its offset: `k` is the offset of the next byte, `cur` the run before it. -/
def byteRuns : Nat → List Byte → List (Option Byte) → List (Nat × List Byte)
  | k, cur, [] => if cur.isEmpty then [] else [(k - cur.length, cur)]
  | k, cur, some b :: t => byteRuns (k + 1) (cur ++ [b]) t
  | k, cur, none :: t => if cur.isEmpty then byteRuns (k + 1) [] t else (k - cur.length, cur) :: byteRuns (k + 1) [] t

/-- The named bytes of one store event are performed. -/
def performNamed (s : State) (p : Place) (bs : List (Option Byte)) (whole : Bool) : State :=
  (byteRuns 0 [] bs).foldl (fun s r => performPiece s (p.add r.1) r.2 whole) s

/-- Combine of SCACC; FP32 flags are discarded (R120). -/
def scCombine (u : ScUpdate) (old : Nat) : Nat :=
  let v := u.val.toNat
  let signed (x : Nat) : Int := if u.ty = 5 then sbits x 0 32 else x
  match u.op.toNat with
  | 0 => if u.ty = 0 then (addRne fp32 old v).1 else (old + v) % 2 ^ 32
  | 1 => if u.ty = 0 then fMinMax fp32 false old v else if signed old ≤ signed v then old else v
  | 2 => if u.ty = 0 then fMinMax fp32 true old v else if signed old ≤ signed v then v else old
  | 3 => old &&& v
  | 4 => old ||| v
  | _ => old ^^^ v

/-- One store event is performed (R103, R120). -/
def performStore (s : State) (st : PStore) : State :=
  match st.upd with
  | none => performNamed s st.place st.bytes st.whole
  | some u => performAt s st.place (leBytes 4 (scCombine u (leNat (readPlace s st.place 4))))

/-- Every store of the list is performed, in issue order. -/
def performStores (s : State) (l : List PStore) : State := l.foldl performStore s

/-! ### What a read meets (R93, R103, R159, R263, R295, R297) -/

/-- A later store of a sequencer waits for an earlier one: they share a granule (R294), or a chain (R107, R121). -/
def storeAfter (early late : PStore) : Bool :=
  sameGranule early.place early.bytes.length late.place late.bytes.length || (early.chain != 0 && early.chain == late.chain)

/-- The stores of a list that a read of `n` bytes at a place comes after, with those that they wait for, and the others. -/
def splitStores (pl : Place) (n : Nat) : List PStore → List PStore × List PStore
  | [] => ([], [])
  | st :: rest =>
    let r := splitStores pl n rest
    if sameGranule st.place st.bytes.length pl n || r.1.any (storeAfter st) then (st :: r.1, r.2) else (r.1, st :: r.2)

/-- The lines of HBM with one symbol in error that `n` bytes at a place touch are corrected (R93). -/
def correctAt (s : State) (p : Place) (n : Nat) : State :=
  match p with
  | .hbm a => ((s.errs.filter (fun e => errKind e.2 == 1 && touchesLine a n e.1)).map (·.1)).foldl correctLine s
  | _ => s

/-- A read of sequencer `q` in a bank of a core: its own earlier stores to the granules (those with an id below `id`) are performed first, so that it
returns them and no observer sees them later (R295 E1, R297). -/
def drainAt (s : State) (core bank : Nat) (q : SeqId) (id : Nat) (p : Place) (n : Nat) : State :=
  match s.task? core bank with
  | none => s
  | some t =>
    let u := t.seq q
    let d := splitStores p n (u.stores.filter (fun st => st.id < id))
    let s := performStores s d.1
    match (if d.1.isEmpty then none else s.task? core bank) with
    | none => correctAt s p n
    | some t =>
      let u := t.seq q
      correctAt (s.setTask core bank (some (t.setSeq q { u with stores := u.stores.filter (fun st => !d.1.contains st) }))) p n

/-- A read of the executing sequencer: what it leaves, and its bytes. -/
def readBytes (s : State) (p : Place) (n : Nat) : State × List Byte :=
  let s := drainAt s s.cur.core (s.bankOf s.cur.core) s.cur.q s.me.nextId p n
  (s, readPlace s p n)

/-! ### Granules read before the instruction goes on (R293) -/

/-- The granule of a place. -/
def Place.granule (p : Place) : Place :=
  match p with
  | .spad c off => .spad c (off / 16 * 16)
  | .hbm a => .hbm (a / 16 * 16)
  | .tx a => .tx (a / 16 * 16)

/-- The `n` bytes at a place among the granules that have been read. -/
def earlyIn (l : List Early) (fetch : Bool) (p : Place) (n : Nat) : Option (List Byte) :=
  (l.find? (fun e => e.fetch == fetch && e.place == p.granule)).map (fun e => (e.bytes.drop (p.off % 16)).take n)

/-- The `n` bytes at a place that a sequencer has read with their granule. -/
def Seq.earlyAt (u : Seq) (fetch : Bool) (p : Place) (n : Nat) : Option (List Byte) := earlyIn u.early fetch p n

/-- What it has read of the granules that `n` bytes at a place touch is used up, or is older than a store of its own (R295 E1). -/
def Seq.dropEarly (u : Seq) (p : Place) (n : Nat) : Seq :=
  if u.early.isEmpty then u else { u with early := u.early.filter (fun e => !sameGranule e.place 16 p n) }

/-! ### Wheels, banks and ports (R86, R87, R124, R125, R320, R321) -/

/-- Wheel 0 to 15: the ports of a stack; 16 to 31: a digest unit; 32: the injection of the fabric interface. -/
def wheelAt (s : State) (w pos : Nat) : Byte := Sparse.get 0 s.wheels (w * 64 + pos)
def ownedBy (b : Byte) (part : Nat) : Bool := b.getLsbD 7 && (b.extractLsb' 0 6).toNat == part

/-- The partition owns a position of the wheel. -/
def ownsWheel (s : State) (w part : Nat) : Bool := (upTo 64 id).any (fun k => ownedBy (wheelAt s w k) part)

/-- The position at which the wheel stands is free (R321). -/
def positionFree (s : State) (w : Nat) : Bool :=
  let pos := s.mcc % 64
  !(wheelAt s w pos).getLsbD 7 && !(w < 16 && 62 ≤ pos)

/-- A sequencer waits for the wheel of a stack, before its instruction, in it, or with the next store of an A2A. -/
def waitsFor (u : Seq) (d : Nat) : Bool :=
  let at1 (p : Place) : Bool := match p with | .hbm a => a / 2 ^ 37 == d | _ => false
  match u.wait with
  | some w =>
    (match w.op with
     | .stack k => k == d
     | .a2a _ (x :: _) => x.1.any at1 || (x.1.isNone && at1 x.2.1)
     | _ => false)
  | none => false

/-- A partition has a request for a stack: a task's store or read on its way, or one that waits for its wheel, also of a COLL without a core. -/
def wantsStack (s : State) (d part : Nat) : Bool :=
  let at1 (p : Place) : Bool := match p with | .hbm a => a / 2 ^ 37 == d | _ => false
  (s.part part).collPend.any (fun x => x.stack == some d) ||
  s.cores.any (fun e => [e.2.bank0, e.2.bank1].any (fun b =>
    match b with
    | none => false
    | some t => t.part == part && [t.c, t.t, t.v, t.m].any (fun u =>
        waitsFor u d || u.stores.any (fun st => at1 st.place) || u.pend.any (fun p => p.loads.any (fun l => at1 l.place)))))

/-- A partition has a request for a wheel: at a digest unit a range to be read, at the fabric interface a flit or a packet that has yet to
depart. -/
def wantsWheel (s : State) (w part : Nat) : Bool :=
  let p := s.part part
  if w < 16 then wantsStack s w part
  else if w < 32 then p.launches.any (fun l => l.toRead.any (fun k => k % 16 == w - 16))
  else !p.collSends.isEmpty || (bits s.sorus.cfg.toNat 32 6 == part && s.sorus.gapSent.any (fun x => !x.gone)) || s.flits.any (fun f => f.copies != 0 && (Sparse.get TxWin.free s.tx f.win).part == part)

/-- How far a partition stands from the one served last at the wheel's free positions, which comes last (R321). -/
def turnAt (s : State) (w part : Nat) : Nat := (part + 64 - Sparse.get 0 s.lastServed w) % 64

/-- A request of a partition is served at a wheel on this cycle: at a position of its own where it owns any, else at a free one
that has served none yet, in its turn among the partitions that share it (R320, R321). -/
def wheelOpen (s : State) (w part : Nat) : Bool :=
  if ownsWheel s w part then ownedBy (wheelAt s w (s.mcc % 64)) part
  else positionFree s w && Sparse.get 0 s.servedAt w != s.mcc + 1
    && !s.parts.any (fun e => e.2.present && e.1 != part && !ownsWheel s w e.1 && turnAt s w e.1 < turnAt s w part && wantsWheel s w e.1)

/-- A free position has served a partition. -/
def serveWheel (s : State) (w part : Nat) : State :=
  if ownsWheel s w part then s
  else { s with lastServed := Sparse.set 0 w (part + 1) s.lastServed, servedAt := Sparse.set 0 w (s.mcc + 1) s.servedAt }

/-- The bank and the row of a granule of a scratchpad (R123). -/
def bankOfOff (off : Nat) : Nat := off / 16 % 512
def rowOfOff (off : Nat) : Nat := off / 8192

/-- Its bank serves one granule on a cycle: two accesses conflict where they name one bank and two rows (R123, R124). -/
def bankOpen (s : State) (core off : Nat) : Bool :=
  !s.served.any (fun x => x.core == core && x.bank == bankOfOff off && x.row != rowOfOff off)

/-- The place of sequencer `q` of a core among the requests that reach a bank of core `c` on one cycle (R124); the scatter-accumulate engine's updates
are stores of T. -/
def bankPlace (c core : Nat) (q : SeqId) : Nat :=
  if core != c then 5 else match q with | .m => 1 | .v => 2 | .t => 3 | .c => 6

/-- A sequencer has an access on its way that a bank of core `c` may serve now, in another row than `off`: a read that waits for its data, or a
committed store. -/
def asksBank (s : State) (u : Seq) (c off : Nat) : Bool :=
  let here (p : Place) : Bool := match p with | .spad k o => k == c && bankOfOff o == bankOfOff off && rowOfOff o != rowOfOff off | _ => false
  u.pend.any (fun p => (if p.ordered then p.loads.take 1 else p.loads).any (fun l => here l.place))
    || u.stores.any (fun st => st.since + st.lat ≤ s.mcc && here st.place)

/-- A request that goes before one of sequencer `q` of a core waits for its bank in core `c` (R124). -/
def bankAsked (s : State) (core : Nat) (q : SeqId) (c off : Nat) : Bool :=
  s.cores.any (fun e => (e.1 == c || !s.ports.contains e.1) && (match e.2.task? e.2.bank with
    | some t => [SeqId.c, .t, .v, .m].any (fun r => bankPlace c e.1 r < bankPlace c core q && asksBank s (t.seq r) c off)
    | none => false))

/-- Nothing keeps an access of a sequencer waiting: its bank (R124), its cluster port (R125), the wheel of its stack. -/
def portOpen (s : State) (core part : Nat) (q : SeqId) (p : Place) : Bool :=
  match p with
  | .spad c off => bankOpen s c off && !bankAsked s core q c off && (c == core || !s.ports.contains core)
  | .hbm a => wheelOpen s (a / 2 ^ 37) part
  | .tx _ => true

/-- An access of a partition has been served. -/
def served (s : State) (part : Nat) (p : Place) : State :=
  match p with
  | .hbm a => serveWheel s (a / 2 ^ 37) part
  | .spad c off =>
    let x : Served := { core := c, bank := bankOfOff off, row := rowOfOff off }
    if s.served.contains x then s else { s with served := s.served ++ [x] }
  | .tx _ => s

/-- A store of the part itself into physical memory (queues, rings, records). -/
def partStore (s : State) (a : Nat) (bs : List Byte) : State := performAt s (.hbm a) bs

/-- A number in physical memory, as the part reads it. -/
def partNat (s : State) (a n : Nat) : Nat := getNat s.hbm a n

end Sys2Proof.Machine
end

