-- ==== Sys2Proof/Machine/Ring.lean ====
section
/-! DEFINITION. The window entries, and the ring of the sorus: how a step opens, which record is written (R240 to R246). -/

namespace Sys2Proof.Machine

def State.txWin (s : State) (w : Nat) : TxWin := Sparse.get TxWin.free s.tx w
def State.setTx (s : State) (w : Nat) (x : TxWin) : State := { s with tx := Sparse.set TxWin.free w x s.tx }
def State.rxWin (s : State) (w : Nat) : RxWin := Sparse.get RxWin.free s.rx w
def State.setRx (s : State) (w : Nat) (x : RxWin) : State := { s with rx := Sparse.set RxWin.free w x s.rx }
def State.say (s : State) (m : Msg) : State := { s with out := s.out ++ [m] }

/-! ### Records (R240) -/

def recSeed (r : BitVec 256) : Nat := bits r.toNat 0 64
def recStep (r : BitVec 256) : Nat := bits r.toNat 64 32
def recOrigin (r : BitVec 256) : Nat := bits r.toNat 96 16
def recFlags (r : BitVec 256) : Nat := bits r.toNat 120 8
def recCount (r : BitVec 256) : Nat := bits r.toNat 192 32

/-- CHECK is the CRC-32 of bytes 0 to 27. -/
def recCheckOk (r : BitVec 256) : Bool := bits r.toNat 224 32 == (crc32 (leBytes 28 r.toNat)).toNat

/-- A record with its CHECK put in. -/
def sealRec (n : Nat) : BitVec 256 := BitVec.ofNat 256 (n % 2 ^ 224 + 2 ^ 224 * (crc32 (leBytes 28 n)).toNat)

/-- The agent's ABSENT spore for an origin, and its seal. -/
def absentRec (step origin sealer : Nat) : BitVec 256 := sealRec (step * 2 ^ 64 + origin * 2 ^ 96 + 2 ^ 120 + sealer * 2 ^ 192)
def sealOf (step sealer count : Nat) : BitVec 256 := sealRec (step * 2 ^ 64 + sealer * 2 ^ 96 + 2 * 2 ^ 120 + count * 2 ^ 192)

/-! ### The ring (R241, R242) -/

def sorOwner (s : State) : Nat := bits s.sorus.cfg.toNat 32 6
def sorEn (s : State) : Bool := s.sorus.cfg.getLsbD 31
def ringWin (s : State) : Nat := bits s.sorus.cfg.toNat 10 10

/-- The receive window that is the ring (log 12). -/
def isRing (s : State) (rx : Nat) : Bool :=
  let r := s.rxWin rx
  rx == ringWin s && r.state != 0 && r.part == sorOwner s && r.size == 2 ^ 27 && !r.lbase.getLsbD 63

def ringBase (s : State) : Option Nat := if isRing s (ringWin s) then some (s.rxWin (ringWin s)).lbase.toNat else none

def slotOff (step origin : Nat) : Nat := (step % 4096 * 512 + origin) * 32
def sealOff (step : Nat) : Nat := 0x4000000 + step % 4096 * 32

/-- The record in the ring at an offset. -/
def ringRec (s : State) (off : Nat) : BitVec 256 :=
  match ringBase s with
  | some b => BitVec.ofNat 256 (partNat s (b + off) 32)
  | none => 0

/-- A record of the ring is written. Its two granules are events of their own (R293), which the model makes at once (DESIGN CHOICE, log 6). -/
def ringWrite (s : State) (off : Nat) (r : BitVec 256) : State :=
  match ringBase s with
  | some b => partStore s (b + off) (leBytes 32 r.toNat)
  | none => s

/-! ### Steps (R244) -/

def Sorus.lastPlus1 (x : Sorus) : Nat := (x.last + 1).toNat

/-- The step that has the row of `n`. -/
def Sorus.row? (x : Sorus) (n : Nat) : Option SorStep := x.steps.find? (fun t => t.step % 4096 == n % 4096)
/-- Step `n` while it is retained. -/
def Sorus.step? (x : Sorus) (n : Nat) : Option SorStep := x.steps.find? (fun t => t.step == n)

/-- No longer in the log, or never in it. -/
def Sorus.gone (x : Sorus) (n : Nat) : Bool :=
  n < x.first.toNat || (match x.row? n with | some t => n < t.step | none => false)

/-- Open, or one that may open. -/
def Sorus.openable (x : Sorus) (n : Nat) : Bool := !x.gone n && n < x.lastPlus1 + 64

def Sorus.mapStep (x : Sorus) (n : Nat) (f : SorStep → SorStep) : Sorus :=
  { x with steps := x.steps.map (fun t => if t.step == n then f t else t) }

/-- The modules of a mask, ascending. -/
def members (m : BitVec 512) : List Nat := (upTo 512 id).filter (fun i => m.getLsbD i)

/-- An origin stands ABSENT in a step of the ring. -/
def isAbsent (s : State) (step o : Nat) : Bool := recFlags (ringRec s (slotOff step o)) == 1

/-- The sealer of an open step, where it is known (R244). -/
def findSealer (s : State) (t : SorStep) : Option Nat :=
  let x := s.sorus
  let ms := members t.mem
  match t.sealer with
  | some m => some m
  | none =>
    if t.step = x.first.toNat || x.gone (t.step - 1) then ms.head?
    else match x.step? (t.step - 1) with
      | some p =>
        if p.complete then
          (match ms.find? (fun m => !(p.mem.getLsbD m && isAbsent s p.step m)) with
           | some m => some m
           | none => ms.head?)
        else none
      | none => none

/-- Complete: the seal is written and every member holds a slot (R245). -/
def stepFull (s : State) (t : SorStep) : Bool :=
  ringRec s (sealOff t.step) != 0 && (members t.mem).all (fun m => ringRec s (slotOff t.step m) != 0)

def bad (s : State) : State := { s with sorus := { s.sorus with bad := s.sorus.bad + 1 } }

/-- The table of R245 for a record whose first row holds, in an open step. -/
def ringTable (s : State) (t : SorStep) (sealer : Option Nat) (off : Nat) (r : BitVec 256) : State :=
  let old := ringRec s off
  if recFlags r = 0 then
    (if old = 0 then ringWrite s off r else if old = r then s else bad s)
  else if recFlags r = 1 then
    (match sealer with
     | none => { s with sorus := s.sorus.mapStep t.step (fun t => { t with held := t.held ++ [(off, r, 0)] }) }
     | some m =>
       if recCount r != m then bad s
       else if old = r then s
       else if recFlags old = 1 then bad s else ringWrite s off r)
  else
    (match sealer with
     | none => { s with sorus := s.sorus.mapStep t.step (fun t => { t with held := t.held ++ [(off, r, 0)] }) }
     | some m => if recOrigin r != m then bad s else ringWrite s off r)

/-- One open step: its sealer, the records that waited for it, and whether it is complete now. -/
def reviewStep (s : State) (n : Nat) : State :=
  match s.sorus.step? n with
  | none => s
  | some t =>
    let m := findSealer s t
    let s := { s with sorus := s.sorus.mapStep n (fun t => { t with sealer := m, held := if m.isSome then [] else t.held }) }
    let s := if m.isSome then t.held.foldl (fun s h => ringTable s t m h.1 h.2.1) s else s
    { s with sorus := s.sorus.mapStep n (fun t => { t with complete := t.complete || stepFull s t }) }

/-- Every open step, as often as one completion can lead to the next. -/
def review : Nat → State → State
  | 0, s => s
  | n + 1, s =>
    let t := s.sorus.steps.foldl (fun s t => reviewStep s t.step) s
    if t.sorus = s.sorus then t else review n t

def reviewAll (s : State) : State := review (s.sorus.steps.length + 1) s

/-- A line lies in a range whole. -/
def lineIn (a n line : Nat) : Bool := a ≤ line * 64 && line * 64 + 64 ≤ a + n

/-- The lines that a range holds whole are written over: they lose their poison and their errors (R93). -/
def cleanLines (s : State) (a n : Nat) : State :=
  { s with poison := s.poison.filter (fun e => !lineIn a n e.1), errs := s.errs.filter (fun e => !lineIn a n e.1) }

/-- A range of HBM set to 0. -/
def clearHbm (s : State) (a n : Nat) : State := cleanLines { s with hbm := clearBytes s.hbm a n } a n

/-- The membership in force for a step (R243): MEM from step EFF on; below it the one that was in force last from a step at or before it. -/
def Sorus.memFor (x : Sorus) (n : Nat) : BitVec 512 :=
  if x.eff.toNat ≤ n then x.mem else (((x.memOld.filter (fun e => e.1 ≤ n)).getLast?).map (·.2)).getD 0

/-- MEM as it stands is in force from step EFF on, as after every write of either (log 70). -/
def Sorus.inForce (x : Sorus) : Sorus := { x with memOld := (x.memOld.filter (fun e => e.1 < x.eff.toNat)) ++ [(x.eff.toNat, x.mem)] }

/-- Step `n` opens: its row and its seal are cleared, and the row is taken from the step that had it (R243, R244). -/
def openStep (s : State) (n : Nat) : State :=
  let x := s.sorus
  if (x.step? n).isSome then s
  else
    let t : SorStep :=
      { step := n, openGt := s.gt, mem := x.memFor n, sealer := none, complete := false, sealSent := false,
        asked := [], recoverGt := 0, recovering := false, notRet := false, held := [] }
    let x := { x with steps := x.steps.filter (fun t => t.step % 4096 != n % 4096) ++ [t],
                      spored := x.spored.filter (fun k => k % 4096 != n % 4096 || k == n) }
    let s := { s with sorus := x }
    match ringBase s with
    | none => s
    | some b => clearHbm (clearHbm s (b + n % 4096 * 16384) 16384) (b + sealOff n) 32

/-- A record reaches the ring at `off` (R245). `direct` is the module whose flit brought it. -/
def ringArrive (s : State) (off : Nat) (r : BitVec 256) (direct : Option Nat) : State :=
  let x := s.sorus
  let n := recStep r
  let o := recOrigin r
  let fl := recFlags r
  let place : Bool := if fl = 2 then off == sealOff n else o < 512 && off == slotOff n o
  if !sorEn s || (ringBase s).isNone || !recCheckOk r || 2 < fl || !place || !x.openable n
      || (fl = 0 && (match direct with | some m => m != o | none => false)) then bad s
  else
    let s := openStep s n
    match s.sorus.step? n with
    | none => bad s
    | some t =>
      if fl != 2 && !t.mem.getLsbD o then bad s
      else reviewAll (ringTable s t (findSealer s t) off r)

/-- A flit that is written into the ring: each 32 bytes that it touches are one record; what is no whole record is discarded. -/
def ringFlit (s : State) (off : Nat) (mask : BitVec 64) (data : BitVec 512) (sender : Nat) : State :=
  [0, 1].foldl (fun s k =>
    let m := mask.extractLsb' (32 * k) 32
    if m = 0 then s
    else if m = BitVec.allOnes 32 then ringArrive s (off + 32 * k) (data.extractLsb' (256 * k) 256) (some sender)
    else bad s) s

end Sys2Proof.Machine
end

