-- ==== Sys2Proof/Machine/Flit.lean ====
section
/-! DEFINITION. Reflected stores: how a store joins or opens a flit, and how copies of a flit depart (R223 to R227, R231). -/

namespace Sys2Proof.Machine

/-! ### The torus and its slots (R232, R233, R320) -/

/-- The ring size of axis 0 to 2, and a module's place on it. -/
def ringSize (s : State) (axis : Nat) : Nat := bits s.domshape.toNat (4 * axis) 4
def placeOn (m axis : Nat) : Nat := bits m (3 * axis) 3

/-- A module of the domain (R219 code 3). -/
def inDomain (s : State) (m : Nat) : Bool := m < 512 && [0, 1, 2].all (fun a => placeOn m a < ringSize s a)

/-- The direction of the first hop to a module (R233): the lower of its two ports. -/
def firstHop (s : State) (m : Nat) : Option Nat :=
  ([0, 1, 2].find? (fun a => placeOn m a != placeOn s.modNum a)).map (fun a =>
    let n := ringSize s a
    let d := (placeOn m a + n - placeOn s.modNum a) % n
    4 * a + (if 2 * d ≤ n then 0 else 2))

/-- A port is ready (R355), and so is one of a direction. -/
def portReady (s : State) (port : Nat) : Bool := s.ready.getLsbD (6 + port)
def hopReady (s : State) (port : Nat) : Bool := portReady s port || portReady s (port + 1)

/-- A slot set belongs to another partition (R320). -/
def slotsetForeign (s : State) (part set : Nat) : Bool :=
  let b := Sparse.get 0 s.slotOwner set
  b.getLsbD 7 && (b.extractLsb' 0 6).toNat != part

/-- A slot set holds a slot on a port, and so on either port of a direction (R224). -/
def slotAt (s : State) (set port : Nat) : Bool :=
  (upTo 4 id).any (fun j => Sparse.get (0 : Word) s.slotMask ((set * 12 + port) * 4 + j) != 0)
def slotOn (s : State) (set port : Nat) : Bool := slotAt s set port || slotAt s set (port + 1)

/-- The longest wait, in slots, to the next slot of a set on either port of a direction (R360): the largest gap between its slots of the frame, which
has no fixed phase; 0 where it holds none. -/
def slotGap (s : State) (set port : Nat) : Nat :=
  let mask (p : Nat) : Nat := ((upTo 4 id).map (fun j => (Sparse.get (0 : Word) s.slotMask ((set * 12 + p) * 4 + j)).toNat * 2 ^ (64 * j))).sum
  let m := mask port ||| mask (port + 1)
  ((upTo 512 id).foldl (fun (r : Nat × Nat) k => if m.testBit (k % 256) then (1, max r.2 r.1) else (r.1 + 1, r.2)) (1, 0)).2

/-- Slots of 0.64 ns as cycles of 940 MHz (R87, R360). -/
def slotCycles (n : Nat) : Nat := (n * 6016 + 9999) / 10000

/-- The ports by which a flit of a slot set may leave for a module: those of its direction with a slot (R224, R233). -/
def exitPorts (s : State) (set m : Nat) : List Nat :=
  match firstHop s m with
  | some p => [p, p + 1].filter (slotAt s set)
  | none => []

/-- The port by which an acknowledgement leaves: it travels beside the flits, without a slot (R233, R234). -/
def ackPort (s : State) (m : Nat) : Nat :=
  match firstHop s m with
  | some p => if portReady s p then p else p + 1
  | none => 0

def sayAck (s : State) (m : Nat) (ok : Bool) : State := s.say (.ack (ackPort s m) m ok)

/-! ### Landing, granule by granule (R226, R227) -/

/-- Where byte `k` of a block at `off` of a receive window lies (R217). -/
def rxPlace (w : RxWin) (off k : Nat) : Place :=
  if w.lbase.getLsbD 63 then .spad (w.lbase.extractLsb' 48 9).toNat ((w.lbase.extractLsb' 0 23).toNat + off + k)
  else .hbm (w.lbase.toNat + off + k)

/-- The masked bytes of one granule of a block, as one event (R96). A block of 64 named bytes is a store of its whole line (R93). Where TARGET is no
multiple of 16 the granules of the sender are not those of this memory: R226 does not say how they divide, and each stays one event (DESIGN CHOICE,
log 84). -/
def landGranule (s : State) (base : Place) (mask : BitVec 64) (data : BitVec 512) (g : Nat) : State :=
  performNamed s (base.add (16 * g)) (upTo 16 (fun i =>
    let k := 16 * g + i
    if mask.getLsbD k then some (data.extractLsb' (8 * k) 8) else none)) (mask == BitVec.allOnes 64 && base.off % 64 == 0)

/-- A flit of `src` begins to land in a receive window: in the ring through the agent, which acknowledges it (R245), elsewhere
granule by granule in its order. -/
def landWindow (s : State) (src path rx off : Nat) (ack : Bool) (mask : BitVec 64) (data : BitVec 512) (order : List Nat) : State :=
  if isRing s rx then
    let s := ringFlit s off mask data src
    if ack then sayAck s src true else s
  else
    { s with landings := s.landings ++ [{ src := src, path := path, rx := rx, part := (s.rxWin rx).part, ack := ack, base := rxPlace (s.rxWin rx) off 0, mask := mask,
                                          data := data, order := order, coll := none }] }

/-- The number of a flit's path: its window and its core (R228). -/
def Flit.path (f : Flit) : Nat := 1024 * f.win + f.core

/-- Loop-back writes the same bytes into the module's own receive window at the TARGET index, where it is mapped (R227). -/
def loopBack (s : State) (f : Flit) : State :=
  let w := s.txWin f.win
  let off := w.rxOff + f.block * 64
  let r := s.rxWin w.rx
  if r.state = 1 && off + 64 ≤ r.size then landWindow s s.modNum f.path w.rx off false f.mask f.data f.order else s

/-! ### Stores into flits (R223 to R225) -/

/-- The bit of member position `i`. -/
def memberBit (i : Nat) : BitVec 64 := BitVec.ofNat 64 (2 ^ i)

/-- The positions in use of a window, as a mask. -/
def TxWin.mask (w : TxWin) : BitVec 64 := BitVec.ofNat 64 (2 ^ w.members.length - 1)

/-- The allowance in force: 0 while a recall holds it there (R225). -/
def TxWin.allowance (w : TxWin) : Nat := if w.recalled = 0 then w.allow else 0

/-- Flits of a window opened and not yet acknowledged (R225). -/
def State.txCount (s : State) (win : Nat) : Nat := (s.flits.filter (fun f => f.win == win)).length

/-- The mask of the 64-byte block, and its data, with bytes written at `off` (R224). -/
def blockMask (off n : Nat) : BitVec 64 := BitVec.ofNat 64 ((2 ^ n - 1) * 2 ^ off)
def blockData (d : BitVec 512) (off : Nat) (bs : List Byte) : BitVec 512 :=
  let n := bs.length
  (d &&& ~~~ (BitVec.ofNat 512 ((2 ^ (8 * n) - 1) * 2 ^ (8 * off)))) ||| BitVec.ofNat 512 (leNat bs * 2 ^ (8 * off))

/-- The granules of a block that the bytes touch, appended in the order of the first touch (R226). -/
def touch (order : List Nat) (off n : Nat) : List Nat :=
  (upTo 4 id).foldl (fun o g => if off / 16 ≤ g && g ≤ (off + n - 1) / 16 && !o.contains g then o ++ [g] else o) order

/-- What becomes of one reflected store. -/
inductive TxRes where
  | sent (s : State)
  | stall
  | deadPeer (m : Nat) (s : State)

/-- The flit holds a store of a bank of a core, and one of a sequencer there. -/
def Flit.ofBank (f : Flit) (core bank : Nat) : Bool := f.core == core && f.owners.any (fun o => o.bank == bank)
def Flit.ofSeq (f : Flit) (core bank : Nat) (q : SeqId) : Bool := f.core == core && f.owners.any (fun o => o.bank == bank && o.q == q)

/-- The flits that hold stores of an instruction and have not departed (R103). -/
def State.undeparted (s : State) (core bank : Nat) (q : SeqId) (id : Nat) : Bool :=
  s.flits.any (fun f => !f.departed && f.core == core && f.owners.any (fun o => o.bank == bank && o.q == q && o.id == id))

/-- Update of every flit that a predicate picks. -/
def State.mapFlits (s : State) (p : Flit → Bool) (g : Flit → Flit) : State :=
  { s with flits := s.flits.map (fun f => if p f then g f else f) }

/-- The stores of a bank in flits get another name: 2 more than the bank while their task is saved (R338), 4 once nothing waits for them any
more. -/
def State.moveFlits (s : State) (core bank dst : Nat) : State :=
  s.mapFlits (fun f => f.ofBank core bank) (fun f =>
    { f with owners := f.owners.map (fun o => if o.bank = bank then { o with bank := dst } else o) })

/-- The mask, data and granule order of a block after bytes at addresses from `lo` on. -/
def maskWith (lo : Nat) (m : BitVec 64) (ps : List (Nat × Byte)) : BitVec 64 := ps.foldl (fun m p => m ||| blockMask (p.1 - lo) 1) m
def dataWith (lo : Nat) (d : BitVec 512) (ps : List (Nat × Byte)) : BitVec 512 := ps.foldl (fun d p => blockData d (p.1 - lo) [p.2]) d
def orderWith (lo : Nat) (o : List Nat) (ps : List (Nat × Byte)) : List Nat := ps.foldl (fun o p => touch o (p.1 - lo) 1) o

/-- The dead member of a FAILTRAP window that stops a store, the first one after its death (R231): the lowest position. -/
def deadPeer (w : TxWin) : Option Nat :=
  if w.failtrap then ((upTo 64 id).find? (fun i => (w.dead &&& ~~~ w.trapped).getLsbD i)).map (fun i => w.members.getD i 0) else none

/-- The members dead now have stopped their store. -/
def markTrapped (s : State) (win : Nat) : State := s.setTx win { s.txWin win with trapped := (s.txWin win).dead }

/-- One reflected store of instruction `id` (R223 to R225), bytes of one 64-byte block by address: it joins the open flit
of its core and window, or opens one when the allowance has room. A dead member of a FAILTRAP window stops it (R231). -/
def txStore (s : State) (core bank : Nat) (q : SeqId) (id part addr : Nat) (ps : List (Nat × Byte)) : TxRes :=
  match findTx s part addr with
  | none => .stall
  | some win =>
    let w := s.txWin win
    let block := (addr - w.lbase) / 64
    let lo := w.lbase + 64 * block
    match deadPeer w with
    | some m => .deadPeer m (markTrapped s win)
    | none =>
      let head := match s.task? core bank with | some t => (t.seq q).head | none => 0
      let o : Owner := { bank := bank, q := q, id := id, pc := head, since := s.mcc }
      let mine (f : Flit) : Bool := f.isOpen && f.core == core && f.win == win
      if s.flits.any (fun f => mine f && f.block == block) then
        .sent (s.mapFlits mine (fun f =>
          { f with mask := maskWith lo f.mask ps, data := dataWith lo f.data ps, order := orderWith lo f.order ps,
                   owners := if f.owners.contains o then f.owners else f.owners ++ [o] }))
      else if s.txCount win ≥ w.allowance then .stall
      else
        let s := s.mapFlits mine (fun f => { f with isOpen := false })
        let live := w.mask &&& ~~~ w.dead
        let f : Flit :=
          { id := s.nextFlit, win := win, core := core, block := block, mask := maskWith lo 0 ps,
            data := dataWith lo 0 ps, order := orderWith lo [] ps, isOpen := live != 0, lost := w.dead, copies := live,
            departed := live == 0, departGt := s.gt, owners := [o] }
        let s := { s with flits := s.flits ++ [f], nextFlit := s.nextFlit + 1 }
        .sent (if live == 0 && w.loop == 2 then loopBack s f else s)

/-! ### Departure (R224, R225, R228, R233) -/

/-- The positions among the copies of a flit whose routes share their first hop with that of position `i`: their one copy is divided further on,
where the routes part (R229). -/
def sharedHop (s : State) (f : Flit) (i : Nat) : List Nat :=
  let w := s.txWin f.win
  (upTo w.members.length id).filter (fun j => f.copies.getLsbD j && firstHop s (w.members.getD j 0) == firstHop s (w.members.getD i 0))

/-- The copy of a flit for the members behind one first hop departs by a port; the last one makes the flit departed (R224, R229). -/
def departCopy (s : State) (fid i port : Nat) : State :=
  match s.flits.find? (fun f => f.id == fid && f.copies.getLsbD i) with
  | none => s
  | some f =>
    let w := s.txWin f.win
    let js := sharedHop s f i
    let left := js.foldl (fun m j => m &&& ~~~ (memberBit j)) f.copies
    let s := s.say (.flit port (js.map (fun j => (w.members.getD j 0, Sparse.get 0 w.epochs j))) w.rx (w.rxOff + f.block * 64) f.mask f.data f.order)
    let s := s.mapFlits (fun g => g.id == fid) (fun g =>
      { g with isOpen := false, copies := left, departed := left == 0, departGt := if left == 0 then s.gt else g.departGt })
    if left == 0 && w.loop == 2 then loopBack s f else s

/-- The flit is the oldest of its path whose copy for the position has yet to depart (R228). -/
def pathFirst (s : State) (f : Flit) (i : Nat) : Bool :=
  !s.flits.any (fun g => g.id < f.id && g.win == f.win && g.core == f.core && g.copies.getLsbD i)

/-- The ports by which the copy of a flit for a position may leave: ready ones, with a slot of the window's set, while no recall
holds the allowance at 0 (R225, R355). -/
def openPorts (s : State) (f : Flit) (i : Nat) : List Nat :=
  let w := s.txWin f.win
  if f.copies.getLsbD i && w.recalled == 0 && pathFirst s f i then (exitPorts s w.slotset (w.members.getD i 0)).filter (portReady s) else []

/-- Every copy of the flits that `p` picks departs, where it may, the oldest flit first: the wheel of the fabric interface must let the partition
inject (R320, R321). -/
def departAll (s : State) (p : Flit → Bool) : State :=
  (s.flits.filter p).foldl (fun s f => (upTo 64 id).foldl (fun s i =>
    let part := (s.txWin f.win).part
    match (s.flits.find? (fun g => g.id == f.id)).bind (fun g => (openPorts s g i).head?) with
    | some port => if wheelOpen s 32 part then departCopy (serveWheel s 32 part) f.id i port else s
    | none => s) s) s

/-- The flits with stores of a bank that cannot depart now. -/
def flitsStay (s : State) (core bank : Nat) : Bool :=
  (departAll s (fun f => f.ofBank core bank)).flits.any (fun f => !f.departed && f.ofBank core bank)

/-- The cycles by which the stores of a timed sequencer into windows must have departed, each with its instruction: the next slot of the slot set on
every first hop (R301, R360). -/
def flitDue (s : State) (core bank : Nat) (q : SeqId) : List (Nat × BitVec 48) :=
  (s.flits.filter (fun f => !f.departed && f.ofSeq core bank q)).flatMap (fun f =>
    let w := s.txWin f.win
    let gaps := (upTo w.members.length id).filterMap (fun j =>
      if f.copies.getLsbD j then (firstHop s (w.members.getD j 0)).map (slotGap s w.slotset) else none)
    let g := slotCycles (gaps.foldl max 0)
    (f.owners.filter (fun o => o.bank == bank && o.q == q)).map (fun o => (o.since + g, o.pc)))

end Sys2Proof.Machine
end

