-- ==== Sys2Proof/Machine/Peek.lean ====
section
/-! DEFINITION. What can be told of a sequencer before it issues: the parcels at its PC, and the cycle on which it is due (R28, R39, R91). -/

namespace Sys2Proof.Machine

/-- A sequencer is timed (R28). -/
def isTimed (t : Task) (u : Seq) : Bool := t.timed && u.timed

/-- A trap of sequencer `q` waits to be recorded (R328). -/
def lateHere (t : Task) (q : SeqId) : Bool := match t.late with | some r => r.seq == q.num | none => false

/-- One parcel at a task address, or its fault (R91, R362): of a granule that the sequencer has fetched, or as memory holds it. -/
def fetchParcel (s : State) (core : Nat) (q : SeqId) (t : Task) (a : Nat) : Except AccFault Parcel :=
  match checkAccess s core t Ranges.hbmOnly .fetch a 4 4 with
  | .ok p => .ok (BitVec.ofNat 32 (leNat (((t.seq q).earlyAt true p 4).getD (readPlace s p 4))))
  | .error f => .error f

/-- The cycle on which a timed sequencer is due, if it waits for one (R28, R39). -/
def nextDue (s : State) (core : Nat) (q : SeqId) (t : Task) : Option Nat :=
  let u := t.seq q
  match (match u.wait with | some w => (match w.op with | .align g _ => some g | _ => none) | none => none) with
  | some g => if t.timed then some ((s.part t.part).mcc0 + g.toNat) else none
  | none =>
  if t.timed && u.timed && u.stream == .running && u.wait.isNone then
    match u.prog with
    | some _ => some (u.lastIssue + 1)
    | none =>
      match fetchParcel s core q t u.pc.toNat with
      | .error _ => none
      | .ok h =>
        if q == .m && (hLen h).toNat == 3 && (hOpc h).toNat ≤ 0x08 then
          match fetchParcel s core q t (u.pc.toNat + 12) with
          | .ok p3 => some (u.alignAt + p3.toNat)
          | .error _ => none
        else some (u.lastIssue + (hSyn h).toNat + 1)
  else none

/-- A timed sequencer of a task has its cycle now and has not issued on it. -/
def dueNow (s : State) (core : Nat) (t : Task) (q : SeqId) : Bool :=
  isTimed t (t.seq q) && t.hold == .none && !lateHere t q && (nextDue s core q t).any (· ≤ s.mcc)

/-- A record of M or T of a timed task has its single issue on this cycle and goes before sequencer `q` of its core at the banks (R124). -/
def recordFirst (s : State) (core : Nat) (t : Task) (q : SeqId) : Bool :=
  t.timed && [SeqId.m, .t].any (fun r => bankPlace core core r < bankPlace core core q && (t.seq r).prog.isSome && dueNow s core t r)

/-- The cores of a partition (R13, R16). -/
def coresOf (first : Nat) (p : Partition) : List Nat := upTo (8 * 2 ^ p.size) (fun i => 8 * first + i)

/-- A timed sequencer of the partition that comes before sequencer `seq` of a core, a lower core first, then a lower sequencer id, has yet to issue
on this cycle (R328, R335). -/
def lowerDue (s : State) (part core seq : Nat) : Bool :=
  s.cores.any (fun e => e.1 ≤ core && (match e.2.task? e.2.bank with
    | some t => t.part == part && t.timed && [SeqId.c, .t, .v, .m].any (fun q => (e.1 < core || q.num < seq) && dueNow s e.1 t q)
    | none => false))

end Sys2Proof.Machine
end

