-- ==== Sys2Proof/Machine/Ops.lean ====
section
/-! DEFINITION. The named operations: tokens, completion of instructions, register writes at their ticks, the consistent
cut, taking an exception and resuming from one, the end of a task, and the issue of one instruction (R25 to R29). -/

namespace Sys2Proof.Machine

/-! ### Tokens (R26, R27, R334) -/

def tokKey (a b : Nat) : Nat := 4 * a + b
def bump (m : Sparse Nat) (k n : Nat) : Sparse Nat := Sparse.set 0 k (Sparse.get 0 m k + n) m
def drop1 (m : Sparse Nat) (k n : Nat) : Sparse Nat := Sparse.set 0 k (Sparse.get 0 m k - n) m

/-- What a body tells `issue`. `ok`: the effect is done or on its way. `wait`: the waiting phase goes on (stall kind of
R365; 8 for the intended waits of R262, which do not count). `trap`: precise trap. `halt` and `software`: after the instruction.
`more`: a single issue that has operands left to read (R293). `after`: what an instruction does once it is complete. -/
inductive Res where
  | ok (s : State)
  | wait (kind : Nat) (op : OpProg) (addr sent : Nat) (s : State)
  | trap (c : Cause) (faddr flags : Nat) (s : State)
  | halt (s : State)
  | software (code : Nat) (s : State)
  | more (s : State)
  | after (s : State) (act : State → State)
  | stop (f : Fault)

/-- The queues that a mask names. -/
def ids (m : BitVec 4) : List Nat := [0, 1, 2, 3].filter (fun i => m.getLsbD i)

def waitMask (y : Syn) : BitVec 4 := y.extractLsb' 4 4
def sigMask (y : Syn) : BitVec 4 := y.extractLsb' 0 4
def maskOf (l : List Nat) : BitVec 4 := BitVec.ofNat 4 ((l.map (fun i => 2 ^ i)).sum)

/-- V in replay mode has a credit for queue `a` (R334). -/
def hasCredit (t : Task) (q : SeqId) (a : Nat) : Bool := q == .v && t.replay && Sparse.get 0 t.credit a != 0
def isMuted (t : Task) (q : SeqId) (b : Nat) : Bool := q == .v && t.replay && Sparse.get 0 t.mute b != 0

/-- Every queue of the wait mask holds a token, or V has a credit for it. -/
def tokensReady (t : Task) (q : SeqId) (m : BitVec 4) : Bool :=
  (ids m).all (fun a => hasCredit t q a || Sparse.get 0 t.tok (tokKey a q.num) ≥ 1)

/-- Room for `n` more signals to queue (q, b) (R27); a signal to V waits behind the tokens owed to that queue (R334). -/
def roomFor (t : Task) (q : SeqId) (b n : Nat) : Bool :=
  let k := tokKey q.num b
  Sparse.get 0 t.tok k + Sparse.get 0 t.resv k + Sparse.get 0 t.psig k + n ≤ Config.maxTokens
    && (b != 2 || Sparse.get 0 t.owed q.num == 0)

def roomReady (t : Task) (q : SeqId) (m : BitVec 4) : Bool := (ids m).all (fun b => isMuted t q b || roomFor t q b 1)

/-- The tokens are taken in one tick and stay reserved; room is kept for the signals (R26, R27). -/
def takeTokens (t : Task) (q : SeqId) (y : Syn) (id : Nat) : Task × Wait :=
  let ws := ids (waitMask y)
  let cred := ws.filter (hasCredit t q)
  let took := ws.filter (fun a => !hasCredit t q a)
  let ss := ids (sigMask y)
  let supp := ss.filter (isMuted t q)
  let sig := ss.filter (fun b => !isMuted t q b)
  let t := took.foldl (fun t a => { t with tok := drop1 t.tok (tokKey a q.num) 1, resv := bump t.resv (tokKey a q.num) 1 }) t
  let t := if q == .v then took.foldl (fun t a => { t with taken := bump t.taken a 1 }) t else t
  let t := cred.foldl (fun t a => { t with credit := drop1 t.credit a 1, taken := bump t.taken a 1 }) t
  let t := sig.foldl (fun t b => { t with psig := bump t.psig (tokKey q.num b) 1 }) t
  let t := supp.foldl (fun t b => { t with mute := drop1 t.mute b 1, sent := bump t.sent b 1 }) t
  (t, { kind := 0, since := 0, sinceGt := 0, issued := true, id := id, took := maskOf took, cred := maskOf cred,
        sig := maskOf sig, supp := maskOf supp, sent := 0, op := .none, addr := 0, ticks := 0 })

/-- The tokens go back to their queues and their reservation ends (R27). -/
def returnTokens (t : Task) (q : SeqId) (w : Wait) : Task :=
  let t := (ids w.took).foldl (fun t a => { t with tok := bump t.tok (tokKey a q.num) 1, resv := drop1 t.resv (tokKey a q.num) 1 }) t
  let t := if q == .v then (ids w.took).foldl (fun t a => { t with taken := drop1 t.taken a 1 }) t else t
  let t := (ids w.cred).foldl (fun t a => { t with credit := bump t.credit a 1, taken := drop1 t.taken a 1 }) t
  let t := (ids w.sig).foldl (fun t b => { t with psig := drop1 t.psig (tokKey q.num b) 1 }) t
  (ids w.supp).foldl (fun t b => { t with mute := bump t.mute b 1, sent := drop1 t.sent b 1 }) t

/-- The reservation of taken tokens ends. -/
def endResv (t : Task) (q : SeqId) (m : BitVec 4) : Task :=
  (ids m).foldl (fun t a => { t with resv := drop1 t.resv (tokKey a q.num) 1 }) t

/-- Completion: the reservation ends and one token goes to each queue signalled (R26). V counts what its region sent. -/
def finishFlight (t : Task) (q : SeqId) (f : Flight) : Task :=
  let t := endResv t q f.took
  (ids f.sig).foldl (fun t b =>
    let t := { t with psig := drop1 t.psig (tokKey q.num b) 1, tok := bump t.tok (tokKey q.num b) 1 }
    if q == .v && f.region == t.v.regionNo then { t with sent := bump t.sent b 1 } else t) t

/-- The reservation and the room of a discarded instruction end; nothing is sent (R333). -/
def dropFlight (t : Task) (q : SeqId) (f : Flight) : Task :=
  let t := endResv t q f.took
  (ids f.sig).foldl (fun t b => { t with psig := drop1 t.psig (tokKey q.num b) 1 }) t

/-- Credits left over return to their queue as room allows (R334). -/
def returnOwed (t : Task) : Task :=
  [0, 1, 3].foldl (fun t a =>
    let k := tokKey a 2
    let used := Sparse.get 0 t.tok k + Sparse.get 0 t.resv k + Sparse.get 0 t.psig k
    let n := min (Sparse.get 0 t.owed a) (Config.maxTokens - used)
    if n = 0 then t else { t with tok := bump t.tok k n, owed := drop1 t.owed a n }) t

/-! ### Results at their ticks (R29, R139, R140, R363) -/

/-- The 2,048 bits of the byte lanes in a mask. -/
def laneBits (m : BitVec 256) : BitVec 2048 :=
  BitVec.ofNat 2048 ((upTo 256 id).foldr (fun i a => a * 256 + (if m.getLsbD i then 255 else 0)) 0)

/-- VCSR after a write of its RW fields: RMODE 0b11 leaves the field (R132). -/
def vcsrWrite (old v : Word) : Word :=
  let m : Word := 0xFFFF000000007B1F#64
  let v := if v.extractLsb' 8 2 == 3 then (v &&& ~~~ 0x300#64) ||| (old &&& 0x300#64) else v
  v &&& m

/-- Words in error that a write replaces are gone (R344): every word of a vector register whose bytes it names, a half of a word of the
constant bank. -/
def healed (t : Task) (gone : BadWord → Bool) : Task := if t.bad.isEmpty then t else { t with bad := t.bad.filter (fun w => !gone w) }
def healsV (r : Nat) (m : BitVec 256) (w : BadWord) : Bool :=
  match w with
  | .v p j => p == r && m.extractLsb' (8 * j) 8 == 0xFF
  | _ => false

/-- `n` entries of a queue have been taken from its head: its words in error among them are gone, and the others count from the new head. -/
def dequeued (t : Task) (e n : Nat) : Task :=
  if t.bad.isEmpty then t
  else
    { t with bad := t.bad.filterMap (fun w =>
        match w with
        | .pq f i => if f = e then (if i < n then none else some (.pq f (i - n))) else some w
        | .fq i => if e = 4 then (if i < n then none else some (.fq (i - n))) else some w
        | w => some w) }

/-- A bit map with one of its eight granules replaced (R116). -/
def putGranule (m : BitVec 1024) (g : Nat) (img : BitVec 128) : BitVec 1024 :=
  (m &&& ~~~ (BitVec.ofNat 1024 ((2 ^ 128 - 1) * 2 ^ (128 * g)))) ||| BitVec.ofNat 1024 (img.toNat * 2 ^ (128 * g))

/-- One register write takes effect. -/
def applyWrite (q : SeqId) (t : Task) (w : Write) : Task :=
  match w with
  | .v r m val =>
    let lb := laneBits m
    let t := healed t (healsV r m)
    { t with vreg := Sparse.set 0 r ((Sparse.get 0 t.vreg r &&& ~~~ lb) ||| (val &&& lb)) t.vreg }
  | .p r m val => if r = 0 then t else { t with preg := Sparse.set 0 r ((Sparse.get 0 t.preg r &&& ~~~ m) ||| (val &&& m)) t.preg }
  | .k i val =>
    let t := healed t (· == .k i)
    { t with kreg := Sparse.set 0 i val t.kreg }
  | .x r val => t.setSeq q ((t.seq q).setReg r val)
  | .xinc r => t.setSeq q ((t.seq q).setReg r ((t.seq q).reg r + 1))
  | .vl val => { t with vl := val.setWidth 64 }
  | .vcsr val => { t with vcsr := vcsrWrite t.vcsr val }
  | .vrb val => { t with vrb := val }
  | .bm n g img => { t with bm := Sparse.set 0 n (putGranule (Sparse.get 0 t.bm n) g img) t.bm }

/-- The writes of one tick in issue order, then the flags of that tick (R140). -/
def applyTick (q : SeqId) (t : Task) (ps : List Pend) : Task :=
  let t := ps.foldl (fun t p => p.writes.foldl (applyWrite q) t) t
  { t with vcsr := ps.foldl (fun v p => v ||| p.flags.setWidth 64) t.vcsr }

/-- Every result of the list, tick by tick. -/
def applyAll (q : SeqId) : Nat → Task → List Pend → Task
  | 0, t, _ => t
  | n + 1, t, ps =>
    match ps with
    | [] => t
    | p :: _ =>
      let d := ps.foldl (fun d x => min d x.due) p.due
      applyAll q n (applyTick q t (ps.filter (fun x => x.due == d))) (ps.filter (fun x => x.due != d))

/-- The bytes of a load of C, extended (R268). -/
def extendLoad (n : Nat) (sgn : Bool) (bs : List Byte) : Word :=
  let v := leNat bs
  BitVec.ofInt 64 (if sgn then sbits v 0 (8 * n) else v)

/-- Where the data of a piece goes once it has been read. -/
def pieceWrites (pc : LoadPiece) (bs : List Byte) : List Write :=
  match pc.dest with
  | .k i => upTo (pc.len / 4) (fun j => .k (i + j) (BitVec.ofNat 32 (leNat ((bs.drop (4 * j)).take 4))))
  | .s r sgn => [.x r (extendLoad pc.len sgn bs)]
  | .bm n g => [.bm n g (BitVec.ofNat 128 (leNat bs))]
  | .v r lane mask => [.v r mask (BitVec.ofNat 2048 (leNat bs * 2 ^ (8 * lane)))]

/-- The result on its way that a load names: its id, and the tick at which it is due. -/
def Pend.isAt (p : Pend) (l : LoadAt) : Bool := p.id == l.id && p.due == l.due
def Pend.at (p : Pend) (k : Nat) : LoadAt := { id := p.id, due := p.due, piece := k }

/-- A piece of a load is read, after the sequencer's own earlier stores to its granule (R124, R159, R293). -/
def readPiece (s : State) (core bank : Nat) (q : SeqId) (x : LoadAt) : State :=
  match s.task? core bank with
  | none => s
  | some t =>
    match ((t.seq q).pend.find? (fun p => p.isAt x)).bind (fun p => p.loads[x.piece]?) with
    | none => s
    | some l =>
      let s := served (drainAt s core bank q x.id l.place l.len) t.part l.place
      let ws := pieceWrites l (readPlace s l.place l.len)
      match s.task? core bank with
      | none => s
      | some t =>
        let u := t.seq q
        s.setTask core bank (some (t.setSeq q { u with pend := u.pend.map (fun p =>
          if p.isAt x then { p with writes := p.writes ++ ws, loads := p.loads.eraseIdx x.piece } else p) }))

/-- Every piece of the loads that `p` picks is read, in their order. -/
def readAll (s : State) (core bank : Nat) (q : SeqId) (p : Pend → Bool) : State :=
  match s.task? core bank with
  | none => s
  | some t => ((t.seq q).pend.filter p).foldl (fun s x => x.loads.foldl (fun s _ => readPiece s core bank q (x.at 0)) s) s

/-- The results whose tick is `T` or earlier are written before an issue at tick `T`; none while one of them still waits
for its data (R29, R124). -/
def dueWrites (t : Task) (q : SeqId) (T : Nat) : Option Task :=
  let u := t.seq q
  let due := u.pend.filter (fun p => p.due ≤ T)
  if due.any (fun p => !p.loads.isEmpty) then none
  else some (applyAll q due.length (t.setSeq q { u with pend := u.pend.filter (fun p => T < p.due) }) due)

/-! ### Completion (R26, R296) -/

/-- Nothing of instruction `id` is outstanding. -/
def complete (s : State) (core bank : Nat) (q : SeqId) (u : Seq) (id : Nat) : Bool :=
  !(q == .c && ((s.task? core bank).getD Task.reset).trapId == some id) &&
  !u.pend.any (fun p => p.id == id && !p.produced) && !u.stores.any (fun st => st.id == id)
    && !s.undeparted core bank q id && (match u.prog with
      | some p => p.id != id && (p.began || p.id != id + 1)
      | none => true)

/-- The flights whose tokens go now: on C each complete one, on an engine the complete ones at the head (R296). -/
def readyFlights (s : State) (core bank : Nat) (q : SeqId) (u : Seq) : List Flight :=
  if q == .c then u.flights.filter (fun f => complete s core bank q u f.id)
  else u.flights.takeWhile (fun f => complete s core bank q u f.id)

/-- Completed instructions end the reservation of the tokens they took (R27), and send their own as R296 lets them. -/
def settle (s : State) (core bank : Nat) (q : SeqId) : State :=
  match s.task? core bank with
  | none => s
  | some t =>
    let u := t.seq q
    let fs := readyFlights s core bank q u
    let rest := u.flights.filter (fun f => !fs.contains f)
    let done (f : Flight) : Bool := complete s core bank q u f.id
    let t := t.setSeq q { u with flights := rest.map (fun f => if done f then { f with took := 0 } else f) }
    let t := (rest.filter done).foldl (fun t f => endResv t q f.took) t
    s.setTask core bank (some (returnOwed (fs.foldl (fun t f => finishFlight t q f) t)))

/-- All four sequencers of a task. -/
def settleAll (s : State) (core bank : Nat) : State :=
  [SeqId.c, .t, .v, .m].foldl (fun s q => settle s core bank q) s

/-! ### Stores and loads of a sequencer in time -/

/-- A load on its way reads in the same granules as `n` bytes at a place. -/
def loadNear (p : Pend) (pl : Place) (n : Nat) : Bool := p.loads.any (fun l => sameGranule l.place l.len pl n)

/-- The `lat` cycles after a store's issue have passed. -/
def committed (s : State) (st : PStore) : Bool := st.since + st.lat ≤ s.mcc

/-- An access that has issued finds its bank or port; the wheel counts at its issue where the sequencer is timed (R122, R301). -/
def portLate (s : State) (core : Nat) (t : Task) (q : SeqId) (p : Place) : Bool :=
  portOpen s core t.part q p || (isTimed t (t.seq q) && (match p with | .hbm _ => true | _ => false))

/-- Store `n` of a sequencer may be performed: it has committed, no earlier store that it waits for is outstanding, and no earlier load in
its granule (R294, R295 E1), and nothing keeps it waiting at its destination. -/
def storeReady (s : State) (core : Nat) (t : Task) (q : SeqId) (n : Nat) : Bool :=
  let u := t.seq q
  match u.stores[n]? with
  | none => false
  | some st => committed s st && !(u.stores.take n).any (fun o => storeAfter o st)
      && !u.pend.any (fun p => p.id < st.id && loadNear p st.place st.bytes.length) && portLate s core t q st.place

/-- A read of `n` bytes, of instruction `id` of a sequencer with the loads `before` still to be read, keeps E1 of R295: none of those waits in its
granules, its own earlier stores there have committed, and none of them waits for a load in its own granule. -/
def readClear (s : State) (u : Seq) (before : List Pend) (id : Nat) (pl : Place) (n : Nat) : Bool :=
  !before.any (fun o => loadNear o pl n)
    && (splitStores pl n (u.stores.filter (fun st => st.id < id))).1.all (fun st =>
      committed s st && !before.any (fun p => p.id < st.id && loadNear p st.place st.bytes.length))

/-- A piece of a load may be read: it is the next one of a load whose pieces go in order, it keeps E1, and nothing keeps it waiting. -/
def loadReady (s : State) (core : Nat) (t : Task) (q : SeqId) (x : LoadAt) : Bool :=
  let u := t.seq q
  match u.pend.find? (fun p => p.isAt x) with
  | none => false
  | some p =>
    match p.loads[x.piece]? with
    | none => false
    | some l => (!p.ordered || x.piece == 0) && readClear s u (u.pend.takeWhile (fun p => !p.isAt x)) x.id l.place l.len && portLate s core t q l.place

/-- After how many cycles a store commits: V's after 2 (R139, R158), C's into the own scratchpad too (R26). -/
def storeLat (core : Nat) (q : SeqId) (p : Place) : Nat :=
  match q, p with
  | .v, _ => Config.ownStore
  | .c, .spad c _ => if c = core then Config.ownStore else 0
  | _, _ => 0

/-- A store of the executing sequencer joins its queue (R103, R159, R263). -/
def queueChained (s : State) (id : Nat) (p : Place) (bs : List (Option Byte)) (upd : Option ScUpdate) (chain : Nat) (whole : Bool) : State :=
  let u := s.me.dropEarly p bs.length
  s.setMe { u with stores := u.stores ++ [{ id := id, place := p, bytes := bs, upd := upd, since := s.mcc,
                                            lat := storeLat s.cur.core s.cur.q p, pc := u.head, chain := chain, whole := whole }] }

def queueStore (s : State) (id : Nat) (p : Place) (bs : List (Option Byte)) : State := queueChained s id p bs none 0 false

/-- A store of one of the granules of a line of HBM, all of whose 64 bytes the stores of one instruction name, granule by granule (R93). -/
def wholeLine (us : List (Place × List (Option Byte))) (u : Place × List (Option Byte)) : Bool :=
  match u.1 with
  | .hbm a => (upTo 4 id).all (fun g => us.any (fun x => x.1 == .hbm (a / 64 * 64 + 16 * g) && x.2.length == 16 && x.2.all (·.isSome)))
  | _ => false

/-! ### The consistent cut (R332 to R335) -/

/-- An instruction in its waiting phase has had no effect: its tokens return and it issues again (R332). `counts`: the issue
that led into the phase stays counted (R345). -/
def undoWait (t : Task) (q : SeqId) (counts : Bool) : Task :=
  let u := t.seq q
  match u.wait with
  | none => t
  | some w =>
    let t := if w.issued then returnTokens t q w else t
    let u := t.seq q
    t.setSeq q { u with wait := none, seqno := if w.issued && !counts && w.ticks != 0 then u.seqno - 1 else u.seqno,
                        tick := if w.issued then u.tick - w.ticks else u.tick }

/-- A wait for a window that has not accepted a store: the store has not issued (R99). -/
def windowWait (w : Wait) : Bool := w.kind == 5 && inTx w.addr && w.op == .none

/-- END waits for its earlier instructions. -/
def ends (w : Wait) : Bool := w.op == .ending

/-- SEQNO counts an instruction of C in its waiting phase (R345), an END that waits, and a store of an engine that its window has accepted in
part; one that no window has accepted has not issued (R99). -/
def waitCounts (t : Task) (q : SeqId) : Bool :=
  match (t.seq q).wait with
  | some w => if q == .c then !windowWait w else ends w || w.sent != 0
  | none => false

/-- A trap at an instruction in its waiting phase: the issue that led into it stays counted, but for END (R332, R345). -/
def trapCounts (t : Task) (q : SeqId) : Bool := waitCounts t q && (match (t.seq q).wait with | some w => !ends w | none => false)

/-- The entry of the launch queue that a LAUNCH in its waiting phase has entered. -/
def lqOwnOf (p : Partition) (core bank index : Nat) : Option LqOwn :=
  p.lqOwn.find? (fun o => o.index == index && o.core == core && o.bank == bank && !o.dropped)

/-- An instruction of C whose effect has begun completes at a cut (R332): a finished step, a SPORE whose flits have departed, a COLL whose
packets depart, a LAUNCH that has been accepted or refused. Its result goes into the register that its wait names. -/
def begunResult (s : State) (core bank : Nat) (t : Task) (q : SeqId) : Option (Wait × Word) :=
  match q, t.c.wait with
  | .c, some w =>
    if w.issued then
      match w.op with
      | .status v => some (w, v)
      | .spore fs => if fs.isEmpty || s.flits.any (fun f => fs.contains f.id && !f.departed) then none else some (w, 0)
      | .collSend _ g => some (w, BitVec.ofNat 64 g)
      | .lq i => ((lqOwnOf (s.part t.part) core bank i).bind (·.result)).map (fun v => (w, v))
      | _ => none
    else none
  | _, _ => none

/-- A cut leaves an instruction of C in its waiting phase: it has sent a part of its reflected stores, or its flits cannot depart yet. -/
def staysBegun (w : Wait) : Bool :=
  w.issued && (w.sent != 0 || (match w.op with | .spore fs => !fs.isEmpty | _ => false))

/-- A sequencer has begun what it completes before a cut is recorded (R332, R333): an instruction of C whose effect has begun, a single issue of T
or M that has sent a part of its stores. -/
def midway (t : Task) (q : SeqId) : Bool :=
  match q with
  | .c => (match t.c.wait with | some w => staysBegun w | none => false)
  | .v => false
  | q => (match (t.seq q).prog with | some p => p.sent != 0 | none => false)

/-- The flits that a SPORE waits for. -/
def sporeFlits (u : Seq) : List Nat :=
  match u.wait with
  | some w => (match w.op with | .spore l => l | _ => [])
  | none => []

/-- A LAUNCH that was taken back before its descriptor was checked leaves an entry that the command processor passes over. -/
def dropLaunch (s : State) (core bank : Nat) (t : Task) : State :=
  match (match t.c.wait with | some w => (match w.op with | .lq i => some i | _ => none) | none => none) with
  | none => s
  | some i =>
    let p := s.part t.part
    let mine (o : LqOwn) : Bool := o.index == i && o.core == core && o.bank == bank
    s.setPart t.part { p with lqOwn := (p.lqOwn.filter (fun o => !(mine o && o.result.isSome))).map (fun o =>
      if mine o then { o with dropped := true } else o) }

/-- Everything on the way of a sequencer is brought home: data read, results written, stores performed. -/
def drainSeq (s : State) (core bank : Nat) (q : SeqId) : State :=
  let s := readAll s core bank q (fun _ => true)
  match s.task? core bank with
  | none => s
  | some t =>
    let u := t.seq q
    let s := performStores s u.stores
    match s.task? core bank with
    | none => s
    | some t => settle (s.setTask core bank (some (applyAll q u.pend.length (t.setSeq q { u with stores := [], pend := [] }) u.pend))) core bank q

/-- The instruction in its waiting phase completes at the cut. -/
def endWait (u : Seq) (w : Wait) (parcels : BitVec 48) : Seq :=
  { u with wait := none, pc := u.pc + 4 * parcels, flights := u.flights ++ [{ id := w.id, sig := w.sig, took := w.took, region := u.regionNo }] }

/-- C, T and M stop: what has issued completes; END completes with it on T and M (R332, R333). A record keeps what it has sent of its
current single issue (R302). -/
def cutSeq (s : State) (core bank : Nat) (q : SeqId) : State :=
  let s := drainSeq s core bank q
  match s.task? core bank with
  | none => s
  | some t =>
    let u := t.seq q
    let done : Bool := q != .c && u.flights.isEmpty
    let begun := begunResult s core bank t q
    let s := if q == .c then dropLaunch s core bank t else s
    let t : Task :=
      match u.wait with
      | none => t
      | some w =>
        match begun with
        | some x => t.setSeq q (endWait (u.setReg w.addr x.2) w 2)
        | none =>
          if q != .c && w.issued && ends w then (if done then t.setSeq q { endWait u w 1 with stream := .ended } else t)
          else if q == .c && staysBegun w then t else undoWait t q (waitCounts t q)
    let u := t.seq q
    settle (s.setTask core bank (some (t.setSeq q { u with early := [], prog := u.prog.map (fun p => { p with recheck := true, got := [] }) }))) core bank q

/-- V stops at the head of its last REGION: older results are written, later ones that are not yet produced are
discarded; its control values are those of the REGION, and replay mode begins (R332 to R334). A V that has ended is only
drained. Also: whether results were discarded. -/
def cutV (s : State) (core bank : Nat) : State × Bool :=
  match s.task? core bank with
  | none => (s, false)
  | some t =>
    if t.v.stream != .running then
      let s := drainSeq s core bank .v
      (match s.task? core bank with | some t => s.setTask core bank (some { t with v := { t.v with early := [] } }) | none => s, false)
    else
      let old (n : Nat) : Bool := n < t.v.regionNo
      let oldId (id : Nat) : Bool := t.v.flights.any (fun f => f.id == id && old f.region)
      let keeps (p : Pend) : Bool := old p.region || p.produced
      let disc := t.v.pend.any (fun p => !keeps p)
      let s := readAll s core bank .v keeps
      match s.task? core bank with
      | none => (s, false)
      | some t =>
        let u := t.v
        let kept := u.pend.filter keeps
        let s := performStores s (u.stores.filter (fun st => oldId st.id || committed s st))
        match s.task? core bank with
        | none => (s, false)
        | some t =>
          let t := applyAll .v kept.length (undoWait t .v (waitCounts t .v)) kept
          let t := (u.flights.filter (fun f => !old f.region)).foldl (fun t f => dropFlight t .v f) t
          let s := settle (s.setTask core bank (some { t with v := { t.v with pend := [], stores := [], prog := none, early := [],
                                                                              flights := u.flights.filter (fun f => old f.region) } })) core bank .v
          match s.task? core bank with
          | none => (s, false)
          | some t =>
            let v := (t.vcsr &&& 0x1F#64) ||| (t.regVcsr &&& ~~~ 0x1F#64)
            let sum (a b : Sparse Nat) : Sparse Nat := [0, 1, 3].foldl (fun m k => bump m k (Sparse.get 0 b k)) a
            let t := { t with vl := t.regVl, vrb := t.regVrb, vcsr := v, heldTaken := 0, owed := [],
                              credit := sum (sum t.taken t.credit) t.owed, mute := sum t.sent t.mute, taken := [], sent := [],
                              replay := true, atRegion := t.v.regionNo != 0 }
            (s.setTask core bank (some { t with v := { t.v with pc := t.v.lastRegion } }), disc)

/-- The window that a WMAP in its waiting phase asked leases for is free again; the leases granted are returned, and those that are granted
later will be (R332, R220). -/
def freeAsked (s : State) (win : Nat) : State :=
  let w := s.txWin win
  let s := w.members.zipIdx.foldl (fun s x => if w.granted.getLsbD x.2 then s.say (.leaseReturn x.1 w.rx) else s) s
  let open1 := w.members.zipIdx.filter (fun x => !(w.granted ||| w.refused).getLsbD x.2)
  { (s.setTx win TxWin.free) with orphans := s.orphans ++ open1.map (fun x => (win, x.2, x.1, w.rx)) }

def dropWmap (s : State) (core bank : Nat) : State :=
  (s.tx.filter (fun e => e.2.asker == 2 * core + bank + 1)).foldl (fun s e => freeAsked s e.1) s

/-- SEMWAITs of a task leave the queues of their semaphores, and its WMAP its window (R332). -/
def leaveSems (s : State) (core bank : Nat) : State :=
  match s.task? core bank with
  | none => s
  | some t =>
    let p := s.part t.part
    dropWmap (s.setPart t.part { p with semq := p.semq.filter (fun w => !(w.core == core && w.bank == bank)) }) core bank

/-- The instruction in its waiting phase has asked for something beyond its task: a semaphore, or the leases of a window. -/
def asksOutside (u : Seq) : Bool :=
  match u.wait with
  | some w => (match w.op with | .sem => true | .wmap _ => true | _ => false)
  | none => false

/-- The consistent cut of one task: its flits depart in the order of their paths, V's older results are written, then M stops, then
T (R228, R333); C is stopped precisely. The flag says that V results were discarded. -/
def cutTask (s : State) (core bank : Nat) : State × Bool :=
  let s := settleAll s core bank
  let sp := match s.task? core bank with | some t => sporeFlits t.c | none => []
  let s := departAll s (fun f => f.ofBank core bank || sp.contains f.id)
  let (s, d) := cutV s core bank
  (leaveSems (cutSeq (cutSeq (cutSeq s core bank .m) core bank .t) core bank .c) core bank, d)

/-! ### Taking an exception (R326 to R336) -/

/-- Cause codes (R326). -/
def Cause.code : Cause → Nat
  | .illegalOpcode => 0x01
  | .illegalForm => 0x02
  | .illegalField => 0x03
  | .privileged => 0x04
  | .fetch => 0x05
  | .extent => 0x06
  | .leaseWait => 0x07
  | .txLoad => 0x08
  | .misaligned => 0x09
  | .fmtUnderflow => 0x0A
  | .schedMiss => 0x0B
  | .tagMismatch => 0x0C
  | .accCheck => 0x0D
  | .accOvf => 0x0E
  | .eccUncorrectable => 0x0F
  | .collOverrun => 0x10
  | .invalidPeer => 0x11
  | .stall => 0x12
  | .software => 0x13
  | .preempt => 0x14
  | .sorusGap => 0x15
  | .counterOverlap => 0x16

/-- Classes: 0 replayable, 1 fatal, 2 software (R326). -/
def Cause.cls : Cause → Nat
  | .fetch | .extent | .leaseWait | .stall | .preempt | .sorusGap => 0
  | .software => 2
  | _ => 1

/-- Bits of FLAGS (R331). -/
def flagStraddle : Nat := 1
def flagNotRet : Nat := 2
def flagVersion : Nat := 4
def flagVDisc : Nat := 8
def flagFatSlot : Nat := 16
def flagLate : Nat := 32

/-- The pairs (a, b), a ≠ b, in the order of TOKENS (R331). -/
def tokenPairs : List (Nat × Nat) := (upTo 4 id).flatMap (fun a => ((upTo 4 id).filter (fun b => b != a)).map (fun b => (a, b)))

def iters (u : Seq) : List Nat :=
  match u.prog with
  | some p => [p.i0, p.i1, p.i2, p.i3]
  | none => [0, 0, 0, 0]

/-- The record of a task that has been cut. -/
def trapRecOf (s : State) (core bank seq : Nat) (c : Cause) (faddr flags fpc : Nat) (t : Task) : TrapRec :=
  let us := [t.c, t.t, t.v, t.m]
  { cause := c, seq := seq, flags := BitVec.ofNat 8 flags, noCore := false, core := core, bank := bank,
    dcc := BitVec.ofNat 64 (s.dcc t.part), faddr := BitVec.ofNat 64 faddr, fpc := BitVec.ofNat 64 fpc,
    cutpc := us.map (fun u => u.pc.setWidth 64),
    seqno := us.map (fun u => if c = .schedMiss then u.lastRegion.setWidth 64 else u.seqno),
    titer := iters t.t, miter := iters t.m,
    tokens := tokenPairs.map (fun p => Sparse.get 0 t.tok (tokKey p.1 p.2)), fqDepth := t.fq.length }

/-- A record without a core (R331): WHERE reads 0x8000. -/
def trapRecNoCore (s : State) (part : Nat) (c : Cause) (faddr flags : Nat) : TrapRec :=
  { cause := c, seq := 15, flags := BitVec.ofNat 8 flags, noCore := true, core := 0, bank := 0,
    dcc := BitVec.ofNat 64 (s.dcc part), faddr := BitVec.ofNat 64 faddr, fpc := 0, cutpc := [0, 0, 0, 0],
    seqno := [0, 0, 0, 0], titer := [0, 0, 0, 0], miter := [0, 0, 0, 0], tokens := List.replicate 12 0, fqDepth := 0 }

/-- The 128 bytes of a record (R331). -/
def TrapRec.bytes (r : TrapRec) : List Byte :=
  [BitVec.ofNat 8 r.cause.code, BitVec.ofNat 8 r.cause.cls, BitVec.ofNat 8 r.seq, r.flags, 0, 0]
    ++ leBytes 2 (if r.noCore then 0x8000 else r.core + 512 * r.bank)
    ++ leBytes 8 r.dcc.toNat ++ leBytes 8 r.faddr.toNat ++ leBytes 8 r.fpc.toNat
    ++ r.cutpc.flatMap (fun w => leBytes 8 w.toNat) ++ r.seqno.flatMap (fun w => leBytes 8 w.toNat)
    ++ r.titer.flatMap (leBytes 2) ++ r.miter.flatMap (leBytes 2) ++ r.tokens.map (BitVec.ofNat 8) ++ [BitVec.ofNat 8 r.fqDepth, 0, 0, 0]

/-- The lowest free ordinary slot (R328). -/
def freeSlot (p : Partition) : Option Nat := (upTo 255 id).find? (fun j => !p.tq.any (fun x => x.slot == j))

/-- Slot 255 is taken. -/
def fatSlotUsed (p : Partition) : Bool := p.tq.any (fun x => x.slot == 255)

/-- The trap queue of a partition in physical memory (R327). -/
def tqBase (s : State) (p : Partition) : Nat := partNat s p.tqBlock 8
def saveBase (s : State) (p : Partition) : Nat := partNat s (p.tqBlock + 48) 8

/-- A record goes into a slot: 128 bytes, the slot in use, an interrupt of the servicing agent (R328). -/
def writeRecord (s : State) (part slot : Nat) (r : TrapRec) : Except Fault State :=
  let p := s.part part
  let a := tqBase s p + 128 * slot
  if s.populated a 128 then
    let s := partStore s a r.bytes
    let x : TqSlot := { slot := slot, core := r.core, bank := r.bank, noTask := r.noCore, cls := r.cause.cls, gt := s.gt }
    .ok ((s.setPart part { (s.part part) with tq := (s.part part).tq ++ [x] }).say (.interrupt part slot))
  else .error (.absentMemory a)

/-- A task of a partition waits for a slot of the trap queue, on a core below `core` (R328). -/
def lateBelow (s : State) (part core : Nat) : Bool :=
  s.cores.any (fun e => e.1 < core && [e.2.bank0, e.2.bank1].any (fun b => match b with | some t => t.part == part && t.late.isSome && !t.cutting | none => false))

/-- The line of HBM that made a read at task address `a` fault: the first one from there on that cannot be read. An access reaches over four lines
at most, and where it faults it reaches at least to that one (R93). -/
def foundLine (s : State) (t : Task) (a : Nat) : Option Nat :=
  match (upTo 32 (fun i => Sparse.get Extent.reset t.extents i)).find? (fun e => e.usable s && e.covers a) with
  | some e => (upTo 4 (fun k => (e.pbase + (a - e.vbase)) / 64 + k)).find? (fun l => unreadable s (64 * l) 64)
  | none => none

/-- The controller poisons it where it was not poisoned before (R93, R95). -/
def markFound (s : State) (t : Task) (c : Cause) (a : Nat) : State :=
  if c = .eccUncorrectable && inHbm a then
    match foundLine s t a with
    | some l => if symbolsIn s (64 * l) 1 2 then poisonLine s l else s
    | none => s
  else s

/-- A bank can issue. -/
def runnable (t : Option Task) : Bool := match t with | some t => t.hold == .none | none => false

/-- The core goes to its other bank where the current one cannot issue and the other can (R137, R336). -/
def switchBank (s : State) (core : Nat) : State :=
  let c := s.core core
  if runnable (c.task? c.bank) then s
  else if runnable (c.task? (1 - c.bank)) then s.setCore core { c with bank := 1 - c.bank } else s

/-- A bank was given up to a launch of higher priority (R323): the core keeps that bank for it, unless the task in the other
bank comes first. -/
def turnOver (s : State) (core : Nat) : State :=
  let c := s.core core
  match c.task? c.bank, c.task? (1 - c.bank) with
  | none, some x =>
    let p := s.part x.part
    if p.launches.any (fun l => x.prio < dPrio l.desc && gate p l && !l.coresStarted.contains core) then s else switchBank s core
  | _, _ => switchBank s core

def State.setHold (s : State) (core bank : Nat) (h : Hold) : State :=
  match s.task? core bank with
  | none => s
  | some t => s.setTask core bank (some { t with hold := h, late := none, cutting := false })

/-! ### The end of a task (R41, R309, R316, R330) -/

/-- A launch of a partition, by id. -/
def Partition.launch? (p : Partition) (id : Nat) : Option Launch := p.launches.find? (fun l => l.id == id)

def Partition.mapLaunch (p : Partition) (id : Nat) (g : Launch → Launch) : Partition :=
  { p with launches := p.launches.map (fun l => if l.id == id then g l else l) }

/-- The earlier of two first issues, as DCC + 1, where 0 is none (R316). -/
def firstOf (a b : Nat) : Nat := if a = 0 then b else if b = 0 then a else min a b

/-- The bytes of an output range, page by page. -/
def rangeBytes (s : State) (xs : Sparse Extent) (page n : Nat) : List Byte :=
  (upTo n id).flatMap (fun k =>
    let a := Config.hbmBase + (page + k) * 4096
    match xs.find? (fun e => e.2.covers a) with
    | some e => getBytes s.hbm (e.2.pbase + (a - e.2.vbase)) 4096
    | none => List.replicate 4096 0)

/-- DIGEST (R317). -/
def launchDigest (s : State) (l : Launch) : BitVec 256 :=
  let d := l.desc
  sm3Word (((upTo 16 id).filter (fun i => (dF d 88 2).testBit i)).flatMap (fun i => sm3 (rangeBytes s l.extents (dPage d i) (dNpg d i))))

/-- The part of an extent that lies in stack `d`: where it begins, and its bytes. -/
def Extent.inStack (e : Extent) (d : Nat) : Nat × Nat :=
  let lo := max e.pbase (d * 2 ^ 37)
  (lo, min (e.pbase + (e.npages + 1) * 4096) ((d + 1) * 2 ^ 37) - lo)

/-- What its digest units have to read: each range of OUTMASK, in the stacks where its extents lie (R317, R320). -/
def rangesToRead (l : Launch) : List Nat :=
  ((upTo 16 id).filter (fun i => (dF l.desc 88 2).testBit i)).flatMap (fun i =>
    ((upTo 16 id).filter (fun d => l.extents.any (fun e => e.2.valid && e.2.range == i && (e.2.inStack d).2 != 0))).map (16 * i + ·))

/-- A launch is over: its ranges have the bytes that its digest is of (R317); one that started no task has a free digest (log 24). -/
def Launch.close (l : Launch) (s : State) (part : Nat) : Launch :=
  if l.coresStarted.isEmpty then { l with stage := .over, digest := some (Config.idleDigest part l.id) }
  else { l with stage := .over, digest := some (launchDigest s l), toRead := rangesToRead l }

/-- The task of a rank of a launch has ended; the last one ends the launch and frees its reservation (R203, R316). -/
def launchRankOver (s : State) (part id rank first status : Nat) (host : Bool) : State :=
  let p := s.part part
  let n := 8 * 2 ^ p.size
  let d := BitVec.ofNat 64 (s.dcc part)
  let p := p.mapLaunch id (fun l =>
    let done := if l.ranksOver.contains rank then l.ranksOver else l.ranksOver ++ [rank]
    let l := { l with ranksOver := done, status := max l.status status, hostEnded := l.hostEnded || host, dccStart := firstOf l.dccStart first }
    if done.length ≥ n && l.stage == .started then { (l.close s part) with dccEnd := d } else l)
  let over1 : Bool := match p.launch? id with | some l => l.stage == .over | none => false
  s.setPart part { p with resv := if over1 then p.resv.filter (fun r => r.launch != id) else p.resv }

/-- A task ends: its bank is cleared and freed, and the core goes to its other bank (R330, R137). -/
def endTask (s : State) (core bank status : Nat) (host : Bool) : State :=
  match s.task? core bank with
  | none => s
  | some t =>
    let s := ((leaveSems s core bank).setTask core bank none).moveFlits core bank 4
    switchBank (launchRankOver s t.part t.launch t.rank t.firstIssue status host) core

/-- All four streams have ended (R41). -/
def allEnded (t : Task) : Bool := t.c.stream == .ended && t.t.stream == .ended && t.v.stream == .ended && t.m.stream == .ended

/-- The task ends when its four streams have (R41). -/
def endIfOver (s : State) (core bank : Nat) : State :=
  match s.task? core bank with
  | none => s
  | some t => if allEnded t then endTask s core bank 0 false else s

/-- Every sequencer of every core of a partition stops at a consistent cut, with its state kept (R286, R328). -/
def stopPartition (s : State) (first : Nat) : State :=
  let s := (coresOf first (s.part first)).foldl (fun s n =>
    [0, 1].foldl (fun s b =>
      match s.task? n b with
      | none => s
      | some t => if t.hold == .none then endIfOver (((cutTask s n b).1).setHold n b .stopped) n b else s) s) s
  s.setPart first { (s.part first) with stopped := true }

/-- A record of a task is written, with the task cut, into a slot; DCC is that of the fault, also where the record has waited (R331). A task whose
last END completed with the cut is over (R41). -/
def recordTrap (s : State) (core bank seq : Nat) (c : Cause) (faddr flags fpc slot : Nat) : Host.Outcome State Fault Refusal :=
  let (s, d) := cutTask s core bank
  match s.task? core bank with
  | none => .next s
  | some t =>
    if allEnded t then .next (endTask s core bank 0 false) else
    let r := trapRecOf s core bank seq c faddr (flags + (if d then flagVDisc else 0)) fpc t
    match writeRecord s t.part slot { r with dcc := ((t.late.filter (fun x => x.seq == seq && x.cause == c)).map (·.dcc)).getD r.dcc } with
    | .ok s => .next (switchBank (s.setHold core bank (.record slot)) core)
    | .error f => .fault f

/-- The record of a trap that nothing holds. A replayable or software one without a free slot waits, unrecorded, and the task is not cut until
then; a fatal one falls back on slot 255, and stops the partition when that is taken. A task that has waited goes before (R328). -/
def trapNow (s : State) (core bank seq : Nat) (c : Cause) (faddr flags fpc : Nat) : Host.Outcome State Fault Refusal :=
  match s.task? core bank with
  | none => .next s
  | some t =>
    let s := markFound s t c faddr
    let p := s.part t.part
    match (if c.cls != 1 && lateBelow s t.part 512 then none else freeSlot p) with
    | some j => recordTrap s core bank seq c faddr flags fpc j
    | none =>
      if c.cls != 1 then
        let r := t.late.getD (trapRecOf s core bank seq c faddr flags fpc t)
        .next (s.setTask core bank (some { t with late := some r, cutting := false }))
      else if fatSlotUsed p then
        let s := stopPartition s t.part
        .next ((s.setPart t.part { (s.part t.part) with fatal2 := true }).say (.mgmtInterrupt 1))
      else recordTrap s core bank seq c faddr (flags + flagFatSlot) fpc 255

/-- What keeps a trap of sequencer `seq` from being recorded: another sequencer of the task completes first what it has begun, and flits of the task
depart (R332, R333), but for a trap that tells that something did not come in time (log 17); or, where the trapping one is timed, one that comes before
it on this cycle has yet to issue (R328, R335). -/
def trapHeld (s : State) (core bank : Nat) (t : Task) (seq : Nat) (c : Cause) : Bool :=
  (c != .stall && c != .leaseWait && c != .schedMiss && flitsStay s core bank) || [SeqId.c, .t, .v, .m].any (fun q => (q.num != seq && midway t q) || (q.num == seq && isTimed t (t.seq q) && lowerDue s t.part core seq))

/-- TAKING AN EXCEPTION (R328): the one operation that every trap of a task goes through. A trap that is held waits with the task, which begins
nothing new until the record is written. Of two on one cycle the one of the lower sequencer id is recorded (R335); what has begun and traps itself
cannot complete, and holds the trap no longer. -/
def takeTrap (s : State) (core bank seq : Nat) (c : Cause) (faddr flags fpc : Nat) : Host.Outcome State Fault Refusal :=
  match s.task? core bank with
  | none => .next s
  | some t =>
    let r := trapRecOf s core bank seq c faddr flags fpc t
    match (if t.cutting then t.late else none) with
    | some x =>
      if [SeqId.c, .t, .v, .m].any (fun q => q.num == seq && midway t q) then
        trapNow s core bank x.seq x.cause x.faddr.toNat x.flags.toNat x.fpc.toNat
      else .next (if seq < x.seq && x.dcc == r.dcc then s.setTask core bank (some { t with late := some r }) else s)
    | none => if trapHeld s core bank t seq c then .next (s.setTask core bank (some { t with late := some r, cutting := true })) else trapNow s core bank seq c faddr flags fpc

/-- The exception of an access. -/
def AccFault.res (f : AccFault) (s : State) : Res := .trap f.cause f.addr 0 s

/-! ### Resuming (R330, R336, R342) -/

/-- The return from an exception: the task may issue again; the core switches back to it, and the task of the other bank,
if it had the core, stops at a cut without a record (R336, R342). A TRAP answered now sends its signals. -/
def resumeTask (s : State) (core bank : Nat) : State :=
  match s.task? core bank with
  | none => s
  | some _ =>
    let c := s.core core
    let s := if c.bank != bank && runnable (c.task? c.bank) then endIfOver (cutTask s core c.bank).1 core c.bank else s
    let s := s.setHold core bank .none
    let s := match s.task? core bank with | some t => s.setTask core bank (some { t with trapId := none }) | none => s
    let c := s.core core
    endIfOver (settleAll (s.setCore core { c with bank := bank }) core bank) core bank

/-! ### Issue (R25 to R29, R260, R261) -/

/-- The privileged forms (R42, R287). -/
def instrPrivileged : Instr → Bool
  | .halt _ | .wmap _ _ | .wunmap _ _ | .lrecall _ _ => true
  | .csrw _ o =>
    match o.b with
    | .zimm v => csrPrivileged (v.toNat % 4096)
    | .simm v => csrPrivileged (v.toNat % 4096)
    | .reg _ => false
    | .imm64 _ => false
  | _ => false

/-- Whether an instruction may issue on this cycle (R28, R260, R261). -/
inductive Timing where
  | go
  | early
  | miss (due : Nat)
deriving DecidableEq, Repr

/-- The due cycle of an instruction of a timed sequencer. `stamp`: it is a record of M. -/
def dueCycle (u : Seq) (y : Syn) (stamp : Option Nat) : Nat :=
  match stamp with
  | some n => u.alignAt + n
  | none => u.lastIssue + y.toNat + 1

/-- The bound of an access of a timetable launch in cycles from its issue (R301). A store of a core to its own scratchpad by its own place among the
peers has the bound of the own scratchpad here (log 3). -/
def accessBound (core : Nat) (read : Bool) (p : Place) : Nat :=
  match p with
  | .spad c _ => if c = core then (if read then Config.ownRead else Config.ownStore) else Config.peerAccess
  | _ => Config.hbmAccess

/-- The bound of a read, which has peer latency also in the own scratchpad where its address is that of a peer (R88). -/
def readBound (core : Nat) (l : LoadPiece) : Nat := if inPeer l.addr then Config.peerAccess else accessBound core true l.place

/-- The cycles by which the accesses of a sequencer that have issued must be performed, each with its instruction (R301). Those of C's loads are not
among them: their data has the ticks that they occupy, and raises SCHED_MISS at the next issue where it has not come (R260). -/
def accessDue (s : State) (core bank : Nat) (q : SeqId) (u : Seq) : List (Nat × BitVec 48) :=
  u.stores.map (fun st => (st.since + accessBound core false st.place, st.pc))
    ++ (if q == .c then [] else u.pend.flatMap (fun p => p.loads.map (fun l => (p.since + readBound core l, p.pc)))) ++ flitDue s core bank q

/-- An access of a timed sequencer of a core, in the bank from which it issues, has reached its bound. -/
def overdueOn (s : State) (core : Nat) : Bool :=
  let b := s.bankOf core
  match s.task? core b with
  | some t => t.hold == .none && [SeqId.c, .t, .v, .m].any (fun q => isTimed t (t.seq q) && (accessDue s core b q (t.seq q)).any (·.1 ≤ s.mcc))
  | none => false

/-- An access of a timed sequencer of a partition has reached its bound: it is performed now, or SCHED_MISS is raised, before anything
else of the partition issues (R301). -/
def overdue (s : State) (part : Nat) : Bool := (coresOf part (s.part part)).any (overdueOn s)

def timing (s : State) (t : Task) (q : SeqId) (y : Syn) (i : Instr) : Timing :=
  let u := t.seq q
  if t.timed && overdue s t.part then .early
  else if isTimed t u then
    let due := dueCycle u y (if q == .m then i.record?.map (fun r => r.stamp.toNat) else none)
    if s.mcc < due then .early else if due < s.mcc || due < u.nextFree then .miss due
    else if recordFirst s s.cur.core t q then .early else .go
  else if s.mcc < u.nextFree then .early
  else if t.timed && u.seqno != 0 && s.mcc < u.lastIssue + y.toNat + 1 then .early else .go

/-- A cycle on which C waited inside its instruction is no tick: its next issue counts from the cycle on which that completes (R11, R261). -/
def Seq.waited (u : Seq) (w : Wait) (cycle : Nat) : Seq :=
  if u.timed || w.ticks = 0 then u else { u with lastIssue := max u.lastIssue cycle }

/-- The distance of a cycle from the last ALIGN of a sequencer, as FADDR of SCHED_MISS holds it (R326). -/
def sinceAlign (u : Seq) (cycle : Nat) : Nat := cycle - u.alignAt

/-- A trap of the executing sequencer at its head parcel. -/
def trapHere (s : State) (c : Cause) (faddr flags : Nat) : Host.Outcome State Fault Refusal :=
  takeTrap s s.cur.core (s.bankOf s.cur.core) s.cur.q.num c faddr flags s.me.pc.toNat

/-- A stall goes on: of the same kind, or, in an instruction that has issued, from one wait to the next, memory and the others alike (R262); after a
store that its window has accepted, the next one waits anew (R99). -/
def sameStall (o w : Wait) : Bool :=
  let memory (k : Nat) : Bool := k == 5 || k == 7
  (o.kind == w.kind || (w.issued && memory o.kind && memory w.kind)) && o.sent == w.sent && (o.addr == w.addr || !(inTx o.addr || inTx w.addr))

/-- The sequencer stalls before or in an instruction: the stall counts from its first cycle (R262), a bound in GT from the beginning of its own wait. -/
def stallWith (s : State) (w : Wait) : State :=
  let u := s.me
  let since := match u.wait with
    | some o => if sameStall o w then (o.since, if o.op == w.op then o.sinceGt else s.gt) else (s.mcc, s.gt)
    | none => (s.mcc, s.gt)
  s.setMe { u with wait := some { w with since := since.1, sinceGt := since.2 } }

def blankWait (kind : Nat) : Wait :=
  { kind := kind, since := 0, sinceGt := 0, issued := false, id := 0, took := 0, cred := 0, sig := 0, supp := 0, sent := 0, op := .none, addr := 0, ticks := 0 }

/-- No stall is permitted once a sequencer is timed (R28). -/
def timedHere (s : State) : Bool := isTimed s.here s.me

def stallOrMiss (s : State) (kind : Nat) : Host.Outcome State Fault Refusal :=
  if timedHere s then trapHere s .schedMiss (sinceAlign s.me s.mcc) 0 else .next (stallWith s (blankWait kind))

/-- The effect of the instruction in its waiting phase has begun: it completes, or goes on, in spite of a trap (R332). -/
def hasBegun (s : State) : Bool :=
  s.cur.q == .c && ((begunResult s s.cur.core (s.bankOf s.cur.core) s.here .c).isSome || (match s.me.wait with | some w => staysBegun w | none => false))

/-- The task that executes is stopped by a trap after its instruction was undone, unless the effect of that has begun. -/
def trapUndone (s : State) (head : BitVec 48) (c : Cause) (faddr flags : Nat) : Host.Outcome State Fault Refusal :=
  let s :=
    if hasBegun s then s
    else
      let s := if s.cur.q == .c then dropLaunch s s.cur.core (s.bankOf s.cur.core) s.here else s
      let s := if s.cur.q == .c && asksOutside s.me then leaveSems s s.cur.core (s.bankOf s.cur.core) else s
      s.setHere (undoWait s.here s.cur.q (trapCounts s.here s.cur.q))
  trapHere (s.setMe { s.me with pc := head }) c faddr flags

/-- The instruction that ran is no longer at the PC's waiting phase: it is in flight until it completes (R26). What it has read is used up. -/
def closeWait (s : State) : State :=
  let u := s.me
  match u.wait with
  | none => s
  | some w => s.setMe { u.waited w s.mcc with wait := none, early := [], flights := u.flights ++ [{ id := w.id, sig := w.sig, took := w.took, region := u.regionNo }] }

/-- What has completed on the executing sequencer sends its tokens, also where the sequencer itself stalls (R26, R27). -/
def settleMe (s : State) : State := settle s s.cur.core (s.bankOf s.cur.core) s.cur.q

/-- The effect is done or on its way: what has completed sends its tokens, and a task whose streams have ended is over. -/
def completed (s : State) : State := endIfOver (settleMe (closeWait s)) s.cur.core (s.bankOf s.cur.core)

/-- The first issue of a task counts for its launch's record (R316). -/
def noteFirst (s : State) (t : Task) : Task := if t.firstIssue = 0 then { t with firstIssue := s.dcc t.part + 1 } else t

/-- The instruction has issued, if it is none that occupies no tick: a record, whose single issues are its issues. -/
def issued (s : State) : State :=
  match s.me.wait with
  | some w => if w.ticks = 0 then s else s.setHere (noteFirst s s.here)
  | none => s

/-- It has issued into its waiting phase, unless that waits for a window that has accepted none of its stores (R99). -/
def issuedWaiting (s : State) : State :=
  match s.me.wait with
  | some w => if windowWait w && w.sent == 0 then s else issued s
  | none => s

/-- The executing task is in its bank. -/
def present (s : State) : Bool := (s.task? s.cur.core (s.bankOf s.cur.core)).isSome

/-- What follows a body. -/
def finish (head : BitVec 48) (r : Res) : Host.Outcome State Fault Refusal :=
  match r with
  | .ok s => if present s then .next (completed (issued s)) else .next (turnOver s s.cur.core)
  | .wait kind op addr sent s =>
    let target := match op with | .align _ _ | .ending => true | _ => false
    let s := s.setMe { s.me with pc := head }
    let s := match s.me.wait with
      | some w => stallWith s { w with kind := kind, op := op, addr := addr, sent := sent }
      | none => s
    if timedHere s && !target then trapUndone s head .schedMiss (sinceAlign s.me s.mcc) 0 else .next (settleMe (issuedWaiting s))
  | .trap c faddr flags s => trapUndone s head c faddr flags
  | .more s => .next s
  | .after s act => .next (act (completed (issued s)))
  | .halt s =>
    let p := s.here.part
    let s := stopPartition (settleMe (closeWait (issued s))) p
    .next ((s.setPart p { s.part p with halted := true }).say (.mgmtInterrupt 0))
  | .software code s =>
    if timedHere s then trapUndone s head .schedMiss (sinceAlign s.me s.mcc) 0
    else
    let id := match s.me.wait with | some w => w.id | none => 0
    let s := closeWait (issued s)
    takeTrap (s.setHere { s.here with trapId := some id }) s.cur.core (s.bankOf s.cur.core) s.cur.q.num .software code 0 head.toNat
  | .stop f => .fault f

/-- YIELD holds the engines before their next issue (R284). -/
def yieldHolds (s : State) : Bool :=
  s.cur.q != .c && (match s.here.c.wait with | some w => w.op == .yielding | none => false)
    && (match s.me.wait with | some w => !w.issued | none => true)

/-- No trap stops sequencer `q` of a task: none of its own waits to be recorded, and none that the task is to be cut for (R328), unless it completes
what it has begun (R332, R333), or is due on the cycle of the trap of a later sequencer (R335). -/
def mayGoOn (s : State) (core : Nat) (t : Task) (q : SeqId) : Bool :=
  !lateHere t q && (!t.cutting || midway t q || (dueNow s core t q && (match t.late with | some r => q.num < r.seq && r.dcc.toNat == s.dcc t.part | none => false)))

/-- The executing sequencer may issue: its task is there and not held, its stream runs, no record of it is in progress,
and no trap stops it (R328). -/
def mayIssue (s : State) : Bool :=
  let t := s.here
  !yieldHolds s &&
  (s.task? s.cur.core (s.bankOf s.cur.core)).isSome && t.hold == .none && s.me.stream == .running && s.me.prog.isNone
    && mayGoOn s s.cur.core t s.cur.q

def setPc (s : State) (pc : BitVec 48) : State := s.setMe { s.me with pc := pc }

/-- The tick of an issue: for a timed sequencer every cycle since its last issue is one (R28). -/
def issueTick (s : State) : Nat := if timedHere s then s.me.tick + (s.mcc - s.me.tickAt) else s.me.tick

/-- The state in which the body of an instruction runs: its tokens taken, the PC after it, its issue counted. `t` is the task
with the results that are due in their registers. -/
def entered (s : State) (t : Task) (y : Syn) (len ticks : Nat) : State :=
  let q := s.cur.q
  let x := takeTokens t q (if s.here.timed then 0 else y) s.me.nextId
  let v := x.1.seq q
  s.setHere (x.1.setSeq q
    { v with pc := s.me.pc + BitVec.ofNat 48 (4 * len), wait := some { x.2 with since := s.mcc, sinceGt := s.gt, ticks := ticks }, nextId := v.nextId + 1,
             tick := issueTick s + ticks, seqno := if ticks = 0 then v.seqno else v.seqno + 1,
             lastIssue := if ticks = 0 then s.mcc - 1 else s.mcc, nextFree := s.mcc + ticks, armed := false,
             tickAt := s.mcc + ticks, head := s.me.pc })

/-- The instruction at the PC is in its waiting phase, after it has issued. -/
def inWait (u : Seq) : Bool := match u.wait with | some w => w.issued | none => false

/-- The supplies are in order and the clocks run (R358, R359). -/
def alive (s : State) : Bool := s.pwrok && !s.thermtrip

/-- THE ISSUE OF ONE INSTRUCTION, in the order of R25: privilege, fields, the tokens of SYN (R26, R27), then the body. A
sequencer that waits inside an instruction goes on with its body. `len` is the length in parcels, `ticks` how many ticks
the instruction occupies (0 for a record, whose single issues are the ticks). -/
def issue (y : Syn) (i : Instr) (known : Bool) (len ticks : Nat) (body : State → Res) (s : State) : Host.Outcome State Fault Refusal :=
  let head := s.me.pc
  if !mayIssue s then .next s
  else if !known then trapHere s .illegalOpcode head.toNat 0
  else if instrPrivileged i && !s.here.priv then trapHere s .privileged head.toNat 0
  else if !fieldsOk i || !modeOk s.here.timed s.cur.q y i then trapHere s .illegalField head.toNat 0
  else if inWait s.me then finish head (body (setPc s (head + BitVec.ofNat 48 (4 * len))))
  else
    match timing s s.here s.cur.q y i with
    | .early => .next s
    | .miss due => trapHere s .schedMiss (sinceAlign s.me due) 0
    | .go =>
      match dueWrites s.here s.cur.q (issueTick s) with
      | none => stallOrMiss s 5
      | some t =>
        if !s.here.timed && !(tokensReady t s.cur.q (waitMask y) && roomReady t s.cur.q (sigMask y)) then stallOrMiss (settleMe (s.setHere t)) 1
        else finish head (body (entered s t y len ticks))

end Sys2Proof.Machine
end

