-- ==== Sys2Proof/Machine/Operands.lean ====
section
/-! DEFINITION. Operand forms: B and the addresses of C (R264), names, elements, predicates and spans of V (R128 to R142),
record operands and bit maps (R39, R113, R114). -/

namespace Sys2Proof.Machine

/-! ### Control (R264) -/

/-- Operand B (R30, R264). -/
def cbVal (s : State) (b : CB) : Word :=
  match b with
  | .reg r => s.reg r.toNat
  | .simm v => v.signExtend 64
  | .zimm v => v.setWidth 64
  | .imm64 v => v

/-- The immediate of a form XK 01 or XK 11, as it stands in p1. -/
def cbImm (b : CB) : BitVec 32 :=
  match b with
  | .reg _ => 0
  | .simm v => v
  | .zimm v => v
  | .imm64 v => v.setWidth 32

def srcA (s : State) (o : COp) : Word := s.reg o.sa.toNat
def srcD (s : State) (o : COp) : Word := s.reg o.sd.toNat
/-- A value operand, modulo 2^64. -/
def opVal (s : State) (o : COp) : Word := srcA s o + cbVal s o.b
/-- An operand address, modulo 2^48. -/
def opAddr (s : State) (o : COp) : Nat := (opVal s o).toNat % 2 ^ 48

/-! ### Names of V (R129 to R133) -/

def Task.rotN (t : Task) : Nat := (t.vrb.extractLsb' 16 10).toNat
def Task.rotBase (t : Task) : Nat := (t.vrb.extractLsb' 0 10).toNat

/-- PhysV (R133). -/
def physV (t : Task) (n : Nat) : Nat :=
  let N := t.rotN
  let top := 1024 - N
  if N = 0 || n < top then n else top + (n - top + t.rotBase) % N

/-- PhysP (R133). -/
def physP (t : Task) (j : Nat) : Nat := if t.rotN = 0 || j < 8 then j else 8 + (j - 8 + t.rotBase) % 8

/-- A register or predicate by name, read at issue; p0 reads all ones (R129). -/
def Task.vget (t : Task) (n : Nat) : BitVec 2048 := Sparse.get 0 t.vreg (physV t n)
def Task.pget (t : Task) (j : Nat) : BitVec 256 :=
  let p := physP t j
  if p = 0 then BitVec.allOnes 256 else Sparse.get 0 t.preg p
def Task.kget (t : Task) (i : Nat) : BitVec 32 := Sparse.get 0 t.kreg i
def Task.vlm1 (t : Task) : Nat := (t.vl.extractLsb' 0 8).toNat

/-- Element `e` of a register, `w` bytes wide (R128). -/
def elemOf (v : BitVec 2048) (w e : Nat) : Nat := v.toNat / 2 ^ (8 * w * e) % 2 ^ (8 * w)

/-- Element `e` of a span of registers from name `n` (R142, R150). -/
def spanElem (t : Task) (n w e : Nat) : Nat := elemOf (t.vget (n + e / (256 / w))) w (e % (256 / w))

/-- Selected(e) (R141). -/
def selected (t : Task) (pred w e : Nat) : Bool := (e + 1) * w ≤ t.vlm1 + 1 && (t.pget pred).getLsbD (e * w)

/-- The elements selected, in order. -/
def selElems (t : Task) (pred w : Nat) : List Nat := (upTo (256 / w) id).filter (selected t pred w)

/-- The TYPE of a vector operation; V2I has none (R34): `isInt` says which group the opcode belongs to. -/
def vtype (o : VOp) (isInt : Bool) : Nat :=
  match o.b with
  | .imm20 _ => if isInt then 5 else 0
  | _ => o.ty.toNat

/-- The second operand B at element `e` in a type of `w` bytes (R33, R130, R150). -/
def vsrc (t : Task) (b : VSrc) (isInt : Bool) (w e : Nat) : Nat :=
  match b with
  | .reg n => spanElem t n.toNat w e
  | .kbank k => (t.kget k.toNat).toNat % 2 ^ (8 * w)
  | .imm20 v => if isInt then (v.signExtend 32).toNat else v.toNat * 2 ^ 12
  | .lit v => v.toNat % 2 ^ (8 * w)

/-- The writes of elements (index, code) of width `w` to the span from name `n` (R141, R142). -/
def elemWrites (t : Task) (n w : Nat) (res : List (Nat × Nat)) : List Write :=
  let per := 256 / w
  let regs := (upTo 4 id).filter (fun r => res.any (fun x => x.1 / per == r))
  regs.map (fun r =>
    let mine := res.filter (fun x => x.1 / per == r)
    let mask := mine.foldl (fun a x => a + (2 ^ w - 1) * 2 ^ (w * (x.1 % per))) 0
    let val := mine.foldl (fun a x => a + x.2 % 2 ^ (8 * w) * 2 ^ (8 * w * (x.1 % per))) 0
    .v (physV t (n + r)) (BitVec.ofNat 256 mask) (BitVec.ofNat 2048 val))

/-- The lanes of elements (index, truth) of width `w` in predicate `pd` (R129, R146). -/
def predWrite (t : Task) (pd w : Nat) (res : List (Nat × Bool)) : Write :=
  let mask := res.foldl (fun a x => a + (2 ^ w - 1) * 2 ^ (w * x.1)) 0
  let val := res.foldl (fun a x => a + (if x.2 then (2 ^ w - 1) * 2 ^ (w * x.1) else 0)) 0
  .p (physP t pd) (BitVec.ofNat 256 mask) (BitVec.ofNat 256 val)

/-- The floating-point format of a TYPE (R61, R70): B8P and B8INF come from VCSR. -/
def b8p (t : Task) : Nat := (t.vcsr.extractLsb' 12 3).toNat
def b8inf (t : Task) : Bool := t.vcsr.getLsbD 11
def typeFmt (t : Task) (ty : Nat) : Fmt :=
  if ty = 0 then fp32 else if ty = 1 then bf16 else if ty = 2 then fp16
  else if ty = 3 then b8s (b8p t) (b8inf t) else b8u (b8p t) (b8inf t)
def isB8 (ty : Nat) : Bool := ty == 3 || ty == 4
def isIntTy (ty : Nat) : Bool := 5 ≤ ty
def intSigned (ty : Nat) : Bool := ty == 5 || ty == 6 || ty == 7

/-- An integer element as a number. -/
def intVal (ty c : Nat) : Int :=
  let w := 8 * typeBytes ty
  if intSigned ty && c ≥ 2 ^ (w - 1) then (c : Int) - 2 ^ w else c

/-- Any element as a value. -/
def typeVal (t : Task) (ty c : Nat) : FVal := if isIntTy ty then FVal.ofInt (intVal ty c) else (typeFmt t ty).decode c

/-- The rounding mode of element `e` (R64, R143): RM, or RMODE where RM is 0; a stochastic one draws at x31 + e. -/
def vmode (t : Task) (rm : Nat) (x31 : Word) (e : Nat) : Mode :=
  let rmode := (t.vcsr.extractLsb' 8 2).toNat
  let code := if rm = 0 then rmode + 1 else rm
  if code = 2 then .rtz
  else if code = 3 then
    .sto (drawUnif (lichen t.key ((t.vcsr.extractLsb' 48 16).setWidth 32) (x31 + BitVec.ofNat 64 e)))
  else .rne

/-! ### Records (R39, R112 to R115) -/

/-- Base(X): the 32-bit base, or an x register plus an unsigned offset (R39). -/
def recBase (u : Seq) (x : RecOperand) : Word :=
  if x.br then u.reg (x.base.extractLsb' 0 5).toNat + (x.base.extractLsb' 5 27).setWidth 64 else x.base.setWidth 64

/-- Σ il × StrideX(l), in elements (R39). -/
def recSteps (x : RecOperand) (i0 i1 i2 i3 : Nat) : Int :=
  i0 * x.s0.toInt + i1 * x.s1.toInt + i2 * x.s2.toInt + i3 * x.s3.toInt

/-- Fields of a bit map (R112). -/
def bmNbits (m : BitVec 1024) : Nat := bits m.toNat (96 * 8) 16
def bmOwn (m : BitVec 1024) : Nat := bits m.toNat (98 * 8) 16
def bmSstride (m : BitVec 1024) : Nat := bits m.toNat (104 * 8) 64
def bmChipwin (m : BitVec 1024) : Nat := bits m.toNat (112 * 8) 64
def bmChipstride (m : BitVec 1024) : Nat := bits m.toNat (120 * 8) 64
def bmEntry (m : BitVec 1024) (j : Nat) : Nat := bits m.toNat (16 * j) 16
def bmKind (e : Nat) : Nat := e / 2 ^ 13
def bmPos (e : Nat) : Nat := e % 64

/-- R113: the map is valid. -/
def bmValid (m : BitVec 1024) : Bool :=
  let n := bmNbits m
  let es := upTo (min n 48) (bmEntry m)
  let okEntry (e : Nat) : Bool :=
    let k := bmKind e
    let p := bmPos e
    bits e 6 7 == 0 && (if k = 0 then p ≤ 47 else if k = 1 then p ≤ 2 else if k = 2 then p ≤ 3 else if k = 3 then p ≤ 8 else k == 4 && p == 0)
  let clash := (upTo es.length id).any (fun i => (upTo i id).any (fun j =>
    es.getD i 0 == es.getD j 0 && bmKind (es.getD i 0) != 4))
  n ≤ 48 && (upTo 48 id).all (fun j => j < n || bmEntry m j == 0) && es.all okEntry && !clash
    && bits m.toNat (100 * 8) 32 == 0 && bmOwn m < 512
    && (upTo 9 id).all (fun b => !(bmOwn m).testBit b || es.any (fun e => bmKind e == 3 && bmPos e == b))

/-- The address of a record operand, or SKIP; a CORE map faults past the end of a scratchpad (R114). -/
inductive MapRes where
  | skip
  | addr (a : Nat)
  | bad (a : Nat)
deriving DecidableEq, Repr

/-- Σ over the bits of `L` whose entry has a kind, of 2^POS (R114). -/
def bmSum (m : BitVec 1024) (n L kind : Nat) : Nat :=
  (upTo n id).foldl (fun a j => let e := bmEntry m j; if bmKind e == kind && L.testBit j then a + 2 ^ bmPos e else a) 0

/-- MapAddr (R114). Where a CORE map passes the end of a scratchpad no address of an access has been formed, and FADDR of its EXTENT is the
offset before the term of the core is added (DESIGN CHOICE, log 86). -/
def mapAddr (m : BitVec 1024) (base : Word) (L : Nat) (isDest : Bool) : MapRes :=
  let n := bmNbits m
  if L / 2 ^ n ≠ 0 then .skip
  else if (upTo n id).any (fun j => bmKind (bmEntry m j) == 4 && L.testBit j) then .skip
  else
    let off := bmSum m n L 0
    let chip := bmSum m n L 3
    if chip ≠ bmOwn m then
      if isDest && bmChipwin m ≠ 0 then .addr ((bmChipwin m + chip * bmChipstride m + off) % 2 ^ 48) else .skip
    else
      let a := (base.toNat + bmSum m n L 2 * bmSstride m + off) % 2 ^ 48
      if (upTo n id).any (fun j => bmKind (bmEntry m j) == 1) then
        if a > 0x7FFFFF then .bad a else .addr (Config.peerBase + bmSum m n L 1 * Config.spadBytes + a)
      else .addr a

/-- The address of an operand at a point of the loop nest: linear in elements of `size` bytes, or through the map, where the
logical index also takes `lbase` and `extra` steps (R39, R114, R172). -/
def recAddr (m : BitVec 1024) (x : RecOperand) (base : Word) (i0 i1 i2 i3 size lbase : Nat) (extra : Int) (isDest : Bool) : MapRes :=
  let steps := recSteps x i0 i1 i2 i3 + extra
  if x.bm then mapAddr m base (wrap 48 (lbase + steps)) isDest
  else .addr (wrap 48 (base.toNat + steps * size))

end Sys2Proof.Machine
end

