-- ==== Sys2Proof/Machine/Run.lean ====
section
/-! DEFINITION. What every meaning is built from: the issue of an instruction with its own length, and the register,
branch, store and release steps that the meanings share. -/

namespace Sys2Proof.Machine

/-- The issue of an instruction that occupies `ticks` ticks (R25, R260). -/
def run (i : Instr) (y : Syn) (ticks : Nat) (body : State → Res) (s : State) : Host.Outcome State Fault Refusal :=
  issue y i (inSpace s.cur.q i) (encode i).length ticks body s

/-- The id that a single issue's effects carry: a record's first single issue has the id before the record's (R27). -/
def RecProg.issueId (p : RecProg) : Nat := if p.began then p.id else p.id - 1

/-- The id of the instruction or single issue that executes. -/
def curId (s : State) : Nat :=
  match s.me.prog with
  | some p => p.issueId
  | none =>
    match s.me.wait with
    | some w => w.id
    | none => s.me.nextId

/-- How far its waiting phase has come. -/
def curOp (s : State) : OpProg := match s.me.wait with | some w => w.op | none => .none
def curSent (s : State) : Nat :=
  match s.me.prog with
  | some p => p.sent
  | none =>
    match s.me.wait with
    | some w => w.sent
    | none => 0

def myCore (s : State) : Nat := s.cur.core
def myBank (s : State) : Nat := s.bankOf s.cur.core

/-- The head parcel's address: the PC stands after the instruction while its body runs. -/
def headPc (s : State) (i : Instr) : BitVec 48 := s.me.pc - BitVec.ofNat 48 (4 * (encode i).length)

/-- The target of R31. -/
def branchTarget (head : BitVec 48) (p1 : BitVec 32) : BitVec 48 := head + 4 * p1.signExtend 48

/-- A trap of a field that a value, not the bits alone, makes illegal: FADDR is the head parcel (R326). -/
def fieldTrap (s : State) (i : Instr) : Res := .trap .illegalField (headPc s i).toNat 0 s

/-- The instruction reads a word of a register or a queue with two bits in error (R344, R326; log 73). -/
def eccTrap (s : State) : Res := .trap .eccUncorrectable (Config.eccAddr s.moves) 0 s

/-- Every earlier access of C has been performed: its stores, and the departure of its reflected stores (R263, R274). -/
def cPerformed (s : State) : Bool :=
  s.here.c.stores.isEmpty && !s.flits.any (fun f => !f.departed && f.ofSeq (myCore s) (myBank s) .c)

/-- Every earlier reflected store of C has been acknowledged (R270, R279). -/
def cAcked (s : State) : Bool :=
  !s.flits.any (fun f => f.ofSeq (myCore s) (myBank s) .c)

/-- A store of the executing sequencer at a checked place: queued, or sent into its window. -/
def storeAt (s : State) (p : Place) (bs : List Byte) : TxRes :=
  match p with
  | .tx a => txStore s (myCore s) (myBank s) s.cur.q (curId s) s.here.part a (bs.mapIdx (fun i b => (a + i, b)))
  | _ => .sent (queueStore s (curId s) p (bs.map some))

/-- A result on its way, `latency` ticks from the issue (R29), with the bytes that it has yet to read, `ordered` or in any order. It is produced by
an event of its own (R363), or with the write of its register. -/
def pendLoads (s : State) (latency : Nat) (ws : List Write) (fl : Flags) (ordered : Bool) (loads : List LoadPiece) : State :=
  let u := s.me
  s.setMe { u with pend := u.pend ++ [{ id := curId s, due := u.tick - 1 + latency, writes := ws, flags := fl, loads := loads,
                                        produced := false, region := u.regionNo, since := s.mcc, lat := latency, pc := u.head, ordered := ordered }] }

/-- A result register write of an engine at its latency (R29). -/
def pendWrites (s : State) (latency : Nat) (ws : List Write) (fl : Flags) : State := pendLoads s latency ws fl false []

/-- The pieces of `n` granules from an aligned place on (R96): `dest` takes a granule's number. -/
def granulePieces (dest : Nat → LoadDest) (p : Place) (addr n : Nat) : List LoadPiece :=
  upTo n (fun g => { place := p.add (16 * g), len := 16, dest := dest g, addr := addr + 16 * g })

/-- An access of the executing sequencer finds its bank, its port and its wheel (R124, R125, R321). -/
def open1 (s : State) (p : Place) : Bool := portOpen s (myCore s) s.here.part s.cur.q p

/-- A read of the executing sequencer keeps E1 of R295: its own earlier stores to the granules of a place have committed (R159), and none of its
own loads waits there. -/
def ownCommitted (s : State) (p : Place) (n : Nat) : Bool := readClear s s.me s.me.pend s.me.nextId p n

/-- The cluster port of the core, by which a place beyond it is reached, is not busy (R125). -/
def peerOpen (s : State) (p : Place) : Bool :=
  match p with
  | .spad c _ => c == myCore s || !s.ports.contains (myCore s)
  | _ => true

/-- An access of a timed sequencer finds the wheel of its stack at its issue (R122). -/
def wheelKept (s : State) (p : Place) : Bool := !timedHere s || (match p with | .hbm _ => open1 s p | _ => true)

/-- A store may issue: a busy cluster port keeps it waiting (R125), or has a timed sequencer miss its tick (R122). -/
def mayStore (s : State) (p : Place) : Bool := peerOpen s p && wheelKept s p

/-- The stack whose wheel an access waits for (R321). -/
def waitFor (p : Place) : OpProg := match p with | .hbm a => .stack (a / 2 ^ 37) | _ => .none

/-- A read of the executing sequencer that is performed now: what it leaves, and its bytes. -/
def readNow (s : State) (p : Place) (n : Nat) : State × List Byte := readBytes (served s s.here.part p) p n

/-! ### Reads that are events of their own (R293) -/

/-- How the granule of a place is read and kept: the `n` bytes at a place of what has been read, and the state with the granule of a place read as well.
`none`: it has to wait. -/
structure Reader where
  kept : State → Place → Nat → Option (List Byte)
  read : State → Place → Option State

/-- The executing sequencer keeps what it reads until its instruction completes. -/
def ownReader : Reader where
  kept s p n := s.me.earlyAt false p n
  read s p :=
    if open1 s p && ownCommitted s p.granule 16 then
      let r := readNow s p.granule 16
      some (r.1.setMe { r.1.me with early := r.1.me.early ++ [{ fetch := false, place := p.granule, bytes := r.2 }] })
    else none

/-- Why the reads of an instruction stop: a fault, or a wait, which names its stack. -/
inductive ReadStop where
  | fault (f : AccFault) (s : State)
  | wait (op : OpProg) (s : State)

def ReadStop.res : ReadStop → Res
  | .fault f s => f.res s
  | .wait op s => .wait 5 op 0 0 s

/-- `m` bytes at each place of a list, in its order. -/
def readInOrder (rd : Reader) (m : Nat) : List Place → State → Except ReadStop (State × List (List Byte))
  | [], s => .ok (s, [])
  | p :: ps, s =>
    match (if (rd.kept s p m).isSome then some s else rd.read s p) with
    | none => .error (.wait (waitFor p) s)
    | some s =>
      match readInOrder rd m ps s with
      | .error e => .error e
      | .ok r => .ok (r.1, (rd.kept s p m).getD [] :: r.2)

/-- The reads of an instruction that do not depend on each other: each is an event of its own, and may come in any order where turns make them one
by one; another agent may come between. -/
def readPlaces (rd : Reader) (m : Nat) (ps : List Place) (s : State) : Except ReadStop (State × List (List Byte)) :=
  match s.pick with
  | none => readInOrder rd m ps s
  | some n =>
    let todo := ps.filter (fun p => !(rd.kept s p m).isSome)
    if todo.isEmpty then readInOrder rd m ps s else .error (.wait .none ((todo[n]?.bind (rd.read s)).getD s))

/-- The places of `n` pieces of `k` bytes from task address `a` on, each checked as one access of its own, which may reach over several granules. -/
def checkSpan (s : State) (core : Nat) (t : Task) (rs : Ranges) (k : Nat) : Nat → Nat → Except AccFault (List Place)
  | 0, _ => .ok []
  | n + 1, a =>
    match checkAccess s core t rs .load (a % 2 ^ 48) k k with
    | .error f => .error f
    | .ok p => (checkSpan s core t rs k n (a + k)).map (fun l => upTo ((k + 15) / 16) (fun g => p.add (16 * g)) ++ l)

/-- Those pieces read, up to 16 bytes at once. -/
def readSpan (rd : Reader) (core : Nat) (t : Task) (rs : Ranges) (k n a : Nat) (s : State) : Except ReadStop (State × List (List Byte)) :=
  match checkSpan s core t rs k n a with
  | .error f => .error (.fault f s)
  | .ok ps => readPlaces rd (min 16 k) ps s

/-- `n` pieces of `k` bytes of a task's memory, as one (R255, R263). -/
def readAs (rd : Reader) (core : Nat) (t : Task) (rs : Ranges) (k n a : Nat) (s : State) : Except ReadStop (State × List Byte) :=
  (readSpan rd core t rs k n a s).map (fun r => (r.1, r.2.flatten))

/-- `n` numbers of `k` bytes in memory. -/
def readNums (rd : Reader) (core : Nat) (t : Task) (k n a : Nat) (s : State) : Except ReadStop (State × List Nat) :=
  (readSpan rd core t Ranges.noTx k n a s).map (fun r => (r.1, r.2.map leNat))

/-- The bytes of task memory that C reads in `n` pieces of `k` bytes (R362, R263, R293). -/
def readTask (s : State) (rs : Ranges) (k n a : Nat) : Except ReadStop (State × List Byte) := readAs ownReader (myCore s) s.here rs k n a s

/-- An event that can happen only under `cond`; elsewhere it does nothing. -/
def event (s : State) (cond : Bool) (f : Host.Outcome State Fault Refusal) : Host.Outcome State Fault Refusal :=
  if alive s && cond then f else .next s

/-- The instruction in its waiting phase on C of a bank completes: the PC passes it, its tokens go (R275). -/
def completeWaiting (s : State) (core bank : Nat) (len : Nat) : State :=
  match s.task? core bank with
  | none => s
  | some t =>
    match t.c.wait with
    | none => s
    | some w =>
      let u := t.c.waited w s.mcc
      let u := { u with wait := none, early := [], pc := u.pc + BitVec.ofNat 48 (4 * len),
                        flights := u.flights ++ [{ id := w.id, sig := w.sig, took := w.took, region := u.regionNo }] }
      settle (s.setTask core bank (some { t with c := u })) core bank .c

end Sys2Proof.Machine
end

