-- ==== Sys2Proof/Machine/Agent.lean ====
section
/-! DEFINITION. What the sorus agent sends: one flit into every sorus window, in order (R242). -/

namespace Sys2Proof.Machine

/-- The core number that stands for the agent in a flit. -/
def agentCore : Nat := 512

/-- The sorus transmit windows that are mapped, ascending. -/
def sorusWins (s : State) : List Nat :=
  let c := s.sorus.cfg.toNat
  (upTo (bits c 38 3 + 1) (fun i => bits c 0 10 + i)).filter (fun w => (s.txWin w).mapped && (s.txWin w).part == sorOwner s)

/-- The window has room for one more flit (R225). -/
def txRoom (s : State) (w : Nat) : Bool := s.txCount w < (s.txWin w).allowance

/-- One record as one flit into a window, at a ring offset. -/
def agentFlit (s : State) (win off : Nat) (r : BitVec 256) : State :=
  let w := s.txWin win
  let live := w.mask &&& ~~~ w.dead
  let k := off % 64
  let f : Flit :=
    { id := s.nextFlit, win := win, core := agentCore, block := off / 64, mask := blockMask k 32,
      data := blockData 0 k (leBytes 32 r.toNat), order := touch [] k 32, isOpen := false, lost := w.dead, copies := live,
      departed := live == 0, departGt := s.gt, owners := [] }
  let s := { s with flits := s.flits ++ [f], nextFlit := s.nextFlit + 1 }
  if live == 0 && w.loop == 2 then loopBack s f else s

/-- A record goes into its windows in ascending order, as far as they have room. -/
def pumpOne : Nat → State → SorSend → State × SorSend
  | 0, s, x => (s, x)
  | n + 1, s, x =>
    match x.waiting with
    | [] => (s, x)
    | w :: ws =>
      if txRoom s w then
        pumpOne n (agentFlit s w x.off x.record) { x with waiting := ws, flits := x.flits ++ [s.nextFlit] }
      else (s, x)

/-- Records go in order: none before an earlier one that still waits. -/
def pumpList : State → List SorSend → State × List SorSend
  | s, [] => (s, [])
  | s, x :: xs =>
    let a := pumpOne x.waiting.length s x
    if a.2.waiting.isEmpty then
      let b := pumpList a.1 xs
      (b.1, a.2 :: b.2)
    else (a.1, a.2 :: xs)

def agentPump (s : State) : State :=
  let r := pumpList s s.sorus.sends
  { r.1 with sorus := { r.1.sorus with sends := r.2 } }

/-- The agent's own writes: those that every window has acknowledged, in the order in which they were sent. -/
def agentWrites : Nat → State → State
  | 0, s => s
  | n + 1, s =>
    match s.sorus.sends with
    | [] => s
    | x :: xs =>
      if x.waiting.isEmpty && x.flits.isEmpty then
        agentWrites n (ringArrive { s with sorus := { s.sorus with sends := xs } } x.off x.record none)
      else s

/-- What has room goes, what is acknowledged is written. -/
def agentRun (s : State) : State :=
  let s := agentPump s
  agentWrites s.sorus.sends.length s

/-- The agent sends a record. -/
def agentSend (s : State) (off : Nat) (r : BitVec 256) : State :=
  let x : SorSend := { off := off, record := r, flits := [], waiting := sorusWins s }
  agentRun { s with sorus := { s.sorus with sends := s.sorus.sends ++ [x] } }

/-- A flit of the agent is acknowledged. -/
def agentAcked (s : State) (fid : Nat) : State :=
  agentRun { s with sorus := { s.sorus with sends := s.sorus.sends.map (fun x => { x with flits := x.flits.filter (· != fid) }) } }

end Sys2Proof.Machine
end

