-- ==== Sys2Proof/Machine/Fetch.lean ====
section
/-! DEFINITION. Fetching an instruction in the order of R25 with the straddle rule of R343, and the clocks (R87, R236, R280). -/

namespace Sys2Proof.Machine

/-- What a fetch gives: an instruction to run, or a trap at the head parcel. -/
inductive FetchRes where
  | run (i : Instr)
  | trap (c : Cause) (faddr flags : Nat)
deriving DecidableEq, Repr

/-- The parcels after the head. A page that cannot be fetched faults FETCH at its first byte, with STRADDLE (R343). -/
def fetchRest (s : State) (core : Nat) (q : SeqId) (t : Task) : Nat → Nat → Except FetchRes (List Parcel)
  | 0, _ => .ok []
  | n + 1, a =>
    let a := a % 2 ^ 48
    match fetchParcel s core q t a with
    | .ok p =>
      match fetchRest s core q t n (a + 4) with
      | .ok ps => .ok (p :: ps)
      | .error e => .error e
    | .error f =>
      if f.cause = .eccUncorrectable then .error (.trap .eccUncorrectable a 0)
      else .error (.trap .fetch (a / 4096 * 4096) flagStraddle)

/-- CSRW names a privileged CSR in p1 (R287). -/
def csrwPrivileged (q : SeqId) (opc : Nat) (rest : List Parcel) : Bool :=
  q == .c && opc == 0x5D && (match rest with | p1 :: _ => csrPrivileged (p1.toNat % 4096) | [] => false)

/-- The instruction at the PC of a sequencer (R25 steps 1 to 6). -/
def fetchInstr (s : State) (core : Nat) (q : SeqId) (t : Task) : FetchRes :=
  let pc := (t.seq q).pc.toNat
  match fetchParcel s core q t pc with
  | .error f => .trap f.cause f.addr 0
  | .ok h =>
    let opc := (hOpc h).toNat
    match opcLens q opc with
    | none => .run (.illegalOpcode core q h)
    | some ls =>
      if !ls.contains (hLen h).toNat then .trap .illegalForm pc 0
      else if opcPrivileged q opc && !t.priv then .trap .privileged pc 0
      else
        match fetchRest s core q t (extraParcels (hLen h)) (pc + 4) with
        | .error e => e
        | .ok rest =>
          if csrwPrivileged q opc rest && !t.priv then .trap .privileged pc 0
          else match decode q (h :: rest) with
            | .ok i => .run i
            | .error _ => .trap .illegalField pc 0

/-- The granule of a parcel is fetched, as one read event after the sequencer's own stores to it (R293, R295 E1), with what the controller corrects
(R93). Where the sequencer is not timed it waits for the wheel of its stack (R320); no rule gives the cycle of the fetch of a timed one (log 3).
What cannot be fetched is left to the order of the checks. `none`: it must wait. -/
def fetchGranule (s : State) (core : Nat) (q : SeqId) (a : Nat) : Option State :=
  let b := s.bankOf core
  match s.task? core b with
  | none => some s
  | some t =>
    let u := t.seq q
    match checkAccess s core t Ranges.hbmOnly .fetch (a % 2 ^ 48) 4 4 with
    | .error _ => some s
    | .ok p =>
      if (u.earlyAt true p 4).isSome then some s
      else if (isTimed t u || portOpen s core t.part q p) && readClear s u u.pend u.nextId p.granule 16 then
        let s := drainAt s core b q u.nextId p.granule 16
        let s := if isTimed t u then s else served s t.part p
        match s.task? core b with
        | none => some s
        | some t =>
          let u := t.seq q
          some (s.setTask core b (some (t.setSeq q { u with early := u.early ++ [{ fetch := true, place := p.granule, bytes := readPlace s p.granule 16 }] })))
      else none

/-- The task from which a core issues. -/
def coreTask (s : State) (core : Nat) : Task := (s.task? core (s.bankOf core)).getD Task.reset

/-- The granule of a parcel has been fetched, or cannot be, which is left to the order of the checks. -/
def fetched (s : State) (core : Nat) (q : SeqId) (t : Task) (a : Nat) : Bool :=
  match checkAccess s core t Ranges.hbmOnly .fetch (a % 2 ^ 48) 4 4 with
  | .error _ => true
  | .ok p => ((t.seq q).earlyAt true p 4).isSome

/-- The granules of parcels at the addresses of a list are fetched, in their order, or one of them alone, where the turn makes one read (R293). Also:
whether all of them are there. -/
def fetchAll (core : Nat) (q : SeqId) : List Nat → State → State × Bool
  | [], s => (s, true)
  | a :: l, s =>
    match fetchGranule s core q a with
    | none => (s, false)
    | some s => fetchAll core q l s

def fetchGranules (core : Nat) (q : SeqId) (l : List Nat) (s : State) : State × Bool :=
  match s.pick with
  | none => fetchAll core q l s
  | some n =>
    let todo := l.filter (fun a => !fetched s core q (coreTask s core) a)
    if todo.isEmpty then (s, true) else ((todo[n]?.bind (fetchGranule s core q)).getD s, false)

/-- The parcels that follow the head parcel at the PC, as far as its opcode and length are there. -/
def parcelsAfter (s : State) (core : Nat) (q : SeqId) (t : Task) : Nat :=
  match fetchParcel s core q t (t.seq q).pc.toNat with
  | .error _ => 0
  | .ok h => if ((opcLens q (hOpc h).toNat).getD []).contains (hLen h).toNat then extraParcels (hLen h) else 0

/-- The parcels after the head parcel at the PC that begin another granule. -/
def granulesAfter (s : State) (core : Nat) (q : SeqId) : List Nat :=
  let t := coreTask s core
  (upTo (parcelsAfter s core q t) (fun k => (t.seq q).pc.toNat + 4 * (k + 1))).filter (fun a => a % 16 == 0)

/-- The instruction at the PC of a sequencer is fetched, granule by granule: what that leaves, and what it gives, once all is there. -/
def fetchNow (s : State) (core : Nat) (q : SeqId) : State × Option FetchRes :=
  let r := fetchGranules core q [((coreTask s core).seq q).pc.toNat] s
  if r.2 then
    let r := fetchGranules core q (granulesAfter r.1 core q) r.1
    (r.1, if r.2 then some (fetchInstr r.1 core q (coreTask r.1 core)) else none)
  else (r.1, none)

/-- The stack in which the next granule to be fetched lies (R321). -/
def fetchStack (s : State) (core : Nat) (q : SeqId) : OpProg :=
  let t := coreTask s core
  match ((t.seq q).pc.toNat :: granulesAfter s core q).find? (fun a => !fetched s core q t a) with
  | none => .none
  | some a =>
    match checkAccess s core t Ranges.hbmOnly .fetch (a % 2 ^ 48) 4 4 with
    | .ok (.hbm p) => .stack (p / 2 ^ 37)
    | _ => .none

/-- The stalls that the watchdog counts, with a limit (R262, R365). -/
def watched (p : Partition) (w : Wait) : Bool := 1 ≤ w.kind && w.kind ≤ 7 && (p.csrVal 0x104).toNat != 0
def watchdogAt (p : Partition) (w : Wait) : Nat := w.since + (p.csrVal 0x104).toNat

/-- A store that waits for its window, and the GT at which LEASE_WAIT stops it (R99). -/
def leaseWaits (w : Wait) : Bool := w.kind == 5 && inTx w.addr
def leaseAt (p : Partition) (w : Wait) : Nat := w.sinceGt + (p.csrVal 0x101).toNat

/-- A COLLW or a COLL that waits, and the GT at which its bound stops it (R249, R255, R256). -/
def collWaits (w : Wait) : Bool := match w.op with | .coll _ => true | _ => false
def collAt (p : Partition) (w : Wait) : Nat := w.sinceGt + (p.csrVal 0x103).toNat

/-- The cycles at which something of a core is due: an issue or an access of a timed sequencer (R28, R301), the limit of a stall (R262). -/
def coreCycles (s : State) (core : Nat) (t : Task) : List Nat :=
  [SeqId.c, .t, .v, .m].flatMap (fun q => if isTimed t (t.seq q) then (accessDue s core (s.bankOf core) q (t.seq q)).map (·.1) else [])
    ++ [SeqId.c, .t, .v, .m].flatMap (fun q =>
      let u := t.seq q
      if u.stream != .running || !mayGoOn s core t q then []
      else (nextDue s core q t).toList
        ++ (match u.wait with | some w => if watched (s.part t.part) w then [watchdogAt (s.part t.part) w] else [] | none => []))

/-- A SORW that waits for a step, and the GT at which it faults (R249). -/
def gapAt (s : State) (n : Nat) : Option Nat :=
  match s.sorus.step? n with
  | some t => if t.complete then none else some (t.openGt + s.sorus.dl.toNat + s.sorus.gap.toNat)
  | none => none

/-- The moments of GT at which a wait of a core reaches a bound of its own (R99, R249, R255). -/
def coreMoments (s : State) (t : Task) : List Nat :=
  [SeqId.c, .t, .v, .m].flatMap (fun q =>
    match (if lateHere t q then none else (t.seq q).wait) with
    | some w =>
      if leaseWaits w then [leaseAt (s.part t.part) w] else if collWaits w then [collAt (s.part t.part) w]
      else if w.kind == 4 then (gapAt s w.addr).toList else []
    | none => [])

/-- C of the task that a WMAP asks for may go on. -/
def askerGoes (s : State) (asker : Nat) : Bool :=
  let core := (asker - 1) / 2
  let b := (asker - 1) % 2
  asker != 0 && s.bankOf core == b && (match s.task? core b with | some t => t.hold == .none && mayGoOn s core t .c | none => false)

/-- ACKTMO of the owner of the sorus. -/
def gapAckTmo (s : State) : Nat := ((s.part (sorOwner s)).csrVal 0x102).toNat

/-- The moments at which the waits of COLLs that no core issued reach their bound (R255, R257), at which a source or a member that has not answered
counts as silent (R98, R219), and at which the acknowledgement of a flit, or of a message of gap recovery, times out (R229, R247). -/
def partMoments (s : State) : List Nat :=
  s.parts.flatMap (fun e => (e.2.collPend.filter (fun x => x.late.isNone)).map (fun x => x.sinceGt + (e.2.csrVal 0x103).toNat))
    ++ s.rx.flatMap (fun e => if e.2.recallGt != 0 && !e.2.leases.isEmpty then [e.2.recallGt - 1 + Config.answerNs] else [])
    ++ s.tx.flatMap (fun e => if askerGoes s e.2.asker && BitVec.ofNat 64 (2 ^ e.2.members.length - 1) &&& ~~~ (e.2.granted ||| e.2.refused) != 0 then [e.2.askedGt + Config.answerNs] else [])
    ++ (s.flits.filter (·.departed)).map (fun f => f.departGt + ((s.part (s.txWin f.win).part).csrVal 0x102).toNat)
    ++ (s.sorus.gapSent.filter (fun x => x.gone && x.late == 0)).map (fun x => x.gt + gapAckTmo s)

/-- The tasks that have a core and may issue. -/
def activeTasks (s : State) : List (Nat × Task) :=
  s.cores.filterMap (fun e => match e.2.task? e.2.bank with | some t => if t.hold == .none then some (e.1, t) else none | none => none)

/-- How far a clock that stands at `now` may go towards `wish`: not past the first of the moments that it has not passed. -/
def clockRoom (now wish : Nat) (moments : List Nat) : Nat :=
  (moments.filter (now ≤ ·)).foldl (fun c d => min c (d - now)) wish

/-- A launch is ready for a core (R323): it would start its task there but for tasks of lower priority, or its task there has come back into
a bank while a task of lower priority has the core. -/
def readyFor (s : State) (p : Partition) (l : Launch) (core : Nat) : Bool :=
  let c := s.core core
  let below (t : Task) : Bool := t.prio < dPrio l.desc
  let room (b : Option Task) : Bool := match b with | none => true | some t => below t
  let back : Bool := match c.task? c.bank, c.task? (1 - c.bank) with
    | some t, some x => x.launch == l.id && x.hold == .none && below t
    | _, _ => false
  (gate p l && !l.coresStarted.contains core && (room c.bank0 || room c.bank1)) || back

/-- The moment from which a launch is ready for a core, as GT + 1, kept while it is (R323). -/
def readyNote (s : State) (p : Partition) (cores : List Nat) (l : Launch) : Launch :=
  { l with ready := cores.foldl (fun m n => if readyFor s p l n then (if Sparse.get 0 m n = 0 then Sparse.set 0 n (s.gt + 1) m else m) else Sparse.set 0 n 0 m) l.ready }

/-- Before time passes it is noted which launches have become ready at this moment. -/
def noteReady (s : State) : State :=
  { s with parts := s.parts.map (fun e =>
      (e.1, { e.2 with launches := e.2.launches.map (fun l => if l.over then l else readyNote s e.2 (coresOf e.1 e.2) l) })) }

/-- Time passes while the clocks run: module cycles and nanoseconds, not past a cycle on which something is due. A pending correction is
slewed by at most 1 ns per us, and GT never decreases (R237, R359). GT stands while something is due on this cycle: of two limits the lower one is
reached first (R99). -/
def clockTick (s : State) (cycles ns : Nat) : State :=
  if alive s then
    let s := noteReady s
    let ts := activeTasks s
    let cs := ts.flatMap (fun x => coreCycles s x.1 x.2)
    let ms := partMoments s ++ ts.flatMap (fun x => coreMoments s x.2)
    let c := clockRoom s.mcc cycles cs
    let n := if c = cycles && !cs.contains s.mcc then clockRoom s.gt ns ms else 0
    let k : Int := (n / 1000 : Nat)
    let d := min (max (-k) (min k s.slew)) ((clockRoom s.gt (n + n / 1000) ms : Nat) - (n : Int))
    { s with served := if c = 0 then s.served else [], mcc := s.mcc + c, gt := ((s.gt : Int) + n + d).toNat % 2 ^ 64, slew := s.slew - d }
  else s

/-- A sequencer of a core has the turn: whether it may act, with the execution context set on it. -/
def onTurn (s : State) (core : Nat) (q : SeqId) : Option State :=
  let s := { s with cur := { core := core, q := q } }
  if (s.task? core (s.bankOf core)).isSome && s.here.hold == .none && s.me.stream == .running && mayGoOn s core s.here q then some s else none

end Sys2Proof.Machine
end

