-- ==== Sys2Proof/Machine/Windows.lean ====
section
/-! DEFINITION. Windows, leases, flits on the torus and their acknowledgements (R97, R98, R215 to R233). -/

namespace Sys2Proof.Machine

/-! ### Peers (R219) -/

/-- FGMASK of a partition (R219). -/
def inGroup (s : State) (part m : Nat) : Bool := m < 512 && ((s.part part).csrVal (0x118 + m / 64)).getLsbD (m % 64)

/-- A peer that may be named (R219 code 3). -/
def peerKnown (s : State) (part m : Nat) : Bool := inDomain s m && !s.disabled.getLsbD m && inGroup s part m

/-- A port that is not ready acts as a disabled member (R355): for a window one of those that carry its slots, else one of the direction. -/
def peerOk (s : State) (part m : Nat) : Bool :=
  peerKnown s part m && (match firstHop s m with | some p => hopReady s p | none => true)
def txPeerOk (s : State) (part set m : Nat) : Bool := peerKnown s part m && (exitPorts s set m).any (portReady s)

/-! ### Descriptors (R216, R217) -/

def wIndex (d : Nat) : Nat := bits d 0 10
def wIsRx (d : Nat) : Bool := d.testBit 15
def wLog (d : Nat) : Nat := bits d 16 8
def wLoop (d : Nat) : Nat := bits d 24 2
def wSlots (d : Nat) : Nat := bits d 40 8
def wAllow (d : Nat) : Nat := bits d 48 16
def wLBase (d : Nat) : Nat := bits d 64 64
def wRx (d : Nat) : Nat := bits d 176 10
def wRxOff (d : Nat) : Nat := bits d 128 48
def wCount (d : Nat) : Nat := bits d 192 8
def wList (d : Nat) : Nat := bits d 256 64

/-- Reserved fields, the size and the count, and the fields that do not apply to a receive window. -/
def wShape (d : Nat) : Bool :=
  bits d 320 192 == 0 && bits d 200 56 == 0 && bits d 32 8 == 0 && bits d 26 5 == 0 && bits d 10 5 == 0
    && 12 ≤ wLog d && wLog d ≤ 32 && wCount d ≤ 64
    && (if wIsRx d then bits d 128 64 == 0 && wAllow d == 0 && wSlots d == 0 && !d.testBit 31 && wLoop d == 0
        else wCount d != 0 && bits d 186 6 == 0 && wAllow d != 0 && wSlots d < 64 && wLoop d != 3)

/-- LBASE of a receive window (R217). -/
def rxBaseOk (s : State) (d : Nat) : Bool :=
  let b := wLBase d
  let n := 2 ^ wLog d
  if b.testBit 63 then bits b 57 6 == 0 && bits b 23 25 == 0 && bits b 0 23 % n == 0 && wLog d ≤ 23
  else b % n == 0 && s.populated b n && s.stackReady (b / 2 ^ 37)

/-- LBASE of a transmit window, and no overlap with another of the partition. -/
def txBaseOk (s : State) (part d : Nat) : Bool :=
  let b := wLBase d
  let n := 2 ^ wLog d
  b % n == 0 && Config.txBase ≤ b && b + n ≤ Config.txTop
    && s.tx.all (fun e => e.2.part != part || e.2.lbase + e.2.size ≤ b || b + n ≤ e.2.lbase)

/-- The member list: entries of 2 bytes (R216). -/
def readMembers (s : State) (n a : Nat) : Except ReadStop (State × List Nat) := readNums ownReader (myCore s) s.here 2 n a s

/-- The list is good: module numbers without repeats. -/
def listOk (l : List Nat) : Bool := l.all (· < 1024) && decide l.Nodup

/-- A source that a receive window allows (R216). -/
def rxAllows (s : State) (w : RxWin) (src : Nat) : Bool := if w.sources.isEmpty then inGroup s w.part src else w.sources.contains src

/-- A status word (R219): code and member position. Bits [15:8] are stated for codes 3 to 5 only; with codes 1 and 2 they are 0 (DESIGN CHOICE,
log 87). -/
def winStatus (code pos : Nat) : Word := BitVec.ofNat 64 (code + 256 * pos)

/-- The status that the checks on this module give, where one fails (R219, R220 step 1). -/
def wmapCheck (s : State) (part d : Nat) (ms : List Nat) : Option Word :=
  let rx := s.rxWin (wRx d)
  if !listOk ms then some (winStatus 2 0)
  else if wIsRx d then
    (match ms.zipIdx.find? (fun x => !peerOk s part x.1) with
     | some x => some (winStatus 3 x.2)
     | none => none)
  else if ms.any (fun m => inDomain s m && (exitPorts s (wSlots d) m).isEmpty) then some (winStatus 2 0)
  else
    match ms.zipIdx.find? (fun x => !txPeerOk s part (wSlots d) x.1) with
    | some x => some (winStatus 3 x.2)
    | none =>
      if wLoop d != 0 && !(rx.state == 1 && rxAllows s rx s.modNum && wRxOff d + 2 ^ wLog d ≤ rx.size) then some (winStatus 4 0xFF) else none

/-- The codes that the descriptor alone decides. No code is named for an entry of another partition, and none for one for which another WMAP is still
asking: both count as not FREE (1), and the range of the latter as an overlap (2) (DESIGN CHOICE, log 87). -/
def wmapHead (s : State) (part d : Nat) : Option Word :=
  let i := wIndex d
  let r := s.rxWin i
  let busy := if wIsRx d then !(r.state == 0 || (r.state == 2 && r.part == part)) else s.txWin i != TxWin.free
  if busy then some (winStatus 1 0)
  else if !wShape d || (if wIsRx d then !rxBaseOk s d else !txBaseOk s part d || slotsetForeign s part (wSlots d)) then some (winStatus 2 0)
  else none

/-- The task on the executing core, as the asker of a window. -/
def askerOf (s : State) : Nat := 2 * myCore s + myBank s + 1

/-- Every member is asked for a lease (R220 step 2). -/
def askLeases (s : State) (part d : Nat) (ms : List Nat) : State :=
  let w : TxWin :=
    { TxWin.free with part := part, lbase := wLBase d, size := 2 ^ wLog d, rx := wRx d, rxOff := wRxOff d, allow := wAllow d, slotset := wSlots d,
                      failtrap := d.testBit 31, loop := wLoop d, members := ms, asker := askerOf s, askedGt := s.gt }
  ms.foldl (fun s m => s.say (.leaseAsk m w.rx (w.rxOff + w.size))) (s.setTx (wIndex d) w)

/-- A receive window is mapped (R220). -/
def mapRx (s : State) (part d : Nat) (ms : List Nat) : State × Word :=
  let i := wIndex d
  let r := s.rxWin i
  let base : Word := BitVec.ofNat 64 (wLBase d)
  if r.state = 0 then
    (s.setRx i { RxWin.free with state := 1, part := part, lbase := base, size := 2 ^ wLog d, sources := ms }, 0)
  else if r.size != 2 ^ wLog d then (s, winStatus 2 0)
  else
    let s := s.setRx i { r with state := 1, lbase := base, epoch := r.epoch + 1, leases := r.released, released := [], silent := [], barred := [] }
    (r.released.dedup.foldl (fun s m => s.say (.regrant m i base.toNat (r.epoch + 1))) s, 0)

/-- Leases granted to a window are returned (R220 step 4, R221). -/
def returnLeases (s : State) (win : Nat) : State :=
  let w := s.txWin win
  w.members.zipIdx.foldl (fun s x => if w.granted.getLsbD x.2 then s.say (.leaseReturn x.1 w.rx) else s) s

/-- A WMAP that has asked: mapped, failed, or still waiting (R219, R220). -/
def wmapGoOn (s : State) (win sd : Nat) : Res :=
  let w := s.txWin win
  let open1 := w.mask &&& ~~~ (w.granted ||| w.refused)
  if w.granted = w.mask then .ok ((s.setTx win { w with mapped := true, asker := 0 }).setReg sd 0)
  else if open1 = 0 || w.askedGt + Config.answerNs ≤ s.gt then
    let i := ((upTo 64 id).find? (fun i => (w.mask &&& ~~~ w.granted).getLsbD i)).getD 0
    let code := if w.refused.getLsbD i then 4 else 5
    .ok ((freeAsked s win).setReg sd (winStatus code i))
  else .wait 7 (.wmap win) 0 0 s

def wmapBody (o : COp) (s : State) : Res :=
  let sd := o.sd.toNat
  let part := s.here.part
  match curOp s with
  | .wmap win => wmapGoOn s win sd
  | _ =>
    match readTask s Ranges.noTx 64 1 (opAddr s o) with
    | .error e => e.res
    | .ok r =>
      let d := leNat r.2
      match wmapHead s part d with
      | some w => .ok (r.1.setReg sd w)
      | none =>
        match readMembers r.1 (wCount d) (wList d) with
        | .error e => e.res
        | .ok l =>
          match wmapCheck s part d l.2 with
          | some w => .ok (l.1.setReg sd w)
          | none =>
            if wIsRx d then
              let x := mapRx l.1 part d l.2
              .ok (x.1.setReg sd x.2)
            else .wait 7 (.wmap (wIndex d)) 0 0 (askLeases l.1 part d l.2)

def execWmap (y : Syn) (o : COp) (s : State) : Host.Outcome State Fault Refusal := run (.wmap y o) y 1 (wmapBody o) s

/-! ### WUNMAP and LRECALL (R221, R222, R98) -/

/-- The recall of every lease on a receive window begins, unless one is under way. -/
def beginRecall (s : State) (rx : Nat) : State :=
  let r := s.rxWin rx
  if r.recallGt != 0 then s
  else r.leases.dedup.foldl (fun s m => s.say (.recall m rx)) (s.setRx rx { r with recallGt := s.gt + 1, silent := [] })

/-- FAILMAP: one bit for each silent source. -/
def failMap (l : List Nat) : Nat := (l.map (fun m => 2 ^ m)).sum

/-- The bytes of FAILMAP as stores of C, granule by granule; where it lies on a line of HBM they name it whole (R93). -/
def storeFailmap (s : State) (p : Place) (n : Nat) : State :=
  let us : List (Place × List (Option Byte)) := upTo 4 (fun k => (p.add (16 * k), (leBytes 16 (n / 2 ^ (128 * k))).map some))
  us.foldl (fun s u => queueChained s (curId s) u.1 u.2 none 0 (wholeLine us u)) s

/-- The end of a recall: the entry is RECALLED, or FREE again for WUNMAP. -/
def endRecall (s : State) (rx addr sd : Nat) (unmap : Bool) : Res :=
  let r := s.rxWin rx
  let done : Word := BitVec.ofNat 64 (65536 * r.silent.length)
  if unmap then .ok ((s.setRx rx RxWin.free).setReg sd done)
  else
    match checkAccess s (myCore s) s.here Ranges.noTx .store (addr + 64) 64 64 with
    | .error f => f.res s
    | .ok p => .ok ((storeFailmap (s.setRx rx { r with state := 2, recallGt := 0 }) p (failMap r.silent)).setReg sd done)

def recallGoOn (s : State) (rx addr sd : Nat) (unmap : Bool) : Res :=
  if (s.rxWin rx).leases.isEmpty then endRecall s rx addr sd unmap else .wait 7 (.recall rx addr unmap) 0 0 s

/-- An entry of another partition has status 1 here and in WUNMAP, as one that is not MAPPED (DESIGN CHOICE, log 87). -/
def lrecallBody (o : COp) (s : State) : Res :=
  let sd := o.sd.toNat
  let a := opAddr s o
  match curOp s with
  | .recall rx addr unmap => recallGoOn s rx addr sd unmap
  | _ =>
    match readTask s Ranges.noTx 128 1 a with
    | .error e => e.res
    | .ok x =>
      let s := x.1
      match checkAccess s (myCore s) s.here Ranges.noTx .store (a + 64) 64 64 with
      | .error f => f.res s
      | .ok _ =>
        let d := leNat (x.2.take 64)
        if 1024 ≤ d then .ok (s.setReg sd (winStatus 2 0))
        else
          let r := s.rxWin d
          if r.state != 1 || r.part != s.here.part then .ok (s.setReg sd (winStatus 1 0))
          else recallGoOn (beginRecall s d) d a sd false

def execLrecall (y : Syn) (o : COp) (s : State) : Host.Outcome State Fault Refusal := run (.lrecall y o) y 1 (lrecallBody o) s

/-- WUNMAP of a transmit window waits for its acknowledgements. -/
def unmapTx (s : State) (win sd : Nat) : Res :=
  if s.flits.any (fun f => f.win == win) then .wait 7 (.wunmapTx win) 0 0 s
  else .ok (((returnLeases s win).setTx win TxWin.free).setReg sd 0)

def wunmapBody (o : COp) (s : State) : Res :=
  let sd := o.sd.toNat
  let h := opAddr s o
  match curOp s with
  | .wunmapTx win => unmapTx s win sd
  | .recall rx addr unmap => recallGoOn s rx addr sd unmap
  | _ =>
    let i := h % 1024
    if 2048 ≤ h then .ok (s.setReg sd (winStatus 2 0))
    else if h < 1024 then
      let w := s.txWin i
      if !w.mapped || w.part != s.here.part then .ok (s.setReg sd (winStatus 1 0)) else unmapTx s i sd
    else
      let r := s.rxWin i
      if r.state = 0 || r.part != s.here.part then .ok (s.setReg sd (winStatus 1 0))
      else recallGoOn (beginRecall s i) i 0 sd true

def execWunmap (y : Syn) (o : COp) (s : State) : Host.Outcome State Fault Refusal := run (.wunmap y o) y 1 (wunmapBody o) s

/-! ### Leases, at the target (R97, R98, R220) -/

/-- What a target answers, and the lease that it grants; under a recall the new lease is recalled too. -/
def execLeaseRequest (src rx need : Nat) (s : State) : Host.Outcome State Fault Refusal :=
  let r := s.rxWin rx
  event s (src < 512 && rx < 1024)
    (if r.state = 1 && rxAllows s r src && need ≤ r.size then
      let s := (s.setRx rx { r with leases := r.leases ++ [src] }).say (.leaseAnswer src true r.lbase.toNat r.epoch)
      .next (if r.recallGt != 0 then s.say (.recall src rx) else s)
    else .next (s.say (.leaseAnswer src false 0 0)))

def execLeaseReturn (rx src : Nat) (s : State) : Host.Outcome State Fault Refusal :=
  let r := s.rxWin rx
  event s (r.leases.contains src || r.released.contains src)
    (.next (s.setRx rx (if r.leases.contains src then { r with leases := r.leases.erase src } else { r with released := r.released.erase src })))

/-- A release within 10 us of the recall; a source that takes longer is silent (R98 step 4). -/
def execLeaseReleaseArrival (rx src : Nat) (s : State) : Host.Outcome State Fault Refusal :=
  let r := s.rxWin rx
  event s (r.recallGt != 0 && r.leases.contains src && s.gt ≤ r.recallGt - 1 + Config.answerNs)
    (.next (s.setRx rx { r with leases := r.leases.filter (· != src), released := r.released ++ r.leases.filter (· == src) }))

/-- A source in a list, once: one that asked again under the recall is still one source (R221, R222). -/
def withSource (l : List Nat) (src : Nat) : List Nat := if l.contains src then l else l ++ [src]

/-- A source that has not replied within 10 us (R98 step 4). -/
def execLrecallSilentSource (rx src : Nat) (s : State) : Host.Outcome State Fault Refusal :=
  let r := s.rxWin rx
  event s (r.recallGt != 0 && r.leases.contains src && r.recallGt - 1 + Config.answerNs ≤ s.gt)
    (.next (s.setRx rx { r with leases := r.leases.filter (· != src), silent := withSource r.silent src, barred := withSource r.barred src }))

/-! ### Leases, at the source (R98, R220) -/

/-- The member at a position of a window that has asked or is mapped. -/
def memberAt (s : State) (tx pos : Nat) : Option Nat := (s.txWin tx).members[pos]?

/-- The windows, with the position, under the same lease: the same receive entry of the same member. -/
def underLease (s : State) (tx pos : Nat) : List (Nat × Nat) :=
  match memberAt s tx pos with
  | none => []
  | some m =>
    (s.tx.filter (fun e => e.2.mapped && e.2.rx == (s.txWin tx).rx)).filterMap (fun e => (e.2.members.idxOf? m).map (fun i => (e.1, i)))

/-- The answer that a WMAP waits for is there. -/
def takeReply (s : State) (tx pos : Nat) (granted : Bool) (base epoch : Nat) : State :=
  let w := s.txWin tx
  s.setTx tx (if granted then
      { w with granted := w.granted ||| memberBit pos, bases := Sparse.set 0 pos base w.bases, epochs := Sparse.set 0 pos epoch w.epochs }
    else { w with refused := w.refused ||| memberBit pos })

/-- The answer to a WMAP that waits; one that comes after its WMAP is over returns the lease that it grants (R220 step 4; log 37). One later than 10 us is no answer to it (R219 code 5): it is taken when the WMAP is over. -/
def execLeaseReply (tx pos : Nat) (granted : Bool) (base epoch : Nat) (s : State) : Host.Outcome State Fault Refusal :=
  let w := s.txWin tx
  let asks : Bool := w.asker != 0 && pos < w.members.length && !(w.granted ||| w.refused).getLsbD pos
  match s.orphans.find? (fun x => x.1 == tx && x.2.1 == pos && !(asks && w.members[pos]? == some x.2.2.1 && w.rx == x.2.2.2)) with
  | some x =>
    let s1 := { s with orphans := s.orphans.erase x }
    event s true (.next (if granted then s1.say (.leaseReturn x.2.2.1 x.2.2.2) else s1))
  | none => event s (asks && s.gt ≤ w.askedGt + Config.answerNs) (.next (takeReply s tx pos granted base epoch))

/-- The allowance of every window under the lease is 0 (R98 step 2). -/
def execLeaseRecall (tx pos : Nat) (s : State) : Host.Outcome State Fault Refusal :=
  event s (pos < 64 && (s.txWin tx).mapped)
    (.next ((underLease s tx pos).foldl (fun s x =>
      let w := s.txWin x.1
      s.setTx x.1 { w with recalled := w.recalled ||| memberBit x.2, released := w.released &&& ~~~ (memberBit x.2) }) s))

/-- A flit has been sent to a member position and is not acknowledged. -/
def sentTo (f : Flit) (i : Nat) : Bool := !f.copies.getLsbD i && !f.lost.getLsbD i

/-- Every store sent under the lease has been acknowledged: the release goes out (R98 step 2). -/
def execLeaseRelease (tx pos : Nat) (s : State) : Host.Outcome State Fault Refusal :=
  let us := underLease s tx pos
  match memberAt s tx pos with
  | none => .next s
  | some m =>
    event s (us.any (fun x => x.1 == tx) && us.all (fun x =>
        let w := s.txWin x.1
        w.recalled.getLsbD x.2 && !w.released.getLsbD x.2 && !s.flits.any (fun f => f.win == x.1 && sentTo f x.2)))
      (.next ((us.foldl (fun s x => s.setTx x.1 { s.txWin x.1 with released := (s.txWin x.1).released ||| memberBit x.2 }) s).say (.released m)))

/-- A new lease: the allowance is restored (R98 step 5). -/
def execLeaseRegrant (tx pos base epoch : Nat) (s : State) : Host.Outcome State Fault Refusal :=
  event s ((s.txWin tx).mapped && (s.txWin tx).released.getLsbD pos)
    (.next (agentRun ((underLease s tx pos).foldl (fun s x =>
      let w := s.txWin x.1
      s.setTx x.1 { w with recalled := w.recalled &&& ~~~ (memberBit x.2), released := w.released &&& ~~~ (memberBit x.2),
                           bases := Sparse.set 0 x.2 base w.bases, epochs := Sparse.set 0 x.2 epoch w.epochs }) s)))

/-- The instruction that waits on C of a core, where it has the turn. -/
def waitingC (s : State) (core : Nat) (f : Instr → State → Option (Host.Outcome State Fault Refusal)) : Host.Outcome State Fault Refusal :=
  match onTurn s core .c with
  | none => .next s
  | some t =>
    match fetchInstr t core .c t.here with
    | .run i => (f i t).getD (.next s)
    | .trap _ _ _ => .next s

/-- The answers of a WMAP are due (R219 code 5). -/
def execWmapMemberTimeout (tx : Nat) (s : State) : Host.Outcome State Fault Refusal :=
  let w := s.txWin tx
  let core := (w.asker - 1) / 2
  event s (w.asker != 0 && w.askedGt + Config.answerNs ≤ s.gt && s.bankOf core == (w.asker - 1) % 2)
    (waitingC s core (fun i t =>
      match i with
      | .wmap y o => if curOp t = .wmap tx then some (execWmap y o t) else none
      | _ => none))

/-! ### Flits and acknowledgements (R222 to R231) -/

/-- The banks whose stores a flit holds: 2 and 3 are those of saved tasks. -/
def Flit.banks (f : Flit) : List Nat := (upTo 4 (fun b => b)).filter (fun b => f.owners.any (fun o => o.bank == b))

/-- What the issuing core completes by a departure or an acknowledgement. -/
def settleFlit (s : State) (f : Flit) : State := if f.core == agentCore then s else f.banks.foldl (fun s b => settleAll s f.core b) s

/-- The copy of a flit for a member leaves in a slot of its window on a port, where the wheel of the fabric interface lets the partition
inject (R224, R228, R233, R321). -/
def execFlitDeparture (flit : Nat) (copy : FlitExit) (s : State) : Host.Outcome State Fault Refusal :=
  match s.flits.find? (fun f => f.id == flit) with
  | none => .next s
  | some f =>
    let part := (s.txWin f.win).part
    event s ((openPorts s f copy.member).contains copy.port && wheelOpen s 32 part)
      (.next (settleFlit (departCopy (serveWheel s 32 part) flit copy.member copy.port) f))

/-- Members of a window die: nothing more is sent to them (R231). -/
def killMembers (s : State) (win : Nat) (m : BitVec 64) : State :=
  let w := s.txWin win
  let s := s.setTx win { w with dead := w.dead ||| m }
  (s.flits.filter (fun f => f.win == win && f.copies &&& m != 0)).foldl (fun s f =>
    let left := f.copies &&& ~~~ m
    let s := s.mapFlits (fun g => g.id == f.id) (fun g =>
      { g with lost := g.lost ||| (g.copies &&& m), copies := left, isOpen := g.isOpen && left != 0, departed := left == 0,
               departGt := if left == 0 then s.gt else g.departGt })
    settleFlit (if left == 0 && w.loop == 2 then loopBack s f else s) f) s

/-- The failure word of a window with bits ORed in. -/
def orFail (m : Sparse Word) (win : Nat) (b : BitVec 64) : Sparse Word :=
  Sparse.set 0 (win / 16) (Sparse.get 0 m (win / 16) ||| b) m

/-- The failure word of the window in each bank that sent a store of the flit, or with the saved task that did (R229). -/
def noteFailure (s : State) (f : Flit) (b : BitVec 64) : State :=
  f.banks.foldl (fun s bank =>
    if bank < 2 then
      match s.task? f.core bank with
      | none => s
      | some t => s.setTask f.core bank (some { t with failw := orFail t.failw f.win b })
    else
      let part := (s.txWin f.win).part
      let p := s.part part
      s.setPart part { p with saved := p.saved.map (fun x =>
        if x.core = f.core && x.bank + 2 = bank then { x with failw := orFail x.failw f.win b } else x) }) s

/-- The merged acknowledgement of a departed flit (R227, R229, R231). -/
def ackFlit (s : State) (f : Flit) (bitmap : BitVec 64) : State :=
  let w := s.txWin f.win
  let b := (bitmap &&& w.mask) ||| f.lost
  let s := { s with flits := s.flits.filter (fun g => g.id != f.id) }
  let s := killMembers s f.win (b &&& ~~~ w.dead)
  let s := if f.core == agentCore then agentAcked s f.id else noteFailure s f b
  agentRun (if w.loop == 1 then loopBack s f else s)

/-- Requests and replies of gap recovery have numbers among the flits, and are acknowledged as flits are (R247). -/
def gapAcked (s : State) (id : Nat) : Option GapSend := s.sorus.gapSent.find? (fun x => x.id == id)

/-- It has been acknowledged. -/
def gapDone (s : State) (id : Nat) : State := { s with sorus := { s.sorus with gapSent := s.sorus.gapSent.filter (fun x => x.id != id) } }

/-- Its acknowledgement has timed out (R229): it is sent again at the next DL boundary of its step. -/
def gapLate (s : State) (id : Nat) : State :=
  { s with sorus := { s.sorus with gapSent := s.sorus.gapSent.map (fun x => if x.id = id then { x with late := s.gt + 1 } else x) } }

/-- An acknowledgement within ACKTMO; one that comes later is none (R229). -/
def execFlitAckArrival (flit : Nat) (bitmap : BitVec 64) (s : State) : Host.Outcome State Fault Refusal :=
  match s.flits.find? (fun f => f.id == flit), gapAcked s flit with
  | some f, _ => event s (f.departed && s.gt ≤ f.departGt + ((s.part (s.txWin f.win).part).csrVal 0x102).toNat) (.next (ackFlit s f bitmap))
  | none, some x => event s (x.gone && x.late == 0 && s.gt ≤ x.gt + gapAckTmo s) (.next (gapDone s flit))
  | none, none => .next s

/-- The members from which no acknowledgement came within ACKTMO count as failed (R229). -/
def execAckTimeout (flit : Nat) (missing : BitVec 64) (s : State) : Host.Outcome State Fault Refusal :=
  match s.flits.find? (fun f => f.id == flit), gapAcked s flit with
  | some f, _ =>
    event s (f.departed && f.departGt + ((s.part (s.txWin f.win).part).csrVal 0x102).toNat ≤ s.gt) (.next (ackFlit s f missing))
  | none, some x => event s (x.gone && x.late == 0 && x.gt + gapAckTmo s ≤ s.gt) (.next (gapLate s flit))
  | none, none => .next s

/-- The fabric interface learns that a module is disabled (R231). -/
def execMemberDisabled (m : Nat) (s : State) : Host.Outcome State Fault Refusal :=
  event s (m < 512)
    (let s := { s with disabled := s.disabled ||| BitVec.ofNat 512 (2 ^ m) }
     .next (agentRun (s.tx.foldl (fun s e => match e.2.members.idxOf? m with | some i => killMembers s e.1 (memberBit i) | none => s) s)))

/-- A receive window takes a flit (R222, R98 step 4). -/
def takesFlit (s : State) (f : InFlit) : Bool :=
  let r := s.rxWin f.rx
  r.state == 1 && rxAllows s r f.src && r.epoch ≤ f.epoch && !r.barred.contains f.src && f.off + 64 ≤ r.size

/-- A flit of another module reaches this one (R226). -/
def execFlitDelivery (f : InFlit) (s : State) : Host.Outcome State Fault Refusal :=
  event s true
    (.next (if takesFlit s f then landWindow s f.src f.path f.rx f.off true f.mask f.data f.order else sayAck s f.src false))

/-! ### The end of a partition (R215) -/

/-- Its window entries are free, its stores in flight are gone, its cores are cleared. -/
def execPartitionDestroy (first : Nat) (s : State) : Host.Outcome State Fault Refusal :=
  let p := s.part first
  event s p.present
    (let mine := (s.tx.filter (fun e => e.2.part == first)).map (·.1)
     let gone := s.flits.filter (fun f => mine.contains f.win)
     let s := mine.foldl freeAsked { s with flits := s.flits.filter (fun f => !mine.contains f.win) }
     let s := { s with rx := s.rx.filter (fun e => e.2.part != first) }
     let s := (coresOf first p).foldl (fun s n => s.setCore n Core.reset) (s.setPart first Partition.absent)
     .next ((gone.filter (fun f => f.core == agentCore)).foldl (fun s f => agentAcked s f.id) s))

end Sys2Proof.Machine
end

