-- ==== Sys2Proof/Machine/Coll.lean ====
section
/-! DEFINITION. Collectives: descriptors, packets, finish counts, COLL and COLLW (R252 to R256). -/

namespace Sys2Proof.Machine

/-! ### Descriptors (R252) -/

def cF (d : BitVec 1024) (o n : Nat) : Nat := bits d.toNat (8 * o) (8 * n)
def cCid (d : BitVec 1024) : Nat := cF d 0 2
def cMembers (d : BitVec 1024) : Nat := cF d 2 1
def cHops (d : BitVec 1024) : Nat := cF d 3 1
def cPort (d : BitVec 1024) (k : Nat) : Nat := bits (cF d 4 4) (4 * k) 4
def cOp (d : BitVec 1024) (k : Nat) : Nat := bits (cF d 8 4) (4 * k) 4
def cWin (d : BitVec 1024) : Nat := cF d 14 2
def cSlots (d : BitVec 1024) : Nat := cF d 16 1
def cBlocks (d : BitVec 1024) : Nat := cF d 18 2
def cExpect (d : BitVec 1024) : Nat := cF d 20 4
def cLoff (d : BitVec 1024) : Nat := cF d 24 4
def cLhalf (d : BitVec 1024) : Nat := cF d 28 4
def cSrc (d : BitVec 1024) : Nat := cF d 32 8
def cList (d : BitVec 1024) : Nat := cF d 40 8

/-- The direction's lower port. -/
def dirPort (p : Nat) : Nat := p / 2 * 2

/-- The fields of R252 and R255. -/
def collFieldsOk (s : State) (part : Nat) (d : BitVec 1024) : Bool :=
  let h := cHops d
  cF d 48 80 == 0 && cF d 17 1 == 0 && cCid d != 0 && 1 ≤ cMembers d && cMembers d ≤ 64 && 1 ≤ h && h ≤ 8
    && 1 ≤ cBlocks d && cBlocks d ≤ 4096 && cWin d < 1024 && cSlots d < 64 && cLoff d % 64 == 0 && cLhalf d % 64 == 0
    && 64 * cBlocks d ≤ cLhalf d && (upTo h id).all (fun k => cPort d k < 12 && 1 ≤ cOp d k && cOp d k ≤ 7) && cOp d (h - 1) != 1
    && !slotsetForeign s part (cSlots d) && slotOn s (cSlots d) (dirPort (cPort d 0))

/-- The neighbour behind a port. -/
def neighbour (s : State) (m port : Nat) : Nat :=
  let axis := port / 4
  let n := ringSize s axis
  let x := placeOn m axis
  let x' := if port / 2 % 2 = 0 then (x + 1) % n else (x + n - 1) % n
  m - x * 8 ^ axis + x' * 8 ^ axis

/-- The modules on the route. -/
def routeFrom (s : State) (d : BitVec 1024) : Nat → Nat → Nat → List Nat
  | 0, _, _ => []
  | n + 1, k, m => let m' := neighbour s m (cPort d k); m' :: routeFrom s d n (k + 1) m'

/-- The port by which a COLL leaves, with a slot of its set: ROUTE[0] (R224, R253). -/
def collPorts (s : State) (d : BitVec 1024) : List Nat := [cPort d 0].filter (slotAt s (cSlots d))

/-- The first member, then the first module of the route, that is no valid peer (R255). -/
def collBadPeer (s : State) (part : Nat) (d : BitVec 1024) (ms : List Nat) : Option Nat :=
  match ms.find? (fun m => !peerOk s part m) with
  | some m => some m
  | none =>
    let r := routeFrom s d (cHops d) 0 s.modNum
    if !portReady s (cPort d 0) then r.head? else r.find? (fun m => !peerOk s part m)

/-- The `n`-th COLL without a core of a partition (R257). -/
def pendAt (s : State) (part n : Nat) : Option CollPend := (s.part part).collPend[n]?

/-- Update of that COLL. -/
def mapPend (s : State) (part n : Nat) (g : CollPend → CollPend) : State :=
  let p := s.part part
  s.setPart part { p with collPend := p.collPend.modify n g }

/-- The COLL that the flip of a barrier issued reads without a core: at the positions of its partition, and keeps what it reads (R257, R293, R320). -/
def pendReader (part n : Nat) : Reader where
  kept s p m := (pendAt s part n).bind (fun x => earlyIn x.early false p m)
  read s p :=
    let go : Bool := match p with | .hbm a => wheelOpen s (a / 2 ^ 37) part | _ => true
    if go then
      let s := correctAt (served s part p.granule) p.granule 16
      some (mapPend s part n (fun x => { x with early := x.early ++ [{ fetch := false, place := p.granule, bytes := readPlace s p.granule 16 }], stack := none }))
    else none

/-! ### Entries (R254) -/

def Partition.coll? (p : Partition) (a : Nat) : Option Coll := p.colls.find? (fun c => c.addr == a)
def Partition.collCid? (p : Partition) (cid : Nat) : Option Coll := p.colls.find? (fun c => cCid c.desc == cid)
def Partition.setColl (p : Partition) (c : Coll) : Partition := { p with colls := p.colls.map (fun x => if x.addr == c.addr then c else x) }

/-- Every memory operation and every acknowledgement of a generation is there. -/
def Coll.full (c : Coll) (g : Nat) : Bool := cExpect c.desc ≤ Sparse.get 0 c.applied g && cBlocks c.desc ≤ Sparse.get 0 c.acked g

/-- The counter c moves on over complete generations. -/
def Coll.advance : Nat → Coll → Coll
  | 0, c => c
  | n + 1, c => if c.done < c.issued && c.full c.done then Coll.advance n { c with done := c.done + 1 } else c

/-- The generations that this module has finished: completed, with the next one issued. -/
def Coll.finished (c : Coll) : Nat := min c.done (c.issued - 1)

/-- The absolute generation of a number modulo 256: the nearest to the next one to be issued. -/
def Coll.genOf (c : Coll) (g : Nat) : Nat :=
  let d := (g + 256 - c.issued % 256) % 256
  if d < 128 then c.issued + d else c.issued + d - 256

/-- An entry after a change: c moves on, and new finish counts go to the other members. -/
def updateColl (s : State) (part : Nat) (old c : Coll) : State :=
  let c := Coll.advance 4 c
  let s := s.setPart part ((s.part part).setColl c)
  if c.finished = old.finished then s
  else (c.mlist.filter (· != s.modNum)).foldl (fun s m => s.say (.finish m (cCid c.desc) c.finished)) s

/-! ### COLL (R255) -/

/-- What an attempt to issue the next instance comes to: it goes on, it holds until every member has finished, a read of it waits, or a fault
(0 stands for the head parcel). -/
inductive CollTry where
  | go (s : State) (g : Nat)
  | hold (s : State) (g : Nat)
  | wait (op : OpProg) (s : State)
  | bad (c : Cause) (faddr : Nat) (s : State)

/-- The reads of an attempt stop. -/
def ReadStop.coll : ReadStop → CollTry
  | .fault f s => .bad f.cause f.addr s
  | .wait op s => .wait op s

/-- The entry of a descriptor, from the table or read, checked and registered. -/
def findColl (s : State) (part core : Nat) (t : Task) (rd : Reader) (a : Nat) : Except CollTry (State × Coll) :=
  match (s.part part).coll? a with
  | some c => .ok (s, c)
  | none =>
    match readAs rd core t Ranges.noTx 128 1 a s with
    | .error e => .error e.coll
    | .ok r =>
      let d := BitVec.ofNat 1024 (leNat r.2)
      let p := r.1.part part
      if !collFieldsOk s part d || (p.collCid? (cCid d)).isSome || 64 ≤ p.colls.length then .error (.bad .illegalField 0 r.1)
      else
        match readNums rd core t 2 (cMembers d) (cList d) r.1 with
        | .error e => .error e.coll
        | .ok ms =>
          if !listOk ms.2 then .error (.bad .illegalField 0 ms.1)
          else
            match collBadPeer s part d ms.2 with
            | some m => .error (.bad .invalidPeer m ms.1)
            | none =>
              let p := ms.1.part part
              let mine := p.collEarly.filter (fun e => e.1 / 256 == cCid d)
              let c : Coll := { addr := a, desc := d, mlist := ms.2, issued := 0, issuedGt := 0, done := 0,
                                applied := mine.map (fun e => (e.1 % 256, e.2)), acked := [], fin := [] }
              .ok (ms.1.setPart part { p with colls := p.colls ++ [c], collEarly := p.collEarly.filter (fun e => e.1 / 256 != cCid d) }, c)

/-- Every member has finished generation g - 2. -/
def membersReady (s : State) (c : Coll) (g : Nat) : Bool :=
  g < 2 || c.mlist.zipIdx.all (fun x => if x.1 == s.modNum then g ≤ c.done + 1 else g ≤ Sparse.get 0 c.fin x.2 + 1)

/-- The next instance of a descriptor: the source is read, the counter moves on, and the packets wait for their slots. -/
def collTry (s : State) (part core : Nat) (t : Task) (rd : Reader) (a : Nat) : CollTry :=
  match findColl s part core t rd a with
  | .error e => e
  | .ok (s, c) =>
    let g := c.issued
    if !membersReady s c g then .hold s g
    else
      match readAs rd core t Ranges.ownHbm 64 (cBlocks c.desc) (cSrc c.desc) s with
      | .error e => e.coll
      | .ok r =>
        let s := updateColl r.1 part c { c with issued := g + 1, issuedGt := s.gt }
        let p := s.part part
        .go (s.setPart part { p with collSends := p.collSends ++ [{ addr := a, desc := c.desc, gen := g, next := 0, bytes := r.2 }] }) g

/-! ### The packets of an instance depart (R253, R255) -/

/-- Packet `b` of an instance. -/
def sendPacket (s : State) (x : CollSend) (b : Nat) : CollPacket :=
  let d := x.desc
  { src := s.modNum, cid := cCid d, gen := x.gen % 256, block := b, hops := cHops d - 1, ops := BitVec.ofNat 32 (cF d 8 4),
    route := BitVec.ofNat 32 (cF d 4 4 / 16), back := BitVec.ofNat 32 (cPort d 0), lwin := cWin d, loff := cLoff d, lhalf := cLhalf d,
    data := BitVec.ofNat 512 (leNat ((x.bytes.drop (64 * b)).take 64)) }

/-- The ports by which the next packet of the `n`-th instance may leave: none while an earlier instance of its descriptor has packets
left, since the packets of one source keep their order; the wheel of the fabric interface must let the partition inject (R253, R321). -/
def sendPorts (s : State) (part n : Nat) : List Nat :=
  let l := (s.part part).collSends
  match l[n]? with
  | none => []
  | some x =>
    if (l.take n).any (fun y => y.addr == x.addr) || !wheelOpen s 32 part then [] else (collPorts s x.desc).filter (portReady s)

/-- It leaves by a port, in a slot of SLOTSET. -/
def departPacket (s : State) (part n port : Nat) : State :=
  match (s.part part).collSends[n]? with
  | none => s
  | some x =>
    let s := (serveWheel s 32 part).say (.packet port (sendPacket s x x.next))
    let p := s.part part
    let y := { x with next := x.next + 1 }
    s.setPart part { p with collSends := if y.next < cBlocks x.desc then p.collSends.set n y else p.collSends.eraseIdx n }

/-- A packet departs by itself: of an instance that C waits for, or of one that no core issued. -/
def turnPacket (part n port : Nat) (s : State) : Host.Outcome State Fault Refusal :=
  event s ((sendPorts s part n).contains port) (.next (departPacket s part n port))

/-- Which instance of a partition's list this is. -/
def sendIndex (s : State) (part a g : Nat) : Option Nat := (s.part part).collSends.findIdx? (fun x => x.addr == a && x.gen == g)

/-- COLL goes on until its last packet has departed; one may depart on this cycle. -/
def collGoOn (s : State) (part a g sd : Nat) : Res :=
  let s := match sendIndex s part a g with
    | some n => (match sendPorts s part n with | port :: _ => departPacket s part n port | [] => s)
    | none => s
  if (sendIndex s part a g).isSome then .wait 7 (.collSend a g) sd 0 s else .ok (s.setReg sd (BitVec.ofNat 64 g))

def execColl (y : Syn) (o : COp) (s : State) : Host.Outcome State Fault Refusal :=
  run (.coll y o) y 1 (fun s =>
    let part := s.here.part
    match curOp s with
    | .collSend a g => collGoOn s part a g o.sd.toNat
    | _ =>
      let a := opAddr s o
      match collTry s part (myCore s) s.here ownReader a with
      | .go s g => collGoOn s part a g o.sd.toNat
      | .hold s g => .wait 7 (.coll g) a 0 s
      | .wait op s => .wait 5 op 0 0 s
      | .bad .illegalField 0 s => fieldTrap s (.coll y o)
      | .bad c faddr s => .trap c faddr 0 s) s

/-! ### COLLW (R256) -/

/-- CTMO of a partition. -/
def ctmo (s : State) (part : Nat) : Nat := ((s.part part).csrVal 0x103).toNat

/-- What is still missing of a generation. -/
def Coll.missing (c : Coll) (g : Nat) : Nat :=
  (cExpect c.desc - Sparse.get 0 c.applied g) + (cBlocks c.desc - Sparse.get 0 c.acked g)

def collwBody (i : Instr) (o : COp) (retire : Bool) (s : State) : Res :=
  let a := opAddr s o
  let part := s.here.part
  match s.myPart.coll? a with
  | none => fieldTrap s i
  | some c =>
    let g := c.issued - 1
    let leave (s : State) (v : Word) : Res :=
      let p := s.part part
      .ok ((if retire then s.setPart part { p with colls := p.colls.filter (fun x => x.addr != a) } else s).setReg o.sd.toNat v)
    if c.issued ≤ c.done || c.full g then leave s 0
    else if c.issuedGt + ctmo s part ≤ s.gt then leave s (BitVec.ofNat 64 (1 + 2 ^ 32 * c.missing g))
    else .wait 7 .none 0 0 s

def execCollw (y : Syn) (o : COp) (s : State) : Host.Outcome State Fault Refusal :=
  run (.collw y o) y 1 (collwBody (.collw y o) o false) s

def execCollwRetire (y : Syn) (o : COp) (s : State) : Host.Outcome State Fault Refusal :=
  run (.collwRetire y o) y 1 (collwBody (.collwRetire y o) o true) s

/-- The COLLW that waits on C of a core times out. -/
def execCollwTimeout (core : Nat) (s : State) : Host.Outcome State Fault Refusal :=
  waitingC s core (fun i t =>
    match i with
    | .collw y o => if t.me.wait.isSome then some (execCollw y o t) else none
    | .collwRetire y o => if t.me.wait.isSome then some (execCollwRetire y o t) else none
    | _ => none)

/-! ### Packets (R253) -/

/-- One word of a combine. -/
def combineWord (op lb x : Nat) : Nat :=
  if op = 2 then x
  else if op = 3 || op = 4 then (addRne fp32 lb x).1
  else if op = 5 then (lb + x) % 2 ^ 32
  else if op = 6 then fMinMax fp32 true lb x
  else fMinMax fp32 false lb x

/-- The landing block after an operation. -/
def combineBlock (op : Nat) (lb x : BitVec 512) : BitVec 512 :=
  BitVec.ofNat 512 ((upTo 16 (fun k => combineWord op (bits lb.toNat (32 * k) 32) (bits x.toNat (32 * k) 32) * 2 ^ (32 * k))).sum)

/-- The landing block of a packet, where the window takes it. -/
def landing (s : State) (p : CollPacket) : Option (RxWin × Nat) :=
  let r := s.rxWin p.lwin
  let off := p.loff + p.gen % 2 * p.lhalf + 64 * p.block
  if r.state = 1 && rxAllows s r p.src && off + 64 ≤ r.size then some (r, off) else none

/-- One more memory operation of a generation, counted also before the descriptor is registered here. -/
def countApplied (s : State) (part : Nat) (p : CollPacket) : State :=
  let q := s.part part
  match q.collCid? p.cid with
  | some c =>
    let g := c.genOf p.gen
    updateColl s part c { c with applied := Sparse.set 0 g (Sparse.get 0 c.applied g + 1) c.applied }
  | none =>
    let k := p.cid * 256 + p.gen
    s.setPart part { q with collEarly := Sparse.set 0 k (Sparse.get 0 q.collEarly k + 1) q.collEarly }

/-- The port by which one goes back that came by port `p` of its neighbour (R232). -/
def backPort (p : BitVec 4) : Nat := (p ^^^ 2).toNat

/-- After its last operation a packet is acknowledged along the reverse route, else it goes on (R253). -/
def passOn (s : State) (p : CollPacket) (data : BitVec 512) : State :=
  if p.hops = 0 then s.say (.packetAck (backPort (p.back.extractLsb' 0 4)) (p.back >>> 4) p.src p.cid p.gen)
  else
    s.say (.packet (p.route.extractLsb' 0 4).toNat
      { p with hops := p.hops - 1, ops := p.ops >>> 4, route := p.route >>> 4, back := p.back <<< 4 ||| (p.route.extractLsb' 0 4).setWidth 32, data := data })

/-- The path of a source's packets of a collective, apart from those of its flits (R253). -/
def packetPath (p : CollPacket) : Nat := 2 ^ 21 + p.cid

/-- A packet reaches this module and begins to land; one that its window does not take, or whose operation is reserved, is refused. -/
def packetIn (s : State) (p : CollPacket) : State :=
  let op := (p.ops.extractLsb' 0 4).toNat
  if op = 1 then passOn s p p.data
  else if op = 0 || 8 ≤ op then s
  else
    match landing s p with
    | none => s
    | some (r, off) =>
      if isRing s p.lwin then
        let new := combineBlock op (BitVec.ofNat 512 (leNat (readPlace s (rxPlace r off 0) 64))) p.data
        passOn (countApplied (ringFlit s off (BitVec.allOnes 64) new p.src) r.part p) p (if op = 4 then new else p.data)
      else
        { s with landings := s.landings ++ [{ src := p.src, path := packetPath p, rx := p.lwin, part := r.part, ack := false, base := rxPlace r off 0,
                                              mask := BitVec.allOnes 64, data := p.data, order := [0, 1, 2, 3], coll := some p }] }

/-- One granule of a combine, as one event (R253, R96): the block after it, and the payload that goes on. -/
def combineGranule (s : State) (base : Place) (op g : Nat) (data : BitVec 512) : State × BitVec 512 :=
  let old := leNat (readPlace s (base.add (16 * g)) 16) * 2 ^ (128 * g)
  let new := combineBlock op (BitVec.ofNat 512 old) data
  let m : BitVec 512 := BitVec.ofNat 512 ((2 ^ 128 - 1) * 2 ^ (128 * g))
  (landGranule s base (BitVec.allOnes 64) new g, if op = 4 then (data &&& ~~~ m) ||| (new &&& m) else data)

/-- Landing `n` may go on: none of the same path has come before it (R228, R253), and no combine into the same block. -/
def landReady (s : State) (n : Nat) : Bool :=
  match s.landings[n]? with
  | none => false
  | some l => !(s.landings.take n).any (fun m => (m.src == l.src && m.path == l.path) || (m.coll.isSome && l.coll.isSome && m.base == l.base))

/-! ### COLL of an armed barrier (R257) -/

/-- A record without a core; a fatal one falls back on slot 255 (R328). `none`: a replayable one has no slot yet. -/
def coreless (s : State) (part : Nat) (c : Cause) (faddr : Nat) : Option (Except Fault State) :=
  let p := s.part part
  let r := trapRecNoCore s part c faddr 0
  match (if c.cls != 1 && lateBelow s part 512 then none else freeSlot p) with
  | some j => some (writeRecord s part j r)
  | none =>
    if c.cls != 1 then none
    else if fatSlotUsed p then
      let s := stopPartition s part
      some (.ok ((s.setPart part { (s.part part) with fatal2 := true }).say (.mgmtInterrupt 1)))
    else some (writeRecord s part 255 { r with flags := BitVec.ofNat 8 flagFatSlot })

/-- The barrier whose flip issued a COLL loses the arm under which it did (R257). -/
def dropArm (s : State) (part bar a : Nat) : State :=
  let p := s.part part
  let b := Sparse.get Barrier.reset p.bars bar
  if b.arm = some a then s.setPart part { p with bars := Sparse.set Barrier.reset bar { b with arm := none } p.bars } else s

/-- The `n`-th COLL without a core leaves the list. -/
def endPend (s : State) (part n : Nat) : State :=
  let p := s.part part
  s.setPart part { p with collPend := p.collPend.eraseIdx n }

/-- A fault of the `n`-th COLL without a core: its record, and the arm is dropped; a replayable one may wait for a slot. -/
def pendFault (s : State) (part n : Nat) (x : CollPend) (c : Cause) (faddr : Nat) : Host.Outcome State Fault Refusal :=
  match coreless s part c faddr with
  | none => .next (mapPend s part n (fun x => { x with late := some (trapRecNoCore s part c faddr 0) }))
  | some (.error f) => .fault f
  | some (.ok s) => .next (dropArm (endPend s part n) part x.bar x.addr)

/-- The flip of an armed barrier issues its COLL (R257): it joins the list, and goes on in turns of its own. -/
def flipColl (s : State) (part : Nat) (x : CollPend) : State :=
  let p := s.part part
  s.setPart part { p with collPend := p.collPend ++ [x] }

/-- An attempt of the `n`-th COLL without a core; `pick`: it makes one read and no more (R293). What cannot go on yet stays in the list. -/
def tryPend (s : State) (part n : Nat) (x : CollPend) (pick : Option Nat) : Host.Outcome State Fault Refusal :=
  match s.task? x.core x.bank with
  | none =>
    (match (s.part part).coll? x.addr with
     | some c => pendFault s part n x .extent (cSrc c.desc)
     | none => .next (endPend s part n))
  | some t =>
    match collTry { s with pick := pick } part x.core t (pendReader part n) x.addr with
    | .go s _ => .next (endPend { s with pick := none } part n)
    | .hold s _ => .next { s with pick := none }
    | .wait op s => .next (mapPend { s with pick := none } part n (fun x => { x with stack := match op with | .stack d => some d | _ => none }))
    | .bad c faddr s => pendFault { s with pick := none } part n x c faddr

/-- Its turn. One of a descriptor that an earlier one is for waits behind that (R253, R255). -/
def turnColl (part n : Nat) (pick : Option Nat) (s : State) : Host.Outcome State Fault Refusal :=
  match pendAt s part n with
  | none => .next s
  | some x =>
    event s (x.late.isNone && !((s.part part).collPend.take n).any (fun y => y.addr == x.addr && y.late.isNone)) (tryPend s part n x pick)

/-- The record of a COLL without a core that has waited for a slot is written, with LATE (R328); tasks that wait come first. -/
def latePend (part : Nat) (s : State) : Host.Outcome State Fault Refusal :=
  let p := s.part part
  match (p.collPend.findIdx? (fun x => x.late.isSome)).bind (fun n => (pendAt s part n).map (fun x => (n, x))), freeSlot p with
  | some (n, x), some j =>
    event s (!lateBelow s part 512)
      (match writeRecord (endPend s part n) part j
          { x.late.getD (trapRecNoCore s part .extent 0 0) with flags := BitVec.ofNat 8 flagLate } with
       | .ok s => .next (dropArm s part x.bar x.addr)
       | .error f => .fault f)
  | _, _ => .next s

/-! ### Events -/

def execCollPacketArrival (p : CollPacket) (s : State) : Host.Outcome State Fault Refusal :=
  event s true (.next (packetIn s p))

/-- What follows the last granule of a landing: a flit is acknowledged, a combine counted and its packet sent on (R226, R253). -/
def landDone (s : State) (l : Landing) : State :=
  match l.coll with
  | none => if l.ack then sayAck s l.src true else s
  | some p => passOn (countApplied s l.part p) p l.data

/-- The next granule of landing `n` (R226, R253, R293). -/
def turnLand (n : Nat) (s : State) : Host.Outcome State Fault Refusal :=
  match s.landings[n]? with
  | none => .next s
  | some l =>
    event s (landReady s n)
      (match l.order with
       | [] => .next (landDone { s with landings := s.landings.eraseIdx n } l)
       | g :: rest =>
         let x := match l.coll with
           | none => (landGranule s l.base l.mask l.data g, l.data)
           | some p => combineGranule s l.base (p.ops.extractLsb' 0 4).toNat g l.data
         let l := { l with order := rest, data := x.2 }
         if rest.isEmpty then .next (landDone { x.1 with landings := x.1.landings.eraseIdx n } l)
         else .next { x.1 with landings := x.1.landings.set n l })

def execCollPacketAck (part cid gen : Nat) (s : State) : Host.Outcome State Fault Refusal :=
  match (s.part part).collCid? cid with
  | none => .next s
  | some c =>
    let g := c.genOf gen
    event s (g < c.issued && Sparse.get 0 c.acked g < cBlocks c.desc)
      (.next (updateColl s part c { c with acked := Sparse.set 0 g (Sparse.get 0 c.acked g + 1) c.acked }))

/-- The finish count of a member, by module number (R254). -/
def execCollFinishCount (part cid member count : Nat) (s : State) : Host.Outcome State Fault Refusal :=
  match (s.part part).collCid? cid with
  | none => .next s
  | some c =>
    match c.mlist.idxOf? member with
    | none => .next s
    | some i =>
      event s true (.next (s.setPart part ((s.part part).setColl { c with fin := Sparse.set 0 i (max count (Sparse.get 0 c.fin i)) c.fin })))

/-- The wait for a finish count expires (R255): on C of a core, or, from 512 on, in the first COLL of an armed barrier of
partition `core` - 512. -/
def execCollOverrun (core : Nat) (s : State) : Host.Outcome State Fault Refusal :=
  if core < 512 then
    match onTurn s core .c with
    | none => .next s
    | some t =>
      match t.me.wait with
      | none => .next s
      | some w =>
        event s (collWaits w && collAt t.myPart w ≤ s.gt) (trapUndone t t.me.pc .collOverrun w.addr 0)
  else
    let part := core - 512
    let p := s.part part
    match (p.collPend.findIdx? (fun x => x.late.isNone)).bind (fun n => (pendAt s part n).map (fun x => (n, x))) with
    | none => .next s
    | some (n, x) => event s (x.sinceGt + ctmo s part ≤ s.gt) (pendFault s part n x .collOverrun x.addr)

end Sys2Proof.Machine
end

