-- ==== Sys2Proof/Machine/Records.lean ====
section
/-! DEFINITION. Loop-nest records (R39, R110): their beginning, the advance from one single issue to the next, and the
single issue that a turn performs. -/

namespace Sys2Proof.Machine

/-- A record before its first single issue. -/
def RecProg.start (i : Instr) (pc : BitVec 48) (id : Nat) : RecProg :=
  { instr := i, id := id, pc := pc, i0 := 0, i1 := 0, i2 := 0, i3 := 0, began := false, baseD := 0, baseA := 0, baseB := 0,
    fmt := 0, key := 0, map := 0, unitary := [], scType := 0, scOp := 0, lastBlock := none, sent := 0, recheck := false,
    outs := [], got := [], refetch := false }

/-- The record `i` begins: its own tokens are reserved until its first single issue, which has the id before the record's,
completes (R27); its signals go when its last one has (R26). `prep` makes the checks of its head and fills what it holds. -/
def startRecord (i : Instr) (y : Syn) (prep : State → RecProg → Except Res (State × RecProg)) (s : State) :
    Host.Outcome State Fault Refusal :=
  run i y 0 (fun s =>
    let head := headPc s i
    match prep s (RecProg.start i head (curId s + 1)) with
    | .error r => r
    | .ok (s, p) =>
      let u := s.me
      match u.wait with
      | none => .ok s
      | some w =>
        let f : Flight := { id := w.id, sig := 0, took := w.took, region := u.regionNo }
        .ok (s.setMe { u with pc := head, prog := some p, flights := u.flights ++ [f], nextId := w.id + 2,
                              wait := some { w with id := w.id + 1, took := 0 } })) s

/-- The record's fields. -/
def blankOperand : RecOperand := { br := false, bm := false, base := 0, s0 := 0, s1 := 0, s2 := 0, s3 := 0 }
def blankRec : Rec :=
  { bmsel := 0, opm := 0, trip0 := 0, trip1 := 0, trip2 := 0, trip3 := 0, stamp := 0, d := blankOperand, a := blankOperand,
    b := blankOperand, aux0 := 0, aux1 := 0, aux2 := 0 }
def RecProg.fields (p : RecProg) : Rec := p.instr.record?.getD blankRec

/-- The next point of the loop nest, loop 0 innermost (R39). -/
def RecProg.next (p : RecProg) : Option RecProg :=
  let r := p.fields
  let p := { p with began := true, sent := 0, recheck := false, outs := [], got := [] }
  if p.i0 < r.trip0.toNat then some { p with i0 := p.i0 + 1 }
  else if p.i1 < r.trip1.toNat then some { p with i0 := 0, i1 := p.i1 + 1 }
  else if p.i2 < r.trip2.toNat then some { p with i0 := 0, i1 := 0, i2 := p.i2 + 1 }
  else if p.i3 < r.trip3.toNat then some { p with i0 := 0, i1 := 0, i2 := 0, i3 := p.i3 + 1 }
  else none

/-- The bases of a record, as its first single issue reads them (R39). -/
def RecProg.readBases (p : RecProg) (u : Seq) : RecProg :=
  let r := p.fields
  { p with baseD := recBase u r.d, baseA := recBase u r.a, baseB := recBase u r.b }

/-- What a record holds from its first single issue on: its bases, and KEY (R39, R194). -/
def RecProg.held (p : RecProg) (t : Task) (u : Seq) : RecProg :=
  if p.began then p else { p.readBases u with key := t.key }

def setProg (s : State) (p : RecProg) : State := s.setMe { s.me with prog := some p }

/-! ### The operands of a single issue, one read at a time (R103, R293) -/

/-- A read of an operand: of its granule, where the single issue has read that ahead of its turn, which uses it up, or of memory now, where nothing
keeps it waiting and E1 of R295 allows it. -/
def readOperand (s : State) (pl : Place) (size : Nat) : Option (State × List Byte) :=
  match s.me.earlyAt false pl size with
  | some bs => some (s.setMe { s.me with early := s.me.early.filter (fun e => e.fetch || e.place != pl.granule) }, bs)
  | none => if open1 s pl && ownCommitted s pl size then some (readNow s pl size) else none

/-- What a single issue has read so far, then what follows once it has read all of `ps`: each read is an event of its own, which waits for its
bank, port and wheel; an operand that is skipped reads as 0 (R172). They come in the order of the list, but for those that a turn makes ahead of it; the
reads of one single issue come after those of the one before (DESIGN CHOICE, log 6). -/
def gather (p : RecProg) (s : State) (size : Nat) (ps : List (Option Place)) (next : State → List Nat → Res) : Res :=
  let ahead : List Place := ((ps.drop p.got.length).filterMap id).filter (fun pl => (s.me.earlyAt false pl size).isNone)
  match s.pick.bind (fun n => ahead[n]?) with
  | some pl =>
    match ownReader.read s pl with
    | some s => .more s
    | none => .wait 5 (waitFor pl) 0 0 s
  | none =>
    match ps[p.got.length]? with
    | none => next s p.got
    | some none => .more (setProg s { p with got := p.got ++ [0] })
    | some (some pl) =>
      match readOperand s pl size with
      | some r => .more (setProg r.1 { p with got := p.got ++ [leNat r.2] })
      | none => .wait 5 (waitFor pl) 0 0 s

/-- What follows a single issue that was performed. -/
def advanceRecord (s : State) (p : RecProg) : State :=
  let s := s.setHere (noteFirst s s.here)
  let u := s.me
  let n := s.cur.core
  let next := p.next
  let pc := match next with | some _ => p.pc | none => p.pc + 64
  let u := { u with prog := next, pc := pc, wait := none, early := [], seqno := u.seqno + 1, lastIssue := s.mcc,
                    nextFree := s.mcc + 1, armed := false, tickAt := s.mcc + 1, head := p.pc }
  settle (s.setMe u) n (s.bankOf n) s.cur.q

/-- A restored record fetches its parcels (R342): its signals are those of its SYN; its tokens were taken. What is no record there is issued
afresh. -/
def refetchRecord (p : RecProg) (s : State) : Host.Outcome State Fault Refusal :=
  let q := s.cur.q
  let r := fetchNow s s.cur.core q
  let s := r.1
  let t := s.here
  match r.2, fetchParcel s s.cur.core q t p.pc.toNat with
  | none, _ => .next s
  | some (.trap c faddr flags), _ => trapHere s c faddr flags
  | some (.run i), .ok h =>
    match i.record? with
    | none => .next (s.setMe { s.me with prog := none, flights := s.me.flights.filter (fun f => f.id != p.id) })
    | some _ =>
      let sig := if t.timed then 0 else sigMask (hSyn h)
      let u := s.me
      let t := t.setSeq q { u with prog := some { p with instr := i, refetch := false }, early := [],
                                   flights := u.flights.map (fun f => if f.id = p.id then { f with sig := sig } else f) }
      .next (s.setHere ((ids sig).foldl (fun t b => { t with psig := bump t.psig (tokKey q.num b) 1 }) t))
  | some (.run _), .error f => trapHere s f.cause f.addr 0

/-- The single issue at which a record stands, on its tick. A stall keeps what has been read and sent (R99); a timed sequencer may not stall
(R122). -/
def singleIssue (single : RecProg → State → Res) (p : RecProg) (s : State) : Host.Outcome State Fault Refusal :=
  let tick := s.me.tick
  let back (s : State) : State := s.setMe { s.me with tick := tick }
  match single (p.held s.here s.me) (s.setMe { s.me with tick := tick + 1 }) with
  | .ok s => .next (advanceRecord s (s.me.prog.getD p))
  | .more s => .next (settleMe (s.setMe { s.me with tick := tick, wait := none }))
  | .wait kind op addr sent s =>
    if timedHere s then trapHere (back s) .schedMiss (sinceAlign s.me s.mcc) 0
    else .next (settleMe (stallWith (setProg (back s) { (s.me.prog.getD p) with sent := sent }) { blankWait kind with op := op, addr := addr, sent := sent }))
  | .trap c faddr flags s => trapHere (back s) c faddr flags
  | .halt s => .next s
  | .after s _ => .next s
  | .software _ s => .next s
  | .stop f => .fault f

/-- Whether the next single issue takes place on this cycle: single issues of a timed sequencer fall on consecutive ticks (R39, R122), and of two on one
cycle the one that comes first at the banks goes first (R124). -/
def recordTiming (s : State) : Timing :=
  let u := s.me
  if s.here.timed && overdue s s.here.part then .early
  else if timedHere s then
    if s.mcc < u.lastIssue + 1 then .early else if u.lastIssue + 1 < s.mcc then .miss (u.lastIssue + 1)
    else if recordFirst s s.cur.core s.here s.cur.q then .early else .go
  else if s.mcc < u.nextFree then .early else .go

/-- One turn of the record in progress (R39, R110). `single` answers the state with the record's held values in it. -/
def recordStep (single : RecProg → State → Res) (s : State) : Host.Outcome State Fault Refusal :=
  match s.me.prog with
  | none => .next s
  | some p =>
    if p.refetch then refetchRecord p s
    else
      match recordTiming s with
      | .early => .next s
      | .miss due => trapHere s .schedMiss (sinceAlign s.me due) 0
      | .go =>
        match dueWrites s.here s.cur.q s.me.tick with
        | none => stallOrMiss s 5
        | some t => singleIssue single p (s.setHere t)

end Sys2Proof.Machine
end

