-- ==== Sys2Proof/Machine/VecOps.lean ====
section
/-! DEFINITION. What every vector instruction is built from: its issue with the check of R70 and R166, and element results
that are written at their latency (R139 to R143). -/

namespace Sys2Proof.Machine

/-! ### Registers with a word in error (R344) -/

/-- A source that is read whole (R141): a physical vector register, or an entry of the constant bank. -/
inductive VReg where
  | v (phys : Nat)
  | k (i : Nat)
deriving DecidableEq, Repr

/-- A word in error is one of those that the read of a source touches; two entries of the constant bank share a word. -/
def readsWord (r : VReg) (w : BadWord) : Bool :=
  match r, w with
  | .v p, .v q _ => p == q
  | .k i, .k j => i / 2 == j / 2
  | _, _ => false

/-- The `n` registers of the span from name `name` on (R142, R150). -/
def spanRegs (t : Task) (name n : Nat) : List VReg := upTo n (fun r => .v (physV t (name + r)))

/-- What B reads, where a register operand spans `n` names. -/
def regsOfB (t : Task) (b : VSrc) (n : Nat) : List VReg :=
  match b with
  | .reg name => spanRegs t name.toNat n
  | .kbank k => [.k k.toNat]
  | .imm20 _ => []
  | .lit _ => []

/-- Which of vd, va and B an operation reads, in one width for all its operands. -/
def regsOf (t : Task) (o : VOp) (d a b : Bool) : List VReg :=
  (if d then spanRegs t o.vd.toNat 1 else []) ++ (if a then spanRegs t o.va.toNat 1 else []) ++ (if b then regsOfB t o.b 1 else [])

/-- What a conversion from `src` to `dst` reads of B, and of the scales of va: the whole of their spans (R150, R152). -/
def regsOfConv (t : Task) (o : VOp) (src dst : Nat) (scale : Bool) : List VReg :=
  let w := min (typeBytes src) (typeBytes dst)
  regsOfB t o.b (typeBytes src / w) ++ (if scale then spanRegs t o.va.toNat ((256 / w - 1) / 2 ^ o.opx.toNat / 64 + 1) else [])

/-- The vector and constant registers that an instruction of V reads at its issue, whole, also where no element is selected (R141, R144 to R156). -/
def vSources (t : Task) (i : Instr) : List VReg :=
  match i with
  | .vfma _ o | .vfms _ o => regsOf t o true true true
  | .vadd _ o | .vsub _ o | .vmul _ o | .vdiv _ o | .vmin _ o | .vmax _ o | .vcmp _ o | .vsel _ o | .vdot _ o | .vperm _ o
  | .vzip _ o | .vunzip _ o => regsOf t o false true true
  | .viadd _ o | .visub _ o | .vimul _ o | .vand _ o | .vor _ o | .vxor _ o | .vshl _ o | .vshr _ o | .vsra _ o | .vimin _ o
  | .vimax _ o => regsOf t o false true true
  | .vabs _ o | .vneg _ o | .vsqrt _ o | .vrcp _ o | .vrsq _ o | .vexp2 _ o | .vlog2 _ o | .vmov _ o | .vrsum _ o | .vrmax _ o
  | .vrmin _ o => regsOf t o false false true
  | .vslide _ o | .vbcast _ o => regsOf t o false true false
  | .vcvt _ o => regsOfConv t o o.opx.toNat o.ty.toNat false
  | .vqnt _ o => regsOfConv t o 0 o.ty.toNat true
  | .vdqnt _ o => regsOfConv t o o.ty.toNat 0 true
  | .vsrnd _ o => regsOfConv t o 0 0 false
  | _ => []

/-- A word of one of the sources is in error. -/
def readsBad (t : Task) (l : List VReg) : Bool := t.bad.any (fun w => l.any (readsWord · w))

/-- A vector instruction that touches the types `tys`: a binary8 one traps ILLEGAL_FIELD while B8P is 0 (R70, R166); a source with
a word in error traps ECC_UNCORRECTABLE (R344). The
body answers the next state, whose sources were read at issue (R140). -/
def vrun (i : Instr) (y : Syn) (tys : List Nat) (body : Task → State → State) (s : State) : Host.Outcome State Fault Refusal :=
  run i y 1 (fun s =>
    if tys.any isB8 && b8p s.here == 0 then fieldTrap s i
    else if readsBad s.here (vSources s.here i) then eccTrap s
    else .ok (body s.here s)) s

/-- The flags of a list of results. -/
def allFlags {α : Type} (l : List (α × (Nat × Flags))) : Flags := l.foldl (fun f x => f ||| x.2.2) 0

/-- Element results (index, code and flags) of width `w` to the span from name `n`, at `lat` ticks (R141, R142). -/
def vput (s : State) (t : Task) (lat n w : Nat) (res : List (Nat × (Nat × Flags))) : State :=
  pendWrites s lat (elemWrites t n w (res.map (fun x => (x.1, x.2.1)))) (allFlags res)

/-- An element-wise operation on the codes of vd, va and B at each selected element (R141): `f` also takes the TYPE and the
element index. -/
def vElem (i : Instr) (y : Syn) (o : VOp) (isInt : Bool) (lat : Nat) (f : Task → Nat → Nat → Nat → Nat → Nat → Nat × Flags)
    (s : State) : Host.Outcome State Fault Refusal :=
  vrun i y [vtype o isInt] (fun t s =>
    let ty := vtype o isInt
    let w := typeBytes ty
    vput s t lat o.vd.toNat w ((selElems t o.pred.toNat w).map (fun e =>
      (e, f t ty e (spanElem t o.vd.toNat w e) (spanElem t o.va.toNat w e) (vsrc t o.b isInt w e))))) s

/-- The position of a vector instruction's element 0: x31 of V, read at issue (R143). -/
def Task.x31 (t : Task) : Word := t.v.reg 31

/-- A value rounded into any TYPE (R64, R66, R151). -/
def roundType (t : Task) (ty : Nat) (mode : Mode) (sat : Bool) (x : FVal) : Nat × Flags :=
  if isIntTy ty then roundToInt (8 * typeBytes ty) (intSigned ty) mode x else roundTo (typeFmt t ty) mode sat x

/-- `sat` of a vector rounding: NOT B8INF for binary8, false otherwise (R70, R151, R152). -/
def satOf (t : Task) (ty : Nat) : Bool := isB8 ty && !b8inf t

/-- The range of an integer TYPE. -/
def intLo (ty : Nat) : Int := if intSigned ty then -(2 ^ (8 * typeBytes ty - 1) : Nat) else 0
def intHi (ty : Nat) : Int := if intSigned ty then (2 ^ (8 * typeBytes ty - 1) : Nat) - 1 else (2 ^ (8 * typeBytes ty) : Nat) - 1
def clampInt (ty : Nat) (z : Int) : Int := max (intLo ty) (min (intHi ty) z)
def intCode (ty : Nat) (z : Int) : Nat := wrap (8 * typeBytes ty) z

end Sys2Proof.Machine
end

