-- ==== Sys2Proof/Machine/VecMem.lean ====
section
/-! DEFINITION. Vector memory (R157 to R161): the accesses of one instruction or single issue, their checks before any byte
moves, and the stores in their order. -/

namespace Sys2Proof.Machine

/-- What one vector access addresses: 256 bytes, or each element by itself. -/
inductive VAcc where
  | block (a : Nat)
  | each (l : List (Nat × Nat))
deriving DecidableEq, Repr

/-- Every element access checked, in ascending e (R158). Where several elements of one instruction fail, or several words of one KLD, the
cause and FADDR are those of the lowest: R158 and R362 give no order among them (DESIGN CHOICE, log 26). -/
def checkEach (s : State) (rs : Ranges) (k : AccKind) (w : Nat) : List (Nat × Nat) → Except AccFault (List (Nat × Place))
  | [] => .ok []
  | (e, a) :: t =>
    match checkAccess s (myCore s) s.here rs k a w w with
    | .error f => .error f
    | .ok p =>
      match checkEach s rs k w t with
      | .error f => .error f
      | .ok l => .ok ((e, p) :: l)

/-- The lanes of a register that `n` bytes from `lane` on fill, those only that `keep` names. -/
def lanesOf (lane n : Nat) (keep : Nat → Bool) : BitVec 256 :=
  BitVec.ofNat 256 (((upTo n (fun i => lane + i)).filter keep).map (2 ^ ·)).sum

/-- The granules of a 256-byte load: all of them are read, and each writes its selected lanes (R96, R158). -/
def blockPieces (t : Task) (w pred reg : Nat) (p : Place) (a : Nat) : List LoadPiece :=
  granulePieces (fun g => .v (physV t reg) (16 * g) (lanesOf (16 * g) 16 (fun b => selected t pred w (b / w)))) p a 16

/-- A load of the executing sequencer issues; a timed one keeps its slot positions (R122). -/
def loadIssue (s : State) (lat : Nat) (ordered : Bool) (ps : List LoadPiece) : Res :=
  if ps.all (fun l => wheelKept s l.place) then .ok (pendLoads s lat [] 0 ordered ps) else .wait 5 .none 0 0 s

/-- The loads of one access: 14 ticks (R158). The elements of VLDS are events of their own in ascending e (R159). -/
def vLoad (s : State) (w pred reg : Nat) (acc : VAcc) : Res :=
  let t := s.here
  match acc with
  | .block a =>
    match checkAccess s (myCore s) t Ranges.noTx .load a 256 256 with
    | .error f => f.res s
    | .ok p => loadIssue s Config.latLoad false (blockPieces t w pred reg p a)
  | .each l =>
    match checkEach s Ranges.noTx .load w l with
    | .error f => f.res s
    | .ok ps =>
      loadIssue s Config.latLoad true ((ps.zip l).map (fun x =>
        { place := x.1.2, len := w, dest := .v (physV t reg) (x.1.1 * w) (lanesOf (x.1.1 * w) w (fun _ => true)), addr := x.2.2 }))

/-- Bytes without their leading unnamed ones, and how many those were. -/
def trimNamed (bs : List (Option Byte)) : Nat × List (Option Byte) :=
  let t := bs.dropWhile (·.isNone)
  (bs.length - t.length, t)

/-- The stores of a wide access of up to 256 bytes: one for each granule with named bytes, ascending (R96, R159). -/
def blockUnits (p : Place) (bs : List (Option Byte)) : List (Place × List (Option Byte)) :=
  (upTo 16 (fun g =>
    let u := trimNamed ((bs.drop (16 * g)).take 16)
    (p.add (16 * g + u.1), u.2))).filter (fun u => !u.2.isEmpty)

/-- One store event of the executing sequencer. -/
def storeNamed (s : State) (p : Place) (bs : List (Option Byte)) : TxRes :=
  match p with
  | .tx a =>
    txStore s (myCore s) (myBank s) s.cur.q (curId s) s.here.part a
      ((bs.mapIdx (fun i b => (a + i, b))).filterMap (fun x => x.2.map (fun b => (x.1, b))))
  | _ => .sent (queueStore s (curId s) p bs)

/-- A store into a transmit window. -/
def isTxUnit (u : Place × List (Option Byte)) : Bool := match u.1 with | .tx _ => true | _ => false

/-- The other stores of one instruction join the queue, in their order, each in the chain of its place; those that name a line whole clear its
poison (R93). -/
def queueAll (chain : Place → Nat) (us : List (Place × List (Option Byte))) (s : State) : State :=
  us.foldl (fun s u => queueChained s (curId s) u.1 u.2 none (chain u.1) (wholeLine us u)) s

/-- The stores into windows in their order, the `k`-th first: a window that cannot accept one stalls the instruction part-way (R99). `last`
follows them. -/
def sendUnits (last : State → State) : Nat → List (Place × List (Option Byte)) → State → Res
  | _, [], s => .ok (last s)
  | k, (p, bs) :: rest, s =>
    match storeNamed s p bs with
    | .sent s => sendUnits last (k + 1) rest s
    | .stall => .wait 5 .none p.off k s
    | .deadPeer m s => .trap .invalidPeer m 0 s

/-- The window and the dead member that first stop a store of the list (R231). -/
def deadUnits (s : State) (us : List (Place × List (Option Byte))) : Option (Nat × Nat) :=
  us.findSome? (fun u =>
    match u.1 with
    | .tx a => (findTx s s.here.part a).bind (fun w => (deadPeer (s.txWin w)).map (fun m => (w, m)))
    | _ => none)

/-- What the first of the stores that may not issue waits for. -/
def storeWait (s : State) (us : List (Place × List (Option Byte))) : OpProg :=
  match us.find? (fun u => !mayStore s u.1) with
  | some u => waitFor u.1
  | none => .none

/-- All stores of one instruction or single issue, the reflected ones already sent excepted. The others are made only when the windows have
accepted all of those, so that one that faults has made none of them (R158, R184). -/
def sendChained (chain : Place → Nat) (s : State) (us : List (Place × List (Option Byte))) : Res :=
  let k := curSent s
  let tx := (us.filter isTxUnit).drop k
  let own := us.filter (fun u => !isTxUnit u)
  match deadUnits s tx with
  | some x => .trap .invalidPeer x.2 0 (markTrapped s x.1)
  | none => if own.all (fun u => mayStore s u.1) then sendUnits (queueAll chain own) k tx s else .wait 5 (storeWait s own) 0 k s

def sendAll (s : State) (us : List (Place × List (Option Byte))) : Res := sendChained (fun _ => 0) s us

/-- The stores of a single issue: on a stall the record holds them, so that its operands are not read again (R99). -/
def putChained (chain : Place → Nat) (s : State) (us : List (Place × List (Option Byte))) : Res :=
  match sendChained chain s us with
  | .wait kind op addr sent s => .wait kind op addr sent (match s.me.prog with | some p => setProg s { p with outs := us } | none => s)
  | r => r

def putAll (s : State) (us : List (Place × List (Option Byte))) : Res := putChained (fun _ => 0) s us

/-- The stores of one access (R158, R159). -/
def vStore (s : State) (w pred reg : Nat) (acc : VAcc) : Res :=
  let t := s.here
  let data := t.vget reg
  let lane (b : Nat) : Byte := data.extractLsb' (8 * b) 8
  match acc with
  | .block a =>
    match checkAccess s (myCore s) t Ranges.all .store a 256 256 with
    | .error f => f.res s
    | .ok p => sendAll s (blockUnits p (upTo 256 (fun b => if selected t pred w (b / w) then some (lane b) else none)))
  | .each l =>
    match checkEach s Ranges.all .store w l with
    | .error f => f.res s
    | .ok ps => sendAll s (ps.map (fun x => (x.2, upTo w (fun b => some (lane (x.1 * w + b))))))

/-- One access of a vector memory instruction at `head`: a binary8 TYPE needs B8P (R166), the data of a store and an index register without a
word in error (R344). -/
def vMem (s : State) (head ty pred reg : Nat) (idx : Option Nat) (isLoad : Bool) (acc : VAcc) : Res :=
  if isB8 ty && b8p s.here == 0 then .trap .illegalField head 0 s
  else if readsBad s.here ((if isLoad then [] else spanRegs s.here reg 1) ++ idx.toList.flatMap (fun n => spanRegs s.here n 1)) then eccTrap s
  else if isLoad then vLoad s (typeBytes ty) pred reg acc else vStore s (typeBytes ty) pred reg acc

/-- The three ways of addressing. -/
inductive VMode where
  | block
  | strided
  | indexed
deriving DecidableEq, Repr

/-- The index register, where there is one. -/
def VMode.idx (m : VMode) (n : Nat) : Option Nat := if m = .indexed then some n else none

/-- The access from base address `base` (mod 2^64), with an element stride in bytes and an index register (R157). -/
def vAccess (t : Task) (m : VMode) (w pred : Nat) (base : Nat) (stride : Int) (idx : Nat) : VAcc :=
  let sel := selElems t pred w
  match m with
  | .block => .block (base % 2 ^ 48)
  | .strided => .each (sel.map (fun e => (e, wrap 48 (base + e * stride))))
  | .indexed => .each (sel.map (fun e => (e, wrap 48 (base + sbits (spanElem t idx w e) 0 (8 * w) * w))))

/-- The two-parcel form (R157). -/
def vMemTwo (s : State) (i : Instr) (isLoad : Bool) (m : VMode) (o : VMemOp) : Res :=
  let t := s.here
  let w := typeBytes o.ty.toNat
  let off : Int := match m with | .block => o.vb.toInt * 256 | .strided => o.vb.toInt * w | .indexed => 0
  vMem s (headPc s i).toNat o.ty.toNat o.pred.toNat o.vd.toNat (m.idx o.vb.toNat) isLoad
    (vAccess t m w o.pred.toNat (wrap 64 ((s.reg o.xa.toNat).toNat + off)) (s.reg o.opx.toNat).toNat o.vb.toNat)

/-- A register operand of a V record at a point of its loop nest (R160). -/
def recName (x : RecOperand) (p : RecProg) : Int := (x.base.extractLsb' 0 10).toNat + recSteps x p.i0 p.i1 p.i2 p.i3

/-- One single issue of the record form (R160). -/
def vMemSingle (isLoad : Bool) (m : VMode) (p : RecProg) (s : State) : Res :=
  let s := setProg s p
  let r := p.fields
  let ty := r.opm.toNat
  let w := typeBytes ty
  let x := if isLoad then r.d else r.a
  let z := if isLoad then r.a else r.d
  let base := if isLoad then p.baseA else p.baseD
  let reg := recName x p
  let idx := if m = .indexed then recName r.b p else 0
  let size := if m = .block then 256 else w
  let a := wrap 64 (base.toNat + recSteps z p.i0 p.i1 p.i2 p.i3 * size)
  if 0 ≤ reg && reg < 1024 && 0 ≤ idx && idx < 1024 then
    vMem s p.pc.toNat ty 0 reg.toNat (m.idx idx.toNat) isLoad (vAccess s.here m w 0 a r.aux0.toInt idx.toNat)
  else .trap .illegalField p.pc.toNat 0 s

/-- A vector memory instruction in either form. -/
def vMemExec (i : Instr) (y : Syn) (isLoad : Bool) (m : VMode) (f : VMemForm) (s : State) : Host.Outcome State Fault Refusal :=
  match f with
  | .two o => run i y 1 (fun s => vMemTwo s i isLoad m o) s
  | .record _ => startRecord i y (fun s p => .ok (s, p)) s

def execVld (y : Syn) (f : VMemForm) (s : State) := vMemExec (.vld y f) y true .block f s
def execVst (y : Syn) (f : VMemForm) (s : State) := vMemExec (.vst y f) y false .block f s
def execVlds (y : Syn) (f : VMemForm) (s : State) := vMemExec (.vlds y f) y true .strided f s
def execVsts (y : Syn) (f : VMemForm) (s : State) := vMemExec (.vsts y f) y false .strided f s
def execVgath (y : Syn) (f : VMemForm) (s : State) := vMemExec (.vgath y f) y true .indexed f s
def execVscat (y : Syn) (f : VMemForm) (s : State) := vMemExec (.vscat y f) y false .indexed f s

/-- The words of KLD by granule: the first one and how many there are (R96, R161). -/
def kldRuns (a n : Nat) : List (Nat × Nat) :=
  ((upTo n id).filter (fun k => k == 0 || (a + 4 * k) % 16 == 0)).map (fun k => (k, min (n - k) ((16 - (a + 4 * k) % 16) / 4)))

/-- KLD: count words into the constant bank, 14 ticks (R161). -/
def execKld (y : Syn) (o : VMemOp) (s : State) : Host.Outcome State Fault Refusal :=
  run (.kld y o) y 1 (fun s =>
    let a := (s.reg o.xa.toNat).toNat
    let n := o.vb.toNat + 1
    match checkEach s Ranges.noTx .load 4 (upTo n (fun k => (k, (a + 4 * k) % 2 ^ 48))) with
    | .error f => f.res s
    | .ok ps =>
      loadIssue s Config.latLoad false ((kldRuns a n).filterMap (fun r => (ps[r.1]?).map (fun x =>
        { place := x.2, len := 4 * r.2, dest := .k (o.vd.toNat + r.1), addr := (a + 4 * r.1) % 2 ^ 48 })))) s

end Sys2Proof.Machine
end

