-- ==== Sys2Proof/Machine/A2a.lean ====
section
/-! DEFINITION. A2A (R258). -/

namespace Sys2Proof.Machine

/-- An expert: transmit window, capacity, fallback. -/
structure Expert where
  win : Nat
  cap : Nat
  fb : Nat
deriving DecidableEq, Repr

def aF (d o n : Nat) : Nat := bits d (8 * o) (8 * n)

/-- The fields of the descriptor. -/
def a2aOk (d : Nat) : Bool :=
  let tsz := aF d 2 2
  aF d 42 22 == 0 && aF d 0 2 == 0 && aF d 41 1 ≤ 1 && aF d 4 4 ≤ 65536 && tsz % 16 == 0 && 16 ≤ tsz && tsz ≤ 4096

def expertOf (w : Nat) : Expert := { win := bits w 0 10, cap := bits w 16 16, fb := bits w 32 8 }
def expertOk (n w : Nat) : Bool := bits w 10 6 == 0 && bits w 40 24 == 0 && (bits w 32 8 == 0xFF || bits w 32 8 < n)

/-- DEST as an expert, or -1 as none. -/
def destOf (w : Nat) : Option Nat := if w = 2 ^ 32 - 1 then none else some w

/-- Where a token goes: while its expert is full, on to the fallback (at most `NEXP` tries). -/
def settleExpert (xs : List Expert) (counts : Sparse Nat) (fallback : Bool) : Nat → Nat → Option Nat
  | tries, e =>
    match xs[e]? with
    | none => none
    | some x =>
      if Sparse.get 0 counts e = x.cap then
        match tries with
        | 0 => none
        | n + 1 => if !fallback || x.fb = 0xFF then none else settleExpert xs counts fallback n x.fb
      else some e

/-- The routing so far: tokens a count per expert, drops, falls, and the (token, expert, slot) placed, newest first. -/
structure Routing where
  counts : Sparse Nat
  drops : Nat
  falls : Nat
  placed : List (Nat × Nat × Nat)
  map : List (Option Nat)
deriving DecidableEq, Repr

def routeToken (xs : List Expert) (fallback : Bool) (r : Routing) (x : Nat × Nat) : Routing :=
  let dest := destOf x.1
  let e := dest.bind (settleExpert xs r.counts fallback xs.length)
  let r := { r with map := r.map ++ [e], drops := if dest.isSome && e.isNone then r.drops + 1 else r.drops,
                    falls := if e.isSome && e != dest then r.falls + 1 else r.falls }
  match e with
  | none => r
  | some e => { r with placed := (x.2, e, Sparse.get 0 r.counts e) :: r.placed, counts := Sparse.set 0 e (Sparse.get 0 r.counts e + 1) r.counts }

/-- Each of `n` tokens with its expert and its slot there. -/
def Routing.rows (r : Routing) (n : Nat) : List (Nat × Option (Nat × Nat)) :=
  upTo n (fun t => (t, (r.placed.find? (fun x => x.1 == t)).map (·.2)))

def routeAll (xs : List Expert) (fallback : Bool) (dests : List Nat) : Routing :=
  dests.zipIdx.foldl (routeToken xs fallback) { counts := [], drops := 0, falls := 0, placed := [], map := [] }

/-- The address of `n` bytes at an offset of an expert's window. -/
def expertAddr (s : State) (x : Expert) (off n : Nat) : Except AccFault Nat :=
  let w := s.txWin x.win
  if off + n ≤ w.size then .ok (w.lbase + off) else .error ⟨.extent, w.lbase + off⟩

/-- One store of A2A: the granule that it copies, if it copies one, where it goes, and its bytes, if it does not. -/
abbrev A2aStore := Option Place × Place × List (Option Byte)

/-- The stores of a token: its granules, ascending, into the slot of its expert. -/
def tokenStores (s : State) (tsz tok : Nat) (x : Expert) (slot : Nat) : Except AccFault (List A2aStore) :=
  match expertAddr s x (64 + slot * tsz) tsz with
  | .error f => .error f
  | .ok a =>
    (upTo (tsz / 16) id).foldr (fun k r =>
      match checkAccess s (myCore s) s.here Ranges.noTx .load ((tok + 16 * k) % 2 ^ 48) 16 16 with
      | .error f => .error f
      | .ok p =>
        match r with
        | .error f => .error f
        | .ok l => .ok ((some p, .tx (a + 16 * k), []) :: l)) (.ok [])

/-- The store of the entry of MAP for a token. -/
def mapStore (s : State) (map t : Nat) (e : Option Nat) : Except AccFault A2aStore :=
  match checkAccess s (myCore s) s.here Ranges.all .store ((map + 4 * t) % 2 ^ 48) 4 4 with
  | .error f => .error f
  | .ok p => .ok (none, p, (leBytes 4 (e.getD (2 ^ 32 - 1))).map some)

/-- The stores of every token in ascending index, each followed by its entry of MAP (R258). `d` is the descriptor; a row of the list is
the token, and its expert with the slot there. -/
def loopStores (s : State) (d : Nat) (xs : List Expert) : List (Nat × Option (Nat × Nat)) → Except AccFault (List A2aStore)
  | [] => .ok []
  | (t, e) :: rest =>
    let tsz := aF d 2 2
    let own : Except AccFault (List A2aStore) :=
      match e with
      | some x => tokenStores s tsz (aF d 8 8 + t * tsz) (xs.getD x.1 ⟨0, 0, 0⟩) x.2
      | none => .ok []
    match own, mapStore s (aF d 32 8) t (e.map (·.1)) with
    | .error f, _ => .error f
    | .ok _, .error f => .error f
    | .ok us, .ok m =>
      match loopStores s d xs rest with
      | .error f => .error f
      | .ok l => .ok (us ++ m :: l)

/-- The headers: the count and the own module number, 8 bytes each, in one store. -/
def headerStores (s : State) (r : Routing) (xs : List Expert) : List A2aStore :=
  xs.zipIdx.map (fun x => (none, .tx (s.txWin x.1.win).lbase, (leBytes 8 (Sparse.get 0 r.counts x.2) ++ leBytes 8 s.modNum).map some))

/-- A2A after its checks: what its reads left, its stores in order, its result. -/
structure A2aPlan where
  state : State
  stores : List A2aStore
  result : Word

/-- Everything that A2A checks, before any store, and then its plan. -/
def a2aPlan (s : State) (i : Instr) (a : Nat) : Except Res A2aPlan :=
  let core := myCore s
  let t := s.here
  match readAs ownReader core t Ranges.noTx 64 1 a s with
  | .error e => .error e.res
  | .ok x =>
    let d := leNat x.2
    let n := aF d 40 1 + 1
    if !a2aOk d then .error (fieldTrap s i)
    else
      match readNums ownReader core t 8 n (aF d 24 8) x.1 with
      | .error e => .error e.res
      | .ok ws =>
        if !ws.2.all (expertOk n) then .error (fieldTrap s i)
        else
          let xs := ws.2.map expertOf
          match readNums ownReader core t 4 (aF d 4 4) (aF d 16 8) ws.1 with
          | .error e => .error e.res
          | .ok dests =>
            if !dests.2.all (fun w => w < n || w == 2 ^ 32 - 1) then .error (fieldTrap s i)
            else
              match xs.zipIdx.find? (fun x => let w := s.txWin x.1.win; !(w.mapped && w.part == t.part)) with
              | some x => .error (.trap .extent (aF d 24 8 + 8 * x.2) 0 s)
              | none =>
                let r := routeAll xs (aF d 41 1 == 1) dests.2
                match loopStores dests.1 d xs (r.rows dests.2.length) with
                | .error f => .error (f.res s)
                | .ok us => .ok { state := dests.1, stores := us ++ headerStores s r xs, result := BitVec.ofNat 64 (r.drops + 2 ^ 32 * r.falls) }

/-- The result once the last store has departed. -/
def a2aEnd (o : COp) (v : Word) (s : State) : Res :=
  if s.undeparted (myCore s) (myBank s) .c (curId s) then .wait 7 (.status v) o.sd.toNat 0 s else .ok (s.setReg o.sd.toNat v)

/-- One store of A2A, with the granule that it copies read for it. Nothing: its bank, its port or its wheel keeps it waiting. -/
def a2aStore (s : State) (x : A2aStore) : Option TxRes :=
  match x.1 with
  | some p => (readOperand s p 16).map (fun r => storeNamed r.1 x.2.1 (r.2.map some))
  | none => if mayStore s x.2.1 then some (storeNamed s x.2.1 x.2.2) else none

/-- The stores of A2A go in their order, from the `k`-th on, each as its window and its granule let it. -/
def a2aGo (o : COp) (v : Word) : Nat → List A2aStore → State → Res
  | _, [], s => a2aEnd o v s
  | k, x :: rest, s =>
    match a2aStore s x with
    | none => .wait 5 (.a2a v (x :: rest)) 0 k s
    | some (.sent s) => a2aGo o v (k + 1) rest s
    | some .stall => .wait 5 (.a2a v (x :: rest)) x.2.1.off k s
    | some (.deadPeer m s) => .trap .invalidPeer m 0 s

def execA2a (y : Syn) (o : COp) (s : State) : Host.Outcome State Fault Refusal :=
  run (.a2a y o) y 1 (fun s =>
    match curOp s with
    | .status v => a2aEnd o v s
    | .a2a v l => a2aGo o v (curSent s) l s
    | _ =>
      match a2aPlan s (.a2a y o) (opAddr s o) with
      | .error r => r
      | .ok x => a2aGo o x.result 0 x.stores x.state) s

end Sys2Proof.Machine
end

