-- ==== Sys2Proof/Machine/Barrier.lean ====
section
/-! DEFINITION. Barriers (R257, R276, R277). -/

namespace Sys2Proof.Machine

def barGet (s : State) (n : Nat) : Barrier := Sparse.get Barrier.reset s.myPart.bars n
def barPut (s : State) (n : Nat) (b : Barrier) : State := s.setMyPart { s.myPart with bars := Sparse.set Barrier.reset n b s.myPart.bars }

def execBinit (y : Syn) (o : COp) (s : State) : Host.Outcome State Fault Refusal :=
  run (.binit y o) y 1 (fun s =>
    let v := (opVal s o).toNat
    let n := o.sd.toNat
    if 65535 < v then fieldTrap s (.binit y o) else .ok (barPut s n { barGet s n with e := v, pending := v })) s

def execBarm (y : Syn) (o : COp) (s : State) : Host.Outcome State Fault Refusal :=
  run (.barm y o) y 1 (fun s =>
    let a := opAddr s o
    let n := o.sd.toNat
    if a = 0 then .ok (barPut s n { barGet s n with arm := none })
    else if (s.myPart.coll? a).isSome then .ok (barPut s n { barGet s n with arm := some a })
    else fieldTrap s (.barm y o)) s

/-- One arrival (R277): the flip where it is the last one, with the COLL of an armed barrier. -/
def arriveAt (s : State) (n : Nat) : Res :=
  let b := barGet s n
  let t := s.here
  let s := s.setHere { t with phases := Sparse.set 0 n b.phase t.phases }
  if b.pending ≤ 1 then
    let s := barPut s n { b with phase := b.phase + 1, pending := b.e }
    match b.arm with
    | none => .ok s
    | some a => .ok (flipColl s t.part { addr := a, bar := n, core := myCore s, bank := myBank s, sinceGt := s.gt, late := none, early := [], stack := none })
  else .ok (barPut s n { b with pending := b.pending - 1 })

def execArrive (y : Syn) (n : BitVec 6) (s : State) : Host.Outcome State Fault Refusal :=
  run (.arrive y n) y 1 (fun s =>
    if (barGet s n.toNat).e = 0 then fieldTrap s (.arrive y n)
    else if cPerformed s then arriveAt s n.toNat
    else .wait 7 .none 0 0 s) s

def execBwait (y : Syn) (n : BitVec 6) (s : State) : Host.Outcome State Fault Refusal :=
  run (.bwait y n) y 1 (fun s =>
    let b := barGet s n.toNat
    if b.e = 0 then fieldTrap s (.bwait y n)
    else if b.phase != Sparse.get 0 s.here.phases n.toNat then .ok s
    else .wait 3 .none 0 0 s) s

end Sys2Proof.Machine
end

