-- ==== Sys2Proof/Machine/Branch.lean ====
section
/-! DEFINITION. Branches of C (R31, R267). -/

namespace Sys2Proof.Machine

/-- A branch that is taken when `taken` says so of a = s[SA] and d = s[SD] (R267). -/
def branch (i : Instr) (y : Syn) (o : COp) (taken : Word → Word → Bool) (s : State) : Host.Outcome State Fault Refusal :=
  run i y 1 (fun s =>
    .ok (if taken (srcA s o) (srcD s o) then setPc s (branchTarget (headPc s i) (cbImm o.b)) else s)) s

def execJ (y : Syn) (o : COp) (s : State) := branch (.j y o) y o (fun _ _ => true) s
def execBeq (y : Syn) (o : COp) (s : State) := branch (.beq y o) y o (fun a d => a == d) s
def execBne (y : Syn) (o : COp) (s : State) := branch (.bne y o) y o (fun a d => a != d) s
def execBlt (y : Syn) (o : COp) (s : State) := branch (.blt y o) y o (fun a d => a.slt d) s
def execBge (y : Syn) (o : COp) (s : State) := branch (.bge y o) y o (fun a d => !a.slt d) s
def execBltu (y : Syn) (o : COp) (s : State) := branch (.bltu y o) y o (fun a d => a.ult d) s
def execBgeu (y : Syn) (o : COp) (s : State) := branch (.bgeu y o) y o (fun a d => !a.ult d) s

/-- BBS tests bit SD of s[SA]; SD is a bit number (R31, R267). -/
def execBbs (y : Syn) (o : COp) (s : State) := branch (.bbs y o) y o (fun a _ => a.getLsbD o.sd.toNat) s

/-- The link PC + 8 (R267). -/
def link (s : State) (i : Instr) : Word := (headPc s i + 8).setWidth 64

def execJal (y : Syn) (o : COp) (s : State) : Host.Outcome State Fault Refusal :=
  run (.jal y o) y 1 (fun s =>
    .ok (setPc (s.setReg o.sd.toNat (link s (.jal y o))) (branchTarget (headPc s (.jal y o)) (cbImm o.b)))) s

/-- JR reads s[SA] before it writes the link; a target that is no multiple of 4 traps MISALIGNED (R267). -/
def execJr (y : Syn) (o : COp) (s : State) : Host.Outcome State Fault Refusal :=
  run (.jr y o) y 1 (fun s =>
    let target := opAddr s o
    if target % 4 ≠ 0 then .trap .misaligned target 0 s
    else .ok (setPc (s.setReg o.sd.toNat (link s (.jr y o))) (BitVec.ofNat 48 target))) s

end Sys2Proof.Machine
end

