-- ==== Sys2Proof/Machine/Common.lean ====
section
/-! DEFINITION. The common group of the four spaces (R41, R101, R102, R282, R332, R334). -/

namespace Sys2Proof.Machine

def execNop (y : Syn) (s : State) : Host.Outcome State Fault Refusal := run (.nop y) y 1 (fun s => .ok s) s

/-- IDLE n occupies its issue tick and n idle ticks. -/
def execIdle (y : Syn) (n : BitVec 14) (s : State) : Host.Outcome State Fault Refusal :=
  run (.idle y n) y (1 + n.toNat) (fun s => .ok s) s

def execJmp (y : Syn) (off : BitVec 32) (s : State) : Host.Outcome State Fault Refusal :=
  run (.jmp y off) y 1 (fun s => .ok (setPc s (branchTarget (headPc s (.jmp y off)) off))) s

/-- BNZD: reg := reg - 1; the branch is taken if that is not 0. -/
def execBnzd (y : Syn) (r : CountReg) (off : BitVec 32) (s : State) : Host.Outcome State Fault Refusal :=
  run (.bnzd y r off) y 1 (fun s =>
    let n := match r with | .s r => r.toNat | .x r => r.toNat
    let v := s.reg n - 1
    let t := branchTarget (headPc s (.bnzd y r off)) off
    let s := match r with | .s _ => s.setReg n v | .x _ => pendWrites s 1 [.x n v] 0
    .ok (if v != 0 then setPc s t else s)) s

/-- The oldest entry that POP takes, and the task without it. V keeps the entries that its region took (R334). -/
def popEntry (t : Task) (q : SeqId) : Option (Word × Task) :=
  match q with
  | .v => (t.pqV[t.heldTaken]?).map (fun w => (w, { t with heldTaken := t.heldTaken + 1, heldV := max t.heldV (t.heldTaken + 1) }))
  | .t => match t.pqT with | w :: l => some (w, dequeued { t with pqT := l } q.num 1) | [] => none
  | .m => match t.pqM with | w :: l => some (w, dequeued { t with pqM := l } q.num 1) | [] => none
  | .c => none

/-- Where in its parameter queue the entry stands that POP of a sequencer takes. -/
def popIndex (t : Task) (q : SeqId) : Nat := if q = .v then t.heldTaken else 0

def execPop (y : Syn) (xd : BitVec 5) (s : State) : Host.Outcome State Fault Refusal :=
  run (.pop y xd) y 1 (fun s =>
    match popEntry s.here s.cur.q with
    | some (w, t) => if s.here.bad.contains (.pq s.cur.q.num (popIndex s.here s.cur.q)) then eccTrap s else .ok (pendWrites (s.setHere t) 1 [.x xd.toNat w] 0)
    | none => .wait 6 .none 0 0 s) s

def execXadd (y : Syn) (o : E2) (s : State) : Host.Outcome State Fault Refusal :=
  run (.xadd y o) y 1 (fun s =>
    .ok (pendWrites s 1 [.x o.xd.toNat (s.reg o.xa.toNat + o.imm.signExtend 64)] 0)) s

/-- The entries that V took are freed (R334). -/
def freeHeld (t : Task) : Task :=
  dequeued { t with pqV := t.pqV.drop t.heldTaken, heldV := t.heldV - t.heldTaken, heldTaken := 0 } SeqId.v.num t.heldTaken

/-- REGION on V opens a region (R334): its control values, its counts with the REGION's own SYN, the end of replay mode
unless it is the REGION that V resumed at. -/
def openRegion (s : State) (head : BitVec 48) : State :=
  let t := s.here
  let w := s.me.wait
  let took : Sparse Nat := match w with | some w => (ids w.took ++ ids w.cred).foldl (fun m a => bump m a 1) [] | none => []
  let supp : Sparse Nat := match w with | some w => (ids w.supp).foldl (fun m a => bump m a 1) [] | none => []
  let t :=
    if t.replay && t.atRegion then { t with atRegion := false }
    else
      let t := freeHeld t
      if t.replay then
        { t with replay := false, mute := [], credit := [], owed := [0, 1, 3].foldl (fun m a => bump m a (Sparse.get 0 t.credit a)) t.owed }
      else t
  let t := { t with taken := took, sent := supp, regVl := t.vl, regVrb := t.vrb, regVcsr := t.vcsr }
  s.setHere { t with v := { t.v with lastRegion := head, regionNo := t.v.regionNo + 1 } }

/-- In timetable mode an engine is held whenever it reaches REGION, until an ALIGN releases it (R282). -/
def holdsAtRegion (s : State) : Bool := mayIssue s && s.here.timed && s.cur.q != .c && !s.me.armed

def execRegion (y : Syn) (s : State) : Host.Outcome State Fault Refusal :=
  if holdsAtRegion s then .next (s.setMe { s.me with stream := .held, early := [] })
  else run (.region y) y 1 (fun s =>
    match s.cur.q with
    | .v => .ok (openRegion s (headPc s (.region y)))
    | _ => .ok (s.setMe { s.me with lastRegion := headPc s (.region y) })) s

/-- END completes when every earlier instruction of its sequencer has; with C's END the engines still held count as
ended (R41, R271). -/
def execEndStream (y : Syn) (s : State) : Host.Outcome State Fault Refusal :=
  run (.endStream y) y 1 (fun s =>
    let u := s.me
    if u.flights.all (fun f => complete s (myCore s) (myBank s) s.cur.q u f.id) then
      let s := s.setMe { u with stream := .ended }
      match s.cur.q with
      | .c =>
        let drop (t : Task) (q : SeqId) : Task :=
          if (t.seq q).stream == .held then t.setSeq q { t.seq q with stream := .ended } else t
        .ok (s.setHere ([SeqId.t, .v, .m].foldl drop s.here))
      | .v => .ok (s.setHere (freeHeld s.here))
      | _ => .ok s
    else .wait 7 .ending 0 0 s) s

end Sys2Proof.Machine
end

