-- ==== Sys2Proof/Machine/Accum.lean ====
section
/-! DEFINITION. Format words (R78 to R80), the wide accumulator element (R72 to R76), its banks with their checksums (R134,
R135) and the image of a bank (R77, R182, R341). -/

namespace Sys2Proof.Machine

/-! ### Format words -/

/-- Fields of a format word (R78). -/
def fwA (w : Word) : Nat := bits w.toNat 0 4
def fwB (w : Word) : Nat := bits w.toNat 4 4
def fwO (w : Word) : Nat := bits w.toNat 8 4
def fwAP (w : Word) : Nat := bits w.toNat 12 3
def fwAInf (w : Word) : Bool := w.getLsbD 15
def fwBP (w : Word) : Nat := bits w.toNat 16 3
def fwBInf (w : Word) : Bool := w.getLsbD 19
def fwOP (w : Word) : Nat := bits w.toNat 20 3
def fwOInf (w : Word) : Bool := w.getLsbD 23
def fwAlsb (w : Word) : Int := sbits w.toNat 24 12
def fwOrm (w : Word) : Nat := bits w.toNat 36 2
def fwOsat (w : Word) : Bool := w.getLsbD 38
def fwOvfTrap (w : Word) : Bool := w.getLsbD 39
def fwStream (w : Word) : BitVec 32 := (w.extractLsb' 48 16).setWidth 32

/-- Bytes of a format code (R79). -/
def codeBytes (c : Nat) : Nat := if c < 2 then 2 else if c = 2 then 4 else if c < 7 then 1 else 8

/-- A precision and an infinity bit fit their code (R80). -/
def precOk (c p : Nat) (inf : Bool) : Bool := if c = 3 || c = 4 then p != 0 else p == 0 && !inf

/-- An input format of MMA and WLD; a width class is 8-bit from code 3 on (R79). -/
def inCode (c : Nat) : Bool := c < 2 || (3 ≤ c && c < 7)
def is8 (c : Nat) : Bool := 3 ≤ c

/-- R80 with the MMA column of R79. -/
def wordOk (w : Word) : Bool :=
  inCode (fwA w) && inCode (fwB w) && is8 (fwA w) == is8 (fwB w) && fwO w < 7 && fwOrm w != 3 && bits w.toNat 40 8 == 0
    && precOk (fwA w) (fwAP w) (fwAInf w) && precOk (fwB w) (fwBP w) (fwBInf w) && precOk (fwO w) (fwOP w) (fwOInf w)

/-- The word of gate mode (R208). -/
def gateWordOk (w : Word) : Bool :=
  fwA w == 8 && fwB w == 8 && fwO w == 8 && fwOrm w == 0 && bits w.toNat 40 8 == 0 && precOk 8 (fwAP w) (fwAInf w)
    && precOk 8 (fwBP w) (fwBInf w) && precOk 8 (fwOP w) (fwOInf w)

/-- The floating-point format of a code; codes 5 and 6 are integers. -/
def codeFmt (c p : Nat) (inf : Bool) : Fmt :=
  if c = 0 then bf16 else if c = 1 then fp16 else if c = 3 then b8s p inf else if c = 4 then b8u p inf else fp32

/-- A code's value. -/
def codeVal (c p : Nat) (inf : Bool) (x : Nat) : FVal :=
  if c = 5 then FVal.ofInt (sbits x 0 8) else if c = 6 then FVal.ofInt x else (codeFmt c p inf).decode x

/-- A value rounded into a code's format. -/
def roundCode (c p : Nat) (inf : Bool) (mode : Mode) (sat : Bool) (x : FVal) : Nat :=
  if c = 5 || c = 6 then (roundToInt 8 (c == 5) mode x).1 else (roundTo (codeFmt c p inf) mode sat x).1

/-! ### The element (R72, R73) -/

def accMax : Int := (2 ^ 95 : Nat) - 1
def accMin : Int := -(2 ^ 95 : Nat)
def stFin : BitVec 2 := 0
def stOvf : BitVec 2 := 1
def stInf : BitVec 2 := 2
def stNan : BitVec 2 := 3

/-- An element with the tile flags that its products raise. -/
structure AccRes where
  e : Elem
  prange : Bool
  ovf : Bool
deriving DecidableEq, Repr

/-- floor(p * 2^-ALSB). -/
def align96 (alsb : Int) (neg : Bool) (m : Nat) (e : Int) : Int :=
  let z : Int := if neg then -(m : Int) else m
  let k := e - alsb
  if 0 ≤ k then z * (2 ^ k.toNat : Nat) else z / (2 ^ (-k).toNat : Nat)

/-- Accumulate (R73). -/
def accumulate (alsb : Int) (r : AccRes) (p : FVal) : AccRes :=
  let e := r.e
  if e.s = stNan then r
  else
    match p with
    | .nan => { r with e := { e with s := stNan } }
    | .inf neg =>
      if e.s = stInf then (if decide (e.v.toInt < 0) != neg then { r with e := { e with s := stNan } } else r)
      else { r with e := { v := BitVec.ofInt 96 (if neg then accMin else accMax), s := stInf } }
    | .fin neg m x _ =>
      if e.s = stInf then r
      else
        let q := align96 alsb neg m x
        let lim : Int := (2 ^ 80 : Nat)
        let pr := decide (q > lim - 1) || decide (q < -lim)
        let q := max (-lim) (min (lim - 1) q)
        let z := e.v.toInt + q
        let ov := decide (z > accMax) || decide (z < accMin)
        { e := { v := BitVec.ofInt 96 (max accMin (min accMax z)), s := if ov then stOvf else e.s },
          prange := r.prange || pr, ovf := r.ovf || ov }

/-- Drain (R75), but ACC_OVF, which the single issue takes. An OVF element whose V has come back to 0 drains with the positive sign: R75
asks for the sign of V and gives 0 none (DESIGN CHOICE, log 76). -/
def drain (w : Word) (c p : Nat) (inf : Bool) (mode : Mode) (e : Elem) : Nat :=
  let neg := e.v.msb
  let sat := fwOsat w
  if e.s = stNan then roundCode c p inf mode sat .nan
  else if e.s = stInf then roundCode c p inf mode sat (.inf neg)
  else if e.s = stOvf then (if c = 5 || c = 6 then roundCode c p inf mode sat (.inf neg) else (infOrLimit (codeFmt c p inf) neg sat).1)
  else roundCode c p inf mode sat (.fin neg e.v.toInt.natAbs (fwAlsb w) false)

/-! ### Banks (R134, R135) -/

def elemKey (i j : Nat) : Nat := i * 128 + j
def AccBank.elem (b : AccBank) (i j : Nat) : Elem := Sparse.get ⟨0, 0⟩ b.elems (elemKey i j)

/-- An element written; its row and column checksums follow (R135). -/
def AccBank.put (b : AccBank) (i j : Nat) (e : Elem) : AccBank :=
  let d := e.v - (b.elem i j).v
  { b with elems := Sparse.set ⟨0, 0⟩ (elemKey i j) e b.elems,
           rowSum := Sparse.set 0 i (Sparse.get 0 b.rowSum i + d) b.rowSum,
           colSum := Sparse.set 0 j (Sparse.get 0 b.colSum j + d) b.colSum }

/-- The sums of a bank's elements by row or by column. -/
def AccBank.sums (b : AccBank) (key : Nat → Nat) : Sparse (BitVec 96) :=
  b.elems.foldl (fun m e => Sparse.set 0 (key e.1) (Sparse.get 0 m (key e.1) + e.2.v) m) []

/-- The lowest row or column whose checksum fails, 0xFF where none does (R180). -/
def lowestBad (a b : Sparse (BitVec 96)) : Nat :=
  ((upTo 128 id).find? (fun i => Sparse.get 0 a i != Sparse.get 0 b i)).getD 0xFF

/-- ACC_CHECK of a bank: the row and the column of FADDR (R326). -/
def AccBank.check (b : AccBank) : Option Nat :=
  let r := lowestBad (b.sums (fun k => k / 128)) b.rowSum
  let c := lowestBad (b.sums (fun k => k % 128)) b.colSum
  if r = 0xFF && c = 0xFF then none else some (r + 256 * c)

/-- Bank 0 is the working one, 1 the visible one. -/
def accKey (a b : Nat) : Nat := 2 * a + b
def Task.accBank (t : Task) (a b : Nat) : AccBank := Sparse.get AccBank.zero t.acc (accKey a b)
def Task.setAccBank (t : Task) (a b : Nat) (x : AccBank) : Task := { t with acc := Sparse.set AccBank.zero (accKey a b) x t.acc }
def Task.ver (t : Task) (a : Nat) : BitVec 16 := Sparse.get 0 t.version a
def Task.setVer (t : Task) (a : Nat) (v : BitVec 16) : Task := { t with version := Sparse.set 0 a v t.version }

/-! ### The image (R77, R182, R341) -/

def imageBytes : Nat := 203840

/-- One byte of the image of a bank. -/
def accByte (b : AccBank) (ver : BitVec 16) (o : Nat) : Byte :=
  let byteOf (v : Nat) (k : Nat) : Byte := BitVec.ofNat 8 (v / 2 ^ (8 * k))
  if o < 196608 then byteOf (Sparse.get ⟨0, 0⟩ b.elems (o / 12)).v.toNat (o % 12)
  else if o < 198144 then byteOf (Sparse.get 0 b.colSum ((o - 196608) / 12)).toNat ((o - 196608) % 12)
  else if o < 199680 then byteOf (Sparse.get 0 b.rowSum ((o - 198144) / 12)).toNat ((o - 198144) % 12)
  else if o < 203776 then
    let r := o - 199680
    BitVec.ofNat 8 ((upTo 8 id).foldl (fun a i =>
      if (Sparse.get ⟨0, 0⟩ b.elems (8 * (r % 2048) + i)).s.getLsbD (r / 2048) then a + 2 ^ i else a) 0)
  else if o = 203776 then BitVec.ofNat 8 ((if b.prange then 1 else 0) + (if b.ovf then 2 else 0))
  else if o = 203778 then ver.extractLsb' 0 8
  else if o = 203779 then ver.extractLsb' 8 8
  else 0

/-- A value of `n` bits with its byte `k` replaced. -/
def withByte {n : Nat} (v : BitVec n) (k : Nat) (x : Byte) : BitVec n :=
  BitVec.ofNat n (v.toNat - v.toNat / 2 ^ (8 * k) % 256 * 2 ^ (8 * k) + x.toNat * 2 ^ (8 * k))

/-- One byte of an image written into a bank, as stored (R182). A change of an element's V goes into its checksums too, which the image's own
replace further on (R135). -/
def setAccByte (b : AccBank) (ver : BitVec 16) (o : Nat) (x : Byte) : AccBank × BitVec 16 :=
  if o < 196608 then
    let e := Sparse.get ⟨0, 0⟩ b.elems (o / 12)
    (b.put (o / 12 / 128) (o / 12 % 128) { e with v := withByte e.v (o % 12) x }, ver)
  else if o < 198144 then
    let j := (o - 196608) / 12
    ({ b with colSum := Sparse.set 0 j (withByte (Sparse.get 0 b.colSum j) ((o - 196608) % 12) x) b.colSum }, ver)
  else if o < 199680 then
    let i := (o - 198144) / 12
    ({ b with rowSum := Sparse.set 0 i (withByte (Sparse.get 0 b.rowSum i) ((o - 198144) % 12) x) b.rowSum }, ver)
  else if o < 203776 then
    let r := o - 199680
    let put (m : Sparse Elem) (i : Nat) : Sparse Elem :=
      let k := 8 * (r % 2048) + i
      let e := Sparse.get ⟨0, 0⟩ m k
      let on : BitVec 2 := BitVec.ofNat 2 (2 ^ (r / 2048))
      Sparse.set ⟨0, 0⟩ k { e with s := if x.getLsbD i then e.s ||| on else e.s &&& ~~~ on } m
    ({ b with elems := (upTo 8 id).foldl put b.elems }, ver)
  else if o = 203776 then ({ b with prange := x.getLsbD 0, ovf := x.getLsbD 1 }, ver)
  else if o = 203778 then (b, withByte ver 0 x)
  else if o = 203779 then (b, withByte ver 1 x)
  else (b, ver)

end Sys2Proof.Machine
end

