-- ==== Sys2Proof/Machine/Transfer.lean ====
section
/-! DEFINITION. The transfer sequencer: copies, fills, gathers and scatters, bit maps, tags, the scatter-accumulate engine
(R100 to R122). -/

namespace Sys2Proof.Machine

/-- The kinds of transfer records. -/
inductive TKind where
  | ldx | stx | cpx | mcx | gthx | sctx | bmx | scacc | zfx
deriving DecidableEq, Repr

/-- Where D and A may lie (R104). -/
def TKind.dRange : TKind → Ranges
  | .ldx | .cpx | .gthx | .scacc => Ranges.spads
  | .stx => Ranges.hbmTx
  | .mcx => ⟨true, false, false, false⟩
  | .sctx | .bmx | .zfx => Ranges.all

def TKind.aRange : TKind → Ranges
  | .ldx => Ranges.hbmOnly
  | .stx | .cpx | .sctx | .scacc => Ranges.spads
  | .mcx => Ranges.ownHbm
  | .gthx | .bmx | .zfx => Ranges.noTx

/-- An operand address at the record's point (R39, R114). -/
def tAddr (p : RecProg) (x : RecOperand) (base : Word) (size : Nat) (isDest : Bool) : MapRes :=
  let lbase := match p.instr with | .bmx _ _ => p.fields.aux1.toNat | _ => 0
  recAddr p.map x base p.i0 p.i1 p.i2 p.i3 size lbase 0 isDest

/-- One operand formed and checked (R115): SKIP, a fault, or its place. -/
inductive OpRes where
  | skip
  | fault (f : AccFault)
  | at (p : Place)

def tOperand (s : State) (r : MapRes) (rs : Ranges) (k : AccKind) (size : Nat) : OpRes :=
  match r with
  | .skip => .skip
  | .bad a => .fault ⟨.extent, a⟩
  | .addr a =>
    match checkAccess s (myCore s) s.here rs k a size size with
    | .error f => .fault f
    | .ok p => .at p

/-- A skipped single issue: on BMX it counts, 2 ticks later (R115). -/
def tSkip (p : RecProg) (s : State) : Res :=
  let c := (p.fields.aux2.extractLsb' 0 5).toNat
  match p.instr with
  | .bmx _ _ => .ok (if c = 0 then s else pendWrites s Config.latSkip [.xinc c] 0)
  | _ => .ok s

/-- One element stored (R106). -/
def tStore (s : State) (p : Place) (bs : List Byte) : Res := putAll s [(p, bs.map some)]

/-- The index of GTHX, SCTX and SCACC, or `none` where the bound drops it (R108). -/
def tIndex (r : Rec) (word : Nat) : Option Int :=
  let k := sbits word 0 32
  if r.aux1 != 0 && (k < 0 || k ≥ r.aux1.toNat) then none else some k

/-- The address of an operand whose index has been read. -/
def tIndexed (r : Rec) (m : MapRes) (k : Int) : MapRes :=
  match m with
  | .addr a => .addr (wrap 48 (a + k * r.aux0.toNat))
  | m => m

/-- LDX, STX, CPX, BMX and GTHX deliver one element from A to D; the operands are formed and checked in the order D, A
(R106, R115). -/
def tCopy (k : TKind) (p : RecProg) (s : State) : Res :=
  let r := p.fields
  let es := esBytes r.opm
  match tOperand s (tAddr p r.d p.baseD es true) k.dRange .store es with
  | .skip => tSkip p s
  | .fault f => f.res s
  | .at d =>
    match tOperand s (tAddr p r.a p.baseA es false) k.aRange .load es with
    | .skip => tSkip p s
    | .fault f => f.res s
    | .at a => gather p s es [some a] (fun s got => tStore s d (leBytes es (got.headD 0)))

/-- ZFX (R106). -/
def tFill (p : RecProg) (s : State) : Res :=
  let r := p.fields
  let es := esBytes r.opm
  match tOperand s (tAddr p r.d p.baseD es true) Ranges.all .store es with
  | .skip => tSkip p s
  | .fault f => f.res s
  | .at d => tStore s d ((List.replicate 4 (leBytes 4 r.aux0.toNat)).flatten.take es)

/-- MCX: the offset in every masked peer; the writes to one peer follow issue order (R107). -/
def tMulticast (p : RecProg) (s : State) : Res :=
  let r := p.fields
  let es := esBytes r.opm
  match tOperand s (tAddr p r.d p.baseD es true) (TKind.mcx).dRange .store es with
  | .skip => tSkip p s
  | .fault f => f.res s
  | .at d =>
    match tOperand s (tAddr p r.a p.baseA es false) (TKind.mcx).aRange .load es with
    | .skip => tSkip p s
    | .fault f => f.res s
    | .at a =>
      gather p s es [some a] (fun s got =>
        let bs := (leBytes es (got.headD 0)).map some
        let peers := (upTo 8 id).filter (fun c => r.aux0.getLsbD c)
        putChained Place.space s (peers.map (fun c => (Place.spad (8 * clusterOf (myCore s) + c) d.off, bs))))

/-- GTHX: D, then the index of B, then A, which is the row that the index selects (R108, R115; log 26). -/
def tGather (p : RecProg) (s : State) : Res :=
  let r := p.fields
  let es := esBytes r.opm
  match tOperand s (tAddr p r.d p.baseD es true) (TKind.gthx).dRange .store es with
  | .skip => tSkip p s
  | .fault f => f.res s
  | .at d =>
    match tOperand s (tAddr p r.b p.baseB 4 false) Ranges.spads .load 4 with
    | .skip => tSkip p s
    | .fault f => f.res s
    | .at b =>
      gather p s 4 [some b] (fun s got =>
        match tIndex r (got.headD 0) with
        | none => tStore s d (List.replicate es 0)
        | some k =>
          match tOperand s (tIndexed r (tAddr p r.a p.baseA es false) k) (TKind.gthx).aRange .load es with
          | .skip => tSkip p s
          | .fault f => f.res s
          | .at a => gather p s es [some b, some a] (fun s got => tStore s d (leBytes es (got.getD 1 0))))

/-- SCTX and SCACC: D, which is the target that the index of B selects, then A, then B itself (R108, R115): a fault of D goes before one of A, and
that before one of B; where the index drops the element, only A is checked (log 26). `put` delivers the element (R120); D of SCACC, which it reads
and writes, is checked as a load (DESIGN CHOICE, log 72). -/
def tScatter (k : TKind) (access : AccKind) (put : State → Place → List Byte → Res) (p : RecProg) (s : State) : Res :=
  let r := p.fields
  let es := esBytes r.opm
  let source (s : State) (next : Place → Res) : Res :=
    match tOperand s (tAddr p r.a p.baseA es false) k.aRange .load es with
    | .skip => tSkip p s
    | .fault f => f.res s
    | .at a => next a
  match tOperand s (tAddr p r.b p.baseB 4 false) Ranges.spads .load 4 with
  | .skip => tSkip p s
  | .fault f => source s (fun _ => f.res s)
  | .at b =>
    gather p s 4 [some b] (fun s got =>
      match tIndex r (got.headD 0) with
      | none => source s (fun _ => .ok s)
      | some i =>
        match tOperand s (tIndexed r (tAddr p r.d p.baseD es true) i) k.dRange access es with
        | .skip => tSkip p s
        | .fault f => f.res s
        | .at d => source s (fun a => gather p s es [some b, some a] (fun s got => put s d (leBytes es (got.getD 1 0)))))

/-- The chain of the updates of one core (R121): no place has this number. -/
def updateChain : Nat := 1000

/-- One update joins T's stores; it reads its old value when it is performed (R120). -/
def tUpdate (p : RecProg) (s : State) (d : Place) (bs : List Byte) : Res :=
  if mayStore s d then .ok (queueChained s (curId s) d (bs.map some) (some { ty := p.scType, op := p.scOp, val := BitVec.ofNat 32 (leNat bs) }) updateChain false)
  else .wait 5 (waitFor d) 0 0 s

/-- The tag of the 4 KiB block that holds a place (R117, R118). -/
def tagOf (s : State) (a : Nat) : Option (BitVec 16) :=
  if inOwn a then some (Sparse.get 0 (s.core (myCore s)).tags (a / 4096))
  else if inPeer a then
    some (Sparse.get 0 (s.core (8 * clusterOf (myCore s) + (a - Config.peerBase) / Config.spadBytes)).tags ((a - Config.peerBase) % Config.spadBytes / 4096))
  else none

/-- The check of TCHK on the first A element (R118): the trap, if it fails. Where that has no tag the rule gives FADDR[16] = 1 alone, and FADDR[15:0]
is 0 (DESIGN CHOICE, log 86). For GTHX it is the element at addr(A), before an index is added:
R118 does not say whether the indexed row is meant, and no index has been read at the head (DESIGN CHOICE, log 77). -/
def tagCheck (s : State) (p : RecProg) : Option Res :=
  let r := p.fields
  if r.opm.getLsbD 4 then
    match tAddr p r.a p.baseA (esBytes r.opm) false with
    | .bad a => some (.trap .extent a 0 s)
    | .skip => some (.trap .tagMismatch (2 ^ 16) 0 s)
    | .addr a =>
      match tagOf s a with
      | none => some (.trap .tagMismatch (2 ^ 16) 0 s)
      | some t => if t = r.aux2.extractLsb' 16 16 then none else some (.trap .tagMismatch t.toNat 0 s)
  else none

/-- The checks of a transfer record at its head (R110): the map, then the tag. -/
def tHead (s : State) (p : RecProg) : Except Res (State × RecProg) :=
  let r := p.fields
  let t := s.here
  let m := Sparse.get 0 t.bm r.bmsel.toNat
  if (r.d.bm || r.a.bm || r.b.bm) && !bmValid m then .error (.trap .illegalField p.pc.toNat 0 s)
  else
    let p := { (p.readBases s.me) with map := if r.d.bm || r.a.bm || r.b.bm then m else 0, scType := t.scType, scOp := t.scOp }
    match tagCheck s p with
    | some e => .error e
    | none => .ok (s, p)

/-- One single issue of a transfer record; after a cut the tag is compared again (R118). One that waits for its window goes on with its
stores. R105 has D of SCACC fault TX_LOAD or EXTENT in the transmit window range by whether it is a read operand, and it is both: it is checked as a
load here (DESIGN CHOICE, log 72). -/
def tSingle (k : TKind) (p : RecProg) (s : State) : Res :=
  let s := setProg s p
  match (if p.recheck then tagCheck s p else none) with
  | some e => e
  | none =>
    let p := { p with recheck := false }
    let s := setProg s p
    if !p.outs.isEmpty then putChained (if k = .mcx then Place.space else fun _ => 0) s p.outs
    else match k with
    | .ldx => tCopy .ldx p s
    | .stx => tCopy .stx p s
    | .cpx => tCopy .cpx p s
    | .bmx => tCopy .bmx p s
    | .mcx => tMulticast p s
    | .zfx => tFill p s
    | .gthx => tGather p s
    | .sctx => tScatter .sctx .store tStore p s
    | .scacc => tScatter .scacc .load (tUpdate p) p s

def execLdx (y : Syn) (r : Rec) (s : State) := startRecord (.ldx y r) y tHead s
def execStx (y : Syn) (r : Rec) (s : State) := startRecord (.stx y r) y tHead s
def execCpx (y : Syn) (r : Rec) (s : State) := startRecord (.cpx y r) y tHead s
def execMcx (y : Syn) (r : Rec) (s : State) := startRecord (.mcx y r) y tHead s
def execGthx (y : Syn) (r : Rec) (s : State) := startRecord (.gthx y r) y tHead s
def execSctx (y : Syn) (r : Rec) (s : State) := startRecord (.sctx y r) y tHead s
def execBmx (y : Syn) (r : Rec) (s : State) := startRecord (.bmx y r) y tHead s
def execScacc (y : Syn) (r : Rec) (s : State) := startRecord (.scacc y r) y tHead s
def execZfx (y : Syn) (r : Rec) (s : State) := startRecord (.zfx y r) y tHead s

/-- The base of form E2: x[XA] plus the signed immediate, modulo 2^48. -/
def e2Addr (s : State) (o : E2) : Nat := wrap 48 ((s.reg o.xa.toNat).toNat + o.imm.toInt)

/-- BMLD: the map is written 14 ticks after issue (R116). -/
def execBmld (y : Syn) (o : E2) (s : State) : Host.Outcome State Fault Refusal :=
  run (.bmld y o) y 1 (fun s =>
    let a := e2Addr s o
    match checkAccess s (myCore s) s.here Ranges.noTx .load a 128 128 with
    | .error f => f.res s
    | .ok p => loadIssue s Config.latMap false (granulePieces (fun g => .bm (o.sub.extractLsb' 0 3).toNat g) p a 8)) s

/-- SCCFG (R119). -/
def execSccfg (y : Syn) (o : E2) (s : State) : Host.Outcome State Fault Refusal :=
  run (.sccfg y o) y 1 (fun s =>
    .ok (s.setHere { s.here with scType := o.imm.extractLsb' 8 4, scOp := o.imm.extractLsb' 0 4 })) s

/-- Every earlier access of the executing engine has been performed (R103). -/
def mePerformed (s : State) : Bool :=
  s.me.stores.isEmpty && !s.flits.any (fun f => !f.departed && f.ofSeq (myCore s) (myBank s) s.cur.q)

/-- The tags of `n` blocks of a scratchpad. -/
def setTags (s : State) (core block n : Nat) (tag : BitVec 16) : State :=
  let c := s.core core
  s.setCore core { c with tags := (upTo n id).foldl (fun m k => Sparse.set 0 (block + k) tag m) c.tags }

/-- TAGX, after every earlier access of T (R117). xa counts modulo 2^48, as every address of T does: R117 does not say what its bits [63:48]
do (DESIGN CHOICE, log 78). -/
def execTagx (y : Syn) (o : E2) (s : State) : Host.Outcome State Fault Refusal :=
  run (.tagx y o) y 1 (fun s =>
    if mePerformed s then
      let a := s.reg o.xa.toNat
      let n := (o.imm.extractLsb' 16 8).toNat + 1
      match checkAccess s (myCore s) s.here Ranges.spads .store (a.toNat % 2 ^ 48) 1 4096 with
      | .error f => f.res s
      | .ok p =>
        match p with
        | .spad c off =>
          if off / 4096 + n ≤ 2048 then .ok (setTags s c (off / 4096) n (o.imm.extractLsb' 0 16))
          else .trap .extent (a.toNat % 2 ^ 48) 0 s
        | _ => .ok s
    else .wait 7 .none 0 0 s) s

end Sys2Proof.Machine
end

