-- ==== Sys2Proof/Machine/Matrix.lean ====
section
/-! DEFINITION. The matrix sequencer: the stationary tile, MMA, drains, images, gates and the accumulator instructions (R167
to R187, R207 to R211, R364). -/

namespace Sys2Proof.Machine

inductive MKind where
  | wld | mma | gate | adrn | asave | aload
deriving DecidableEq, Repr

/-- The map as M reads it: T's last BMLD that has produced its result stands (R116, R363). -/
def mapSeenByM (t : Task) (n : Nat) : BitVec 1024 :=
  let ws := (t.t.pend.filter (fun p => p.produced && p.loads.isEmpty)).flatMap (·.writes)
  ws.foldl (fun m w => match w with | .bm k g img => if k = n then putGranule m g img else m | _ => m) (Sparse.get 0 t.bm n)

/-- ACC, BANK and the columns of a record (R171). -/
def mAcc (r : Rec) : Nat := (r.opm.extractLsb' 0 2).toNat
def mCol0 (r : Rec) : Nat := (r.aux1.extractLsb' 0 7).toNat
def mNcol (r : Rec) : Nat := (r.aux1.extractLsb' 8 7).toNat + 1
def mCstep (r : Rec) : Nat := (r.aux1.extractLsb' 16 3).toNat + 1
def mCols (r : Rec) : List Nat := upTo (mNcol r) (fun n => mCol0 r + n * mCstep r)
def mK (r : Rec) : Nat := (r.aux2.extractLsb' 0 9).toNat + 1

/-- A register operand: its row at the record's point (R171). -/
def mRow (x : RecOperand) (p : RecProg) : Int := (x.base.extractLsb' 0 8).toNat + recSteps x p.i0 p.i1 p.i2 p.i3

/-- Element `extra` steps on from an operand's address at the record's point (R172, R210). -/
def mAddr (p : RecProg) (x : RecOperand) (base : Word) (size : Nat) (extra : Int) (isDest : Bool) : MapRes :=
  recAddr p.map x base p.i0 p.i1 p.i2 p.i3 size 0 extra isDest

/-- Elements to be read, each checked; one that gives SKIP is none, and reads as code 0, which is +0 in every format (R172). -/
def mReads (s : State) (size : Nat) : List MapRes → Except AccFault (List (Option Place))
  | [] => .ok []
  | m :: t =>
    match tOperand s m Ranges.noTx .load size with
    | .fault f => .error f
    | .skip => (mReads s size t).map (fun l => none :: l)
    | .at pl => (mReads s size t).map (fun l => some pl :: l)

/-- Element stores checked; one that gives SKIP is not written (R172). -/
def mPlaces (s : State) (size : Nat) : List (MapRes × List Byte) → Except AccFault (List (Place × List Byte))
  | [] => .ok []
  | (m, bs) :: t =>
    match tOperand s m Ranges.all .store size with
    | .fault f => .error f
    | .skip => mPlaces s size t
    | .at pl => (mPlaces s size t).map (fun l => (pl, bs) :: l)

/-! ### Heads (R169, R176 to R178, R208, R364) -/

/-- R178: the version found, if it differs from STAMP. -/
def versionTrap (s : State) (p : RecProg) : Option Res :=
  let r := p.fields
  let v := s.here.ver (mAcc r)
  if r.opm.getLsbD 2 && v != r.stamp.extractLsb' 0 16 then some (.trap .tagMismatch v.toNat flagVersion s) else none

/-- The block of a scratchpad that an address lies in, counted over all cores. -/
def blockOf (s : State) (a : Nat) : Option Nat :=
  if inOwn a then some (2048 * myCore s + a / 4096)
  else if inPeer a then
    some (2048 * (8 * clusterOf (myCore s) + (a - Config.peerBase) / Config.spadBytes) + (a - Config.peerBase) % Config.spadBytes / 4096)
  else none

/-- R177: the tag of the first A element's block, compared where the block differs from `last`; a SKIP with nothing compared
yet has no tag. Answers the block compared last. -/
def mmaTag (s : State) (p : RecProg) (last : Option Nat) : Except Res (Option Nat) :=
  let r := p.fields
  if r.aux2.getLsbD 9 then
    match mAddr p r.a p.baseA (codeBytes (fwA p.fmt)) 0 false with
    | .bad a => .error (.trap .extent a 0 s)
    | .skip => if last.isNone then .error (.trap .tagMismatch (2 ^ 16) 0 s) else .ok last
    | .addr a =>
      match blockOf s a, tagOf s a with
      | some b, some t =>
        if last = some b then .ok last
        else if t = r.aux2.extractLsb' 16 16 then .ok (some b)
        else .error (.trap .tagMismatch t.toNat 0 s)
      | _, _ => .error (.trap .tagMismatch (2 ^ 16) 0 s)
  else .ok none

/-- R176. -/
def mmaShapeOk (t : Task) (w : Word) (r : Rec) (isMma : Bool) : Bool :=
  mCol0 r + (mNcol r - 1) * mCstep r ≤ 127
    && (!isMma || (is8 (fwB w) == t.w8 && mK r ≤ (if t.w8 then 256 else 128)))

/-- The entries of GATE's unitary, in the order of their addresses, with their keys (R208). -/
def gateSize (r : Rec) : Nat := 2 ^ (r.opm.extractLsb' 0 2).toNat
def gateEntries (r : Rec) : List (Nat × Nat) :=
  (upTo (gateSize r) id).flatMap (fun i => upTo (gateSize r) (fun j => (i * 8 + j, (i * gateSize r + j) * 8)))

def clearW (t : Task) (w8 : Bool) : Task := { t with w := [], wfmt := [], w8 := w8 }

/-- The oldest word leaves the format queue. -/
def popWord (t : Task) : Task := dequeued { t with fq := t.fq.tail } 4 1

/-- The head of an M record, in the order of R364; a word leaves the queue only when every check has passed. -/
def mHead (k : MKind) (s : State) (p : RecProg) : Except Res (State × RecProg) :=
  let r := p.fields
  let t := s.here
  let useMap := r.d.bm || r.a.bm || r.b.bm
  let m := mapSeenByM t r.bmsel.toNat
  let field : Except Res (State × RecProg) := .error (.trap .illegalField p.pc.toNat 0 s)
  if useMap && !bmValid m then field
  else
    let p := { (p.readBases s.me) with map := if useMap then m else 0 }
    if k = .asave || k = .aload then .ok (s, p)
    else
      match t.fq with
      | [] => if timedHere s then .error (.trap .schedMiss (sinceAlign s.me s.mcc) 0 s) else .error (.trap .fmtUnderflow 1 0 s)
      | w :: _ =>
        let p := { p with fmt := w }
        if t.bad.contains (.fq 0) then .error (eccTrap s)
        else if !(if k = .gate then gateWordOk w else wordOk w) then field
        else if (k = .mma || k = .adrn) && !mmaShapeOk t w r (k = .mma) then field
        else
          let popped := s.setHere (popWord t)
          match k with
          | .gate =>
            match mReads s 8 ((gateEntries r).map (fun x => .addr (wrap 48 (p.baseB.toNat + x.2)))) with
            | .error f => .error (f.res s)
            | .ok pls =>
              match readPlaces ownReader 8 (pls.filterMap id) s with
              | .error e => .error e.res
              | .ok x =>
                let u := ((gateEntries r).zip x.2).foldl (fun m x => Sparse.set 0 x.1.1 (BitVec.ofNat 64 (leNat x.2)) m) []
                .ok (x.1.setHere (clearW (popWord x.1.here) false), { p with unitary := u })
          | .mma =>
            match versionTrap s p with
            | some e => .error e
            | none =>
              match mmaTag s p none with
              | .error e => .error e
              | .ok b => .ok (popped, { p with lastBlock := b })
          | .adrn =>
            match versionTrap s p with
            | some e => .error e
            | none =>
              match (t.accBank (mAcc r) 1).check with
              | some f => .error (.trap .accCheck (f + 2 ^ 16 * mAcc r + 2 ^ 18) 0 s)
              | none => .ok (popped, p)
          | _ => .ok (popped, p)

/-! ### WLD (R174) -/

/-- A weight perturbed at fetch (R174, R195): the noise is added in FP32, the sum rounded to BFMT. -/
def perturb (t : Task) (p : RecProg) (k n : Nat) (w : FVal) : Nat :=
  let r := p.fields
  let f := p.fmt
  let pos := t.cbase + r.aux1.setWidth 64 + BitVec.ofNat 64 (k * (r.aux2.extractLsb' 0 16).toNat + n)
  let z := drawVal (r.opm.getLsbD 2) (lichen p.key r.aux0 pos)
  let eps := fp32.decode (Sparse.get 0 t.eps (r.aux2.extractLsb' 16 3).toNat).toNat
  let noise := fp32.decode (roundTo fp32 .rne false (fMul eps z).1).1
  let base := fp32.decode (roundTo fp32 .rne false w).1
  let sum := fp32.decode (roundTo fp32 .rne false (fAdd base (if r.opm.getLsbD 3 then noise.neg else noise)).1).1
  let c := fwB f
  roundCode c (fwBP f) (fwBInf f) .rne ((c == 3 || c == 4) && !fwBInf f) sum

/-- The row-format byte of a word (R340), and the last WLD's format (R339). -/
def rowFmt (w : Word) : BitVec 8 := BitVec.ofNat 8 (fwB w + 16 * fwBP w + (if fwBInf w then 128 else 0))
def lastFmt (w : Word) : BitVec 24 := BitVec.ofNat 24 (fwB w + 256 * fwBP w + (if fwBInf w then 65536 else 0))

/-- Entry (k, n) of W as a value (R167). -/
def wKey (k n : Nat) : Nat := k * 128 + n
def wVal (t : Task) (k n : Nat) : FVal :=
  let f := (Sparse.get 0 t.wfmt k).toNat
  codeVal (f % 16) (f / 16 % 8) (128 ≤ f) (Sparse.get 0 t.w (wKey k n)).toNat

/-- One row written (R167, R174). -/
def wldRow (t : Task) (w : Word) (k : Nat) (codes : List Nat) : Task :=
  let t := if t.w8 == is8 (fwB w) then t else clearW t (is8 (fwB w))
  let row := (upTo 128 id).foldl (fun m n => Sparse.set 0 (wKey k n) (BitVec.ofNat 16 (codes.getD n 0)) m) t.w
  { t with w := row, wfmt := Sparse.set 0 k (rowFmt w) t.wfmt, wlast := lastFmt w }

/-- One row. Where the row is out of range and an element's access fails too, the row comes first: R362 orders the checks of one access only (DESIGN
CHOICE, log 26). -/
def wldSingle (p : RecProg) (s : State) : Res :=
  let r := p.fields
  let w := p.fmt
  let k := mRow r.d p
  let ncol := (r.aux2.extractLsb' 20 7).toNat + 1
  let wstep := (r.aux2.extractLsb' 27 4).toNat + 1
  let size := codeBytes (fwB w)
  if !(0 ≤ k && k < (if is8 (fwB w) then 256 else 128)) then .trap .illegalField p.pc.toNat 0 s
  else
    match mReads s size (upTo ncol (fun n => mAddr p r.b p.baseB size (n * wstep : Nat) false)) with
    | .error f => f.res s
    | .ok ps => gather p s size ps (fun s cs =>
      let t := s.here
      let val (n c : Nat) : Nat :=
        if r.opm.getLsbD 4 then perturb t p k.toNat n (codeVal (fwB w) (fwBP w) (fwBInf w) c) else c
      .ok (s.setHere (wldRow t w k.toNat (cs.mapIdx val))))

/-! ### MMA (R175) -/

/-- The products of a row of A and column n of W added into one element (R175). -/
def mmaCell (t : Task) (w : Word) (neg : Bool) (n : Nat) (a : List FVal) (r : AccRes) : AccRes :=
  (a.zipIdx).foldl (fun r x =>
    let p := (fMul x.1 (wVal t x.2 n)).1
    accumulate (fwAlsb w) r (if neg then p.neg else p)) r

/-- One row of A through W into row i of a bank. -/
def mmaBank (t : Task) (w : Word) (r : Rec) (i : Nat) (a : List FVal) (b : AccBank) : AccBank :=
  (mCols r).zipIdx.foldl (fun b x =>
    let c := x.1
    let b := if r.opm.getLsbD 3 then b.put i c ⟨0, stFin⟩ else b
    let q := mmaCell t w (r.opm.getLsbD 4) x.2 a { e := b.elem i c, prange := false, ovf := false }
    let b := b.put i c q.e
    { b with prange := b.prange || q.prange, ovf := b.ovf || q.ovf }) b

/-- One row. Where the row is out of range and a later block's tag or an element's access fails too, the row comes first, then the tag, then
the elements: the manual gives no order among them (DESIGN CHOICE, log 26). -/
def mmaSingle (p : RecProg) (s : State) : Res :=
  let r := p.fields
  let w := p.fmt
  let i := mRow r.d p
  let size := codeBytes (fwA w)
  if !(0 ≤ i && i < 128) then .trap .illegalField p.pc.toNat 0 s
  else
    match (if p.got.isEmpty then mmaTag s p p.lastBlock else .ok p.lastBlock) with
    | .error e => e
    | .ok b =>
      let p := { p with lastBlock := b }
      match mReads s size (upTo (mK r) (fun k => mAddr p r.a p.baseA size (k * (r.aux0.extractLsb' 0 16).toInt) false)) with
      | .error f => f.res s
      | .ok ps => gather p s size ps (fun s cs =>
        let t := s.here
        let a := cs.map (codeVal (fwA w) (fwAP w) (fwAInf w))
        let bank := mmaBank t w r i.toNat a (t.accBank (mAcc r) 0)
        .ok (setProg (s.setHere (t.setAccBank (mAcc r) 0 bank)) p))

/-! ### ADRN (R181) -/

/-- The mode of a drain at position `pos` (R64, R75). -/
def drainMode (p : RecProg) (pos : Word) : Mode :=
  if fwOrm p.fmt = 0 then .rne else if fwOrm p.fmt = 1 then .rtz else .sto (drawUnif (lichen p.key (fwStream p.fmt) pos))

def adrnSingle (p : RecProg) (s : State) : Res :=
  let r := p.fields
  let w := p.fmt
  let i := mRow r.a p
  let size := codeBytes (fwO w)
  if !(0 ≤ i && i < 128) then .trap .illegalField p.pc.toNat 0 s
  else
    let t := s.here
    let bank := t.accBank (mAcc r) 1
    let i := i.toNat
    if fwOvfTrap w && (mCols r).any (fun c => (bank.elem i c).s = stOvf) then .trap .accOvf (i + 2 ^ 16 * mAcc r) 0 s
    else
      let out (c : Nat) : List Byte :=
        let pos := t.m.reg 31 + BitVec.ofNat 64 (i * (r.aux2.extractLsb' 0 16).toNat + c)
        leBytes size (drain w (fwO w) (fwOP w) (fwOInf w) (drainMode p pos) (bank.elem i c))
      match mPlaces s size ((mCols r).zipIdx.map (fun x =>
          (mAddr p r.d p.baseD size (x.2 * (r.aux0.extractLsb' 0 16).toInt) true, out x.1))) with
      | .error f => f.res s
      | .ok us => putAll s (us.map (fun u => (u.1, u.2.map some)))

/-! ### GATE (R209, R210) -/

/-- The real and the imaginary word of an amplitude or an entry. -/
def reOf (x : Nat) : FVal := fp32.decode (x % 2 ^ 32)
def imOf (x : Nat) : FVal := fp32.decode (x / 2 ^ 32)

def tmpZero : AccRes := { e := ⟨0, stFin⟩, prange := false, ovf := false }

/-- Output row r of a group: the two temporaries. -/
def gateRow (p : RecProg) (row : Nat) (xs : List Nat) : AccRes × AccRes :=
  let al := fwAlsb p.fmt
  xs.zipIdx.foldl (fun e x =>
    let u := (Sparse.get 0 p.unitary (row * 8 + x.2)).toNat
    let er := accumulate al (accumulate al e.1 (fMul (reOf u) (reOf x.1)).1) (fMul (imOf u) (imOf x.1)).1.neg
    let ei := accumulate al (accumulate al e.2 (fMul (reOf u) (imOf x.1)).1) (fMul (imOf u) (reOf x.1)).1
    (er, ei)) (tmpZero, tmpZero)

def drainPair (w : Word) (e : AccRes × AccRes) : List Byte :=
  leBytes 4 (drain w 2 0 false .rne e.1.e) ++ leBytes 4 (drain w 2 0 false .rne e.2.e)

/-- The groups of one single issue. The sums are temporaries and no accumulator changes, as R183 and R209 say; R134 counts GATE among what
accumulates into the working bank (DESIGN CHOICE, log 79). -/
def gateSingle (p : RecProg) (s : State) : Res :=
  let r := p.fields
  let w := p.fmt
  let g := gateSize r
  let groups : List Nat := upTo ((r.aux1.extractLsb' 0 3).toNat + 1) id
  let gstep := (r.aux1.extractLsb' 16 16).toInt
  let astep := (r.aux0.extractLsb' 0 16).toInt
  let dstep := (r.aux0.extractLsb' 16 16).toInt
  match mReads s 8 (groups.flatMap (fun (j : Nat) => upTo g (fun (c : Nat) => mAddr p r.a p.baseA 8 (j * gstep + c * astep) false))) with
  | .error f => f.res s
  | .ok ps => gather p s 8 ps (fun s amps =>
    let outs := groups.flatMap (fun (j : Nat) => upTo g (fun (row : Nat) =>
      (mAddr p r.d p.baseD 8 (j * gstep + row * dstep) true, gateRow p row ((amps.drop (j * g)).take g))))
    if fwOvfTrap w && outs.any (fun o => o.2.1.e.s = stOvf || o.2.2.e.s = stOvf) then .trap .accOvf 0 0 s
    else
      match mPlaces s 8 (outs.map (fun o => (o.1, drainPair w o.2))) with
      | .error f => f.res s
      | .ok us =>
        putAll s (us.flatMap (fun u =>
          match u.1 with
          | .tx a => [(.tx a, (u.2.take 4).map some), (.tx (a + 4), (u.2.drop 4).map some)]
          | pl => [(pl, u.2.map some)])))

/-! ### Images (R182) -/

def imageBank (r : Rec) : Nat := if r.opm.getLsbD 2 then 1 else 0

def asaveSingle (p : RecProg) (s : State) : Res :=
  let r := p.fields
  let t := s.here
  match tOperand s (mAddr p r.d p.baseD 64 0 true) Ranges.all .store 64 with
  | .skip => .ok s
  | .fault f => f.res s
  | .at pl =>
    let b := t.accBank (mAcc r) (imageBank r)
    putAll s (blockUnits pl (upTo 64 (fun k => some (accByte b (t.ver (mAcc r)) (64 * p.i0 + k)))))

def aloadSingle (p : RecProg) (s : State) : Res :=
  let r := p.fields
  match tOperand s (mAddr p r.a p.baseA 64 0 false) Ranges.noTx .load 64 with
  | .skip => .ok s
  | .fault f => f.res s
  | .at pl =>
    gather p s 16 (upTo 4 (fun g => some (pl.add (16 * g)))) (fun s got =>
      let t := s.here
      let x := (got.flatMap (leBytes 16)).zipIdx.foldl (fun x b => setAccByte x.1 x.2 (64 * p.i0 + b.2) b.1)
        (t.accBank (mAcc r) (imageBank r), t.ver (mAcc r))
      .ok (s.setHere ((t.setAccBank (mAcc r) (imageBank r) x.1).setVer (mAcc r) x.2)))

/-- A resumed issue stands at its head again: the version is compared, then its tag, before anything else (R177, R178). -/
def mResumed (k : MKind) (s : State) (p : RecProg) : Except Res RecProg :=
  if !p.recheck then .ok p
  else
    match (if k = .mma || k = .adrn then versionTrap s p else none) with
    | some e => .error e
    | none => if k = .mma then (mmaTag s p none).map (fun b => { p with lastBlock := b, recheck := false }) else .ok p

/-- One single issue of an M record. One that waits for its window goes on with its stores. -/
def mSingle (k : MKind) (p : RecProg) (s : State) : Res :=
  match mResumed k (setProg s p) p with
  | .error e => e
  | .ok p =>
    let s := setProg s p
    if !p.outs.isEmpty then putAll s p.outs
    else match k with
    | .wld => wldSingle p s
    | .mma => mmaSingle p s
    | .gate => gateSingle p s
    | .adrn => adrnSingle p s
    | .asave => asaveSingle p s
    | .aload => aloadSingle p s

def execWld (y : Syn) (r : Rec) (s : State) := startRecord (.wld y r) y (mHead .wld) s
def execMma (y : Syn) (r : Rec) (s : State) := startRecord (.mma y r) y (mHead .mma) s
def execGate (y : Syn) (r : Rec) (s : State) := startRecord (.gate y r) y (mHead .gate) s
def execAdrn (y : Syn) (r : Rec) (s : State) := startRecord (.adrn y r) y (mHead .adrn) s
def execAsave (y : Syn) (r : Rec) (s : State) := startRecord (.asave y r) y (mHead .asave) s
def execAload (y : Syn) (r : Rec) (s : State) := startRecord (.aload y r) y (mHead .aload) s

/-! ### Instructions of one tick (R170, R179, R180) -/

def execAswap (y : Syn) (acc : BitVec 2) (s : State) : Host.Outcome State Fault Refusal :=
  run (.aswap y acc) y 1 (fun s =>
    let a := acc.toNat
    let t := s.here
    let t' := (t.setAccBank a 0 (t.accBank a 1)).setAccBank a 1 (t.accBank a 0)
    .ok (s.setHere (t'.setVer a (t.ver a + 1)))) s

/-- The banks that BANK names, the working one first. -/
def namedBanks (bank : BitVec 2) : List Nat := if bank = 0 then [0] else if bank = 1 then [1] else [0, 1]

def execAzero (y : Syn) (bank acc : BitVec 2) (s : State) : Host.Outcome State Fault Refusal :=
  run (.azero y bank acc) y 1 (fun s =>
    .ok (s.setHere ((namedBanks bank).foldl (fun t b => t.setAccBank acc.toNat b AccBank.zero) s.here))) s

def execAchk (y : Syn) (bank acc : BitVec 2) (s : State) : Host.Outcome State Fault Refusal :=
  run (.achk y bank acc) y 1 (fun s =>
    match (namedBanks bank).findSome? (fun b => ((s.here.accBank acc.toNat b).check).map (fun f => f + 2 ^ 16 * acc.toNat + 2 ^ 18 * b)) with
    | some f => .trap .accCheck f 0 s
    | none => .ok s) s

def execAvset (y : Syn) (o : E2) (s : State) : Host.Outcome State Fault Refusal :=
  run (.avset y o) y 1 (fun s =>
    .ok (s.setHere (s.here.setVer (o.sub.extractLsb' 0 2).toNat ((s.reg o.xa.toNat).setWidth 16 + o.imm.setWidth 16)))) s

/-- FDROP reads the words that it discards (R169), so that one in error is found (R344); a timed one that finds too few misses its tick (R187). -/
def execFdrop (y : Syn) (n : BitVec 5) (s : State) : Host.Outcome State Fault Refusal :=
  run (.fdrop y n) y 1 (fun s =>
    let k := n.toNat + 1
    let t := s.here
    if t.fq.length < k then (if timedHere s then .trap .schedMiss (sinceAlign s.me s.mcc) 0 s else .trap .fmtUnderflow k 0 s)
    else if t.bad.any (fun w => match w with | .fq i => i < k | _ => false) then eccTrap s
    else .ok (s.setHere (dequeued { t with fq := t.fq.drop k } 4 k))) s

def execEpsset (y : Syn) (o : E2) (s : State) : Host.Outcome State Fault Refusal :=
  run (.epsset y o) y 1 (fun s =>
    .ok (s.setHere { s.here with eps := Sparse.set 0 (o.sub.extractLsb' 0 3).toNat o.imm s.here.eps })) s

end Sys2Proof.Machine
end

