-- ==== Sys2Proof/Machine/Image.lean ====
section
/-! DEFINITION. The context image of a bank in memory (R339 to R342): how a bank is written, checked and read back. -/

namespace Sys2Proof.Machine

/-- The image ends here (R339). -/
def imageEnd : Nat := 0x1E1240
def wHeadOff : Nat := 0x43000
def wOff : Nat := 0x43040
def accOff (a b : Nat) : Nat := 0x53040 + (2 * a + b) * imageBytes

/-- A piece of the image: an offset and its bytes. -/
abbrev Piece := Nat × List Byte

def wordsPiece (off : Nat) (ws : List Word) : Piece := (off, ws.flatMap (fun w => leBytes 8 w.toNat))
def regPieces (off : Nat) (r : Sparse Word) : List Piece := r.map (fun e => (off + 8 * e.1, leBytes 8 e.2.toNat))

/-- The nonzero parts of an accumulator bank's image (R182, R341). -/
def accPieces (off : Nat) (b : AccBank) (ver : BitVec 16) : List Piece :=
  let at1 (o : Nat) : Piece := (off + o, [accByte b ver o])
  b.elems.map (fun e => (off + 12 * e.1, leBytes 12 e.2.v.toNat))
    ++ b.elems.flatMap (fun e => [at1 (199680 + e.1 / 8), at1 (199680 + 2048 + e.1 / 8)])
    ++ b.colSum.map (fun e => (off + 196608 + 12 * e.1, leBytes 12 e.2.toNat))
    ++ b.rowSum.map (fun e => (off + 198144 + 12 * e.1, leBytes 12 e.2.toNat))
    ++ [at1 203776, at1 203778, at1 203779]

def streamCode (u : Seq) : Nat :=
  match u.stream with
  | .running => 0
  | .held => 1
  | .ended => 2

/-- What a record in progress holds (R340). -/
def recPieces (p : Option RecProg) (bases map : Nat) : List Piece :=
  match p with
  | none => []
  | some p => [wordsPiece bases [p.baseD, p.baseA, p.baseB], (map, leBytes 128 p.map.toNat)]

/-- The control block (R340). -/
def controlPieces (t : Task) : List Piece :=
  let us := [t.c, t.t, t.v, t.m]
  regPieces 0 t.c.regs ++ regPieces 0x200 t.t.regs ++ regPieces 0x300 t.v.regs ++ regPieces 0x400 t.m.regs
    ++ t.bm.map (fun e => (0x500 + 128 * e.1, leBytes 128 e.2.toNat))
    ++ [((0x900, List.replicate 32 (0xFF : Byte)) : Piece)] ++ t.preg.map (fun e => (0x900 + 32 * e.1, leBytes 32 e.2.toNat))
    ++ [wordsPiece 0xB00 t.pqT, wordsPiece 0xC00 t.pqV, wordsPiece 0xD00 t.pqM, wordsPiece 0xE00 t.fq,
        wordsPiece 0xF00 (us.map (fun u => u.pc.setWidth 64)), wordsPiece 0xF20 (us.map (·.seqno)),
        (0xF40, (iters t.t).flatMap (leBytes 2) ++ (iters t.m).flatMap (leBytes 2)),
        wordsPiece 0xF50 (match t.m.prog with | some p => [p.fmt, if p.began then p.key else t.key] | none => [0, 0]),
        (0xF60, tokenPairs.map (fun p => BitVec.ofNat 8 (Sparse.get 0 t.tok (tokKey p.1 p.2)))),
        (0xF6C, [0, 1, 3].map (fun q => BitVec.ofNat 8 (Sparse.get 0 t.credit q)) ++ [0, 1, 3].map (fun q => BitVec.ofNat 8 (Sparse.get 0 t.mute q))),
        (0xF72, [t.pqT.length, t.pqV.length, t.pqM.length, t.fq.length].map (BitVec.ofNat 8)),
        (0xF76, us.map (fun u => BitVec.ofNat 8 (streamCode u))),
        (0xF7A, [BitVec.ofNat 8 t.heldV]),
        (0xF7B, [BitVec.ofNat 8 ((if t.t.prog.isSome then 1 else 0) + (if t.m.prog.isSome then 2 else 0))]),
        wordsPiece 0xF80 [t.key, t.rfstat, t.vl, t.vcsr, t.vrb]]
    ++ t.eps.map (fun e => (0xFA8 + 4 * e.1, leBytes 4 e.2.toNat))
    ++ [(0xFC8, leBytes 4 (t.scType.toNat * 256 + t.scOp.toNat)),
        (0xFCC, match t.t.prog with
          | some p => if p.refetch then leBytes 4 (p.scType.toNat * 256 + p.scOp.toNat) else (match p.instr with | .scacc _ _ => leBytes 4 (p.scType.toNat * 256 + p.scOp.toNat) | _ => [])
          | none => [])]
    ++ regPieces 0x1000 t.failw ++ t.phases.map (fun e => (0x1200 + 4 * e.1, leBytes 4 e.2.toNat))
    ++ (match t.m.prog with | some p => p.unitary.map (fun e => (0x1300 + 8 * e.1, leBytes 8 e.2.toNat)) | none => [])
    ++ recPieces t.t.prog 0x1580 0x1500 ++ recPieces t.m.prog 0x1598 0x15B0
    ++ t.wfmt.map (fun e => (0x1700 + e.1, [e.2]))

/-- Every nonzero part of the image of a bank (R339). -/
def imagePieces (t : Task) : List Piece :=
  controlPieces t ++ t.kreg.map (fun e => (0x2000 + 4 * e.1, leBytes 4 e.2.toNat))
    ++ t.vreg.map (fun e => (0x3000 + 256 * e.1, leBytes 256 e.2.toNat))
    ++ [(wHeadOff, (if t.w8 then 1 else 0) :: leBytes 3 t.wlast.toNat)]
    ++ t.w.map (fun e => (wOff + 2 * e.1, leBytes 2 e.2.toNat))
    ++ (upTo 4 id).flatMap (fun a => (upTo 2 id).flatMap (fun b => accPieces (accOff a b) (t.accBank a b) (t.ver a)))

/-- The image of a bank at a physical address; every other byte of it is 0. The lines that it covers whole are written over; one that it covers in
part is read by the controller, and keeps its bytes where it is poisoned (R93). -/
def writeImage (s : State) (a : Nat) (t : Task) : State :=
  let edges := ([a / 64, (a + imageEnd - 1) / 64].filter (fun l => !lineIn a imageEnd l)).dedup
  let s := edges.foldl (fun s l => findErrors s (64 * l) 64) s
  let lost := edges.filter (fun l => Sparse.get 0 s.poison l != 0)
  let m := (imagePieces t).foldl (fun m p => putBytes m (a + p.1) p.2) (clearBytes s.hbm a imageEnd)
  lost.foldl (fun s l => noteEcc s l true 3)
    (cleanLines { s with hbm := lost.foldl (fun m l => putBytes m (64 * l) (getBytes s.hbm (64 * l) 64)) m } a imageEnd)

/-! ### Reading back (R342) -/

/-- `n` values of an image, in the canonical form of sparse storage. -/
def sparseOf {w : Nat} (n : Nat) (f : Nat → Nat) : Sparse (BitVec w) :=
  (upTo n id).filterMap (fun i => let v := BitVec.ofNat w (f i); if v = 0 then none else some (i, v))

/-- A format code, precision and infinity bit that WLD accepts, as R80 checks BFMT. -/
def wFmtOk (c p inf : Nat) : Bool := inCode c && p < 8 && inf < 2 && precOk c p (inf == 1)

/-- The first byte of the W header or of the row-format table that R342 refuses. -/
def imageBad (s : State) (a : Nat) : Option Nat :=
  let byte (o : Nat) : Nat := partNat s (a + o) 1
  let h (k : Nat) : Nat := byte (wHeadOff + k)
  if h 0 > 1 then some wHeadOff
  else if !inCode (h 1) then some (wHeadOff + 1)
  else if !(h 2 < 8 && (if h 1 = 3 || h 1 = 4 then h 2 != 0 else h 2 == 0)) then some (wHeadOff + 2)
  else if !wFmtOk (h 1) (h 2) (h 3) then some (wHeadOff + 3)
  else ((upTo 256 id).find? (fun k => let b := byte (0x1700 + k); !wFmtOk (b % 16) (b / 16 % 8) (b / 128))).map (fun k => 0x1700 + k)

def imageSeq (s : State) (a : Nat) (q regs off : Nat) (u : Seq) : Seq :=
  let n (o k : Nat) : Nat := partNat s (a + o) k
  let pc : BitVec 48 := BitVec.ofNat 48 (n (0xF00 + 8 * q) 8)
  { u with regs := (sparseOf regs (fun i => n (off + 8 * i) 8)).filter (fun e => e.1 != 0), pc := pc, lastRegion := pc, head := pc,
           seqno := BitVec.ofNat 64 (n (0xF20 + 8 * q) 8),
           stream := if n (0xF76 + q) 1 = 0 then .running else if n (0xF76 + q) 1 = 1 then .held else .ended }

/-- An accumulator bank of an image; nothing is recomputed (R344). -/
def imageAcc (s : State) (a : Nat) : AccBank :=
  let n (o k : Nat) : Nat := partNat s (a + o) k
  let st (k : Nat) : Nat := bits (n (199680 + k / 8) 1) (k % 8) 1 + 2 * bits (n (199680 + 2048 + k / 8) 1) (k % 8) 1
  { elems := (upTo 16384 id).filterMap (fun k =>
      let e : Elem := { v := BitVec.ofNat 96 (n (12 * k) 12), s := BitVec.ofNat 2 (st k) }
      if e = ⟨0, 0⟩ then none else some (k, e)),
    colSum := sparseOf 128 (fun j => n (196608 + 12 * j) 12), rowSum := sparseOf 128 (fun i => n (198144 + 12 * i) 12),
    prange := (n 203776 1).testBit 0, ovf := (n 203776 1).testBit 1 }

/-- A record in progress, from what the image holds for it (R340); its parcels are fetched when it goes on (R342). A record of M that was saved before its
first single issue comes back with the KEY that it would have read at the save: the image has no place that tells it from one that has begun (log 28). -/
def imageRec (s : State) (a : Nat) (t : Task) (q : SeqId) (ctr bases map : Nat) : Task :=
  let n (o k : Nat) : Nat := partNat s (a + o) k
  let u := t.seq q
  let sc := if q == .t then n 0xFCC 4 else 0
  let p : RecProg :=
    { instr := .nop 0, id := u.nextId + 1, pc := u.pc, i0 := n ctr 2, i1 := n (ctr + 2) 2, i2 := n (ctr + 4) 2, i3 := n (ctr + 6) 2,
      began := true, baseD := BitVec.ofNat 64 (n bases 8), baseA := BitVec.ofNat 64 (n (bases + 8) 8),
      baseB := BitVec.ofNat 64 (n (bases + 16) 8), fmt := if q == .m then BitVec.ofNat 64 (n 0xF50 8) else 0,
      key := if q == .m then BitVec.ofNat 64 (n 0xF58 8) else 0, map := BitVec.ofNat 1024 (n map 128),
      unitary := if q == .m then sparseOf 64 (fun k => n (0x1300 + 8 * k) 8) else [],
      scType := BitVec.ofNat 4 (sc / 256), scOp := BitVec.ofNat 4 sc, lastBlock := none, sent := 0, recheck := true,
      outs := [], got := [], refetch := true }
  t.setSeq q { u with prog := some p, nextId := u.nextId + 2, flights := [{ id := u.nextId + 1, sig := 0, took := 0, region := 0 }] }

/-- The bank of an image, over the task that its launch gives (R340, R342). V is in replay mode. -/
def readImage (s : State) (a : Nat) (t : Task) : Task :=
  let n (o k : Nat) : Nat := partNat s (a + o) k
  let words (o k : Nat) : List Word := upTo k (fun i => BitVec.ofNat 64 (n (o + 8 * i) 8))
  let cred (o : Nat) : Sparse Nat := [(0, 0), (1, 1), (3, 2)].foldl (fun m p => bump m p.1 (n (o + p.2) 1)) []
  let vl := BitVec.ofNat 64 (n 0xF90 8)
  let vcsr := BitVec.ofNat 64 (n 0xF98 8)
  let vrb := BitVec.ofNat 64 (n 0xFA0 8)
  let sc := n 0xFC8 4
  let t : Task :=
    { t with
      c := imageSeq s a 0 64 0 t.c, t := imageSeq s a 1 32 0x200 t.t, v := imageSeq s a 2 32 0x300 t.v, m := imageSeq s a 3 32 0x400 t.m,
      bm := sparseOf 8 (fun i => n (0x500 + 128 * i) 128), preg := (sparseOf 16 (fun i => n (0x900 + 32 * i) 32)).filter (fun e => e.1 != 0),
      pqT := words 0xB00 (n 0xF72 1), pqV := words 0xC00 (n 0xF73 1), pqM := words 0xD00 (n 0xF74 1), fq := words 0xE00 (n 0xF75 1),
      heldV := n 0xF7A 1, heldTaken := 0,
      tok := tokenPairs.zipIdx.foldl (fun m x => bump m (tokKey x.1.1 x.1.2) (n (0xF60 + x.2) 1)) [],
      credit := cred 0xF6C, mute := cred 0xF6F, taken := [], sent := [], replay := true,
      key := BitVec.ofNat 64 (n 0xF80 8), rfstat := BitVec.ofNat 64 (n 0xF88 8), vl := vl, vcsr := vcsr, vrb := vrb,
      regVl := vl, regVcsr := vcsr, regVrb := vrb, eps := sparseOf 8 (fun i => n (0xFA8 + 4 * i) 4),
      scType := BitVec.ofNat 4 (sc / 256), scOp := BitVec.ofNat 4 sc, failw := sparseOf 64 (fun i => n (0x1000 + 8 * i) 8),
      phases := sparseOf 64 (fun i => n (0x1200 + 4 * i) 4), kreg := sparseOf 1024 (fun i => n (0x2000 + 4 * i) 4),
      vreg := sparseOf 1024 (fun i => n (0x3000 + 256 * i) 256), w8 := n wHeadOff 1 == 1,
      wlast := BitVec.ofNat 24 (n (wHeadOff + 1) 3), w := sparseOf 32768 (fun k => n (wOff + 2 * k) 2),
      wfmt := sparseOf 256 (fun k => n (0x1700 + k) 1),
      acc := (upTo 8 id).filterMap (fun k => let b := imageAcc s (a + accOff (k / 2) (k % 2)); if b = AccBank.zero then none else some (k, b)),
      version := sparseOf 4 (fun i => n (accOff i 0 + 203778) 2) }
  let busy := n 0xF7B 1
  let t := if busy.testBit 0 then imageRec s a t .t 0xF40 0x1580 0x1500 else t
  if busy.testBit 1 then imageRec s a t .m 0xF48 0x1598 0x15B0 else t

/-- What a task goes on from beside its image (R302, R331, R332, R334): the last REGION of each sequencer, whether V resumes at one, the credits that it
has yet to return, what T and M have sent of a single issue, the instruction of C whose effect has begun, with its tokens. -/
def restoreKept (s : State) (x : Saved) (t : Task) : Task :=
  let t := ([SeqId.c, .t, .v, .m].zip x.regions).foldl (fun t r => t.setSeq r.1 { t.seq r.1 with lastRegion := r.2 }) t
  let t := { t with atRegion := x.atRegion, owed := x.owed, v := { t.v with regionNo := if x.atRegion then 1 else 0 } }
  let t := x.pieces.foldl (fun t p =>
    t.setSeq p.q { t.seq p.q with prog := (t.seq p.q).prog.map (fun r => { r with sent := p.sent, outs := p.outs }) }) t
  match x.wait with
  | none => t
  | some w =>
    let t := (ids w.took).foldl (fun t a => { t with resv := bump t.resv (tokKey a 0) 1 }) t
    let t := (ids w.sig).foldl (fun t b => { t with psig := bump t.psig (tokKey 0 b) 1 }) t
    { t with c := { t.c with wait := some { w with id := t.c.nextId, since := s.mcc, sinceGt := s.gt }, nextId := t.c.nextId + 1 } }

end Sys2Proof.Machine
end

