-- ==== Sys2Proof/Machine/Sync.lean ====
section
/-! DEFINITION. Semaphores, the fences of C and RFENCE (R230, R275, R278, R279). Barriers stand with the collectives that
they may issue (Barrier.lean). -/

namespace Sys2Proof.Machine

/-- A semaphore of the core's cluster (R275). -/
def semKey (core n : Nat) : Nat := 64 * clusterOf core + n
def semGet (s : State) (k : Nat) : BitVec 32 := Sparse.get 0 s.myPart.sems k
def semPut (s : State) (k : Nat) (v : BitVec 32) : State := s.setMyPart { s.myPart with sems := Sparse.set 0 k v s.myPart.sems }

/-- The waiters of a semaphore in the order in which they reached it: each whose need is at most the value left is
satisfied, and its SEMWAIT completes (R275). -/
def grantSem (s : State) (k : Nat) : List SemWaiter → State
  | [] => s
  | w :: ws =>
    if w.sem == k && w.need.ule (semGet s k) then
      let s := semPut s k (semGet s k - w.need)
      let s := s.setMyPart { s.myPart with semq := s.myPart.semq.filter (fun x => !(x.core == w.core && x.bank == w.bank)) }
      grantSem (completeWaiting s w.core w.bank 2) k ws
    else grantSem s k ws

/-- v of the semaphore instructions: the low 32 bits (R275). -/
def semVal (s : State) (o : COp) : BitVec 32 := (opVal s o).setWidth 32

/-- SEMADD and SEMSET: a release, then one event (R275). -/
def semChange (i : Instr) (y : Syn) (o : COp) (f : BitVec 32 → BitVec 32 → BitVec 32) (s : State) : Host.Outcome State Fault Refusal :=
  run i y 1 (fun s =>
    if cPerformed s then
      let k := semKey (myCore s) o.sd.toNat
      let s := semPut s k (f (semGet s k) (semVal s o))
      .ok (grantSem s k s.myPart.semq)
    else .wait 7 .none 0 0 s) s

def execSemadd (y : Syn) (o : COp) (s : State) := semChange (.semadd y o) y o (fun a v => a + v) s
def execSemset (y : Syn) (o : COp) (s : State) := semChange (.semset y o) y o (fun _ v => v) s

/-- SEMWAIT subtracts at once where it can, else it joins the waiters of its semaphore (R275). -/
def execSemwait (y : Syn) (o : COp) (s : State) : Host.Outcome State Fault Refusal :=
  run (.semwait y o) y 1 (fun s =>
    let k := semKey (myCore s) o.sd.toNat
    let v := semVal s o
    if curOp s = .sem then .wait 2 .sem 0 0 s
    else if v.ule (semGet s k) then .ok (semPut s k (semGet s k - v))
    else
      let w : SemWaiter := { sem := k, core := myCore s, bank := myBank s, need := v }
      .wait 2 .sem 0 0 (s.setMyPart { s.myPart with semq := s.myPart.semq ++ [w] })) s

/-- An engine has completed every instruction that it issued before id `n` (R278). -/
def completedTo (s : State) (q : SeqId) (n : Nat) : Bool :=
  let u := s.here.seq q
  let waiting := match u.wait with | some w => w.issued && w.id < n | none => false
  !waiting && u.flights.all (fun f => n ≤ f.id || complete s (myCore s) (myBank s) q u f.id)

def execQfence (y : Syn) (q : BitVec 4) (s : State) : Host.Outcome State Fault Refusal :=
  run (.qfence y q) y 1 (fun s =>
    let ns := match curOp s with
      | .issuedBefore t v m => (t, v, m)
      | _ => (s.here.t.nextId, s.here.v.nextId, s.here.m.nextId)
    let done := (!q.getLsbD 0 || cPerformed s) && (!q.getLsbD 1 || completedTo s .t ns.1)
      && (!q.getLsbD 2 || completedTo s .v ns.2.1) && (!q.getLsbD 3 || completedTo s .m ns.2.2)
    if done then .ok s else .wait 7 (.issuedBefore ns.1 ns.2.1 ns.2.2) 0 0 s) s

/-- FENCE: performance; at scope 3 also the acknowledgement of C's reflected stores (R279). -/
def execFence (y : Syn) (scope : BitVec 2) (s : State) : Host.Outcome State Fault Refusal :=
  run (.fence y scope) y 1 (fun s =>
    if cPerformed s && (scope != 3 || cAcked s) then .ok s else .wait 7 .none 0 0 s) s

/-- The flits that RFENCE waits for: covered by the mask, with a store of C, or departed with one of an engine (R230). -/
def rfenceFlits (s : State) (mask : Word) : List Nat :=
  (s.flits.filter (fun f => mask.getLsbD (f.win / 16)
    && (f.ofSeq (myCore s) (myBank s) .c || (f.departed && f.ofBank (myCore s) (myBank s))))).map (·.id)

def rfenceMask (s : State) (o : COp) : Word := match o.b with | .reg _ => srcA s o | b => cbVal s b

/-- The failure words of the mask, ORed, and then cleared (R230). -/
def rfenceDone (s : State) (o : COp) (mask : Word) : State :=
  let t := s.here
  let bs := (upTo 64 id).filter (fun b => mask.getLsbD b)
  let bm := bs.foldl (fun a b => a ||| Sparse.get 0 t.failw b) (0 : Word)
  let t := { t with failw := t.failw.filter (fun e => !mask.getLsbD e.1), rfstat := t.rfstat ||| bm }
  (s.setHere t).setReg o.sd.toNat (BitVec.ofNat 64 (popcount 64 bm.toNat))

def execRfence (y : Syn) (o : COp) (s : State) : Host.Outcome State Fault Refusal :=
  run (.rfence y o) y 1 (fun s =>
    let mask := rfenceMask s o
    let fs := match curOp s with | .flits l => l | _ => rfenceFlits s mask
    if s.flits.any (fun f => fs.contains f.id) then .wait 7 (.flits fs) 0 0 s else .ok (rfenceDone s o mask)) s

end Sys2Proof.Machine
end

