-- ==== Sys2Proof/Machine/Launching.lean ====
section
/-! DEFINITION. Launches: descriptors, acceptance, translation, slices, order, starts and records (R202, R203, R305 to R319,
R89, R90), and the task instructions of C (R283 to R286). -/

namespace Sys2Proof.Machine

/-! ### Descriptors (R306 to R308) -/

/-- The descriptor is valid (R308); `base` is the counter base it would get, `privOk` whether PRIV = 1 is allowed. -/
def descOk (d : BitVec 2048) (base : Nat) (privOk : Bool) : Bool :=
  let ctl := dCtl d
  let n := dLevels d
  dF d 90 38 == 0 && bits ctl 23 9 == 0 && bits ctl 6 1 == 0 && bits ctl 0 2 < 2 && dOverlap d != 3
    && dF d 0 8 != 0 && [0, 8, 16, 24, 32].all (fun o => dF d o 8 % 4 == 0)
    && (upTo 16 id).all (fun i => dNpg d i == 0 || dPage d i + dNpg d i ≤ 2 ^ 32)
    && (upTo 16 id).all (fun i => !(dF d 88 2).testBit i || dNpg d i != 0)
    && (upTo n (dTrip d)).all (· != 0) && dTiles d < 2 ^ 32
    && (upTo 4 id).all (fun l => l < n || dTrip d l == 0)
    && (upTo n id).all (fun l => (upTo n (dPerm d)).contains l) && (upTo 4 id).all (fun i => i < n || dPerm d i == 0)
    && base + dCount d ≤ 2 ^ 64 && !(dTimed d && bits ctl 7 3 != 0) && (!dPriv d || privOk)

/-! ### The partition block (R305) -/

def blk (s : State) (part o n : Nat) : Nat := partNat s ((s.part part).block + o) n
def setBlk (s : State) (part o n v : Nat) : State := partStore s ((s.part part).block + o) (leBytes n v)

/-- A power of two from 16 to 65,536. -/
def lenOk (n : Nat) : Bool := (upTo 13 (fun i => 2 ^ (i + 4))).contains n

/-- A block that the part registers. -/
def partBlockOk (s : State) (a : Nat) : Bool :=
  let n (o k : Nat) : Nat := partNat s (a + o) k
  a % 128 == 0 && s.populated a 128 && n 56 72 == 0 && lenOk (n 8 4) && lenOk (n 28 4) && lenOk (n 48 4)
    && n 0 8 % 256 == 0 && n 20 8 % 128 == 0 && n 40 8 % 256 == 0

/-! ### Acceptance (R309 step 1, R315, R319) -/

/-- Every island of the clusters at 940 MHz, and a position at every stack port and digest unit (R319). -/
def timetableOk (s : State) (part : Nat) : Bool :=
  let p := s.part part
  (upTo (2 ^ p.size) (fun i => (part + i) / 2)).all (fun i => Sparse.get 940 s.island i == 940)
    && (upTo 32 id).all (fun w => (upTo 64 id).any (fun k =>
      let b := Sparse.get 0 s.wheels (w * 64 + k)
      b.getLsbD 7 && (b.extractLsb' 0 6).toNat == part && (k < 62 || w ≥ 16 : Bool)))

/-- Where a child's entry goes: 1 the pool, 2 its reserve, 3 + j entry j of the memory-backed queue (R315). -/
def childPool (s : State) (part parent : Nat) : Option Nat :=
  let p := s.part part
  let used (k : Nat) : Nat := (p.launches.filter (fun l => l.pool == k)).length
  let share := 64 * 2 ^ p.size
  let alive : Bool := match p.launch? parent with | some l => l.stage == .started | none => false
  if used 1 < share - share / 16 then some 1
  else if alive && used 2 < share / 16 then some 2
  else ((upTo (blk s part 48 4) id).find? (fun j => !p.launches.any (fun l => l.pool == 3 + j))).map (3 + ·)

/-- The word that tells a rejection (R283). -/
def rejected (code : Nat) : Word := BitVec.ofNat 64 (2 ^ 63 + code)

/-- Step 1 of a launch (R309): the new state and the status word. `place` is 0 for the launch queue, or what childPool
answers; `none` where there is no room. -/
def submitDesc (s : State) (part : Nat) (d : BitVec 2048) (place : Option Nat) (child privOk : Bool) (parent : Nat) : State × Word :=
  let p := s.part part
  let base := if dCursor d then p.cursor.toNat else dF d 48 8
  if !descOk d base privOk then (s, rejected 1)
  else
    match place with
    | none => (s, rejected 6)
    | some pool =>
      if dTimed d && !timetableOk s part then (s, rejected 5)
      else
        let l : Launch :=
          { id := p.nextId, desc := d, stage := .accepted, status := 0, child := child, parent := parent, pool := pool,
            cbase := BitVec.ofNat 64 base, slot := 0, dccStart := 0, dccEnd := 0, ovlp := false, keychg := false, preempted := false,
            hostEnded := false, extents := [], coresStarted := [], ranksOver := [], ready := [], digest := none, toRead := [] }
        let p := { p with nextId := p.nextId + 1, launches := p.launches ++ [l], spill := if pool ≥ 3 then p.spill ++ [l.id] else p.spill,
                          cursor := if dCursor d then p.cursor + BitVec.ofNat 64 (dCount d) else p.cursor }
        let s := s.setPart part p
        let s := if pool ≥ 3 then partStore s (blk s part 40 8 + 256 * (pool - 3)) (leBytes 256 d.toNat) else s
        (s, BitVec.ofNat 64 (l.id % 2 ^ 48))

/-! ### The launch queue (R283, R305, R315, R348, R350) -/

/-- The entries of the launch queue that have not been taken, and whether it has room for one more. -/
def lqCount (s : State) (part : Nat) : Nat := (blk s part 16 4 + 2 ^ 32 - blk s part 12 4) % 2 ^ 32
def lqRoom (s : State) (part : Nat) : Bool := lqCount s part < blk s part 8 4

/-- The command processor takes the next descriptor only when steps 1 to 4 of the one before are done (R309). -/
def cpFree (p : Partition) : Bool := !p.launches.any (fun l => l.stage == .accepted)

/-- What a command leaves in its copy of the mailbox (R350): the command and its status, then the operands. -/
def mailDone (s : State) (host : Bool) (cmd status : Nat) (ops : List Nat) : State :=
  let put (m : Sparse Word) (x : Nat × Nat) : Sparse Word := Sparse.set 0 x.2 (BitVec.ofNat 64 x.1) m
  let all (m : Sparse Word) : Sparse Word := ((cmd + 256 * status) :: ops).zipIdx.foldl put m
  if host then { s with hostbox := all s.hostbox } else { s with mailbox := all s.mailbox }

/-- The core number that stands for Milnos, which submits as LAUNCH does (R350). -/
def milnosCore : Nat := 512

/-- A refusal in LQSTAT. -/
def noteRefusal (s : State) (part entry code : Nat) : State :=
  let p := s.part part
  let n := (bits p.lqstat.toNat 48 16 + 1) % 2 ^ 16
  s.setPart part { p with lqstat := BitVec.ofNat 64 (n * 2 ^ 48 + entry % 2 ^ 32 * 256 + code) }

/-- The answer to an entry goes to who made it: LAUNCH, SUBMIT, or the host through LQSTAT. -/
def answerEntry (s : State) (part entry : Nat) (own : Option LqOwn) (v : Word) : State :=
  let p := s.part part
  match own with
  | none => if v.getLsbD 63 then noteRefusal s part entry (v.toNat % 256) else s
  | some o =>
    if o.core = milnosCore then
      mailDone (s.setPart part { p with lqOwn := p.lqOwn.filter (· != o) }) false 6 0 [part, (Sparse.get 0 s.mailbox 2).toNat, v.toNat]
    else s.setPart part { p with lqOwn := p.lqOwn.map (fun x => if x = o then { x with result := some v } else x) }

/-- The entry at the head of the queue is taken (step 1); one whose LAUNCH was cut is passed over. -/
def takeEntry (s : State) (part : Nat) : State :=
  let head := blk s part 12 4
  let slot := head % max 1 (blk s part 8 4)
  let d := BitVec.ofNat 2048 (partNat s (blk s part 0 8 + 256 * slot) 256)
  let own := (s.part part).lqOwn.find? (fun o => o.index == head && o.result.isNone)
  let s := setBlk s part 12 4 (head + 1)
  match own with
  | some o =>
    if o.dropped then
      let p := s.part part
      s.setPart part { p with lqOwn := p.lqOwn.filter (· != o) }
    else
      let r := submitDesc s part d (some 0) false o.priv o.launch
      answerEntry r.1 part slot own r.2
  | none =>
    let r := submitDesc s part d (some 0) false false 0
    answerEntry r.1 part slot none r.2

/-- Entries are taken while the command processor is free: at most `n`. -/
def takeEntries : Nat → State → Nat → State
  | 0, s, _ => s
  | n + 1, s, part => if cpFree (s.part part) && lqCount s part != 0 then takeEntries n (takeEntry s part) part else s

def takeQueue (s : State) (part : Nat) : State := takeEntries (lqCount s part) s part

/-- A descriptor enters the queue from inside the module, at LQTAIL mod LQLEN, for a core. -/
def enterQueue (s : State) (part core bank launch : Nat) (priv : Bool) (d : BitVec 2048) : State :=
  let tail := blk s part 16 4
  let s := partStore s (blk s part 0 8 + 256 * (tail % max 1 (blk s part 8 4))) (leBytes 256 d.toNat)
  let s := setBlk s part 16 4 (tail + 1)
  let p := s.part part
  takeQueue (s.setPart part { p with lqOwn := p.lqOwn ++ [{ index := tail, core := core, bank := bank, launch := launch, priv := priv,
                                                            result := none, dropped := false }] }) part

/-! ### Translation (R89, R90) -/

/-- What a leaf maps from the page asked for on: its physical address, how many pages remain in it, its permissions. -/
structure Leaf where
  pa : Nat
  pages : Nat
  r : Bool
  w : Bool
  x : Bool
  prot : Bool
deriving DecidableEq, Repr

/-- A page-table entry, where the translator can read it. -/
def pte (s : State) (a : Nat) : Option Nat :=
  if s.populated a 8 && s.stackReady (a / 2 ^ 37) && !unreadable s a 8 then some (partNat s a 8) else none

/-- A group of 16 entries makes a 64 KiB page (R89). -/
def groupOk (s : State) (table i : Nat) : Bool :=
  let g := i / 16 * 16
  match pte s (table + 8 * g) with
  | none => false
  | some e0 =>
    bits e0 12 4 == 0 && (upTo 16 id).all (fun k => pte s (table + 8 * (g + k)) == some (e0 + 4096 * k))

/-- The leaf of a good entry at level `l`, for page offset `off`. -/
def leafOf (s : State) (l off e : Nat) : Option Leaf :=
  let size := if l = 0 then (if e.testBit 5 then 16 else 1) else if l = 1 then 512 else 262144
  let i := off / 4096 % size
  let base := bits e 12 40 * 4096 - (if l = 0 then i * 4096 else 0)
  let w := e.testBit 3
  let x := e.testBit 4
  if (w && x) || base % (size * 4096) != 0 || !(s.populated base (size * 4096)) || !s.stackReady (base / 2 ^ 37) then none
  else some { pa := base + i * 4096, pages := size - i, r := e.testBit 2, w := w, x := x, prot := e.testBit 6 }

/-- The walk from level `l` down, at byte offset `off` of task HBM space; `none` is a refusal. R89 names no refusal for a valid entry of level 0 with
LEAF = 0, below which no table lies: it is one here (DESIGN CHOICE, log 56). -/
def walk (s : State) : Nat → Nat → Nat → Option Leaf
  | 0, table, off =>
    let i := bits off 12 9
    match pte s (table + 8 * i) with
    | none => none
    | some e =>
      if !e.testBit 0 || !e.testBit 1 || bits e 52 12 != 0 || bits e 7 5 != 0 || (e.testBit 5 && !groupOk s table i) then none
      else leafOf s 0 off e
  | l + 1, table, off =>
    match pte s (table + 8 * bits off (12 + 9 * (l + 1)) (if l = 2 then 5 else 9)) with
    | none => none
    | some e =>
      if !e.testBit 0 || bits e 52 12 != 0 || bits e 7 5 != 0 || e.testBit 5 then none
      else if e.testBit 1 then (if l = 2 then none else leafOf s (l + 1) off e)
      else walk s l (bits e 12 40 * 4096) off

/-- Pages joined to the last extent of their range, or a new one (R90). -/
def addExtent (xs : List Extent) (e : Extent) : List Extent :=
  match xs.getLast? with
  | some o =>
    if o.range = e.range && o.vbase + (o.npages + 1) * 4096 = e.vbase && o.pbase + (o.npages + 1) * 4096 = e.pbase
        && o.r = e.r && o.w = e.w && o.x = e.x && o.prot = e.prot then
      xs.dropLast ++ [{ o with npages := o.npages + e.npages + 1 }]
    else xs ++ [e]
  | none => xs ++ [e]

/-- The extents of `r` pages from page `p` on of range `i`; the pages that an earlier range covers are left out. The error is
the code of R318. -/
def rangeExtents (s : State) (root i : Nat) (earlier : List (Nat × Nat)) : Nat → Nat → Nat → List Extent → Except Nat (List Extent)
  | 0, _, _, xs => .ok xs
  | fuel + 1, p, r, xs =>
    if r = 0 then .ok xs
    else
      match earlier.find? (fun e => e.1 ≤ p && p < e.1 + e.2) with
      | some e =>
        let k := min r (e.1 + e.2 - p)
        rangeExtents s root i earlier fuel (p + k) (r - k) xs
      | none =>
        match walk s 3 root (p * 4096) with
        | none => .error 2
        | some f =>
          let k := earlier.foldl (fun k e => if p < e.1 then min k (e.1 - p) else k) (min r f.pages)
          let xs := addExtent xs
            { valid := true, vbase := Config.hbmBase + p * 4096, pbase := f.pa, npages := k - 1, r := f.r, w := f.w, x := f.x,
              prot := f.prot, range := i }
          if xs.length > 32 then .error 3 else rangeExtents s root i earlier fuel (p + k) (r - k) xs

/-- Step 3: every used range in order. -/
def translateAll (s : State) (part : Nat) (d : BitVec 2048) : Except Nat (List Extent) :=
  let root := ((s.part part).csrVal 0x100).toNat
  (upTo 16 id).foldl (fun r i =>
    match r with
    | .error e => .error e
    | .ok xs =>
      let earlier := ((upTo i id).filter (fun j => dNpg d j != 0)).map (fun j => (dPage d j, dNpg d j))
      rangeExtents s root i earlier (dNpg d i) (dPage d i) (dNpg d i) xs) (.ok [])

/-- An entry of the pool or of the memory-backed queue is freed; the oldest spilled child takes a pool entry (R315). -/
def freePool (p : Partition) (id : Nat) : Partition :=
  match p.launch? id with
  | none => p
  | some l =>
    let p := { (p.mapLaunch id (fun l => { l with pool := 0 })) with spill := p.spill.filter (· != id) }
    match p.spill with
    | j :: rest => if l.pool = 1 || l.pool = 2 then { (p.mapLaunch j (fun m => { m with pool := l.pool })) with spill := rest } else p
    | [] => p

/-! ### Launch records (R316, R317) -/

/-- The 128 bytes of a record. -/
def recordBytes (s : State) (part : Nat) (l : Launch) (signed : Bool) (digest prev : BitVec 256) : List Byte :=
  let d := l.desc
  let b (x : Bool) (k : Nat) : Nat := if x then 2 ^ k else 0
  let info := l.status + 2 ^ 8 * bits (dCtl d) 0 2 + 2 ^ 10 * dPrio d + b l.ovlp 12 + b l.keychg 13 + b l.child 14 + b signed 15 + b l.preempted 16
  leBytes 8 (l.id % 2 ^ 48) ++ leBytes 8 (part + 64 * (s.part part).size) ++ leBytes 8 info ++ leBytes 8 (dF d 40 8) ++ leBytes 8 l.cbase.toNat
    ++ leBytes 8 (dCount d) ++ leBytes 8 (l.dccStart - 1) ++ leBytes 8 l.dccEnd.toNat ++ leBytes 32 digest.toNat ++ leBytes 32 prev.toNat

/-- Where the record of a launch lies in the ring. -/
def recordAddr (s : State) (part : Nat) (l : Launch) : Nat := blk s part 20 8 + 128 * (l.slot % max 1 (blk s part 28 4))

/-- Signing is asked for, in hardware attestation mode (R316, R354). -/
def signs (p : Partition) (l : Launch) : Bool := (dCtl l.desc).testBit 20 && !(p.csrVal 0x108).getLsbD 5

/-- The digest unit of stack `d` reads what lies there of range `i` of a launch that is over, in a position of its own wheel (R317, R320): lines in error
are found then. The bytes are those that the range had when the launch was over: nothing that reaches it later is in the digest. `range` is 16 times
`i` plus `d`. -/
def turnDigest (part id range : Nat) (s : State) : Host.Outcome State Fault Refusal :=
  match (s.part part).launch? id with
  | none => .next s
  | some l =>
    event s (l.toRead.contains range && wheelOpen s (16 + range % 16) part)
      (let here := (l.extents.filter (fun e => e.2.valid && e.2.range == range / 16)).map (fun e => e.2.inStack (range % 16))
       let s := (here.filter (·.2 != 0)).foldl (fun s x => findErrors s x.1 x.2) (serveWheel s (16 + range % 16) part)
       .next (s.setPart part ((s.part part).mapLaunch id (fun l => { l with toRead := l.toRead.filter (· != range) }))))

/-- A record of a launch that is over becomes final. -/
def completeRecord (s : State) (part : Nat) (l : Launch) : State :=
  let p := s.part part
  let l := if l.dccStart = 0 then { l with dccStart := (Config.idleStart part l.id).toNat + 1 } else l
  let l := if l.coresStarted.isEmpty then { l with dccEnd := Config.idleEnd part l.id } else l
  let signed := signs p l
  let bytes := recordBytes s part l signed (l.digest.getD 0) p.prev
  let s := if signed then partStore s (blk s part 32 8 + 64 * (l.slot % max 1 (blk s part 28 4))) (leBytes 64 (Config.sm2Sign bytes).toNat) else s
  let s := partStore s (recordAddr s part l) bytes
  let p := (s.part part).mapLaunch l.id (fun _ => { l with stage := .final })
  let h := sm3Word bytes
  s.setPart part { p with prev := h, chainhd := if (p.csrVal 0x108).getLsbD 5 then p.chainhd else h }

/-- The oldest record that is not final becomes final if its launch is over and the digest units have read its ranges (R316, R317). -/
def execLaunchRecordFinal (part : Nat) (s : State) : Host.Outcome State Fault Refusal :=
  event s ((s.part part).present && (s.part part).launches.any (fun l => l.stage == .over))
    (.next (match (s.part part).launches.find? (fun l => l.stage != .final) with
       | some l => if l.stage == .over && l.toRead.isEmpty then completeRecord s part l else s
       | none => s))

/-! ### Steps 2 to 4 (R309) -/

/-- A launch that fails before it starts (R309). -/
def failLaunch (s : State) (part id code : Nat) : State :=
  let p := freePool (s.part part) id
  let p := { p with resv := p.resv.filter (fun r => r.launch != id) }
  s.setPart part (p.mapLaunch id (fun l => { l.close s part with status := code }))

/-- The launch overlaps an entry of the reservation table (R203). -/
def overlaps (p : Partition) (l : Launch) : Bool :=
  let d := l.desc
  let b := l.cbase.toNat
  p.resv.any (fun r => r.seed.toNat == dF d 40 8 && r.sbase.toNat == dF d 64 4 && r.base < b + dCount d && b < r.base + r.len)

/-- Step 3 and 4 of the launch that holds its reservation. -/
def finishPrepare (s : State) (part : Nat) (l : Launch) : State :=
  match translateAll s part l.desc with
  | .error code => failLaunch s part l.id code
  | .ok xs =>
    let p := (s.part part).mapLaunch l.id (fun m => { m with stage := .prepared, extents := xs.zipIdx.map (fun x => (x.2, x.1)) })
    s.setPart part p

/-- A launch takes the next slot of the record ring, and its record is written there (R316). -/
def takeRecordSlot (s : State) (part id : Nat) : State :=
  let next := blk s part 52 4
  let s := setBlk s part 52 4 (next + 1)
  let s := s.setPart part ((s.part part).mapLaunch id (fun l => { l with slot := next }))
  match (s.part part).launch? id with
  | some l => partStore s (recordAddr s part l) (recordBytes s part l false 0 0)
  | none => s

/-- Steps 2 to 4 of a launch with a slot: the overlap with a reservation, the reservation, the translation. -/
def prepare (s : State) (part : Nat) (l : Launch) : Host.Outcome State Fault Refusal :=
  let n := dCount l.desc
  let hit := n != 0 && overlaps (s.part part) l
  if hit && dOverlap l.desc == 2 then
    let s := failLaunch s part l.id 4
    match freeSlot (s.part part) with
    | none => .next (s.setPart part { (s.part part) with lost := true })
    | some j =>
      match writeRecord s part j (trapRecNoCore s part .counterOverlap l.cbase.toNat 0) with
      | .ok s => .next s
      | .error f => .fault f
  else
    let r : Resv := { launch := l.id, seed := BitVec.ofNat 64 (dF l.desc 40 8), sbase := BitVec.ofNat 64 (dF l.desc 64 4),
                      base := l.cbase.toNat, len := n }
    let p := s.part part
    .next (finishPrepare (if n = 0 then s else s.setPart part { p with resv := p.resv ++ [r] }) part l)

/-- Steps 2 to 4 of the launch that the command processor holds, and then the next entry of the queue (R309). -/
def execLaunchPrepare (part : Nat) (s : State) : Host.Outcome State Fault Refusal :=
  let p := s.part part
  match p.launches.find? (fun l => l.stage == .accepted) with
  | none => .next s
  | some l =>
    let n := dCount l.desc
    event s (p.present && (n == 0 || p.resv.length < 64))
      (let hit := n != 0 && overlaps p l
       let s := s.setPart part (p.mapLaunch l.id (fun l => { l with ovlp := hit && dOverlap l.desc == 1 }))
       let s := takeRecordSlot s part l.id
       match prepare s part (((s.part part).launch? l.id).getD l) with
       | .next s => .next (takeQueue s part)
       | r => r)

/-! ### Step 5: the start of a task (R138, R289, R310, R311) -/

/-- An engine's or C's stream at its entry. -/
def entrySeq (pc : Nat) (held : Bool) : Seq :=
  let a : BitVec 48 := BitVec.ofNat 48 pc
  { Seq.reset with stream := if pc = 0 then .ended else if held then .held else .running, pc := a, lastRegion := a }

/-- The task of logical rank `rank`. -/
def launchTask (s : State) (part : Nat) (l : Launch) (rank : Nat) : Task :=
  let d := l.desc
  let p := s.part part
  let cores := 8 * 2 ^ p.size
  let held (i : Nat) : Bool := dTimed d || (dCtl d).testBit (7 + i)
  { Task.reset with
    part := part, launch := l.id, rank := rank, prio := dPrio d, priv := dPriv d, timed := dTimed d,
    c := entrySeq (dF d 0 8) false, t := entrySeq (dF d 8 8) (held 0), v := entrySeq (dF d 16 8) (held 1), m := entrySeq (dF d 24 8) (held 2),
    key := BitVec.ofNat 64 (dF d 40 8), cbase := l.cbase, sbase := BitVec.ofNat 64 (dF d 64 4), paramb := BitVec.ofNat 64 (dF d 32 8),
    tfirst := BitVec.ofNat 32 (rank * dTiles d / cores), tend := BitVec.ofNat 32 ((rank + 1) * dTiles d / cores),
    opbase := (upTo 16 id).filterMap (fun i => if dNpg d i = 0 then none else some (i, BitVec.ofNat 64 (Config.hbmBase + dPage d i * 4096))),
    phases := p.bars.filterMap (fun e => if e.2.phase = 0 then none else some (e.1, e.2.phase)), extents := l.extents }

/-- The free bank of a core that a new task takes. -/
def freeBank (c : Core) : Option Nat := if c.bank0.isNone then some 0 else if c.bank1.isNone then some 1 else none

/-- A displaced task goes first: one of higher priority, or of the same priority accepted before (R323). -/
def displacedFirst (p : Partition) (core : Nat) (l : Launch) : Bool :=
  let before (id prio : Nat) : Bool := dPrio l.desc < prio || (dPrio l.desc == prio && id < l.id)
  p.saved.any (fun x => x.core == core && (x.slot.isNone || x.answered) && before x.launch x.prio)
    || p.yielded.any (fun y => match p.launch? y.launch with | some m => before m.id (dPrio m.desc) | none => false)

/-- A launch starts its task on one core (R309 step 5, R313). -/
def execLaunchStart (part id core : Nat) (s : State) : Host.Outcome State Fault Refusal :=
  let p := s.part part
  match p.launch? id, freeBank (s.core core) with
  | some l, some b =>
    event s (p.present && !p.stopped && (coresOf part p).contains core && !l.coresStarted.contains core && gate p l && !displacedFirst p core l)
      (let p := if l.stage == .prepared then freePool p id else p
       let p := p.mapLaunch id (fun m => { m with stage := .started, coresStarted := m.coresStarted ++ [core] })
       let s := (s.setPart part p).setTask core b (some (launchTask s part l (core - 8 * part)))
       .next (switchBank s core))
  | _, _ => .next s

/-! ### LAUNCH, CHILD, TRAP, HALT (R283, R285, R286) -/

/-- A LAUNCH or CHILD of a higher core has been accepted on this cycle: of two on one cycle that of the lower core comes first (R309). -/
def submitTurn (s : State) : Bool := s.myPart.subMcc != s.mcc + 1 || s.myPart.subCore ≤ myCore s

/-- The command processor has one of this core on this cycle. -/
def noteSubmit (s : State) : State := s.setMyPart { s.myPart with subMcc := s.mcc + 1, subCore := myCore s }

/-- The accesses of C are released, and it is this core's turn (R309, R314). -/
def maySubmit (s : State) : Bool := cPerformed s && submitTurn s

/-- LAUNCH waits for the answer to its entry of the queue. -/
def launchAnswer (s : State) (i sd : Nat) : Res :=
  match (lqOwnOf s.myPart (myCore s) (myBank s) i).bind (·.result) with
  | some v =>
    let p := s.myPart
    .ok ((s.setMyPart { p with lqOwn := p.lqOwn.filter (fun o => !(o.index == i && o.core == myCore s && o.bank == myBank s)) }).setReg sd v)
  | none => .wait 7 (.lq i) sd 0 s

/-- LAUNCH: the descriptor is read, enters the launch queue, and completes when it has been checked (R283). -/
def execLaunch (y : Syn) (o : COp) (s : State) : Host.Outcome State Fault Refusal :=
  run (.launch y o) y 1 (fun s =>
    match curOp s with
    | .lq i => launchAnswer s i o.sd.toNat
    | _ =>
      match readTask s Ranges.noTx 64 4 (opAddr s o) with
      | .error e => e.res
      | .ok r =>
        let s := r.1
        let t := s.here
        if !maySubmit s then .wait 7 .none 0 0 s
        else if !lqRoom s t.part then .ok ((noteSubmit s).setReg o.sd.toNat (rejected 6))
        else
          let i := blk s t.part 16 4
          launchAnswer (enterQueue (noteSubmit s) t.part (myCore s) (myBank s) t.launch t.priv (BitVec.ofNat 2048 (leNat r.2))) i o.sd.toNat) s

/-- CHILD: a child of this launch, in the child pool or its spill (R283, R315). -/
def execChild (y : Syn) (o : COp) (s : State) : Host.Outcome State Fault Refusal :=
  run (.child y o) y 1 (fun s =>
    match readTask s Ranges.noTx 64 4 (opAddr s o) with
    | .error e => e.res
    | .ok r =>
      let s := r.1
      let t := s.here
      if maySubmit s && cpFree s.myPart then
        let s := noteSubmit s
        let x := submitDesc s t.part (BitVec.ofNat 2048 (leNat r.2)) (childPool s t.part t.launch) true t.priv t.launch
        .ok (x.1.setReg o.sd.toNat x.2)
      else .wait 7 .none 0 0 s) s

def execTrap (y : Syn) (code : BitVec 14) (s : State) : Host.Outcome State Fault Refusal :=
  run (.trap y code) y 1 (fun s => .software code.toNat s) s

def execHalt (y : Syn) (s : State) : Host.Outcome State Fault Refusal :=
  run (.halt y) y 1 (fun s => .halt s) s

/-! ### YIELD (R284) -/

/-- The engine has completed all that it has issued. -/
def engineIdle (s : State) (q : SeqId) : Bool :=
  let u := s.here.seq q
  u.prog.isNone && completedTo s q u.nextId

/-- The task in a bank of a core must give way to a launch (R323): tasks of lower priority hold both banks, or its task is in the other bank
and the core issues from this one. Of two tasks that could give way, it is the one that has the core. -/
def givesWay (s : State) (core bank : Nat) (t : Task) (l : Launch) : Bool :=
  let p := s.part t.part
  let c := s.core core
  let turn : Bool := c.bank == bank || t.hold != .none
  let first : Bool := turn || !(match c.task? c.bank with | some x => x.hold == .none && x.prio < dPrio l.desc | none => false)
  let resident : Bool := match c.task? (1 - bank) with | some x => x.launch == l.id && x.hold == .none | none => false
  t.prio < dPrio l.desc && ((gate p l && !l.coresStarted.contains core && (freeBank c).isNone && first) || (turn && resident))

/-- The earliest moment from which a launch of higher priority has been ready for the core. -/
def higherReady (s : State) (core bank : Nat) (t : Task) : Option Nat :=
  (((s.part t.part).launches.filter (givesWay s core bank t)).map (fun l =>
    let r := Sparse.get 0 l.ready core
    if r = 0 then s.gt else r - 1)).foldl (fun m g => some (match m with | none => g | some x => min x g)) none

/-- The task gives up its core: its bank is freed, the items of R284 are kept. YIELD's own tokens go first, and its stores have been performed. -/
def giveUp (s : State) (sa n sd : Nat) : State :=
  let core := myCore s
  let b := myBank s
  let s := departAll s (fun f => f.ofBank core b)
  let t := s.here
  let t := match t.c.wait with
    | some w => finishFlight t .c { id := w.id, sig := w.sig, took := w.took, region := 0 }
    | none => t
  let t := t.c.flights.foldl (fun t f => finishFlight t .c f) t
  let us := [t.c, t.t, t.v, t.m]
  let y : Yielded :=
    { launch := t.launch, rank := t.rank, core := core, pcs := us.map (·.pc), streams := us.map (·.stream), tok := t.tok, key := t.key,
      sa := sa, vals := upTo n (fun i => t.c.reg (sa + i)), sd := sd, seqno := us.map (·.seqno), regions := us.map (·.lastRegion),
      firstIssue := (noteFirst s t).firstIssue }
  let p := s.part t.part
  ((s.setPart t.part { p with yielded := p.yielded ++ [y] }).setTask core b none).moveFlits core b 4

/-- The parameter queues and the format queue are empty. -/
def queuesEmpty (t : Task) : Bool := t.pqT.isEmpty && t.pqV.isEmpty && t.pqM.isEmpty && t.fq.isEmpty

def execYield (y : Syn) (o : COp) (s : State) : Host.Outcome State Fault Refusal :=
  run (.yield y o) y 1 (fun s =>
    if engineIdle s .t && engineIdle s .v && engineIdle s .m then
      if (higherReady s (myCore s) (myBank s) s.here).isSome && queuesEmpty s.here then
        if flitsStay s (myCore s) (myBank s) || !s.me.stores.isEmpty then .wait 7 .yielding 0 0 s
        else .ok (giveUp s o.sa.toNat (cbImm o.b).toNat o.sd.toNat)
      else .ok (s.setReg o.sd.toNat 0)
    else .wait 7 .yielding 0 0 s) s

end Sys2Proof.Machine
end

