-- ==== Sys2Proof/Machine/Preempt.lean ====
section
/-! DEFINITION. Answers to trap records, late records, saves and restores of banks, and the mailbox commands (R305, R323, R327
to R330, R336 to R342, R348, R350). -/

namespace Sys2Proof.Machine

/-! ### Saving (R337 to R339) -/

/-- Where the image of a bank of a core is (R339). -/
def saveAddr (s : State) (part core bank : Nat) : Nat := saveBase s (s.part part) + 0x400000 * (core - 8 * part) + 0x200000 * bank

/-- The signals that a TRAP sends when it is answered (R285). -/
def trapSig (t : Task) : BitVec 4 := match t.c.flights.find? (fun f => t.trapId == some f.id) with | some f => f.sig | none => 0

/-- What T and M have sent of a single issue that their window did not let them complete (R99). -/
def partSent (t : Task) : List PartSent :=
  [SeqId.t, .m].filterMap (fun q => (t.seq q).prog.bind (fun p => if p.outs.isEmpty then none else some { q := q, sent := p.sent, outs := p.outs }))

/-- What is kept of a task beside its image. -/
def savedOf (t : Task) (core bank : Nat) (slot : Option Nat) : Saved :=
  { launch := t.launch, rank := t.rank, core := core, bank := bank, prio := t.prio, slot := slot, answered := false,
    extents := t.extents, sig := trapSig t, firstIssue := t.firstIssue, failw := [],
    regions := [t.c, t.t, t.v, t.m].map (·.lastRegion), atRegion := t.atRegion, owed := t.owed, pieces := partSent t, wait := t.c.wait }

/-- A task that has been cut is saved; its bank is cleared and freed (R337). Its flits on the torus go on as those of a saved task. -/
def saveTask (s : State) (core bank : Nat) (slot : Option Nat) : Host.Outcome State Fault Refusal :=
  match s.task? core bank with
  | none => .next s
  | some t =>
    let a := saveAddr s t.part core bank
    if s.populated a imageEnd then
      let s := (writeImage s a t).moveFlits core bank (2 + bank)
      let p := s.part t.part
      .next (turnOver ((s.setPart t.part { p with saved := p.saved ++ [savedOf t core bank slot] }).setTask core bank none) core)
    else .fault (.absentMemory a)

/-- PREEMPTED of a launch record (R316). -/
def markPreempted (s : State) (part id : Nat) : State :=
  s.setPart part ((s.part part).mapLaunch id (fun l => { l with preempted := true }))

def preBound (s : State) (part : Nat) : Nat := ((s.part part).csrVal 0x105).toNat

/-- A launch of higher priority has waited for PREBOUND, and for it since `since` too (R323, R337). -/
def boundOver (s : State) (core bank : Nat) (t : Task) (since : Nat) : Bool :=
  !t.timed && (match higherReady s core bank t with | some g => max g since + preBound s t.part ≤ s.gt | none => false)

/-- A task may be cut for a save: no sequencer of it is within what it completes first, and its flits can depart (R332, R333; log 17). -/
def mayCut (s : State) (core bank : Nat) (t : Task) : Bool :=
  !t.cutting && !([SeqId.c, .t, .m].any (midway t)) && !flitsStay s core bank

/-- Urgent pre-emption (R323): a cut without a record, and the save. A task that the cut ends is over. -/
def execPreboundExpiry (core bank : Nat) (s : State) : Host.Outcome State Fault Refusal :=
  match s.task? core bank with
  | none => .next s
  | some t =>
    event s (t.hold == .none && boundOver s core bank t 0 && mayCut s core bank t)
      (let s := (cutTask s core bank).1
       match s.task? core bank with
       | none => .next s
       | some k => if allEnded k then .next (endTask s core bank 0 false) else saveTask (markPreempted s t.part t.launch) core bank none)

/-- A replayable record that stays unanswered (R337). -/
def execUnansweredRecordExpiry (core bank : Nat) (s : State) : Host.Outcome State Fault Refusal :=
  match s.task? core bank with
  | none => .next s
  | some t =>
    match t.hold with
    | .record j =>
      match (s.part t.part).tq.find? (fun x => x.slot == j) with
      | none => .next s
      | some x => event s (x.cls == 0 && boundOver s core bank t x.gt && !flitsStay s core bank) (saveTask (markPreempted s t.part t.launch) core bank (some j))
    | _ => .next s

/-! ### Records that waited (R328) -/

/-- A record of a task that is cut by command is written: FADDR of PREEMPT is the GT of the cut (R326), and the save follows (R337). -/
def recordPreempt (s : State) (core bank flags slot : Nat) : Host.Outcome State Fault Refusal :=
  match recordTrap s core bank 15 .preempt s.gt flags 0 slot with
  | .next s => saveTask s core bank (some slot)
  | r => r

/-- A trap that was held is recorded once nothing holds it any more (R332, R333, R335). A record that waited for a slot is written, with LATE; the task is
cut now. The lower core number comes first (R328); from 512 on, the COLLs of armed barriers of partition `core` - 512, after every task (R257). -/
def execLateTrapRecord (core bank : Nat) (s : State) : Host.Outcome State Fault Refusal :=
  if 512 ≤ core then latePend (core - 512) s
  else
    match s.task? core bank with
    | none => .next s
    | some t =>
      match t.late, freeSlot (s.part t.part) with
      | some r, slot =>
        if t.cutting then
          event s (t.hold == .none && !trapHeld s core bank t r.seq r.cause)
            (trapNow s core bank r.seq r.cause r.faddr.toNat r.flags.toNat r.fpc.toNat)
        else
          match slot with
          | some j =>
            event s (t.hold == .none && !lateBelow s t.part core && (r.cause != .preempt || mayCut s core bank t))
              (if r.cause = .preempt then recordPreempt s core bank flagLate j
               else recordTrap s core bank r.seq r.cause r.faddr.toNat (r.flags.toNat + flagLate) r.fpc.toNat j)
          | none => .next s
      | none, _ => .next s

/-! ### Answers (R330) -/

/-- The slot is freed, its bytes set to 0 (R328). -/
def freeTqSlot (s : State) (part slot : Nat) : State :=
  let p := s.part part
  let a := tqBase s p + 128 * slot
  partStore (s.setPart part { p with tq := p.tq.filter (fun x => x.slot != slot) }) a (List.replicate 128 0)

/-- A saved task ends (R330). -/
def endSaved (s : State) (part : Nat) (x : Saved) (status : Nat) (host : Bool) : State :=
  let p := s.part part
  (launchRankOver (s.setPart part { p with saved := p.saved.filter (· != x) }) part x.launch x.rank x.firstIssue status host).moveFlits x.core (2 + x.bank) 4

/-- The answer is acted on: RESUME of a replayable or software record, else the end of the task. -/
def actOn (s : State) (part : Nat) (x : TqSlot) (resume : Bool) : State :=
  let status := if x.cls = 1 then 7 else 8
  let p := s.part part
  match p.saved.find? (fun v => v.slot == some x.slot) with
  | some v =>
    if resume && x.cls != 1 then
      s.setPart part { p with saved := p.saved.map (fun u => if u = v then { u with answered := true, slot := none } else u) }
    else endSaved s part v status (x.cls != 1)
  | none =>
    match s.task? x.core x.bank with
    | none => s
    | some t =>
      if x.noTask || t.hold != .record x.slot || t.part != part then s
      else if resume && x.cls != 1 then
        if p.stopped then s.setHold x.core x.bank .stopped else resumeTask s x.core x.bank
      else endTask s x.core x.bank status (x.cls != 1)

/-- The doorbell (R329, R330): the ANSWER byte of an occupied slot is read and acted on. -/
def doorbell (s : State) (part slot : Nat) : State :=
  let p := s.part part
  match p.tq.find? (fun x => x.slot == slot) with
  | none => s
  | some x =>
    let a := partNat s (tqBase s p + 128 * slot + 5) 1
    if a = 1 || a = 2 then freeTqSlot (actOn s part x (a == 1)) part slot else s

/-- The agent writes ANSWER, then the doorbell. -/
def answer (s : State) (part slot : Nat) (a : Byte) : State :=
  doorbell (partStore s (tqBase s (s.part part) + 128 * slot + 5) [a]) part slot

def execAnswerResume (part slot : Nat) (s : State) : Host.Outcome State Fault Refusal :=
  event s ((s.part part).present && slot < 256) (.next (answer s part slot 1))

def execAnswerEnd (part slot : Nat) (s : State) : Host.Outcome State Fault Refusal :=
  event s ((s.part part).present && slot < 256) (.next (answer s part slot 2))

/-! ### Restoring (R284, R338, R342) -/

/-- A fatal record of a task that is in no bank (R342, R344); its fields come from the image. -/
def imageRecord (s : State) (part core bank a seq : Nat) (c : Cause) (faddr : Nat) : TrapRec :=
  let n (o k : Nat) : Nat := partNat s (a + o) k
  let words (o : Nat) : List Word := upTo 4 (fun i => BitVec.ofNat 64 (n (o + 8 * i) 8))
  { cause := c, seq := seq, flags := 0, noCore := false, core := core, bank := bank, dcc := BitVec.ofNat 64 (s.dcc part),
    faddr := BitVec.ofNat 64 faddr, fpc := 0, cutpc := words 0xF00, seqno := words 0xF20, titer := upTo 4 (fun i => n (0xF40 + 2 * i) 2),
    miter := upTo 4 (fun i => n (0xF48 + 2 * i) 2), tokens := upTo 12 (fun i => n (0xF60 + i) 1), fqDepth := n 0xF75 1 }

/-- The record of a task that its restore ended takes a slot by the rules of fatal records (R328). -/
def refuseRestore (s : State) (part : Nat) (x : Saved) (r : TrapRec) : Host.Outcome State Fault Refusal :=
  let put (slot : Nat) (r : TrapRec) : Host.Outcome State Fault Refusal :=
    match writeRecord s part slot r with
    | .error f => .fault f
    | .ok s =>
      let p := s.part part
      let s := s.setPart part { p with tq := p.tq.map (fun e => if e.slot = slot then { e with noTask := true } else e) }
      .next (endSaved s part x 7 false)
  match freeSlot (s.part part) with
  | some j => put j r
  | none =>
    if fatSlotUsed (s.part part) then
      let s := stopPartition (endSaved s part x 7 false) part
      .next ((s.setPart part { (s.part part) with fatal2 := true }).say (.mgmtInterrupt 1))
    else put 255 { r with flags := r.flags ||| BitVec.ofNat 8 flagFatSlot }

/-- A saved task comes back into a free bank of its core (R338, R342), with the failures that its flits met meanwhile (R229). -/
def restoreSaved (s : State) (part bank : Nat) (l : Launch) (x : Saved) : Host.Outcome State Fault Refusal :=
  let a := saveAddr s part x.core x.bank
  match ((s.poison ++ s.errs.filter (fun e => errKind e.2 == 2)).map (·.1)).find? (touchesLine a imageEnd) with
  | some n => refuseRestore (if Sparse.get 0 s.poison n != 0 then s else poisonLine s n) part x (imageRecord s part x.core x.bank a 15 .eccUncorrectable (n * 64))
  | none =>
    match imageBad s a with
    | some o => refuseRestore s part x (imageRecord s part x.core x.bank a 3 .illegalField o)
    | none =>
      let t := restoreKept s x <| readImage s a { launchTask s part l x.rank with extents := x.extents, firstIssue := x.firstIssue }
      let t := (ids x.sig).foldl (fun t b => { t with tok := bump t.tok (tokKey 0 b) 1 }) t
      let t := x.failw.foldl (fun t e => { t with failw := Sparse.set 0 e.1 (Sparse.get 0 t.failw e.1 ||| e.2) t.failw }) t
      let s := correctAt s (.hbm a) imageEnd
      let p := s.part part
      let s := ((s.setPart part { p with saved := p.saved.filter (· != x) }).setTask x.core bank (some t)).moveFlits x.core (2 + x.bank) bank
      .next (switchBank (endIfOver s x.core bank) x.core)

/-- A task that gave up its core resumes after its YIELD (R284). -/
def restoreYielded (s : State) (part core bank : Nat) (l : Launch) (y : Yielded) : State :=
  let t := launchTask s part l y.rank
  let put (t : Task) (x : SeqId × BitVec 48 × Stream × Word × BitVec 48) : Task :=
    t.setSeq x.1 { t.seq x.1 with pc := x.2.1, lastRegion := x.2.2.2.2, stream := x.2.2.1, seqno := x.2.2.2.1 }
  let t := (([SeqId.c, .t, .v, .m].zip (y.pcs.zip (y.streams.zip (y.seqno.zip y.regions))))).foldl put { t with tok := y.tok, key := y.key, firstIssue := y.firstIssue }
  let c := (y.vals.zipIdx.foldl (fun c v => c.setReg (y.sa + v.2) v.1) t.c).setReg y.sd 1
  let p := s.part part
  let s := (s.setPart part { p with yielded := p.yielded.filter (· != y) }).setTask core bank (some { t with c := c })
  switchBank s core

/-- The partition of a core. -/
def partOfCore (s : State) (core : Nat) : Option (Nat × Partition) := s.parts.find? (fun e => e.2.present && (coresOf e.1 e.2).contains core)

/-- What waits to come back to a core, as (priority, launch): the highest priority, then the earliest launch. -/
def better (a b : Nat × Nat) : Bool := a.1 > b.1 || (a.1 == b.1 && a.2 ≤ b.2)

/-- A displaced task returns to a free bank (R323). -/
def execTaskRestore (core bank : Nat) (s : State) : Host.Outcome State Fault Refusal :=
  match partOfCore s core with
  | none => .next s
  | some (part, p) =>
    let prioOf (id : Nat) : Nat := match p.launch? id with | some l => dPrio l.desc | none => 0
    let saved := p.saved.filter (fun x => x.core == core && (x.slot.isNone || x.answered))
    let best : Nat × Nat := (saved.map (fun x => (x.prio, x.launch)) ++ p.yielded.map (fun y => (prioOf y.launch, y.launch))).foldl
      (fun b x => if b.2 = 0 || better x b then x else b) (0, 0)
    let startsFirst : Bool := p.launches.any (fun l =>
      gate p l && !l.coresStarted.contains core && better (dPrio l.desc, l.id) best)
    event s (bank < 2 && (s.task? core bank).isNone && !p.stopped && !startsFirst)
      (match p.launch? best.2, saved.find? (fun x => x.launch == best.2), p.yielded.find? (fun y => y.launch == best.2) with
       | some l, some x, _ => restoreSaved s part bank l x
       | some l, none, some y => .next (restoreYielded s part core bank l y)
       | _, _, _ => .next s)

/-! ### The mailbox (R350) -/

/-- The host may command a partition whose faults its driver services (R350, R354). -/
def hostMay (p : Partition) : Bool := p.present && (p.csrVal 0x108).getLsbD 1
def permitted (p : Partition) (host : Bool) : Bool := !host || hostMay p

/-- The mailbox status of a copy reads 0xFF: a command runs. -/
def mailRuns (m : Sparse Word) : Bool := ((Sparse.get 0 m 0).extractLsb' 8 8).toNat == 0xFF

/-- A command with its status. Commands run one at a time (R350). -/
def command (s : State) (host : Bool) (cmd : Nat) (ops : List Nat) (status : Nat) (f : State → Host.Outcome State Fault Refusal) :
    Host.Outcome State Fault Refusal :=
  event s (!mailRuns s.mailbox && !mailRuns s.hostbox) (let s := mailDone s host cmd status ops; if status = 0 then f s else .next s)

/-- The host may command what a core runs; where no partition has the core, it may command nothing there. -/
def permittedAt (s : State) (core : Nat) (host : Bool) : Bool :=
  !host || (match partOfCore s core with | some x => hostMay x.2 | none => false)

/-- No launch of the partition is live (R305). -/
def idle (p : Partition) : Bool := p.launches.all (fun l => l.stage == .final)

/-- The partition is created: its cores are cleared, its DCC starts on a multiple of 1,024 of MCC (R16, R126, R280, R319). -/
def createPartition (s : State) (first size addr : Nat) : State :=
  let p : Partition := { Partition.absent with present := true, size := size, block := addr, mcc0 := (s.mcc + 1023) / 1024 * 1024 }
  (coresOf first p).foldl (fun s n => s.setCore n Core.reset) (s.setPart first p)

/-- The clusters of a partition are whole, its own, and ready (R16, R355). -/
def clustersOk (s : State) (first size : Nat) : Bool :=
  size ≤ 6 && first % 2 ^ size == 0 && first + 2 ^ size ≤ 64
    && (upTo (2 ^ size) (fun i => first + i)).all (fun c => s.ready1.getLsbD c
      && s.parts.all (fun e => !e.2.present || e.1 == first || !(e.1 ≤ c && c < e.1 + 2 ^ e.2.size)))

def regpartStatus (s : State) (first size addr : Nat) (host : Bool) : Nat :=
  let p := s.part first
  if !permitted p host then 4
  else if p.present && !idle p then 2
  else if !clustersOk s first size || (p.present && p.size != size) || !partBlockOk s addr then 1
  else 0

/-- REGPART: the block of a new partition, or a new block of an idle one. -/
def execRegpart (first size addr : Nat) (host : Bool) (s : State) : Host.Outcome State Fault Refusal :=
  command s host 1 [first, size, addr] (regpartStatus s first size addr host) (fun s =>
    .next (if (s.part first).present then s.setPart first { (s.part first) with block := addr } else createPartition s first size addr))

/-- A trap-queue block that the part registers (R327). -/
def tqBlockOk (s : State) (a : Nat) : Bool :=
  a % 64 == 0 && s.populated a 64 && partNat s (a + 8) 40 == 0 && partNat s (a + 56) 8 == 0
    && partNat s a 8 % 0x8000 == 0 && partNat s (a + 48) 8 % 0x200000 == 0

def execRegtq (first addr : Nat) (host : Bool) (s : State) : Host.Outcome State Fault Refusal :=
  let p := s.part first
  let status := if !permitted p host then 4 else if !p.present then 3 else if !idle p then 2 else if tqBlockOk s addr then 0 else 1
  command s host 2 [first, addr] status (fun s => .next (s.setPart first { (s.part first) with tqBlock := addr }))

/-- What a cut of a task by command does (R337): a PREEMPT record and the save; without a free slot, or behind a record that waits for one, the record
waits (R328). -/
def cutByCommand (s : State) (core bank : Nat) (t : Task) : Host.Outcome State Fault Refusal :=
  match (if lateBelow s t.part 512 then none else freeSlot (s.part t.part)) with
  | none => .next (s.setTask core bank (some { t with late := some (trapRecOf s core bank 15 .preempt s.gt 0 0 t) }))
  | some j => recordPreempt s core bank 0 j

/-- This CUT is running. -/
def cutRuns (m : Sparse Word) (core bank : Nat) : Bool :=
  (Sparse.get 0 m 0).toNat == 3 + 256 * 0xFF && (Sparse.get 0 m 1).toNat == core && (Sparse.get 0 m 2).toNat == bank

/-- CUT of a task that runs: it completes, with status 0xFF until then, once the task may be cut, and a trap of its own that waits to be recorded has been
(R328, R332, R350). -/
def execCut (core bank : Nat) (host : Bool) (s : State) : Host.Outcome State Fault Refusal :=
  let done (status : Nat) : State := mailDone s host 3 status [core, bank]
  event s (cutRuns (if host then s.hostbox else s.mailbox) core bank || !(mailRuns s.mailbox || mailRuns s.hostbox))
    (if !permittedAt s core host then .next (done 4)
     else
       match (if bank < 2 then s.task? core bank else none) with
       | none => .next (done 3)
       | some t =>
         if t.hold != .none then .next (done 3)
         else if t.late.isSome || !mayCut s core bank t then .next (done 0xFF)
         else cutByCommand (done 0) core bank t)

/-- READBANK: a stopped bank, in the image layout; also that of a task that has stopped while its core issues from the other bank (R336). -/
def execReadbank (core bank dst : Nat) (host : Bool) (s : State) : Host.Outcome State Fault Refusal :=
  let no (status : Nat) : Host.Outcome State Fault Refusal := command s host 4 [core, bank, dst] status (fun s => .next s)
  if !permittedAt s core host then no 4
  else
    match (if bank < 2 then s.task? core bank else none) with
    | none => no 3
    | some t =>
      if t.hold == .none && s.bankOf core == bank then no 3
      else command s host 4 [core, bank, dst] 0 (fun s => if s.populated dst imageEnd then .next (writeImage s dst t) else .fault (.absentMemory dst))

/-- Every task of a launch ends, and the cores that it has not reached count as over (R318). One that is not yet prepared takes its record
slot now (R316). -/
def endLaunchOf (s : State) (part id : Nat) : State :=
  let p := s.part part
  let cores := coresOf part p
  let s := if (p.launch? id).any (fun l => l.stage == .accepted) then takeRecordSlot s part id else s
  let s := cores.foldl (fun s n => [0, 1].foldl (fun s b =>
    match s.task? n b with
    | some t => if t.launch == id && t.part == part then endTask ((cutTask s n b).1) n b 8 true else s
    | none => s) s) s
  let p := s.part part
  let s := (p.saved.filter (fun x => x.launch == id)).foldl (fun s x => endSaved s part x 8 true) s
  let s := (p.yielded.filter (fun y => y.launch == id)).foldl (fun s y => launchRankOver s part id y.rank y.firstIssue 8 true) s
  let p := s.part part
  let p := freePool { p with yielded := p.yielded.filter (fun x => x.launch != id) } id
  let d := BitVec.ofNat 64 (s.dcc part)
  let p := p.mapLaunch id (fun l =>
    if l.over then { l with status := 8, hostEnded := true } else { l.close s part with status := 8, hostEnded := true, dccEnd := d })
  let p := { p with resv := p.resv.filter (fun r => r.launch != id) }
  let p := if p.launches.all Launch.over then { p with stopped := false } else p
  cores.foldl switchBank (takeQueue (s.setPart part p) part)

/-- ENDLAUNCH names a launch by its id; the lowest partition in which that launch is live is meant (log 25). The host may name only one
of a partition that it services. -/
def execEndlaunch (id : Nat) (host : Bool) (s : State) : Host.Outcome State Fault Refusal :=
  let live (p : Partition) : Bool := p.present && (match p.launch? id with | some l => !l.over | none => false)
  match s.parts.find? (fun e => live e.2) with
  | none => command s host 5 [id] (if host && !s.parts.any (fun e => hostMay e.2) then 4 else 3) (fun s => .next s)
  | some (part, p) => command s host 5 [id] (if permitted p host then 0 else 4) (fun s => .next (endLaunchOf s part id))

/-- SUBMIT, from Milnos only: the descriptor enters the partition's launch queue as that of a LAUNCH does, and the command runs until it
has been checked; operand 2 receives the status word (R308, R315, R350). -/
def execSubmit (first desc : Nat) (host : Bool) (s : State) : Host.Outcome State Fault Refusal :=
  let p := s.part first
  let status := if host then 4 else if p.present then 0 else 3
  command s host 6 [first, desc] status (fun s =>
    if !s.populated desc 256 then .next (mailDone s false 6 0 [first, desc, (rejected 1).toNat])
    else if !lqRoom s first then .next (mailDone s false 6 0 [first, desc, (rejected 6).toNat])
    else .next (enterQueue (mailDone s false 6 0xFF [first, desc]) first milnosCore 0 0 true (BitVec.ofNat 2048 (partNat s desc 256))))

/-! ### The launch queue (R348) -/

/-- The host's tail write: too far, it is refused with code 6; else the covered entries wait for the command processor. -/
def execLqtailWrite (first : Nat) (tail : BitVec 32) (s : State) : Host.Outcome State Fault Refusal :=
  let head := blk s first 12 4
  let n := (tail.toNat + 2 ^ 32 - head) % 2 ^ 32
  event s (s.part first).present
    (.next (if n > blk s first 8 4 then noteRefusal s first tail.toNat 6 else takeQueue (setBlk s first 16 4 tail.toNat) first))

/-! ### MBDOOR (R350) -/

/-- The command in a copy of the mailbox starts, unless one runs. What is no command does nothing; from the host its status is 4. -/
def mailCommand (host : Bool) (s : State) : Host.Outcome State Fault Refusal :=
  let m := if host then s.hostbox else s.mailbox
  let op (k : Nat) : Nat := (Sparse.get 0 m k).toNat
  if mailRuns s.mailbox || mailRuns s.hostbox then .next s
  else
    match op 0 % 256 with
    | 1 => execRegpart (op 1) (op 2) (op 3) host s
    | 2 => execRegtq (op 1) (op 2) host s
    | 3 => execCut (op 1) (op 2) host s
    | 4 => execReadbank (op 1) (op 2) (op 3) host s
    | 5 => execEndlaunch (op 1) host s
    | 6 => execSubmit (op 1) (op 2) host s
    | c => event s host (.next (mailDone s host c 4 [op 1, op 2, op 3]))

end Sys2Proof.Machine
end

