-- ==== Sys2Proof/Machine/Sorus.lean ====
section
/-! DEFINITION. SPORE and SORW, seals, gap recovery and the start of the log (R243 to R249). -/

namespace Sys2Proof.Machine

/-- The check of owner and EN that SPORE and SORW make (R248, R249). -/
def sorusMine (s : State) : Bool := sorEn s && s.here.part == sorOwner s

def sorusTrap (s : State) (i : Instr) : Res := .trap .privileged (headPc s i).toNat 0 s

/-- The membership of a step, open or about to open (R243). -/
def memOf (s : State) (n : Nat) : BitVec 512 :=
  match s.sorus.step? n with
  | some t => t.mem
  | none => s.sorus.memFor n

/-- A window of the sorus without room for one more flit, or nothing where a record may go at once (R99, R242; log 12). -/
def sorusFull (s : State) : Option Nat :=
  match s.sorus.sends.find? (fun x => !x.waiting.isEmpty) with
  | some x => x.waiting.head?
  | none => (sorusWins s).find? (fun w => !txRoom s w)

/-- The undeparted flits among those given. -/
def undeparted (s : State) (fs : List Nat) : Bool := s.flits.any (fun f => fs.contains f.id && !f.departed)

/-- The image as SPORE sends it (R248). -/
def sporeImage (s : State) (img : Nat) : BitVec 256 :=
  sealRec (img % 2 ^ 96 + s.modNum * 2 ^ 96 + bits img 112 112 * 2 ^ 112)

/-- The image is sent, or its window is waited for. -/
def sendSpore (s : State) (n : Nat) (img sd : Nat) : Res :=
  let off := slotOff n s.modNum
  match sorusFull s with
  | some w => .wait 5 (.spore []) ((s.txWin w).lbase + off) 0 s
  | none =>
    let s1 := agentSend { s with sorus := { s.sorus with spored := s.sorus.spored ++ [n] } } off (sporeImage s img)
    let fs := (upTo (s1.nextFlit - s.nextFlit) (fun i => s.nextFlit + i))
    if undeparted s1 fs then .wait 7 (.spore fs) sd 0 s1 else .ok (s1.setReg sd 0)

def sporeBody (i : Instr) (o : COp) (s : State) : Res :=
  let sd := o.sd.toNat
  match curOp s with
  | .spore (f :: fs) => if undeparted s (f :: fs) then .wait 7 (.spore (f :: fs)) sd 0 s else .ok (s.setReg sd 0)
  | _ =>
    if !sorusMine s then sorusTrap s i
    else
      match readTask s Ranges.ownHbm 32 1 (opAddr s o) with
      | .error e => e.res
      | .ok x =>
        let s := x.1
        let img := leNat x.2
        let n := bits img 64 32
        if bits img 120 8 != 0 then fieldTrap s i
        else if !s.sorus.openable n then .ok (s.setReg sd 1)
        else if !(memOf s n).getLsbD s.modNum then .ok (s.setReg sd 2)
        else if s.sorus.spored.contains n then .ok (s.setReg sd 3)
        else sendSpore s n img sd

def execSpore (y : Syn) (o : COp) (s : State) : Host.Outcome State Fault Refusal := run (.spore y o) y 1 (sporeBody (.spore y o) o) s

/-- N | A << 16 of a complete step (R249). -/
def sorwCounts (s : State) (t : SorStep) : Word :=
  let ms := members t.mem
  let a := (ms.filter (isAbsent s t.step)).length
  BitVec.ofNat 64 (ms.length - a + 65536 * a)

def sorwBody (i : Instr) (o : COp) (s : State) : Res :=
  let n := (opVal s o).toNat % 2 ^ 32
  let sd := o.sd.toNat
  let x := s.sorus
  if !sorusMine s then sorusTrap s i
  else if x.lastPlus1 + 64 ≤ n then .ok (s.setReg sd (BitVec.ofNat 64 (2 ^ 62)))
  else if x.gone n then .ok (s.setReg sd (BitVec.ofNat 64 (2 ^ 63)))
  else
    let s := if (x.step? n).isSome then s else reviewAll (openStep s n)
    match s.sorus.step? n with
    | none => .wait 4 .none n 0 s
    | some t =>
      if t.complete then
        let last := if x.lastPlus1 ≤ n then BitVec.ofNat 32 n else x.last
        .ok ({ s with sorus := { s.sorus with last := last } }.setReg sd (sorwCounts s t))
      else .wait 4 .none n 0 s

def execSorw (y : Syn) (o : COp) (s : State) : Host.Outcome State Fault Refusal := run (.sorw y o) y 1 (sorwBody (.sorw y o) o) s

/-! ### Arrival (R245) -/

/-- A record for the ring: from the flit of a module, or, with no module number, written by Milnos or the host through the
agent. -/
def execSorusRecordArrival (off : Nat) (record : BitVec 256) (sender : Nat) (s : State) : Host.Outcome State Fault Refusal :=
  event s true
    (.next (if sender < 512 then sayAck (ringArrive s off record (some sender)) sender true else ringArrive s off record none))

/-! ### Gap recovery (R246, R247) -/

/-- The members of a step that hold no record here. -/
def missing (s : State) (t : SorStep) : List Nat := (members t.mem).filter (fun m => ringRec s (slotOff t.step m) == 0)

/-- A module is dead for the sorus window that reaches it (R231). -/
def sorusDead (s : State) (m : Nat) : Bool :=
  (sorusWins s).any (fun w => match (s.txWin w).members.idxOf? m with | some i => (s.txWin w).dead.getLsbD i | none => false)

/-- The live members in the order in which they are asked: ascending, after the own number, wrapping. -/
def askOrder (s : State) (t : SorStep) : List Nat :=
  let ms := (members t.mem).filter (fun m => m != s.modNum && !sorusDead s m)
  ms.filter (· > s.modNum) ++ ms.filter (· < s.modNum)

/-- The request of 128 bytes. -/
def gapRequest (s : State) (t : SorStep) : BitVec 1024 :=
  BitVec.ofNat 1024 (t.step + 2 ^ 32 * s.modNum + 2 ^ 512 * ((missing s t).map (fun m => 2 ^ m)).sum)

/-- The sorus recovery of the owner is host-assisted (R243, R354). -/
def hostRecovers (s : State) : Bool := ((s.part (sorOwner s)).csrVal 0x108).getLsbD 2

/-- A request or a reply waits to depart, and then for its acknowledgement (R247). Its number counts with the flits. -/
def gapPost (s : State) (step dst : Nat) (m : GapMsg) : State :=
  let x : GapSend := { id := s.nextFlit, dst := dst, step := step, gone := false, gt := s.gt, late := 0, msg := m }
  { s with nextFlit := s.nextFlit + 1, sorus := { s.sorus with gapSent := s.sorus.gapSent ++ [x] } }

/-- The ports by which a message of gap recovery may leave: those of its route with a slot of the slot set of the sorus windows, where the wheel of
the fabric interface lets the owner inject (R247, R320). -/
def gapPorts (s : State) (x : GapSend) : List Nat :=
  match sorusWins s with
  | w :: _ => if x.gone || !wheelOpen s 32 (sorOwner s) then [] else (exitPorts s (s.txWin w).slotset x.dst).filter (portReady s)
  | [] => []

/-- It departs. -/
def turnGap (id port : Nat) (s : State) : Host.Outcome State Fault Refusal :=
  match s.sorus.gapSent.find? (fun x => x.id == id) with
  | none => .next s
  | some x =>
    event s ((gapPorts s x).contains port)
      (let s := (serveWheel s 32 (sorOwner s)).say (match x.msg with | .ask q => .gapAsk port x.dst q | .answer r => .gapAnswer port x.dst r)
       .next { s with sorus := { s.sorus with gapSent := s.sorus.gapSent.map (fun y => if y.id = id then { y with gone := true, gt := s.gt } else y) } })

/-- The next live member is asked, or, in host-assisted mode, Milnos or the host, which stands for all of them; also where the step lacks its seal
alone, since recovery goes on while it is not complete (R246). -/
def askNext (s : State) (t : SorStep) : State :=
  let todo := (askOrder s t).filter (fun m => !t.asked.contains m)
  let put (s : State) (asked : List Nat) : State :=
    { s with sorus := s.sorus.mapStep t.step (fun t => { t with asked := asked, recovering := true, recoverGt := s.gt }) }
  if hostRecovers s then (if t.recovering then put s t.asked else (put s (askOrder s t)).say (.hostRelay (gapRequest s t)))
  else
    match todo with
    | m :: _ => gapPost (put s (t.asked ++ [m])) t.step m (.ask (gapRequest s t))
    | [] => put s t.asked

/-- Gap recovery begins DL after the step opened, and goes on every DL (R246). -/
def execSorusStepDeadline (step : Nat) (s : State) : Host.Outcome State Fault Refusal :=
  match s.sorus.step? step with
  | none => .next s
  | some t =>
    let since := if t.recovering then t.recoverGt else t.openGt
    event s (sorEn s && !t.complete && since + s.sorus.dl.toNat ≤ s.gt) (.next (askNext s t))

/-- The origin may be declared ABSENT (R246 step 3). -/
def mayDeclare (s : State) (t : SorStep) (m : Nat) : Bool :=
  sorusDead s m || (t.recovering && t.recoverGt + s.sorus.dl.toNat ≤ s.gt && (askOrder s t).all (fun k => t.asked.contains k))

/-- The sealer seals its step (R246): the ABSENT spores, then the seal (R245). -/
def sealStep (s : State) (t : SorStep) : State :=
  let ms := missing s t
  let s := { s with sorus := s.sorus.mapStep t.step (fun t => { t with sealSent := true }) }
  let s := ms.foldl (fun s m => agentSend s (slotOff t.step m) (absentRec t.step m s.modNum)) s
  agentSend s (sealOff t.step) (sealOf t.step s.modNum ms.length)

def execSorusSeal (step : Nat) (s : State) : Host.Outcome State Fault Refusal :=
  match s.sorus.step? step with
  | none => .next s
  | some t =>
    let ms := missing s t
    event s (sorEn s && findSealer s t == some s.modNum && !t.sealSent
        && (ms.isEmpty || (t.openGt + s.sorus.dl.toNat ≤ s.gt && ms.all (mayDeclare s t))))
      (.next (sealStep s t))

/-- The replies to a request (R247). -/
def gapReply (s : State) (step origin flags : Nat) (r : BitVec 256) : BitVec 512 :=
  BitVec.ofNat 512 (r.toNat + 2 ^ 256 * step + 2 ^ 288 * origin + 2 ^ 304 * s.modNum + 2 ^ 320 * flags)

def serveGap (s : State) (req : BitVec 1024) : State :=
  let n := bits req.toNat 0 32
  let dst := bits req.toNat 32 16
  let answer (s : State) (r : BitVec 512) : State := gapPost s n dst (.answer r)
  if s.sorus.gone n then answer s (gapReply s n 0 3 0)
  else
    let have1 := (members (req.extractLsb' 512 512)).filter (fun o => (s.sorus.step? n).isSome && ringRec s (slotOff n o) != 0)
    if have1.isEmpty then answer s (gapReply s n 0 2 0)
    else have1.zipIdx.foldl (fun s x =>
      answer s (gapReply s n x.1 (if x.2 + 1 = have1.length then 2 else 0) (ringRec s (slotOff n x.1)))) s

/-- The request window, where it is mapped. -/
def reqWin (s : State) : Option RxWin :=
  let r := s.rxWin (bits s.sorus.cfg.toNat 20 10)
  if r.state = 1 && r.size = 65536 && r.part == sorOwner s then some r else none

/-- A request lands in its requester's place as one write, is acknowledged, and is served; one that finds REQWIN not mapped is refused (R222, R247). -/
def execGapRequestArrival (req : BitVec 1024) (s : State) : Host.Outcome State Fault Refusal :=
  let m := bits req.toNat 32 16
  match reqWin s with
  | none => event s (m < 512) (.next (sayAck s m false))
  | some r => event s (sorEn s && m < 512) (.next (serveGap (sayAck (performAt s (rxPlace r (128 * m) 0) (leBytes 128 req.toNat)) m true) req))

/-- What a reply does: its record passes R245; a member that no longer retains the step is passed over. -/
def takeGapReply (s : State) (rep : BitVec 512) : State :=
  let n := bits rep.toNat 256 32
  let o := bits rep.toNat 288 16
  let r : BitVec 256 := rep.extractLsb' 0 256
  if rep.getLsbD 320 then
    match s.sorus.step? n with
    | none => s
    | some t =>
      let s := { s with sorus := s.sorus.mapStep n (fun t => { t with notRet := true }) }
      if t.complete || !t.recovering then s else askNext s { t with notRet := true }
  else if r = 0 || 512 ≤ o then s
  else ringArrive s (slotOff n o) r none

/-- A reply arrives, and is acknowledged to its responder. -/
def execGapReplyArrival (rep : BitVec 512) (s : State) : Host.Outcome State Fault Refusal :=
  event s true (.next (sayAck (takeGapReply s rep) (bits rep.toNat 304 16 % 512) true))

/-- The number of DL boundaries of a step that a moment has passed: they follow its opening at every DL (R246). -/
def gapBoundary (s : State) (step gt : Nat) : Nat :=
  match s.sorus.step? step with
  | some t => (gt - t.openGt) / max 1 s.sorus.dl.toNat
  | none => gt / max 1 s.sorus.dl.toNat

/-- What timed out is sent again at a DL boundary (R247). -/
def execGapRetransmit (step : Nat) (s : State) : Host.Outcome State Fault Refusal :=
  let due (x : GapSend) : Bool := x.step == step && x.late != 0 && gapBoundary s step (x.late - 1) < gapBoundary s step s.gt
  let again := s.sorus.gapSent.filter due
  event s (sorEn s && !again.isEmpty)
    (.next (again.foldl (fun s x => gapPost s x.step x.dst x.msg)
      { s with sorus := { s.sorus with gapSent := s.sorus.gapSent.filter (fun x => !due x) } }))

/-- SORW's bound: GAP after the recovery began (R249). -/
def gapOver (s : State) (t : SorStep) : Bool := t.openGt + s.sorus.dl.toNat + s.sorus.gap.toNat ≤ s.gt

/-- The SORW that waits on C of a core faults SORUS_GAP. -/
def execSorusGapBound (core : Nat) (s : State) : Host.Outcome State Fault Refusal :=
  match onTurn s core .c with
  | none => .next s
  | some t =>
    match t.me.wait with
    | none => .next s
    | some w =>
      match t.sorus.step? w.addr with
      | none => .next s
      | some x =>
        event s (w.kind == 4 && !x.complete && gapOver s x)
          (trapUndone t t.me.pc .sorusGap w.addr (if x.notRet then flagNotRet else 0))

/-- Writing SORFIRST clears the ring and sets LAST (R244). -/
def sorfirst (s : State) (v : BitVec 32) : State :=
  let s := { s with sorus := { s.sorus with first := v, last := v - 1, steps := [], spored := [] } }
  match ringBase s with
  | none => s
  | some b => clearHbm s b 0x4020000

def execSorfirstWrite (v : BitVec 64) (s : State) : Host.Outcome State Fault Refusal :=
  event s true (.next (sorfirst s (v.setWidth 32)))

end Sys2Proof.Machine
end

