-- ==== Sys2Proof/Machine/Csr.lean ====
section
/-! DEFINITION. The CSRs (R287 to R290, R193, R243, R329, R354 to R356): what each reads as, and what a write does. -/

namespace Sys2Proof.Machine

/-! ### Module registers -/

/-- READY (R355). -/
def readyView (s : State) : Word :=
  let groups := (upTo 16 id).foldl (fun a d => if s.ready1.extractLsb' (4 * d) 4 == 15 then a + 2 ^ (34 + d) else a) 0
  (s.ready &&& 0x3FFFFFFFB#64) ||| (if s.timelock then 4#64 else 0) ||| BitVec.ofNat 64 groups

/-- GTADJ reads SLEWING (R356). -/
def gtadjView (s : State) : Word := if s.slew = 0 then 0 else 0x100000000#64

/-- GTADJ is written: LOCK and ADJ, in host-assisted time mode only (R356). -/
def gtadjWrite (s : State) (v : Word) : State :=
  if s.timedisc then
    let lock := (v.extractLsb' 62 2).toNat
    { s with timelock := if lock = 3 then true else if lock = 2 then false else s.timelock,
             lockedOnce := s.lockedOnce || lock == 3, slew := s.slew + (v.extractLsb' 0 32).toInt }
  else s

/-- MODESEL: the stored fields, the strap and the module's time mode (R354). -/
def modeselView (s : State) (p : Partition) : Word :=
  (p.csrVal 0x108 &&& 0x76#64) ||| (if s.bootsrc then 1#64 else 0) ||| (if s.timedisc then 8#64 else 0)

/-- SORCFG with HOSTMODE (R243). -/
def sorcfgView (s : State) : Word := (s.sorus.cfg &&& 0x1FFBFFFFFFF#64) ||| (if hostRecovers s then 0x40000000#64 else 0)

def sorstatView (s : State) : Word := s.sorus.bad ++ s.sorus.last

/-- A slice of 64 bits of a 512-bit mask, read and written. -/
def slice (m : BitVec 512) (k : Nat) : Word := m.extractLsb' (64 * k) 64
def setSlice (m : BitVec 512) (k : Nat) (v : Word) : BitVec 512 :=
  (m &&& ~~~ (BitVec.ofNat 512 ((2 ^ 64 - 1) * 2 ^ (64 * k)))) ||| BitVec.ofNat 512 (v.toNat * 2 ^ (64 * k))

/-! ### PSTAT (R329): WAITREC tells of a sequencer that waits for a slot; no sequencer waits with a PREEMPT record. -/

def pstatView (s : State) (first : Nat) : Word :=
  let p := s.part first
  let waits := (coresOf first p).any (fun n => [0, 1].any (fun b =>
    match s.task? n b with | some t => t.part == first && !t.cutting && t.late.any (fun r => r.seq < 4) | none => false))
  let b (x : Bool) (k : Nat) : Nat := if x then 2 ^ k else 0
  BitVec.ofNat 64 (2 ^ 30 * (p.tq.filter (fun x => x.slot != 255)).length + b p.lost 5 + b (fatSlotUsed p) 4 + b waits 3 + b p.halted 2 + b p.fatal2 1)

/-- The bits that are cleared by a 1. -/
def pstatClear (s : State) (first : Nat) (v : Word) : State :=
  let p := s.part first
  s.setPart first { p with lost := p.lost && !v.getLsbD 5, halted := p.halted && !v.getLsbD 2, fatal2 := p.fatal2 && !v.getLsbD 1 }

/-- The doorbell. -/
def pstatRing (s : State) (first : Nat) (v : Word) : State := if v.getLsbD 47 then doorbell s first (v.extractLsb' 39 8).toNat else s

def pstatWrite (s : State) (first : Nat) (v : Word) : State := pstatRing (pstatClear s first v) first v

/-! ### By scope (R288) -/

/-- A partition CSR. -/
def partCsrRead (s : State) (first n : Nat) : Word :=
  let p := s.part first
  if n = 0x000 then BitVec.ofNat 64 (s.dcc first)
  else if n = 0x108 then modeselView s p
  else if n = 0x150 then pstatView s first
  else p.csrVal n

/-- The writable bits of a partition CSR that is plain storage. -/
def partMask (n : Nat) : Word :=
  if n = 0x100 then 0x000FFFFFFFFFF000#64
  else if 0x101 ≤ n && n ≤ 0x105 then 0xFFFFFFFF#64
  else if n = 0x108 then 0x76#64
  else if 0x118 ≤ n && n ≤ 0x11F then BitVec.allOnes 64
  else 0

def partCsrWrite (s : State) (first n : Nat) (v : Word) : State :=
  if n = 0x150 then pstatWrite s first v
  else if partMask n = 0 then s
  else s.setPart first ((s.part first).setCsr n (v &&& partMask n))

/-- A module CSR. -/
def moduleCsrRead (s : State) (n : Nat) : Word :=
  let x := s.sorus
  if n = 0x001 then BitVec.ofNat 64 s.gt
  else if n = 0x106 then gtadjView s
  else if n = 0x107 then s.domshape
  else if n = 0x109 then readyView s
  else if n = 0x10A then sorcfgView s
  else if n = 0x10B then x.first.setWidth 64
  else if n = 0x10C then x.eff.setWidth 64
  else if n = 0x10D then x.dl.setWidth 64
  else if n = 0x10E then x.gap.setWidth 64
  else if n = 0x10F then sorstatView s
  else if 0x110 ≤ n && n ≤ 0x117 then slice x.mem (n - 0x110)
  else if 0x120 ≤ n && n ≤ 0x12F then BitVec.ofNat 64 (s.capacity (n - 0x120))
  else if 0x130 ≤ n && n ≤ 0x13F then Sparse.get 1 s.eccstat (n - 0x130)
  else 0

def moduleCsrWrite (s : State) (n : Nat) (v : Word) : State :=
  let x := s.sorus
  if n = 0x106 then gtadjWrite s v
  else if n = 0x10A then { s with sorus := { x with cfg := v &&& 0x1FFBFFFFFFF#64 } }
  else if n = 0x10B then sorfirst s (v.setWidth 32)
  else if n = 0x10C then { s with sorus := { x with eff := v.setWidth 32 }.inForce }
  else if n = 0x10D then { s with sorus := { x with dl := v.setWidth 32 } }
  else if n = 0x10E then { s with sorus := { x with gap := v.setWidth 32 } }
  else if 0x110 ≤ n && n ≤ 0x117 then { s with sorus := { x with mem := setSlice x.mem (n - 0x110) v }.inForce }
  else if 0x130 ≤ n && n ≤ 0x13F then
    { s with eccstat := Sparse.set 1 (n - 0x130) (Sparse.get 1 s.eccstat (n - 0x130) &&& ~~~ (v &&& 0xE#64)) s.eccstat }
  else s

/-- WHEEL, the CSRs of a core. -/
def coreCsrRead (s : State) (core n : Nat) : Word := Sparse.get 0 (s.core core).wheel (n - 0x140)
def coreCsrWrite (s : State) (core n : Nat) (v : Word) : State :=
  if 0x140 ≤ n && n ≤ 0x14F then
    let c := s.core core
    s.setCore core { c with wheel := Sparse.set 0 (n - 0x140) v c.wheel }
  else s

/-- TASKID (R289). -/
def taskId (s : State) (t : Task) (core : Nat) : Word :=
  BitVec.ofNat 64 (s.modNum * 2 ^ 48 + (s.part t.part).size * 2 ^ 40 + t.part * 2 ^ 32 + t.rank * 2 ^ 16 + core)

/-- A CSR of the task. -/
def taskCsrRead (s : State) (t : Task) (core n : Nat) : Word :=
  if n = 0x002 then t.key
  else if n = 0x003 then t.cbase
  else if n = 0x004 then t.sbase
  else if n = 0x005 then t.rfstat
  else if n = 0x006 then taskId s t core
  else if n = 0x007 then BitVec.ofNat 64 (t.launch % 2 ^ 48)
  else if n = 0x008 then t.tend ++ t.tfirst
  else if n = 0x009 then t.paramb
  else if n < 0x020 then Sparse.get 0 t.opbase (n - 0x010)
  else Sparse.get 0 t.failw (n - 0x020)

/-- The scope of a number. -/
inductive CsrScope where
  | task | part | module | core
deriving DecidableEq, Repr

def csrScope (n : Nat) : CsrScope :=
  if n = 0x000 || (0x100 ≤ n && n ≤ 0x105) || n = 0x108 || (0x118 ≤ n && n ≤ 0x11F) || n = 0x150 then .part
  else if n = 0x001 || n = 0x106 || n = 0x107 || (0x109 ≤ n && n ≤ 0x117) || (0x120 ≤ n && n ≤ 0x13F) then .module
  else if 0x140 ≤ n && n ≤ 0x14F then .core
  else .task

/-- A CSR as the executing task reads it. -/
def csrRead (s : State) (n : Nat) : Word :=
  match csrScope n with
  | .part => partCsrRead s s.here.part n
  | .module => moduleCsrRead s n
  | .core => coreCsrRead s (myCore s) n
  | .task => taskCsrRead s s.here (myCore s) n

/-- A write by the executing task; of the task's own CSRs only RFSTAT takes one, which clears bits. -/
def csrWrite (s : State) (n : Nat) (v : Word) : State :=
  match csrScope n with
  | .part => partCsrWrite s s.here.part n v
  | .module => moduleCsrWrite s n v
  | .core => coreCsrWrite s (myCore s) n v
  | .task => if n = 0x005 then s.setHere { s.here with rfstat := s.here.rfstat &&& ~~~ v } else s

def csrNum (o : COp) : Nat := (cbImm o.b).toNat % 4096

def execCsrr (y : Syn) (o : COp) (s : State) : Host.Outcome State Fault Refusal :=
  run (.csrr y o) y 1 (fun s => .ok (s.setReg o.sd.toNat (csrRead s (csrNum o)))) s

/-- CSRW: the register takes the old value. A doorbell of PSTAT rings when the instruction is complete: an answer may give the core to the task
that it resumes (R336). -/
def execCsrw (y : Syn) (o : COp) (s : State) : Host.Outcome State Fault Refusal :=
  run (.csrw y o) y 1 (fun s =>
    let n := csrNum o
    let v := srcA s o
    let old := csrRead s n
    let part := s.here.part
    if n = 0x150 then .after ((pstatClear s part v).setReg o.sd.toNat old) (fun s => pstatRing s part v)
    else .ok ((csrWrite s n v).setReg o.sd.toNat old)) s

/-- SETKEY (R193); the launch's record learns of it. -/
def execSetkey (y : Syn) (o : COp) (s : State) : Host.Outcome State Fault Refusal :=
  run (.setkey y o) y 1 (fun s =>
    let t := s.here
    let v := srcA s o
    let s := s.setPart t.part ((s.part t.part).mapLaunch t.launch (fun l => { l with keychg := true }))
    .ok ((s.setHere { t with key := v }).setReg o.sd.toNat t.key)) s

end Sys2Proof.Machine
end

