-- ==== Sys2Proof/Machine/Engine.lean ====
section
/-! DEFINITION. Feeding the engines: START, PARAM, FMTQ, SIG, WAIT (R271 to R274). -/

namespace Sys2Proof.Machine

/-- START on one engine (R271). In timetable mode an engine held at its entry still waits for its ALIGN (R282); one that END has ended issues
from the parcel after it (log 20). -/
def startSeq (t : Task) (q : SeqId) : Task :=
  let u := t.seq q
  match u.stream with
  | .running => t
  | .held => if t.timed then t else t.setSeq q { u with stream := .running }
  | .ended => t.setSeq q { u with stream := .running }

def execStart (y : Syn) (m v t : Bool) (s : State) : Host.Outcome State Fault Refusal :=
  run (.start y m v t) y 1 (fun s =>
    let k := s.here
    let k := if t then startSeq k .t else k
    let k := if v then startSeq k .v else k
    let k := if m then startSeq k .m else k
    .ok (s.setHere k)) s

/-- The parameter queue to an engine (R100, R272). -/
def Task.pq (t : Task) (e : Nat) : List Word := if e = 1 then t.pqT else if e = 2 then t.pqV else t.pqM
def Task.setPq (t : Task) (e : Nat) (l : List Word) : Task :=
  if e = 1 then { t with pqT := l } else if e = 2 then { t with pqV := l } else { t with pqM := l }

def execParam (y : Syn) (o : COp) (s : State) : Host.Outcome State Fault Refusal :=
  run (.param y o) y 1 (fun s =>
    let e := o.sd.toNat
    if (s.here.pq e).length < Config.queueLen then .ok (s.setHere (s.here.setPq e (s.here.pq e ++ [opVal s o])))
    else .wait 6 .none 0 0 s) s

/-- FMTQ pushes s[SA], or the 64-bit immediate of C3 (R273). -/
def fmtWord (s : State) (o : COp) : Word := match o.b with | .imm64 v => v | _ => srcA s o

def execFmtq (y : Syn) (o : COp) (s : State) : Host.Outcome State Fault Refusal :=
  run (.fmtq y o) y 1 (fun s =>
    if s.here.fq.length < Config.queueLen then .ok (s.setHere { s.here with fq := s.here.fq ++ [fmtWord s o] })
    else .wait 6 .none 0 0 s) s

/-- SIG completes once every earlier access of C has been performed and the queue has room (R274). -/
def execSig (y : Syn) (e : BitVec 2) (n : BitVec 8) (s : State) : Host.Outcome State Fault Refusal :=
  run (.sig y e n) y 1 (fun s =>
    let k := tokKey 0 e.toNat
    if cPerformed s && roomFor s.here .c e.toNat n.toNat then .ok (s.setHere { s.here with tok := bump s.here.tok k n.toNat })
    else .wait 1 .none 0 0 s) s

/-- WAIT takes n tokens in one tick (R274). -/
def execWait (y : Syn) (e : BitVec 2) (n : BitVec 8) (s : State) : Host.Outcome State Fault Refusal :=
  run (.wait y e n) y 1 (fun s =>
    let k := tokKey e.toNat 0
    if Sparse.get 0 s.here.tok k ≥ n.toNat then .ok (s.setHere { s.here with tok := drop1 s.here.tok k n.toNat })
    else .wait 1 .none 0 0 s) s

end Sys2Proof.Machine
end

