-- ==== Sys2Proof/Machine/External.lean ====
section
/-! DEFINITION. What reaches the module from outside its cores: time, refresh and scrubbing, the host, register writes, boot
and identity, supplies and heat (R86, R94, R236 to R238, R346 to R359). -/

namespace Sys2Proof.Machine

/-! ### Global time (R236 to R238, R356) -/

/-- The servo corrects GT by a slew; in host-assisted mode it is off. -/
def execTimingMessage (corr : Int) (s : State) : Host.Outcome State Fault Refusal :=
  event s (!s.timedisc) (.next { s with slew := s.slew + corr })

/-- TIMELOCK becomes ready; the first time GT may jump forward. -/
def lockTime (s : State) (jump : Nat) : State :=
  { s with timelock := true, lockedOnce := true, gt := if s.lockedOnce then s.gt else (s.gt + jump) % 2 ^ 64 }

def execTimelockReady (jump : Nat) (s : State) : Host.Outcome State Fault Refusal := event s (!s.timedisc) (.next (lockTime s jump))

/-- GT runs on free. -/
def execTimelockLost (s : State) : Host.Outcome State Fault Refusal :=
  event s (!s.timedisc) (.next { s with timelock := false, slew := 0 })

def execGtadjSetLock (s : State) : Host.Outcome State Fault Refusal := event s true (.next (gtadjWrite s 0xC000000000000000#64))
def execGtadjClearLock (s : State) : Host.Outcome State Fault Refusal := event s true (.next (gtadjWrite s 0x8000000000000000#64))
def execGtadjCorrection (adj : BitVec 32) (s : State) : Host.Outcome State Fault Refusal :=
  event s true (.next (gtadjWrite s (adj.setWidth 64)))

/-! ### Refresh and scrubbing (R86, R93 to R95) -/

/-- Refresh uses positions that belong to no partition: nothing a program can see changes. -/
def execHbmRefresh (_stack : Nat) (s : State) : Host.Outcome State Fault Refusal := .next s

/-- The patrol scrubber finds what the line holds (R94): the write-back of a correctable line changes no byte, and is dropped where a store
has come between; an uncorrectable line is poisoned, and Milnos interrupted. -/
def execPatrolScrub (line : Nat) (find : ScrubFind) (s : State) : Host.Outcome State Fault Refusal :=
  let found := Sparse.get 0 s.errs line
  match find with
  | .clean => .next s
  | .correctable raced =>
    event s (s.populated (64 * line) 64 && errKind found == 1) (.next (if raced then noteEcc s line false 1 else correctLine s line))
  | .uncorrectable =>
    event s (s.populated (64 * line) 64 && (errKind found == 2 || Sparse.get 0 s.poison line != 0))
      (.next ((if errKind found == 2 then poisonLine s line else noteEcc s line true 2).say (.mgmtInterrupt 2)))

/-! ### Errors that come to be (R93, R234, R344), and cluster ports (R125) -/

/-- Symbols of a line of HBM come to be in error: two, or one and another later, are uncorrectable. -/
def turnLineUpset (line symbols : Nat) (s : State) : Host.Outcome State Fault Refusal :=
  event s (s.populated (64 * line) 64 && symbols != 0 && Sparse.get 0 s.poison line == 0)
    (.next { s with errs := Sparse.set 0 line (min 2 (errKind (Sparse.get 0 s.errs line) + symbols)) s.errs })

/-- A storage of the task in a bank has two bits of a word in error. -/
def upsetTask (s : State) (core bank : Nat) (w : BadWord) : State :=
  match s.task? core bank with
  | none => s
  | some t => if t.bad.contains w then s else s.setTask core bank (some { t with bad := t.bad ++ [w] })

/-- How many entries a queue of the task in a bank holds: the parameter queue of engine `e`, or, for 4, the format queue. -/
def queueDepth (s : State) (core bank e : Nat) : Nat :=
  match s.task? core bank with
  | none => 0
  | some t => (if e = 1 then t.pqT else if e = 2 then t.pqV else if e = 3 then t.pqM else t.fq).length

/-- An accumulator element comes to differ in some of its bits: its bank's checksums stay as they were, and a check finds it (R135). -/
def upsetAcc (s : State) (core bank a b k : Nat) (flip : BitVec 96) : State :=
  match s.task? core bank with
  | none => s
  | some t =>
    let x := t.accBank a b
    let e := Sparse.get ⟨0, 0⟩ x.elems k
    s.setTask core bank (some (t.setAccBank a b { x with elems := Sparse.set ⟨0, 0⟩ k { e with v := e.v ^^^ flip } x.elems }))

/-- Two bits of a word of a core come to be in error. -/
def turnWordUpset (w : UpsetAt) (s : State) : Host.Outcome State Fault Refusal :=
  event s true (.next (match w with
    | .spad core k =>
      let c := s.core core
      if core < 512 && 8 * k < Config.spadBytes && !c.spadBad.contains k then s.setCore core { c with spadBad := c.spadBad ++ [k] } else s
    | .v core bank r k => if r < 1024 && k < 32 then upsetTask s core bank (.v r k) else s
    | .k core bank i => if i < 1024 then upsetTask s core bank (.k i) else s
    | .pq core bank e i => if i < queueDepth s core bank e && 1 ≤ e && e ≤ 3 then upsetTask s core bank (.pq e i) else s
    | .fq core bank i => if i < queueDepth s core bank 4 then upsetTask s core bank (.fq i) else s
    | .acc core bank a b k flip => if a < 4 && b < 2 && k < 16384 then upsetAcc s core bank a b k flip else s))

/-- A port counts a flit that its FEC cannot correct; nothing of it arrives (R234). -/
def turnFecDiscard (port : Nat) (s : State) : Host.Outcome State Fault Refusal :=
  event s (port < 12) (.next { s with portDrop := Sparse.set 0 port (Sparse.get 0 s.portDrop port + 1) s.portDrop })

/-- The cluster port of a core is busy, or is so no more. No rule says what the crossbar gives to whom (R125; log 3). -/
def turnPort (core : Nat) (busy : Bool) (s : State) : Host.Outcome State Fault Refusal :=
  event s (core < 512) (.next { s with ports := s.ports.filter (· != core) ++ (if busy then [core] else []) })

/-! ### BAR2 (R346) -/

/-- A page of physical HBM, of the 4 KiB at `pa`, is mapped with PROT below a table. -/
def protBelow (s : State) : Nat → Nat → Nat → Bool
  | 0, table, pa =>
    (upTo 512 id).any (fun i =>
      match pte s (table + 8 * i) with
      | some e => e.testBit 0 && e.testBit 1 && e.testBit 6 && bits e 12 40 * 4096 == pa
      | none => false)
  | l + 1, table, pa =>
    (upTo (if l = 2 then 32 else 512) id).any (fun i =>
      match pte s (table + 8 * i) with
      | some e =>
        let base := bits e 12 40 * 4096
        if !e.testBit 0 then false
        else if e.testBit 1 then e.testBit 6 && base ≤ pa && pa < base + (if l = 0 then 0x200000 else 0x40000000)
        else protBelow s l base pa
      | none => false)

/-- A page that some partition maps with PROT. -/
def protPage (s : State) (pa : Nat) : Bool :=
  s.parts.any (fun e => e.2.present && protBelow s 3 (e.2.csrVal 0x100).toNat pa)

/-- A host access is refused: outside a populated stack, a stack that is not ready, or a protected page. -/
def hostRefused (s : State) (off len : Nat) : Bool :=
  !s.populated off len || !s.stackReady (off / 2 ^ 37)
    || (upTo ((off % 4096 + len + 4095) / 4096) (fun i => (off / 4096 + i) * 4096)).any (protPage s)

/-- The host link is up (R355). -/
def hostUp (s : State) : Bool := s.ready.getLsbD 1

/-- A read by the host: the controller corrects and poisons what it finds (R93); the host gets the bytes of a poisoned line as they are (log 83). -/
def execBar2Read (off len : Nat) (s : State) : Host.Outcome State Fault Refusal :=
  event s (hostUp s)
    (.next (if hostRefused s off len then s.say (.hostRead false []) else (findErrors s off len).say (.hostRead true (getBytes s.hbm off len))))

/-- A refused write is dropped and counted in HOSTDROP. -/
def execBar2Write (off : Nat) (bytes : List Byte) (s : State) : Host.Outcome State Fault Refusal :=
  event s (hostUp s)
    (.next (if hostRefused s off bytes.length then { s with hostdrop := s.hostdrop + 1 } else partStore s off bytes))

/-! ### Writes of registers from outside (R7, R90, R92, R320, R347, R350) -/

/-- An extent entry of 32 bytes; one with a nonzero reserved field takes no effect. -/
def extentOf (v : BitVec 256) : Extent :=
  let n := v.toNat
  let clean := bits n 184 72 == 0 && bits n 178 2 == 0 && bits n 175 1 == 0 && bits n 160 12 == 0
  { valid := clean && v.getLsbD 176, vbase := bits n 0 64, pbase := bits n 64 64, npages := bits n 128 32, r := v.getLsbD 172,
    w := v.getLsbD 173, x := v.getLsbD 174, prot := v.getLsbD 177, range := bits n 180 4 }

/-- A stopped task's extent table is changed, in its bank, or, for bank 2 or 3, that of the task saved from bank 0 or 1 (R92). -/
def writeExtent (s : State) (core bank entry : Nat) (e : Extent) : State :=
  if bank < 2 then
    match s.task? core bank with
    | some t => if t.hold == .none then s else s.setTask core bank (some { t with extents := Sparse.set Extent.reset entry e t.extents })
    | none => s
  else
    { s with parts := s.parts.map (fun p => (p.1, { p.2 with saved := p.2.saved.map (fun x =>
        if x.core = core && x.bank + 2 = bank then { x with extents := Sparse.set Extent.reset entry e x.extents } else x) })) }

/-- A wheel position as it is kept: bit 6 is 0, and positions 62 and 63 of a stack port have no owner (R320). -/
def wheelByte (wheel pos : Nat) (b : Byte) : Byte := if wheel < 16 && 62 ≤ pos then b &&& 0x3F else b &&& 0xBF

/-- A measurement register is extended (R351): M := SM3(M ‖ digest). -/
def extendMeas (s : State) (i : Nat) (digest : BitVec 256) : State :=
  { s with meas := Sparse.set 0 i (sm3Word (leBytes 32 (Sparse.get 0 s.meas i).toNat ++ leBytes 32 digest.toNat)) s.meas }

/-- An island runs a timetable launch: one of a partition with a cluster in it that is not over (R17). -/
def islandTimed (s : State) (island : Nat) : Bool :=
  s.parts.any (fun e => e.2.present && e.1 ≤ 2 * island + 1 && 2 * island < e.1 + 2 ^ e.2.size
    && e.2.launches.any (fun l => dTimed l.desc && !l.over))

/-- Bring-up: no partition has been created yet (R15; log 81). -/
def bringUp (s : State) : Bool := !s.parts.any (fun e => e.2.present)

/-- The ring sizes are 1 to 8 (R290). -/
def shapeOk (w : Word) : Bool := [0, 4, 8].all (fun k => 1 ≤ bits w.toNat k 4 && bits w.toNat k 4 ≤ 8) && bits w.toNat 12 52 == 0

/-- A register that Milnos writes, and that starts nothing. -/
def writeReg (s : State) (r : MgmtReg) (v : BitVec 256) : State :=
  let w : Word := v.setWidth 64
  let b : Byte := v.setWidth 8
  match r with
  | .bar0 _ => s
  | .mbdoor => s
  | .moduleNumber => if bringUp s && w.toNat < 512 then { s with modNum := w.toNat } else s
  | .domainShape => if bringUp s && shapeOk w then { s with domshape := w } else s
  | .measure i => if 1 ≤ i && i ≤ 7 then extendMeas s i v else s
  | .islandVoltage i => if 32 ≤ i || islandTimed s i then s else { s with volt := Sparse.set 0 i w.toNat s.volt }
  | .partCsr first num => if csrScope num.toNat = .part && (s.part first).present then partCsrWrite s first num.toNat w else s
  | .moduleCsr num => if csrScope num.toNat = .module then moduleCsrWrite s num.toNat w else s
  | .coreCsr core num => if core < 512 then coreCsrWrite s core num.toNat w else s
  | .hostDrop => { s with hostdrop := s.hostdrop &&& ~~~ w }
  | .mailbox i => if i < 8 then { s with mailbox := Sparse.set 0 i w s.mailbox } else s
  | .slotWheel wheel pos =>
    if wheel < 33 && pos < 64 then { s with wheels := Sparse.set 0 (wheel * 64 + pos) (wheelByte wheel pos b) s.wheels } else s
  | .slotOwner set => if set < 64 then { s with slotOwner := Sparse.set 0 set (b &&& 0xBF) s.slotOwner } else s
  | .slotMask set port quarter =>
    if set < 64 && port < 12 && quarter < 4 then { s with slotMask := Sparse.set 0 ((set * 12 + port) * 4 + quarter) w s.slotMask } else s
  | .extent core bank entry => if core < 512 && bank < 4 && entry < 32 then writeExtent s core bank entry (extentOf v) else s

/-! ### BAR0 (R347) -/

/-- The host writes 8 bytes at an offset of BAR0; what is read-only takes no write. -/
def writeBar0 (off : Nat) (w : Word) (s : State) : Host.Outcome State Fault Refusal :=
  if off = 0x10 then
    .next (if (s.bootstat.extractLsb' 0 4).toNat = 1 then { s with bootstat := (w &&& 0xFFFFFFFFFFFF0000#64) ||| (s.bootstat &&& 0xFFFF#64) } else s)
  else if off = 0x18 then .next { s with hostdrop := s.hostdrop &&& ~~~ w }
  else if 0x100 ≤ off && off < 0x140 && off % 8 == 0 then .next { s with hostbox := Sparse.set 0 ((off - 0x100) / 8) w s.hostbox }
  else if off = 0x140 then mailCommand true s
  else if 0x10000 ≤ off && off < 0x14000 && off % 0x100 == 0 then execLqtailWrite ((off - 0x10000) / 0x100) (w.setWidth 32) s
  else .next s

/-- What the host reads there; a write-only register and an offset without one read 0. -/
def readBar0 (off : Nat) (s : State) : Word :=
  if off = 0 then readyView s
  else if off = 0x8 then s.ready1
  else if off = 0x10 then s.bootstat
  else if off = 0x18 then s.hostdrop
  else if 0x100 ≤ off && off < 0x140 && off % 8 == 0 then Sparse.get 0 s.hostbox ((off - 0x100) / 8)
  else if 0x10000 ≤ off && off < 0x14000 && off % 0x100 == 8 then (s.part ((off - 0x10000) / 0x100)).lqstat
  else 0

def turnBar0Read (off : Nat) (s : State) : Host.Outcome State Fault Refusal :=
  event s (hostUp s) (.next (s.say (.hostRead true (leBytes 8 (readBar0 off s).toNat))))

/-- A write of a register from outside: MBDOOR starts a command, the others hold what they are given. -/
def execRegisterWrite (r : MgmtReg) (v : BitVec 256) (s : State) : Host.Outcome State Fault Refusal :=
  match r with
  | .mbdoor => event s true (mailCommand false s)
  | .bar0 off => event s (hostUp s) (writeBar0 off (v.setWidth 64) s)
  | r => event s true (.next (writeReg s r v))

/-! ### Boot and identity (R351 to R353) -/

/-- The attestation report: nonce, M0 to M7, the fused version, CHAINHD by partition, the module number; signed. -/
def reportBytes (s : State) (nonce : BitVec 256) : List Byte :=
  leBytes 32 nonce.toNat ++ (upTo 8 id).flatMap (fun i => leBytes 32 (Sparse.get 0 s.meas i).toNat) ++ leBytes 8 Config.rollbackVersion
    ++ (s.parts.filter (fun e => e.2.present)).flatMap (fun e => leBytes 32 e.2.chainhd.toNat) ++ leBytes 8 s.modNum

def execAttestationReport (nonce : BitVec 256) (s : State) : Host.Outcome State Fault Refusal :=
  event s (s.ready.getLsbD 5)
    (let b := reportBytes s nonce
     .next (s.say (.report b (Config.sm2Sign b))))

/-- The state is lost; what the board fixes and what has left the module stay. -/
def powerReset (s : State) : State :=
  { State.reset with agenda := s.agenda, moves := s.moves, out := s.out, bootsrc := s.bootsrc,
                     timedisc := s.timedisc, stkcap := s.stkcap, pwrok := s.pwrok, thermtrip := s.thermtrip, rails := s.rails }

/-- BOOTSTAT with a stage and an error (R352). -/
def bootAt (s : State) (stage err : Nat) : State :=
  { s with bootstat := (s.bootstat &&& 0xFFFFFFFFFFFF0000#64) ||| BitVec.ofNat 64 (256 * err + stage) }

/-- The ROM's steps 1 to 6 (R351). -/
def bootVerify (s : State) (image : List Byte) (readOk : Bool) : State :=
  if !readOk then bootAt s 15 1
  else if !Config.headerGood image then bootAt s 15 4
  else if !Config.sm2Verifies image then bootAt s 15 2
  else if Config.imageVersion image < Config.rollbackVersion then bootAt s 15 3
  else
    let m0 := sm3Word (leBytes 32 (Sparse.get 0 s.meas 0).toNat ++ sm3 (Config.imageBody image))
    (bootAt { s with meas := Sparse.set 0 0 m0 s.meas } 3 0).say .bootJump

/-- Reset, and the boot ROM: what bring-up has set stays where the supplies do (log 48); it waits for a host buffer, or verifies the image from flash. -/
def execModuleReset (hostBoot : Bool) (image : List Byte) (readOk : Bool) (s : State) : Host.Outcome State Fault Refusal :=
  event s true
    (let s := { powerReset s with bootsrc := hostBoot, modNum := s.modNum, domshape := s.domshape }
     .next (if hostBoot then bootAt s 1 0 else bootVerify s image readOk))

/-- The host writes the buffer's address while the ROM waits for it. -/
def execBootHostBuffer (addr : BitVec 64) (image : List Byte) (readOk : Bool) (s : State) : Host.Outcome State Fault Refusal :=
  event s ((s.bootstat.extractLsb' 0 4).toNat == 1)
    (.next (bootVerify { s with bootstat := (addr &&& 0xFFFFFFFFFFFF0000#64) ||| 1#64 } image readOk))

/-! ### Supplies, islands and heat (R355, R357 to R359) -/

def execPwrok (s : State) : Host.Outcome State Fault Refusal :=
  if s.pwrok then .next s else .next { s with rails := [], pwrok := true, thermtrip := false }

/-- A rail leaves regulation while PWROK is high. -/
def execRailLoss (rail : Nat) (s : State) : Host.Outcome State Fault Refusal :=
  if s.pwrok && 1 ≤ rail && rail ≤ 5 then .next { powerReset s with rails := Sparse.set false rail true s.rails, pwrok := false } else .next s

def setIsland (s : State) (island f : Nat) : State :=
  if 32 ≤ island || islandTimed s island then s else { s with island := Sparse.set 940 island f s.island }

def execIslandFrequencyChange (island f : Nat) (s : State) : Host.Outcome State Fault Refusal := event s true (.next (setIsland s island f))

/-- At 105 degrees the die's islands are slowed, and Milnos is interrupted. An I/O die (16, 17) has none. -/
def execThermalThrottle (die : Nat) (f : Nat) (s : State) : Host.Outcome State Fault Refusal :=
  event s (die < 18)
    (let slow (s : State) (i : Nat) : State := if f < Sparse.get 940 s.island i then setIsland s i f else s
     .next ((if die < 16 then slow (slow s (2 * die)) (2 * die + 1) else s).say (.mgmtInterrupt 3)))

/-- At 115 degrees every clock stops and all state is lost. -/
def execThermtrip (die : Nat) (s : State) : Host.Outcome State Fault Refusal :=
  event s (die < 18) (.next { powerReset s with thermtrip := true })

/-- A function's bit is set by itself (R355); Milnos runs once the ROM has handed over. -/
def execFunctionReady (f : ReadyFn) (s : State) : Host.Outcome State Fault Refusal :=
  let put (k : Nat) : Host.Outcome State Fault Refusal := .next { s with ready := s.ready ||| BitVec.ofNat 64 (2 ^ k) }
  event s true
    (match f with
     | .mgmt => if (s.bootstat.extractLsb' 0 4).toNat = 3 then put 0 else .next s
     | .host => put 1
     | .timelock => if s.timedisc then .next s else .next (lockTime s 0)
     | .sorus => put 3
     | .digest => put 4
     | .crypto => put 5
     | .port p => if p < 12 then put (6 + p) else .next s
     | .stack d => if d < 16 then put (18 + d) else .next s
     | .cluster c => if c < 64 then .next { s with ready1 := s.ready1 ||| BitVec.ofNat 64 (2 ^ c) } else .next s)

/-! ### Drives and keys (R346, R349) -/

/-- Drive DMA targets physical HBM. -/
def execDriveDma (addr : Nat) (bytes : List Byte) (s : State) : Host.Outcome State Fault Refusal :=
  event s true (if s.populated addr bytes.length then .next (partStore s addr bytes) else .fault (.absentMemory addr))

/-- A key of an IDE stream, set up by SPDM. -/
def execSpdmMessage (stream : Nat) (key : BitVec 256) (s : State) : Host.Outcome State Fault Refusal :=
  event s (hostUp s) (.next { s with ide := Sparse.set 0 stream key s.ide })

end Sys2Proof.Machine
end

