-- ==== Sys2Proof/Machine/Integer.lean ====
section
/-! DEFINITION. The integer group of C (R265, R266). -/

namespace Sys2Proof.Machine

/-- An integer operation: sd := f(s[SA], B) (R265). -/
def alu (i : Instr) (y : Syn) (o : COp) (ticks : Nat) (f : Word → Word → Word) (s : State) : Host.Outcome State Fault Refusal :=
  run i y ticks (fun s => .ok (s.setReg o.sd.toNat (f (srcA s o) (cbVal s o.b)))) s

/-- A truth as a register value. -/
def boolWord (b : Bool) : Word := if b then 1 else 0

/-- Division with its fixed results (R265). -/
def divS (a b : Word) : Word := if b = 0 then BitVec.allOnes 64 else a.sdiv b
def divU (a b : Word) : Word := if b = 0 then BitVec.allOnes 64 else a / b
def remS (a b : Word) : Word := if b = 0 then a else a.srem b
def remU (a b : Word) : Word := if b = 0 then a else a % b

/-- The high 64 bits of a product. -/
def mulHighS (a b : Word) : Word := BitVec.ofInt 64 (a.toInt * b.toInt / 2 ^ 64)
def mulHighU (a b : Word) : Word := BitVec.ofNat 64 (a.toNat * b.toNat / 2 ^ 64)

/-- The field that BEXT and BINS read from p1 (R266). -/
def fieldPos (v : BitVec 32) : Nat := (v.extractLsb' 0 6).toNat
def fieldWidth (v : BitVec 32) : Nat := (v.extractLsb' 6 6).toNat + 1
def fieldMask (v : BitVec 32) : Word := BitVec.ofNat 64 (2 ^ fieldWidth v - 1)

def execAdd (y : Syn) (o : COp) (s : State) := alu (.add y o) y o 1 (fun a b => a + b) s
def execSub (y : Syn) (o : COp) (s : State) := alu (.sub y o) y o 1 (fun a b => a - b) s
def execAnd (y : Syn) (o : COp) (s : State) := alu (.and y o) y o 1 (fun a b => a &&& b) s
def execOr (y : Syn) (o : COp) (s : State) := alu (.or y o) y o 1 (fun a b => a ||| b) s
def execXor (y : Syn) (o : COp) (s : State) := alu (.xor y o) y o 1 (fun a b => a ^^^ b) s
def execSll (y : Syn) (o : COp) (s : State) := alu (.sll y o) y o 1 (fun a b => a <<< (b.toNat % 64)) s
def execSrl (y : Syn) (o : COp) (s : State) := alu (.srl y o) y o 1 (fun a b => a >>> (b.toNat % 64)) s
def execSra (y : Syn) (o : COp) (s : State) := alu (.sra y o) y o 1 (fun a b => a.sshiftRight (b.toNat % 64)) s
def execMul (y : Syn) (o : COp) (s : State) := alu (.mul y o) y o 2 (fun a b => a * b) s
def execMulh (y : Syn) (o : COp) (s : State) := alu (.mulh y o) y o 2 mulHighS s
def execMulhu (y : Syn) (o : COp) (s : State) := alu (.mulhu y o) y o 2 mulHighU s
def execDiv (y : Syn) (o : COp) (s : State) := alu (.div y o) y o 12 divS s
def execDivu (y : Syn) (o : COp) (s : State) := alu (.divu y o) y o 12 divU s
def execRem (y : Syn) (o : COp) (s : State) := alu (.rem y o) y o 12 remS s
def execRemu (y : Syn) (o : COp) (s : State) := alu (.remu y o) y o 12 remU s
def execMin (y : Syn) (o : COp) (s : State) := alu (.min y o) y o 1 (fun a b => if a.slt b then a else b) s
def execMax (y : Syn) (o : COp) (s : State) := alu (.max y o) y o 1 (fun a b => if a.slt b then b else a) s
def execMinu (y : Syn) (o : COp) (s : State) := alu (.minu y o) y o 1 (fun a b => if a.ult b then a else b) s
def execMaxu (y : Syn) (o : COp) (s : State) := alu (.maxu y o) y o 1 (fun a b => if a.ult b then b else a) s
def execSlt (y : Syn) (o : COp) (s : State) := alu (.slt y o) y o 1 (fun a b => boolWord (a.slt b)) s
def execSltu (y : Syn) (o : COp) (s : State) := alu (.sltu y o) y o 1 (fun a b => boolWord (a.ult b)) s
def execSeq (y : Syn) (o : COp) (s : State) := alu (.seq y o) y o 1 (fun a b => boolWord (a == b)) s
def execLi (y : Syn) (o : COp) (s : State) := alu (.li y o) y o 1 (fun _ b => b) s
def execClz (y : Syn) (o : COp) (s : State) := alu (.clz y o) y o 1 (fun a _ => BitVec.ofNat 64 (64 - bitLen a.toNat)) s
def execPopc (y : Syn) (o : COp) (s : State) := alu (.popc y o) y o 1 (fun a _ => BitVec.ofNat 64 (popcount 64 a.toNat)) s
def execRotl (y : Syn) (o : COp) (s : State) := alu (.rotl y o) y o 1 (fun a b => a.rotateLeft (b.toNat % 64)) s

def execBext (y : Syn) (o : COp) (s : State) :=
  alu (.bext y o) y o 1 (fun a _ => (a >>> fieldPos (cbImm o.b)) &&& fieldMask (cbImm o.b)) s

/-- BINS reads the old s[SD] at issue (R266). -/
def execBins (y : Syn) (o : COp) (s : State) : Host.Outcome State Fault Refusal :=
  run (.bins y o) y 1 (fun s =>
    let p := fieldPos (cbImm o.b)
    let m := fieldMask (cbImm o.b)
    .ok (s.setReg o.sd.toNat ((srcD s o &&& ~~~ (m <<< p)) ||| ((srcA s o &&& m) <<< p)))) s

end Sys2Proof.Machine
end

