-- ==== Sys2Proof/Machine/LoadStore.lean ====
section
/-! DEFINITION. Loads and stores of C (R260, R263, R268 to R270). -/

namespace Sys2Proof.Machine

/-- The ticks a timed load of C occupies: 14, 64 or 800 by the range of its address (R260, R88). -/
def loadTicks (a : Nat) : Nat := if inOwn a then Config.ownRead else if inPeer a then Config.peerAccess else Config.hbmAccess

/-- A load of `n` bytes (R268, R269). C waits for its data, which it reads after its own stores to the granule (R263, R295 E2). Once C is
timed, the load occupies its ticks, and its data is read within them (R260, R301). -/
def loadC (i : Instr) (y : Syn) (o : COp) (n : Nat) (sgn : Bool) (s : State) : Host.Outcome State Fault Refusal :=
  run i y 1 (fun s =>
    let a := opAddr s o
    match checkAccess s (myCore s) s.here Ranges.noTx .load a n n with
    | .error f => f.res s
    | .ok p =>
      if timedHere s then
        let s := pendLoads s (loadTicks a) [] 0 false [{ place := p, len := n, dest := .s o.sd.toNat sgn, addr := a }]
        if wheelKept s p then .ok (s.setMe { s.me with nextFree := s.mcc + loadTicks a }) else .wait 5 .none 0 0 s
      else if open1 s p && ownCommitted s p n then
        let r := readNow s p n
        .ok (r.1.setReg o.sd.toNat (extendLoad n sgn r.2))
      else .wait 5 (waitFor p) 0 0 s) s

/-- A store of the low `n` bytes of s[SD] (R268, R269). -/
def storeC (i : Instr) (y : Syn) (o : COp) (n : Nat) (s : State) : Host.Outcome State Fault Refusal :=
  run i y 1 (fun s =>
    let a := opAddr s o
    match checkAccess s (myCore s) s.here Ranges.all .store a n n with
    | .error f => f.res s
    | .ok p =>
      if mayStore s p then
        match storeAt s p (leBytes n (srcD s o).toNat) with
        | .sent s => .ok s
        | .stall => .wait 5 .none a 0 s
        | .deadPeer m s => .trap .invalidPeer m 0 s
      else .wait 5 (waitFor p) 0 0 s) s

def execLdb (y : Syn) (o : COp) (s : State) := loadC (.ldb y o) y o 1 true s
def execLdh (y : Syn) (o : COp) (s : State) := loadC (.ldh y o) y o 2 true s
def execLdw (y : Syn) (o : COp) (s : State) := loadC (.ldw y o) y o 4 true s
def execLdd (y : Syn) (o : COp) (s : State) := loadC (.ldd y o) y o 8 false s
def execLdbu (y : Syn) (o : COp) (s : State) := loadC (.ldbu y o) y o 1 false s
def execLdhu (y : Syn) (o : COp) (s : State) := loadC (.ldhu y o) y o 2 false s
def execLdwu (y : Syn) (o : COp) (s : State) := loadC (.ldwu y o) y o 4 false s
def execStb (y : Syn) (o : COp) (s : State) := storeC (.stb y o) y o 1 s
def execSth (y : Syn) (o : COp) (s : State) := storeC (.sth y o) y o 2 s
def execStw (y : Syn) (o : COp) (s : State) := storeC (.stw y o) y o 4 s
def execStd (y : Syn) (o : COp) (s : State) := storeC (.std y o) y o 8 s

/-- The wheel stands at a position that the core owns (R270, R290). -/
def wheelHere (s : State) : Bool :=
  let pos := s.mcc % 1024
  (Sparse.get 0 (s.core (myCore s)).wheel (pos / 64)).getLsbD (pos % 64)

/-- What keeps LDSC or STSC at a place from being performed now: the earlier accesses of C (kind 7), then its wheel, its bank, its port or the wheel of
its stack (kind 5; R270, R365). -/
def lockWait (s : State) (p : Place) : Option (Nat × OpProg) :=
  if !(cPerformed s && cAcked s) then some (7, .none)
  else if wheelHere s && open1 s p then none else some (5, waitFor p)

/-- LDSC waits for every earlier access of C and for an owned position (R270). Once C is timed it occupies the ticks of a load (R260). -/
def execLdsc (y : Syn) (o : COp) (s : State) : Host.Outcome State Fault Refusal :=
  run (.ldsc y o) y 1 (fun s =>
    let a := opAddr s o
    match checkAccess s (myCore s) s.here Ranges.noTx .load a 8 8 with
    | .error f => f.res s
    | .ok p =>
      match lockWait s p with
      | some w => .wait w.1 w.2 0 0 s
      | none =>
        let r := readNow s p 8
        let s := if timedHere s then r.1.setMe { r.1.me with nextFree := s.mcc + loadTicks a } else r.1
        .ok (s.setReg o.sd.toNat (extendLoad 8 false r.2))) s

/-- STSC is performed in an owned position; a transmit window faults EXTENT (R270). -/
def execStsc (y : Syn) (o : COp) (s : State) : Host.Outcome State Fault Refusal :=
  run (.stsc y o) y 1 (fun s =>
    match checkAccess s (myCore s) s.here Ranges.noTx .store (opAddr s o) 8 8 with
    | .error f => f.res s
    | .ok p =>
      match lockWait s p with
      | some w => .wait w.1 w.2 0 0 s
      | none => .ok (performAt (served s s.here.part p) p (leBytes 8 (srcD s o).toNat))) s

end Sys2Proof.Machine
end

