-- ==== Sys2Proof/Machine/Time.lean ====
section
/-! DEFINITION. The time instructions of C (R280 to R282). -/

namespace Sys2Proof.Machine

def execRdcc (y : Syn) (o : COp) (s : State) : Host.Outcome State Fault Refusal :=
  run (.rdcc y o) y 1 (fun s => .ok (s.setReg o.sd.toNat (BitVec.ofNat 64 (s.dcc s.here.part)))) s

def execRdgt (y : Syn) (o : COp) (s : State) : Host.Outcome State Fault Refusal :=
  run (.rdgt y o) y 1 (fun s => .ok (s.setReg o.sd.toNat (BitVec.ofNat 64 s.gt))) s

/-- WAITT: until GT reaches the target; it writes GT as it stands then (R281). -/
def waittBody (o : COp) (s : State) : Res :=
  let target := opVal s o
  if target.toNat ≤ s.gt then .ok (s.setReg o.sd.toNat (BitVec.ofNat 64 s.gt))
  else .wait 8 (.waitt target o.sd.toNat) 0 0 s

def execWaitt (y : Syn) (o : COp) (s : State) : Host.Outcome State Fault Refusal :=
  run (.waitt y o) y 1 (waittBody o) s

/-- A sequencer counts its next issue from an ALIGN on `cycle`, where its next tick falls one cycle later (R28, R282). -/
def Seq.aligned (u : Seq) (cycle : Nat) : Seq :=
  { u with timed := true, lastIssue := cycle, nextFree := cycle, alignAt := cycle, tickAt := cycle + 1 }

/-- One task at its ALIGN cycle: each held engine named is released, and counts from this cycle (R28, R282). One that is not held keeps its
own timing, also the ALIGN from which its STAMP counts: R40 and R282 do not say which ALIGN that is for an M that a later ALIGN does
not release (DESIGN CHOICE, log 69). -/
def releaseTask (cycle : Nat) (mask : BitVec 32) (t : Task) : Task :=
  [SeqId.t, .v, .m].foldl (fun t q =>
    let u := t.seq q
    if mask.getLsbD q.num && u.stream == .held then t.setSeq q { u.aligned cycle with stream := .running, armed := true } else t) t

/-- The release on cycle target: this core's engines, with PART those of every timetable task of the partition (R282). -/
def alignRelease (s : State) (mask : BitVec 32) : State :=
  let part := s.here.part
  let free (n b : Nat) (s : State) : State :=
    match s.task? n b with
    | some t => if t.part == part && t.timed then s.setTask n b (some (releaseTask s.mcc mask t)) else s
    | none => s
  let s := if mask.getLsbD 4 then (coresOf part s.myPart).foldl (fun s n => [0, 1].foldl (fun s b => free n b s) s) s
    else free (myCore s) (myBank s) s
  s.setHere { s.here with c := s.here.c.aligned s.mcc }

/-- ALIGN (R282): in token mode it only waits for DCC. -/
def alignBody (o : COp) (s : State) : Res :=
  let target := srcA s o
  let dcc := s.dcc s.here.part
  let t := s.here
  if t.timed then
    if dcc > target.toNat then .trap .schedMiss target.toNat 0 s
    else if dcc = target.toNat then .ok (alignRelease s (cbImm o.b))
    else .wait 8 (.align target ((cbImm o.b).setWidth 5)) 0 0 s
  else if dcc ≥ target.toNat then .ok s
  else .wait 8 (.align target ((cbImm o.b).setWidth 5)) 0 0 s

def execAlign (y : Syn) (o : COp) (s : State) : Host.Outcome State Fault Refusal :=
  run (.align y o) y 1 (alignBody o) s

end Sys2Proof.Machine
end

