-- ==== Sys2Proof/Machine/VecReduce.lean ====
section
/-! DEFINITION. Reductions and permutes of V (R154 to R156). -/

namespace Sys2Proof.Machine

/-- A reduction: the tree over the selected values of `val`, in element order, and the result in element 0 in a type of
`wr` bytes, whatever the predicate and VL (R154). -/
def vReduce (i : Instr) (y : Syn) (o : VOp) (wr : Nat) (val : Task → Nat → Nat × Flags) (op : Nat → Nat → Nat × Flags)
    (empty : Nat) (s : State) : Host.Outcome State Fault Refusal :=
  vrun i y [o.ty.toNat] (fun t s =>
    let w := typeBytes o.ty.toNat
    let xs := upTo (256 / w) (fun e => if selected t o.pred.toNat w e then some (val t e) else none)
    let r := reduceTree op (xs.map (fun x => x.map (·.1)))
    let fl := xs.foldl (fun f x => match x with | some v => f ||| v.2 | none => f) r.2
    pendWrites s Config.latReduce (elemWrites t o.vd.toNat wr [(0, r.1.getD empty)]) fl) s

/-- B of element `e` in TYPE; it raises nothing. -/
def operandB (o : VOp) (t : Task) (e : Nat) : Nat × Flags := (vsrc t o.b false (typeBytes o.ty.toNat) e, 0)

/-- The floating-point format of a 32-bit or 16-bit TYPE. -/
def wideFmt (ty : Nat) : Fmt := if ty = 0 then fp32 else if ty = 1 then bf16 else fp16

def execVrsum (y : Syn) (o : VOp) (s : State) : Host.Outcome State Fault Refusal :=
  let ty := o.ty.toNat
  let f := wideFmt ty
  vReduce (.vrsum y o) y o (typeBytes ty) (operandB o)
    (fun a b => if isIntTy ty then (intCode ty (intVal ty a + intVal ty b), 0) else addRne f a b)
    (if isIntTy ty then 0 else f.signCode true 0) s

/-- Maximum or minimum in TYPE (R62, R83). -/
def extremeOf (ty : Nat) (isMax : Bool) (a b : Nat) : Nat :=
  if isIntTy ty then (if intVal ty a ≤ intVal ty b then (if isMax then b else a) else (if isMax then a else b))
  else fMinMax (wideFmt ty) isMax a b

def execVrmax (y : Syn) (o : VOp) (s : State) : Host.Outcome State Fault Refusal :=
  let ty := o.ty.toNat
  vReduce (.vrmax y o) y o (typeBytes ty) (operandB o) (fun a b => (extremeOf ty true a b, 0))
    (if isIntTy ty then intCode ty (intLo ty) else (wideFmt ty).nanCode) s

def execVrmin (y : Syn) (o : VOp) (s : State) : Host.Outcome State Fault Refusal :=
  let ty := o.ty.toNat
  vReduce (.vrmin y o) y o (typeBytes ty) (operandB o) (fun a b => (extremeOf ty false a b, 0))
    (if isIntTy ty then intCode ty (intHi ty) else (wideFmt ty).nanCode) s

/-- A product of VDOT: rounded by RNE32; where its operands have 16 bits, that rounding raises no flag (R155). The product 0 × Inf is not
exact and has no value: that R155 has a product of 16-bit operands raise no flag is read of exact products, and IV is raised as R63 has it
(DEDUCED, log 85). -/
def dotProduct (ty : Nat) (a b : Nat) : Nat × Flags :=
  let p := fMul ((wideFmt ty).decode a) ((wideFmt ty).decode b)
  let r := rounded fp32 .rne false p
  if ty = 0 then r else (r.1, p.2)

/-- VDOT: products rounded by RNE32, summed in FP32 (R155). -/
def execVdot (y : Syn) (o : VOp) (s : State) : Host.Outcome State Fault Refusal :=
  vReduce (.vdot y o) y o 4
    (fun t e => dotProduct o.ty.toNat (spanElem t o.va.toNat (typeBytes o.ty.toNat) e) (operandB o t e).1)
    (addRne fp32) (fp32.signCode true 0) s

/-! ### Permutes (R156) -/

/-- A permute: element `e` of the result from the type's width and element count; bits unchanged. -/
def vPermute (i : Instr) (y : Syn) (o : VOp) (f : Task → Nat → Nat → Nat → Nat) (s : State) : Host.Outcome State Fault Refusal :=
  vrun i y [o.ty.toNat] (fun t s =>
    let w := typeBytes o.ty.toNat
    vput s t Config.latFma o.vd.toNat w ((selElems t o.pred.toNat w).map (fun e => (e, (f t w (256 / w) e, 0))))) s

/-- Element `j` of va, of width `w`. -/
def vaElem (o : VOp) (t : Task) (w j : Nat) : Nat := spanElem t o.va.toNat w j

/-- VB as a number. -/
def vbNum (o : VOp) : BitVec 10 := match o.b with | .reg n => n | _ => 0

def execVperm (y : Syn) (o : VOp) (s : State) : Host.Outcome State Fault Refusal :=
  vPermute (.vperm y o) y o (fun t w n e =>
    let j := vsrc t o.b false w e
    if j < n then vaElem o t w j else 0) s

def execVslide (y : Syn) (o : VOp) (s : State) : Host.Outcome State Fault Refusal :=
  vPermute (.vslide y o) y o (fun t w n e =>
    let j : Int := e + (vbNum o).toInt
    if 0 ≤ j && j < n then vaElem o t w j.toNat else 0) s

def execVbcast (y : Syn) (o : VOp) (s : State) : Host.Outcome State Fault Refusal :=
  vPermute (.vbcast y o) y o (fun t w _ _ => vaElem o t w (vbNum o).toNat) s

def execVzip (y : Syn) (o : VOp) (s : State) : Host.Outcome State Fault Refusal :=
  vPermute (.vzip y o) y o (fun t w n e =>
    let h := if o.opx.getLsbD 0 then n / 2 else 0
    if e % 2 = 0 then vaElem o t w (e / 2 + h) else vsrc t o.b false w ((e - 1) / 2 + h)) s

def execVunzip (y : Syn) (o : VOp) (s : State) : Host.Outcome State Fault Refusal :=
  vPermute (.vunzip y o) y o (fun t w n e =>
    let j := 2 * e + (if o.opx.getLsbD 0 then 1 else 0)
    if j < n then vaElem o t w j else vsrc t o.b false w (j - n)) s

end Sys2Proof.Machine
end

