-- ==== Sys2Proof/Machine/VecRnd.lean ====
section
/-! DEFINITION. The random group of V (R189 to R201). -/

namespace Sys2Proof.Machine

/-- Key and stream of a draw (R191, R196): `key` is KEY as the instruction read it, or as its record holds it (R194). -/
def rndKey (s : State) (key : Word) (o : VRndOp) : Word := if o.xk = 0 then key else s.reg o.xk.toNat
def rndStream (s : State) (o : VRndOp) : BitVec 32 := (s.reg o.xs.toNat).setWidth 32
def rndSrc (o : VRndOp) : VSrc := if o.kb then .kbank o.vb else .reg o.vb

/-- The four draws that act element by element. -/
inductive RndKind where
  | z
  | zacc
  | unif
  | drop
deriving DecidableEq, Repr

/-- u ≥ pdrop, exactly; a NaN keeps nothing (R189). -/
def kept (t : BitVec 32) (pdrop : FVal) : Bool := !pdrop.isNan && (FVal.eq pdrop (unifVal t) || pdrop.le (unifVal t))

/-- One element: its code, its flags, and whether VDROP keeps it (R197, R198). `x31` is the position of element 0. -/
def rndElem (s : State) (key : Word) (k : RndKind) (o : VRndOp) (vd : Nat) (x31 : Word) (e : Nat) : (Nat × Flags) × Bool :=
  let t := { s.here with key := key }
  let f := wideFmt o.ty.toNat
  let w := typeBytes o.ty.toNat
  let d := lichen (rndKey s key o) (rndStream s o) (x31 + BitVec.ofNat 64 e)
  let mode := vmode t o.rm.toNat x31 e
  let b := f.decode (vsrc t (rndSrc o) false w e)
  let z := drawVal (o.opx.getLsbD 0) d
  let old := f.decode (spanElem t vd w e)
  match k with
  | .z => (rounded f mode false (fMul z b), true)
  | .zacc => (rounded f mode false (fFma z b old), true)
  | .unif => (rounded f mode false (fMul (unifVal d) b), true)
  | .drop =>
    if kept d (fp32.decode (t.kget o.vb.toNat).toNat) then
      (rounded f mode false (fMul old (fp32.decode (t.kget (o.vb.toNat + 1)).toNat)), true)
    else ((0, 0), false)

/-- All selected elements, and VDROP's mask on the same tick (R196, R198). -/
def rndIssue (s : State) (key : Word) (k : RndKind) (o : VRndOp) (vd : Nat) (x31 : Word) : State :=
  let t := s.here
  let w := typeBytes o.ty.toNat
  let res := (selElems t o.pred.toNat w).map (fun e => (e, rndElem s key k o vd x31 e))
  let mask := if k = .drop && o.opx != 0 then [predWrite t o.opx.toNat w (res.map (fun x => (x.1, x.2.2)))] else []
  pendWrites s Config.latDraw (elemWrites t vd w (res.map (fun x => (x.1, x.2.1.1))) ++ mask)
    (allFlags (res.map (fun x => (x.1, x.2.1))))

/-- The word AUX0 of a record, laid out as p1 of R196 (R200). -/
def rndOpOf (w : BitVec 32) : VRndOp :=
  { pred := 0, vd := 0, xk := w.extractLsb' 27 5, xs := w.extractLsb' 22 5, vb := w.extractLsb' 12 10, ty := w.extractLsb' 8 4,
    rm := w.extractLsb' 6 2, kb := w.getLsbD 5, opx := w.extractLsb' 1 4 }

/-- What a draw reads of the vector and constant registers (R196, R198). -/
def rndSources (t : Task) (k : RndKind) (o : VRndOp) (vd : Nat) : List VReg :=
  match k with
  | .drop => spanRegs t vd 1 ++ [.k o.vb.toNat, .k (o.vb.toNat + 1)]
  | .zacc => spanRegs t vd 1 ++ regsOfB t (rndSrc o) 1
  | .z | .unif => regsOfB t (rndSrc o) 1

/-- One draw at its issue, with KEY as it stands or as its record holds it. -/
def rndRun (s : State) (key : Word) (k : RndKind) (o : VRndOp) (vd : Nat) (x31 : Word) : Res :=
  if readsBad s.here (rndSources s.here k o vd) then eccTrap s else .ok (rndIssue s key k o vd x31)

/-- One single issue of the record form (R200): x31 moves on by the positions of A; KEY is the one that the record holds (R194). -/
def rndSingle (k : RndKind) (p : RecProg) (s : State) : Res :=
  let s := setProg s p
  let r := p.fields
  let reg := recName r.d p
  let pos := s.here.x31 + BitVec.ofInt 64 (r.a.base.toNat + recSteps r.a p.i0 p.i1 p.i2 p.i3)
  if 0 ≤ reg && reg < 1024 then rndRun s p.key k (rndOpOf r.aux0) reg.toNat pos
  else .trap .illegalField p.pc.toNat 0 s

def rndExec (i : Instr) (y : Syn) (k : RndKind) (f : VRndForm) (s : State) : Host.Outcome State Fault Refusal :=
  match f with
  | .two o => run i y 1 (fun s => rndRun s s.here.key k o o.vd.toNat s.here.x31) s
  | .record _ => startRecord i y (fun s p => .ok (s, p)) s

def execVz (y : Syn) (f : VRndForm) (s : State) := rndExec (.vz y f) y .z f s
def execVzacc (y : Syn) (f : VRndForm) (s : State) := rndExec (.vzacc y f) y .zacc f s
def execVunif (y : Syn) (f : VRndForm) (s : State) := rndExec (.vunif y f) y .unif f s
def execVdrop (y : Syn) (f : VRndForm) (s : State) := rndExec (.vdrop y f) y .drop f s

/-- The sum of the selected elements 0 to j (R199). -/
def catPrefix (t : Task) (pred vb j : Nat) : Nat × Flags :=
  let r := reduceTree (addRne fp32) (upTo (j + 1) (fun e => if selected t pred 4 e then some (spanElem t vb 4 e) else none))
  (r.1.getD (fp32.signCode true 0), r.2)

/-- A weight that makes a row invalid (R199). -/
def badWeight (x : FVal) : Bool := x.isNan || (x.isInf && !x.sign) || (x.sign && !x.isZero)

/-- The index drawn, as INT32, and the flags (R199). -/
def catDraw (s : State) (o : VRndOp) : Nat × Flags :=
  let t := s.here
  let sel := selElems t o.pred.toNat 4
  let pre := sel.map (fun j => (j, catPrefix t o.pred.toNat o.vb.toNat j))
  let total := catPrefix t o.pred.toNat o.vb.toNat 63
  let fl := pre.foldl (fun f x => f ||| x.2.2) total.2
  let weight (e : Nat) : FVal := fp32.decode (spanElem t o.vb.toNat 4 e)
  let tv := fp32.decode total.1
  let none1 := 2 ^ 32 - 1
  if sel.any (fun e => badWeight (weight e)) then (none1, fl ||| fIV)
  else if tv.isNan || tv.isInf || tv.isZero then (none1, fl)
  else
    let target := rounded fp32 .rne false (fMul (unifVal (lichen (rndKey s t.key o) (rndStream s o) t.x31)) tv)
    let tg := fp32.decode target.1
    let above (c : Nat) : Bool := let x := fp32.decode c; !FVal.eq x tg && tg.le x
    let j := match pre.find? (fun x => above x.2.1) with
      | some x => x.1
      | none => ((sel.filter (fun e => !(weight e).isZero)).getLast?).getD none1
    (j, fl ||| target.2)

def execVcat (y : Syn) (o : VRndOp) (s : State) : Host.Outcome State Fault Refusal :=
  run (.vcat y o) y 1 (fun s =>
    let r := catDraw s o
    if readsBad s.here (spanRegs s.here o.vb.toNat 1) then eccTrap s
    else .ok (pendWrites s Config.latReduce (elemWrites s.here o.vd.toNat 4 [(0, r.1)]) r.2)) s

end Sys2Proof.Machine
end

