-- ==== Sys2Proof/Machine/SeqEvents.lean ====
section
/-! DEFINITION. What happens in a core beside the issue of an instruction: the single issues of a record, results, data and
stores at their time, the ends of timed waits, and the bounds that trap (R28, R39, R46, R99, R103, R262, R281, R282). -/

namespace Sys2Proof.Machine

/-- What one single issue of a record does. -/
def singleOf (i : Instr) : RecProg → State → Res :=
  match i with
  | .ldx _ _ => tSingle .ldx
  | .stx _ _ => tSingle .stx
  | .cpx _ _ => tSingle .cpx
  | .mcx _ _ => tSingle .mcx
  | .gthx _ _ => tSingle .gthx
  | .sctx _ _ => tSingle .sctx
  | .bmx _ _ => tSingle .bmx
  | .scacc _ _ => tSingle .scacc
  | .zfx _ _ => tSingle .zfx
  | .wld _ _ => mSingle .wld
  | .mma _ _ => mSingle .mma
  | .gate _ _ => mSingle .gate
  | .adrn _ _ => mSingle .adrn
  | .asave _ _ => mSingle .asave
  | .aload _ _ => mSingle .aload
  | .vld _ _ => vMemSingle true .block
  | .vst _ _ => vMemSingle false .block
  | .vlds _ _ => vMemSingle true .strided
  | .vsts _ _ => vMemSingle false .strided
  | .vgath _ _ => vMemSingle true .indexed
  | .vscat _ _ => vMemSingle false .indexed
  | .vz _ _ => rndSingle .z
  | .vzacc _ _ => rndSingle .zacc
  | .vunif _ _ => rndSingle .unif
  | .vdrop _ _ => rndSingle .drop
  | _ => fun _ s => .ok s

/-- The next single issue of the record in progress (R39); it goes on while a YIELD holds its engine, since it has issued (R284). -/
def execRecordSingleIssue (core : Nat) (q : SeqId) (s : State) : Host.Outcome State Fault Refusal :=
  match onTurn s core q with
  | none => .next s
  | some t =>
    match t.me.prog with
    | none => .next s
    | some p => recordStep (singleOf p.instr) t

/-- Sequencer `q` of the task in a core's current bank is changed, and what has completed by that sends its tokens. -/
def onSeq (s : State) (core : Nat) (q : SeqId) (f : Seq → Seq) : State :=
  let b := s.bankOf core
  match s.task? core b with
  | none => s
  | some t => settle (s.setTask core b (some (t.setSeq q (f (t.seq q))))) core b q

def seqOf (s : State) (core : Nat) (q : SeqId) : Seq := ((s.task? core (s.bankOf core)).getD Task.reset).seq q

/-- Its latency has passed and its data is there (R363). -/
def resultReady (s : State) (p : Pend) : Bool := !p.produced && p.loads.isEmpty && p.since + p.lat ≤ s.mcc

/-- A result is in its register (R29, R363). -/
def execEngineResultWrite (core : Nat) (q : SeqId) (id : Nat) (s : State) : Host.Outcome State Fault Refusal :=
  event s ((seqOf s core q).pend.any (fun p => p.id == id && resultReady s p))
    (.next (onSeq s core q (fun u => { u with pend := u.pend.map (fun p => if p.id = id && resultReady s p then { p with produced := true } else p) })))

/-- The bytes at a place have become unreadable since the load was checked (R93, R344). -/
def placeBad (s : State) (p : Place) (n : Nat) : Bool :=
  match p with
  | .spad c off => spadBadIn s c off n
  | .hbm a => unreadable s a n
  | .tx _ => false

/-- A load that meets a word or a line in error has no effect: nothing more of it is read, nothing is written, and it sends no token. C stops at it. -/
def failLoad (t : Task) (q : SeqId) (p : Pend) : Task :=
  let u := t.seq q
  let u := { u with pend := u.pend.filter (fun x => x.id != p.id || x.due != p.due), flights := u.flights.filter (fun f => f.id != p.id) }
  let u := if q == .c then { u with pc := p.pc, seqno := u.seqno - 1 } else u
  ((t.seq q).flights.filter (fun f => f.id == p.id)).foldl (fun t f => dropFlight t q f) (t.setSeq q u)

/-- A piece of a load may be read on this cycle: a record of M or T that goes before it at the banks does so first (R124); the data of a timed load of
C comes within the ticks that it occupies, or not before its next issue, which misses (R260). -/
def loadNow (s : State) (core : Nat) (t : Task) (q : SeqId) (p : Pend) (l : LoadPiece) : Bool :=
  (!recordFirst s core t q || overdue s t.part) && !(q == .c && p.since + readBound core l ≤ s.mcc)

/-- A piece of a load is read (R96, R124, R293). -/
def execLoadDataArrival (core : Nat) (q : SeqId) (load : LoadAt) (s : State) : Host.Outcome State Fault Refusal :=
  let b := s.bankOf core
  match s.task? core b with
  | none => .next s
  | some t =>
    match ((t.seq q).pend.find? (fun p => p.isAt load)).bind (fun p => (p.loads[load.piece]?).map (fun l => (p, l))) with
    | none => .next s
    | some (p, l) =>
      event s (loadReady s core t q load && loadNow s core t q p l)
        (if placeBad s l.place l.len then takeTrap (s.setTask core b (some (failLoad t q p))) core b q.num .eccUncorrectable l.addr 0 p.pc.toNat
         else .next (onSeq (readPiece s core b q load) core q (fun u => u)))

/-- Store `n` of a sequencer is performed (R103, R139, R294). -/
def execStorePerformed (core : Nat) (q : SeqId) (n : Nat) (s : State) : Host.Outcome State Fault Refusal :=
  match s.task? core (s.bankOf core) with
  | none => .next s
  | some t =>
    match (t.seq q).stores[n]? with
    | none => .next s
    | some st =>
      event s (storeReady s core t q n && (!recordFirst s core t q || overdue s t.part))
        (.next (onSeq (performStore (served s t.part st.place) st) core q (fun u => { u with stores := u.stores.eraseIdx n })))

/-- GT has reached the target of a WAITT (R281). -/
def execWaittTargetReached (core : Nat) (s : State) : Host.Outcome State Fault Refusal :=
  waitingC s core (fun i t => match i with | .waitt y o => if t.me.wait.isSome then some (execWaitt y o t) else none | _ => none)

/-- DCC has reached the target of an ALIGN (R282). -/
def execAlignRelease (core : Nat) (s : State) : Host.Outcome State Fault Refusal :=
  waitingC s core (fun i t => match i with | .align y o => if t.me.wait.isSome then some (execAlign y o t) else none | _ => none)

/-- The first access of a timed sequencer that has reached its bound: the cycle of the bound, and the instruction's head parcel (R301). -/
def overdueAccess (s : State) (core : Nat) (t : Task) (q : SeqId) : Option (Nat × BitVec 48) :=
  let u := t.seq q
  if isTimed t u then ((accessDue s core (s.bankOf core) q u).filter (·.1 ≤ s.mcc)).head? else none

/-- The bound of R99 is reached. -/
def leaseOver (s : State) (w : Wait) : Bool := leaseWaits w && leaseAt s.myPart w ≤ s.gt

/-- A wait that has a bound of its own, which has been reached: it wins a tie with the watchdog (R99, R249, R255). -/
def boundWins (s : State) (w : Wait) : Bool :=
  leaseOver s w || (w.kind == 4 && (gapAt s w.addr).any (· ≤ s.gt)) || (collWaits w && collAt s.myPart w ≤ s.gt)

/-- The watchdog limit of a wait is reached (R262). -/
def watchdogOver (s : State) (w : Wait) : Bool := watched s.myPart w && watchdogAt s.myPart w ≤ s.mcc

/-- A sequencer of a core meets a fault of its timing or of its wait on this cycle. -/
def expires (s : State) (core : Nat) (q : SeqId) : Bool :=
  match onTurn s core q with
  | none => false
  | some t =>
    (nextDue t core q t.here).any (· < t.mcc) || (overdueAccess t core t.here q).isSome
      || (match t.me.wait with | some w => watchdogOver t w || boundWins t w | none => false)

/-- Of the sequencers of a task that meet a fault on one cycle the lowest id comes first (R335). -/
def firstToExpire (s : State) (core : Nat) (q : SeqId) : Bool :=
  !([SeqId.c, .t, .v, .m].any (fun k => k.num < q.num && expires s core k))

/-- A timed sequencer has not issued on its cycle, or an access of it has reached its bound (R28, R301). -/
def execSchedMiss (core : Nat) (q : SeqId) (s : State) : Host.Outcome State Fault Refusal :=
  match onTurn s core q with
  | none => .next s
  | some t =>
    let b := t.bankOf core
    match overdueAccess t core t.here q, nextDue t core q t.here with
    | some x, _ =>
      event s (firstToExpire s core q)
        (takeTrap (t.setHere (undoWait t.here q (trapCounts t.here q))) core b q.num .schedMiss (sinceAlign t.me x.1) 0 x.2.toNat)
    | none, some d =>
      let faddr := match curOp t with | .align g _ => g.toNat | _ => sinceAlign t.me d
      event s (d < t.mcc && firstToExpire s core q) (trapUndone t t.me.pc .schedMiss faddr 0)
    | none, none => .next s

/-- The watchdog (R262): every stall but the intended waits counts. -/
def execWatchdogStall (core : Nat) (q : SeqId) (s : State) : Host.Outcome State Fault Refusal :=
  match onTurn s core q with
  | none => .next s
  | some t =>
    match t.me.wait with
    | none => .next s
    | some w =>
      event s (watchdogOver t w && !boundWins t w && firstToExpire s core q) (trapUndone t t.me.pc .stall w.kind 0)

/-- What a record has sent of its single issue is forgotten: after LEASE_WAIT it is performed again from its start (R99). -/
def forgetSent (s : State) : State :=
  let clear (w : Wait) : Wait := { w with sent := 0 }
  s.setMe { s.me with prog := s.me.prog.map (fun p => { p with sent := 0, outs := [] }), wait := s.me.wait.map clear }

/-- A store has waited for its window for LEASEBOUND (R99). -/
def execLeaseWaitExpiry (core : Nat) (q : SeqId) (s : State) : Host.Outcome State Fault Refusal :=
  match onTurn s core q with
  | none => .next s
  | some t =>
    match t.me.wait with
    | none => .next s
    | some w => event s (leaseOver t w && firstToExpire s core q) (trapUndone (forgetSent t) t.me.pc .leaseWait w.addr 0)

/-- The head parcel at the PC has an opcode without a row (R46). -/
def execIllegalOpcode (core : Nat) (q : SeqId) (head : BitVec 32) (s : State) : Host.Outcome State Fault Refusal :=
  match onTurn s core q with
  | none => .next s
  | some t =>
    let r := fetchNow t core q
    if r.2 = some (.run (.illegalOpcode core q head)) then trapHere r.1 .illegalOpcode r.1.me.pc.toNat 0 else .next s

end Sys2Proof.Machine
end

