-- ==== Sys2Proof/Machine/VecConv.lean ====
section
/-! DEFINITION. Conversion and block scales of V (R150 to R153). -/

namespace Sys2Proof.Machine

/-- A conversion between types: `src` and `dst` are the TYPEs of B and of vd, the index runs over the narrower one, and `f`
gives the element from the code of B (R150). -/
def vConv (i : Instr) (y : Syn) (o : VOp) (tys : List Nat) (src dst lat : Nat) (f : Task → Nat → Nat → Nat × Flags) (s : State) :
    Host.Outcome State Fault Refusal :=
  vrun i y tys (fun t s =>
    let ws := typeBytes src
    let wd := typeBytes dst
    let sel := selElems t o.pred.toNat (min ws wd)
    vput s t lat o.vd.toNat wd (sel.map (fun e => (e, f t e (vsrc t o.b false ws e))))) s

/-- VCVT of one code (R151). Between integer types the value is clamped and no flag is set. -/
def convertCode (t : Task) (src dst : Nat) (mode : Mode) (c : Nat) : Nat × Flags :=
  if isIntTy src && isIntTy dst then (intCode dst (clampInt dst (intVal src c)), 0)
  else roundType t dst mode (satOf t dst) (typeVal t src c)

def execVcvt (y : Syn) (o : VOp) (s : State) : Host.Outcome State Fault Refusal :=
  vConv (.vcvt y o) y o [o.opx.toNat, o.ty.toNat] o.opx.toNat o.ty.toNat Config.latFloat (fun t e c =>
    convertCode t o.opx.toNat o.ty.toNat (vmode t o.rm.toNat t.x31 e) c) s

/-- The FP32 scale of element `e`, block 2^b (R152). -/
def blockScale (t : Task) (o : VOp) (e : Nat) : FVal := fp32.decode (spanElem t o.va.toNat 4 (e / 2 ^ o.opx.toNat))

/-- One product, rounded once into a TYPE. -/
def scaleTo (t : Task) (ty : Nat) (mode : Mode) (sat : Bool) (a b : FVal) : Nat × Flags :=
  let p := fMul a b
  let r := roundType t ty mode sat p.1
  (r.1, r.2 ||| p.2)

def execVqnt (y : Syn) (o : VOp) (s : State) : Host.Outcome State Fault Refusal :=
  vConv (.vqnt y o) y o [o.ty.toNat] 0 o.ty.toNat Config.latFma (fun t e c =>
    scaleTo t o.ty.toNat (vmode t o.rm.toNat t.x31 e) (satOf t o.ty.toNat) (fp32.decode c) (blockScale t o e)) s

def execVdqnt (y : Syn) (o : VOp) (s : State) : Host.Outcome State Fault Refusal :=
  vConv (.vdqnt y o) y o [o.ty.toNat] o.ty.toNat 0 Config.latFma (fun t e c =>
    scaleTo t 0 (vmode t o.rm.toNat t.x31 e) false (typeVal t o.ty.toNat c) (blockScale t o e)) s

/-- VSRND: the FP32 value of the rounding into TYPE (R153). -/
def execVsrnd (y : Syn) (o : VOp) (s : State) : Host.Outcome State Fault Refusal :=
  vConv (.vsrnd y o) y o [o.ty.toNat] 0 0 Config.latFloat (fun t e c =>
    let r := roundType t o.ty.toNat (vmode t o.rm.toNat t.x31 e) (satOf t o.ty.toNat) (fp32.decode c)
    ((roundTo fp32 .rne false ((typeFmt t o.ty.toNat).decode r.1)).1, r.2)) s

end Sys2Proof.Machine
end

