-- ==== Sys2Proof/Machine/VecCtl.lean ====
section
/-! DEFINITION. Vector control: VL, VCSR, the rotating region, the closing of a loop (R162 to R164). -/

namespace Sys2Proof.Machine

def execVsetvl (y : Syn) (n : BitVec 8) (s : State) : Host.Outcome State Fault Refusal :=
  vrun (.vsetvl y n) y [] (fun _ s => pendWrites s 1 [.vl n] 0) s

/-- The register form: OPX names its clauses; the old VCSR is read at issue (R162). -/
def execVsetvlReg (y : Syn) (xd xa xb : BitVec 5) (opx : BitVec 4) (s : State) : Host.Outcome State Fault Refusal :=
  vrun (.vsetvlReg y xd xa xb opx) y [] (fun t s =>
    pendWrites s 1
      ((if opx.getLsbD 0 then [.vl ((s.reg xa.toNat).setWidth 8)] else [])
        ++ (if opx.getLsbD 1 then [.vcsr (s.reg xb.toNat)] else [])
        ++ (if opx.getLsbD 2 then [.x xd.toNat t.vcsr] else [])) 0) s

/-- VRB with a region size and a base (R133). -/
def vrbOf (n base : Nat) : Word := BitVec.ofNat 64 (n * 2 ^ 16 + base)

def execRotset (y : Syn) (n : BitVec 7) (s : State) : Host.Outcome State Fault Refusal :=
  vrun (.rotset y n) y [] (fun _ s => pendWrites s 1 [.vrb (vrbOf (8 * n.toNat) 0)] 0) s

/-- LOOPV: one rotation, one count, and the branch while the count is not 0 (R164). -/
def execLoopv (y : Syn) (xc : BitVec 5) (off : BitVec 20) (s : State) : Host.Outcome State Fault Refusal :=
  vrun (.loopv y xc off) y [] (fun t s =>
    let n := t.rotN
    let v := s.reg xc.toNat - 1
    let target := branchTarget (headPc s (.loopv y xc off)) (off.signExtend 32)
    let rot := if n = 0 then [] else [.vrb (vrbOf n ((t.rotBase + n - 1) % n))]
    let s := pendWrites s 1 (rot ++ [.x xc.toNat v]) 0
    if v != 0 then setPc s target else s) s

end Sys2Proof.Machine
end

