-- ==== Sys2Proof/Machine/VecFloat.lean ====
section
/-! DEFINITION. The floating-point group of V (R144). -/

namespace Sys2Proof.Machine

/-- A rounding operation: the exact result of the values of vd, va and B, rounded once (R144). -/
def vRound (i : Instr) (y : Syn) (o : VOp) (lat : Nat) (op : FVal → FVal → FVal → FVal × Flags) (s : State) :
    Host.Outcome State Fault Refusal :=
  vElem i y o false lat (fun t ty e d a b =>
    let f := typeFmt t ty
    rounded f (vmode t o.rm.toNat t.x31 e) false (op (f.decode d) (f.decode a) (f.decode b))) s

def execVadd (y : Syn) (o : VOp) (s : State) := vRound (.vadd y o) y o Config.latFloat (fun _ a b => fAdd a b) s
/-- VSUB and, in the same way, VFMS negate B and add (R144), so that -0 - (+0) is -0: the sum of two -0 addends that R62 excepts
(DEDUCED, log 75). -/
def execVsub (y : Syn) (o : VOp) (s : State) := vRound (.vsub y o) y o Config.latFloat (fun _ a b => fAdd a b.neg) s
def execVmul (y : Syn) (o : VOp) (s : State) := vRound (.vmul y o) y o Config.latFloat (fun _ a b => fMul a b) s
def execVfma (y : Syn) (o : VOp) (s : State) := vRound (.vfma y o) y o Config.latFma (fun d a b => fFma d a b) s
def execVfms (y : Syn) (o : VOp) (s : State) := vRound (.vfms y o) y o Config.latFma (fun d a b => fFma d a b.neg) s
def execVdiv (y : Syn) (o : VOp) (s : State) := vRound (.vdiv y o) y o Config.latDiv (fun _ a b => fDiv a b) s
def execVsqrt (y : Syn) (o : VOp) (s : State) := vRound (.vsqrt y o) y o Config.latSqrt (fun _ _ b => fSqrt b) s
def execVrcp (y : Syn) (o : VOp) (s : State) := vRound (.vrcp y o) y o Config.latRcp (fun _ _ b => fRcp b) s
def execVrsq (y : Syn) (o : VOp) (s : State) := vRound (.vrsq y o) y o Config.latRcp (fun _ _ b => fRsq b) s
def execVexp2 (y : Syn) (o : VOp) (s : State) : Host.Outcome State Fault Refusal :=
  vElem (.vexp2 y o) y o false Config.latExpLog (fun t ty e _ _ b =>
    exp2To (typeFmt t ty) (vmode t o.rm.toNat t.x31 e) ((typeFmt t ty).decode b)) s
def execVlog2 (y : Syn) (o : VOp) (s : State) := vRound (.vlog2 y o) y o Config.latExpLog (fun _ _ b => fLog2 b) s

/-- An operation on the bits alone; it raises nothing (R62, R144). -/
def vBits (i : Instr) (y : Syn) (o : VOp) (f : Task → Nat → Nat → Nat → Nat) (s : State) : Host.Outcome State Fault Refusal :=
  vElem i y o false Config.latFloat (fun t ty _ _ a b => (f t ty a b, 0)) s

def signBit (ty : Nat) : Nat := 2 ^ (8 * typeBytes ty - 1)

def execVmin (y : Syn) (o : VOp) (s : State) := vBits (.vmin y o) y o (fun t ty a b => fMinMax (typeFmt t ty) false a b) s
def execVmax (y : Syn) (o : VOp) (s : State) := vBits (.vmax y o) y o (fun t ty a b => fMinMax (typeFmt t ty) true a b) s
def execVabs (y : Syn) (o : VOp) (s : State) := vBits (.vabs y o) y o (fun _ ty _ b => b % signBit ty) s
def execVneg (y : Syn) (o : VOp) (s : State) := vBits (.vneg y o) y o (fun _ ty _ b => (b + signBit ty) % (2 * signBit ty)) s
def execVmov (y : Syn) (o : VOp) (s : State) := vBits (.vmov y o) y o (fun _ _ _ b => b) s

end Sys2Proof.Machine
end

