-- ==== Sys2Proof/Machine/VecInt.lean ====
section
/-! DEFINITION. The integer and bitwise group of V (R145). -/

namespace Sys2Proof.Machine

/-- An integer operation of the codes of va and B in TYPE (R145). -/
def vInt (i : Instr) (y : Syn) (o : VOp) (f : Nat → Nat → Nat → Nat) (s : State) : Host.Outcome State Fault Refusal :=
  vElem i y o true Config.latInt (fun _ ty _ _ a b => (f ty a b, 0)) s

/-- Exact arithmetic, clamped with SAT = 1 and wrapped otherwise. -/
def vArith (i : Instr) (y : Syn) (o : VOp) (f : Int → Int → Int) (s : State) : Host.Outcome State Fault Refusal :=
  vInt i y o (fun ty a b =>
    let z := f (intVal ty a) (intVal ty b)
    intCode ty (if o.opx.getLsbD 0 then clampInt ty z else z)) s

def execViadd (y : Syn) (o : VOp) (s : State) := vArith (.viadd y o) y o (fun a b => a + b) s
def execVisub (y : Syn) (o : VOp) (s : State) := vArith (.visub y o) y o (fun a b => a - b) s
def execVimul (y : Syn) (o : VOp) (s : State) := vArith (.vimul y o) y o (fun a b => a * b) s
def execVand (y : Syn) (o : VOp) (s : State) := vInt (.vand y o) y o (fun _ a b => a &&& b) s
def execVor (y : Syn) (o : VOp) (s : State) := vInt (.vor y o) y o (fun _ a b => a ||| b) s
def execVxor (y : Syn) (o : VOp) (s : State) := vInt (.vxor y o) y o (fun _ a b => a ^^^ b) s

/-- A shift count is B, unsigned, modulo the width in bits. -/
def shiftCount (ty b : Nat) : Nat := b % (8 * typeBytes ty)
def signedCode (ty a : Nat) : Int := sbits a 0 (8 * typeBytes ty)

def execVshl (y : Syn) (o : VOp) (s : State) := vInt (.vshl y o) y o (fun ty a b => intCode ty (a * 2 ^ shiftCount ty b : Nat)) s
def execVshr (y : Syn) (o : VOp) (s : State) := vInt (.vshr y o) y o (fun ty a b => a / 2 ^ shiftCount ty b) s
def execVsra (y : Syn) (o : VOp) (s : State) :=
  vInt (.vsra y o) y o (fun ty a b => intCode ty (signedCode ty a / (2 ^ shiftCount ty b : Nat))) s
def execVimin (y : Syn) (o : VOp) (s : State) := vInt (.vimin y o) y o (fun ty a b => if intVal ty a ≤ intVal ty b then a else b) s
def execVimax (y : Syn) (o : VOp) (s : State) := vInt (.vimax y o) y o (fun ty a b => if intVal ty a ≤ intVal ty b then b else a) s

end Sys2Proof.Machine
end

