-- ==== Sys2Proof/Machine/VecPred.lean ====
section
/-! DEFINITION. Compares, selection and predicates of V (R146 to R149). -/

namespace Sys2Proof.Machine

/-- A condition of VCMP (R146). -/
def vcond (cond : Nat) (a b : FVal) : Bool :=
  let un := a.isNan || b.isNan
  let eq := FVal.eq a b
  match cond with
  | 0 => eq
  | 1 => !eq
  | 2 => !un && !eq && a.le b
  | 3 => !un && (eq || a.le b)
  | 4 => !un && !eq && b.le a
  | 5 => !un && (eq || b.le a)
  | _ => un

/-- VD of VCMP: IT, COND and PD. -/
def vcmpIt (o : VOp) : Bool := o.vd.getLsbD 9
def vcmpCond (o : VOp) : Nat := (o.vd.extractLsb' 4 3).toNat
def vcmpPd (o : VOp) : Nat := (o.vd.extractLsb' 0 4).toNat

def execVcmp (y : Syn) (o : VOp) (s : State) : Host.Outcome State Fault Refusal :=
  vrun (.vcmp y o) y [vtype o (vcmpIt o)] (fun t s =>
    let ty := vtype o (vcmpIt o)
    let w := typeBytes ty
    let res := (selElems t o.pred.toNat w).map (fun e =>
      (e, vcond (vcmpCond o) (typeVal t ty (spanElem t o.va.toNat w e)) (typeVal t ty (vsrc t o.b (vcmpIt o) w e))))
    pendWrites s Config.latPredicate [predWrite t (vcmpPd o) w res] 0) s

def execVsel (y : Syn) (o : VOp) (s : State) : Host.Outcome State Fault Refusal :=
  vElem (.vsel y o) y o false Config.latFloat (fun t ty e _ a b =>
    (if (t.pget o.opx.toNat).getLsbD (e * typeBytes ty) then a else b, 0)) s

/-- The lanes b with b ≤ VLM1 (R148). -/
def laneMask (t : Task) : BitVec 256 := BitVec.ofNat 256 (2 ^ (t.vlm1 + 1) - 1)

/-- A predicate operation: the lanes above VLM1 keep their bits (R148, R149). -/
def predOp (i : Instr) (y : Syn) (pd : BitVec 4) (f : Task → BitVec 256) (s : State) : Host.Outcome State Fault Refusal :=
  vrun i y [] (fun t s => pendWrites s Config.latPredicate [.p (physP t pd.toNat) (laneMask t) (f t)] 0) s

def execPand (y : Syn) (pd pa pb : BitVec 4) (s : State) := predOp (.pand y pd pa pb) y pd (fun t => t.pget pa.toNat &&& t.pget pb.toNat) s
def execPor (y : Syn) (pd pa pb : BitVec 4) (s : State) := predOp (.por y pd pa pb) y pd (fun t => t.pget pa.toNat ||| t.pget pb.toNat) s
def execPxor (y : Syn) (pd pa pb : BitVec 4) (s : State) := predOp (.pxor y pd pa pb) y pd (fun t => t.pget pa.toNat ^^^ t.pget pb.toNat) s
def execPnot (y : Syn) (pd pa : BitVec 4) (s : State) := predOp (.pnot y pd pa) y pd (fun t => ~~~ (t.pget pa.toNat)) s
def execPset (y : Syn) (pd v : BitVec 4) (s : State) :=
  predOp (.pset y pd v) y pd (fun _ => if v.getLsbD 0 then BitVec.allOnes 256 else 0) s

def execPcnt (y : Syn) (xd : BitVec 5) (pa : BitVec 4) (s : State) : Host.Outcome State Fault Refusal :=
  vrun (.pcnt y xd pa) y [] (fun t s =>
    pendWrites s Config.latPredicate [.x xd.toNat (BitVec.ofNat 64 (popcount 256 (t.pget pa.toNat &&& laneMask t).toNat))] 0) s

end Sys2Proof.Machine
end

