-- ==== Sys2Proof/Machine/Dispatch.lean ====
section
/-! DEFINITION. One arm per constructor of Instr: each one call of its meaning. -/

namespace Sys2Proof.Machine

open Sys2Proof

def exec (i : Instr) (s : State) : Host.Outcome State Fault Refusal :=
  match i with
  | .add y o => Sys2Proof.Machine.execAdd y o s
  | .sub y o => Sys2Proof.Machine.execSub y o s
  | .and y o => Sys2Proof.Machine.execAnd y o s
  | .or y o => Sys2Proof.Machine.execOr y o s
  | .xor y o => Sys2Proof.Machine.execXor y o s
  | .sll y o => Sys2Proof.Machine.execSll y o s
  | .srl y o => Sys2Proof.Machine.execSrl y o s
  | .sra y o => Sys2Proof.Machine.execSra y o s
  | .mul y o => Sys2Proof.Machine.execMul y o s
  | .mulh y o => Sys2Proof.Machine.execMulh y o s
  | .mulhu y o => Sys2Proof.Machine.execMulhu y o s
  | .div y o => Sys2Proof.Machine.execDiv y o s
  | .divu y o => Sys2Proof.Machine.execDivu y o s
  | .rem y o => Sys2Proof.Machine.execRem y o s
  | .remu y o => Sys2Proof.Machine.execRemu y o s
  | .min y o => Sys2Proof.Machine.execMin y o s
  | .max y o => Sys2Proof.Machine.execMax y o s
  | .minu y o => Sys2Proof.Machine.execMinu y o s
  | .maxu y o => Sys2Proof.Machine.execMaxu y o s
  | .slt y o => Sys2Proof.Machine.execSlt y o s
  | .sltu y o => Sys2Proof.Machine.execSltu y o s
  | .seq y o => Sys2Proof.Machine.execSeq y o s
  | .li y o => Sys2Proof.Machine.execLi y o s
  | .clz y o => Sys2Proof.Machine.execClz y o s
  | .popc y o => Sys2Proof.Machine.execPopc y o s
  | .rotl y o => Sys2Proof.Machine.execRotl y o s
  | .bext y o => Sys2Proof.Machine.execBext y o s
  | .bins y o => Sys2Proof.Machine.execBins y o s
  | .j y o => Sys2Proof.Machine.execJ y o s
  | .jal y o => Sys2Proof.Machine.execJal y o s
  | .jr y o => Sys2Proof.Machine.execJr y o s
  | .beq y o => Sys2Proof.Machine.execBeq y o s
  | .bne y o => Sys2Proof.Machine.execBne y o s
  | .blt y o => Sys2Proof.Machine.execBlt y o s
  | .bge y o => Sys2Proof.Machine.execBge y o s
  | .bltu y o => Sys2Proof.Machine.execBltu y o s
  | .bgeu y o => Sys2Proof.Machine.execBgeu y o s
  | .bbs y o => Sys2Proof.Machine.execBbs y o s
  | .ldb y o => Sys2Proof.Machine.execLdb y o s
  | .ldh y o => Sys2Proof.Machine.execLdh y o s
  | .ldw y o => Sys2Proof.Machine.execLdw y o s
  | .ldd y o => Sys2Proof.Machine.execLdd y o s
  | .ldbu y o => Sys2Proof.Machine.execLdbu y o s
  | .ldhu y o => Sys2Proof.Machine.execLdhu y o s
  | .ldwu y o => Sys2Proof.Machine.execLdwu y o s
  | .stb y o => Sys2Proof.Machine.execStb y o s
  | .sth y o => Sys2Proof.Machine.execSth y o s
  | .stw y o => Sys2Proof.Machine.execStw y o s
  | .std y o => Sys2Proof.Machine.execStd y o s
  | .ldsc y o => Sys2Proof.Machine.execLdsc y o s
  | .stsc y o => Sys2Proof.Machine.execStsc y o s
  | .start y m v t => Sys2Proof.Machine.execStart y m v t s
  | .param y o => Sys2Proof.Machine.execParam y o s
  | .fmtq y o => Sys2Proof.Machine.execFmtq y o s
  | .sig y e n => Sys2Proof.Machine.execSig y e n s
  | .wait y e n => Sys2Proof.Machine.execWait y e n s
  | .semadd y o => Sys2Proof.Machine.execSemadd y o s
  | .semwait y o => Sys2Proof.Machine.execSemwait y o s
  | .semset y o => Sys2Proof.Machine.execSemset y o s
  | .arrive y n => Sys2Proof.Machine.execArrive y n s
  | .bwait y n => Sys2Proof.Machine.execBwait y n s
  | .barm y o => Sys2Proof.Machine.execBarm y o s
  | .binit y o => Sys2Proof.Machine.execBinit y o s
  | .qfence y q => Sys2Proof.Machine.execQfence y q s
  | .fence y scope => Sys2Proof.Machine.execFence y scope s
  | .rfence y o => Sys2Proof.Machine.execRfence y o s
  | .waitt y o => Sys2Proof.Machine.execWaitt y o s
  | .rdcc y o => Sys2Proof.Machine.execRdcc y o s
  | .rdgt y o => Sys2Proof.Machine.execRdgt y o s
  | .align y o => Sys2Proof.Machine.execAlign y o s
  | .launch y o => Sys2Proof.Machine.execLaunch y o s
  | .child y o => Sys2Proof.Machine.execChild y o s
  | .yield y o => Sys2Proof.Machine.execYield y o s
  | .trap y code => Sys2Proof.Machine.execTrap y code s
  | .csrr y o => Sys2Proof.Machine.execCsrr y o s
  | .csrw y o => Sys2Proof.Machine.execCsrw y o s
  | .setkey y o => Sys2Proof.Machine.execSetkey y o s
  | .halt y => Sys2Proof.Machine.execHalt y s
  | .coll y o => Sys2Proof.Machine.execColl y o s
  | .collw y o => Sys2Proof.Machine.execCollw y o s
  | .collwRetire y o => Sys2Proof.Machine.execCollwRetire y o s
  | .spore y o => Sys2Proof.Machine.execSpore y o s
  | .sorw y o => Sys2Proof.Machine.execSorw y o s
  | .a2a y o => Sys2Proof.Machine.execA2a y o s
  | .wmap y o => Sys2Proof.Machine.execWmap y o s
  | .wunmap y o => Sys2Proof.Machine.execWunmap y o s
  | .lrecall y o => Sys2Proof.Machine.execLrecall y o s
  | .nop y => Sys2Proof.Machine.execNop y s
  | .idle y n => Sys2Proof.Machine.execIdle y n s
  | .region y => Sys2Proof.Machine.execRegion y s
  | .endStream y => Sys2Proof.Machine.execEndStream y s
  | .jmp y off => Sys2Proof.Machine.execJmp y off s
  | .bnzd y r off => Sys2Proof.Machine.execBnzd y r off s
  | .pop y xd => Sys2Proof.Machine.execPop y xd s
  | .xadd y o => Sys2Proof.Machine.execXadd y o s
  | .vadd y o => Sys2Proof.Machine.execVadd y o s
  | .vsub y o => Sys2Proof.Machine.execVsub y o s
  | .vmul y o => Sys2Proof.Machine.execVmul y o s
  | .vfma y o => Sys2Proof.Machine.execVfma y o s
  | .vfms y o => Sys2Proof.Machine.execVfms y o s
  | .vdiv y o => Sys2Proof.Machine.execVdiv y o s
  | .vmin y o => Sys2Proof.Machine.execVmin y o s
  | .vmax y o => Sys2Proof.Machine.execVmax y o s
  | .vabs y o => Sys2Proof.Machine.execVabs y o s
  | .vneg y o => Sys2Proof.Machine.execVneg y o s
  | .vsqrt y o => Sys2Proof.Machine.execVsqrt y o s
  | .vrcp y o => Sys2Proof.Machine.execVrcp y o s
  | .vrsq y o => Sys2Proof.Machine.execVrsq y o s
  | .vexp2 y o => Sys2Proof.Machine.execVexp2 y o s
  | .vlog2 y o => Sys2Proof.Machine.execVlog2 y o s
  | .vmov y o => Sys2Proof.Machine.execVmov y o s
  | .viadd y o => Sys2Proof.Machine.execViadd y o s
  | .visub y o => Sys2Proof.Machine.execVisub y o s
  | .vimul y o => Sys2Proof.Machine.execVimul y o s
  | .vand y o => Sys2Proof.Machine.execVand y o s
  | .vor y o => Sys2Proof.Machine.execVor y o s
  | .vxor y o => Sys2Proof.Machine.execVxor y o s
  | .vshl y o => Sys2Proof.Machine.execVshl y o s
  | .vshr y o => Sys2Proof.Machine.execVshr y o s
  | .vsra y o => Sys2Proof.Machine.execVsra y o s
  | .vimin y o => Sys2Proof.Machine.execVimin y o s
  | .vimax y o => Sys2Proof.Machine.execVimax y o s
  | .vcmp y o => Sys2Proof.Machine.execVcmp y o s
  | .vsel y o => Sys2Proof.Machine.execVsel y o s
  | .pand y pd pa pb => Sys2Proof.Machine.execPand y pd pa pb s
  | .por y pd pa pb => Sys2Proof.Machine.execPor y pd pa pb s
  | .pxor y pd pa pb => Sys2Proof.Machine.execPxor y pd pa pb s
  | .pnot y pd pa => Sys2Proof.Machine.execPnot y pd pa s
  | .pset y pd v => Sys2Proof.Machine.execPset y pd v s
  | .pcnt y xd pa => Sys2Proof.Machine.execPcnt y xd pa s
  | .vcvt y o => Sys2Proof.Machine.execVcvt y o s
  | .vqnt y o => Sys2Proof.Machine.execVqnt y o s
  | .vdqnt y o => Sys2Proof.Machine.execVdqnt y o s
  | .vsrnd y o => Sys2Proof.Machine.execVsrnd y o s
  | .vrsum y o => Sys2Proof.Machine.execVrsum y o s
  | .vrmax y o => Sys2Proof.Machine.execVrmax y o s
  | .vrmin y o => Sys2Proof.Machine.execVrmin y o s
  | .vdot y o => Sys2Proof.Machine.execVdot y o s
  | .vperm y o => Sys2Proof.Machine.execVperm y o s
  | .vslide y o => Sys2Proof.Machine.execVslide y o s
  | .vbcast y o => Sys2Proof.Machine.execVbcast y o s
  | .vzip y o => Sys2Proof.Machine.execVzip y o s
  | .vunzip y o => Sys2Proof.Machine.execVunzip y o s
  | .vld y f => Sys2Proof.Machine.execVld y f s
  | .vst y f => Sys2Proof.Machine.execVst y f s
  | .vlds y f => Sys2Proof.Machine.execVlds y f s
  | .vsts y f => Sys2Proof.Machine.execVsts y f s
  | .vgath y f => Sys2Proof.Machine.execVgath y f s
  | .vscat y f => Sys2Proof.Machine.execVscat y f s
  | .kld y o => Sys2Proof.Machine.execKld y o s
  | .vsetvl y n => Sys2Proof.Machine.execVsetvl y n s
  | .vsetvlReg y xd xa xb opx => Sys2Proof.Machine.execVsetvlReg y xd xa xb opx s
  | .loopv y xc off => Sys2Proof.Machine.execLoopv y xc off s
  | .rotset y n => Sys2Proof.Machine.execRotset y n s
  | .vz y f => Sys2Proof.Machine.execVz y f s
  | .vzacc y f => Sys2Proof.Machine.execVzacc y f s
  | .vunif y f => Sys2Proof.Machine.execVunif y f s
  | .vcat y o => Sys2Proof.Machine.execVcat y o s
  | .vdrop y f => Sys2Proof.Machine.execVdrop y f s
  | .ldx y r => Sys2Proof.Machine.execLdx y r s
  | .stx y r => Sys2Proof.Machine.execStx y r s
  | .cpx y r => Sys2Proof.Machine.execCpx y r s
  | .mcx y r => Sys2Proof.Machine.execMcx y r s
  | .gthx y r => Sys2Proof.Machine.execGthx y r s
  | .sctx y r => Sys2Proof.Machine.execSctx y r s
  | .bmx y r => Sys2Proof.Machine.execBmx y r s
  | .bmld y o => Sys2Proof.Machine.execBmld y o s
  | .scacc y r => Sys2Proof.Machine.execScacc y r s
  | .sccfg y o => Sys2Proof.Machine.execSccfg y o s
  | .zfx y r => Sys2Proof.Machine.execZfx y r s
  | .tagx y o => Sys2Proof.Machine.execTagx y o s
  | .wld y r => Sys2Proof.Machine.execWld y r s
  | .mma y r => Sys2Proof.Machine.execMma y r s
  | .gate y r => Sys2Proof.Machine.execGate y r s
  | .adrn y r => Sys2Proof.Machine.execAdrn y r s
  | .aswap y acc => Sys2Proof.Machine.execAswap y acc s
  | .azero y bank acc => Sys2Proof.Machine.execAzero y bank acc s
  | .achk y bank acc => Sys2Proof.Machine.execAchk y bank acc s
  | .asave y r => Sys2Proof.Machine.execAsave y r s
  | .aload y r => Sys2Proof.Machine.execAload y r s
  | .avset y o => Sys2Proof.Machine.execAvset y o s
  | .fdrop y n => Sys2Proof.Machine.execFdrop y n s
  | .epsset y o => Sys2Proof.Machine.execEpsset y o s
  | .recordSingleIssue core q => Sys2Proof.Machine.execRecordSingleIssue core q s
  | .engineResultWrite core q id => Sys2Proof.Machine.execEngineResultWrite core q id s
  | .loadDataArrival core q load => Sys2Proof.Machine.execLoadDataArrival core q load s
  | .storePerformed core q n => Sys2Proof.Machine.execStorePerformed core q n s
  | .waittTargetReached core => Sys2Proof.Machine.execWaittTargetReached core s
  | .alignRelease core => Sys2Proof.Machine.execAlignRelease core s
  | .schedMiss core q => Sys2Proof.Machine.execSchedMiss core q s
  | .watchdogStall core q => Sys2Proof.Machine.execWatchdogStall core q s
  | .leaseWaitExpiry core q => Sys2Proof.Machine.execLeaseWaitExpiry core q s
  | .illegalOpcode core q head => Sys2Proof.Machine.execIllegalOpcode core q head s
  | .flitDeparture flit copy => Sys2Proof.Machine.execFlitDeparture flit copy s
  | .flitDelivery f => Sys2Proof.Machine.execFlitDelivery f s
  | .flitAckArrival flit bitmap => Sys2Proof.Machine.execFlitAckArrival flit bitmap s
  | .ackTimeout flit missing => Sys2Proof.Machine.execAckTimeout flit missing s
  | .memberDisabled m => Sys2Proof.Machine.execMemberDisabled m s
  | .leaseRequest src rx need => Sys2Proof.Machine.execLeaseRequest src rx need s
  | .leaseReply tx pos granted base epoch => Sys2Proof.Machine.execLeaseReply tx pos granted base epoch s
  | .wmapMemberTimeout tx => Sys2Proof.Machine.execWmapMemberTimeout tx s
  | .leaseRecall tx pos => Sys2Proof.Machine.execLeaseRecall tx pos s
  | .leaseRelease tx pos => Sys2Proof.Machine.execLeaseRelease tx pos s
  | .leaseReleaseArrival rx src => Sys2Proof.Machine.execLeaseReleaseArrival rx src s
  | .lrecallSilentSource rx src => Sys2Proof.Machine.execLrecallSilentSource rx src s
  | .leaseRegrant tx pos base epoch => Sys2Proof.Machine.execLeaseRegrant tx pos base epoch s
  | .leaseReturn rx src => Sys2Proof.Machine.execLeaseReturn rx src s
  | .sorusRecordArrival off record sender => Sys2Proof.Machine.execSorusRecordArrival off record sender s
  | .sorusSeal step => Sys2Proof.Machine.execSorusSeal step s
  | .sorusStepDeadline step => Sys2Proof.Machine.execSorusStepDeadline step s
  | .gapRetransmit step => Sys2Proof.Machine.execGapRetransmit step s
  | .gapRequestArrival req => Sys2Proof.Machine.execGapRequestArrival req s
  | .gapReplyArrival rep => Sys2Proof.Machine.execGapReplyArrival rep s
  | .sorusGapBound core => Sys2Proof.Machine.execSorusGapBound core s
  | .sorfirstWrite v => Sys2Proof.Machine.execSorfirstWrite v s
  | .collPacketArrival p => Sys2Proof.Machine.execCollPacketArrival p s
  | .collPacketAck part cid gen => Sys2Proof.Machine.execCollPacketAck part cid gen s
  | .collFinishCount part cid member count => Sys2Proof.Machine.execCollFinishCount part cid member count s
  | .collOverrun core => Sys2Proof.Machine.execCollOverrun core s
  | .collwTimeout core => Sys2Proof.Machine.execCollwTimeout core s
  | .timingMessage corr => Sys2Proof.Machine.execTimingMessage corr s
  | .timelockReady jump => Sys2Proof.Machine.execTimelockReady jump s
  | .timelockLost  => Sys2Proof.Machine.execTimelockLost  s
  | .hbmRefresh stack => Sys2Proof.Machine.execHbmRefresh stack s
  | .patrolScrub line find => Sys2Proof.Machine.execPatrolScrub line find s
  | .gtadjSetLock  => Sys2Proof.Machine.execGtadjSetLock  s
  | .gtadjClearLock  => Sys2Proof.Machine.execGtadjClearLock  s
  | .gtadjCorrection adj => Sys2Proof.Machine.execGtadjCorrection adj s
  | .launchPrepare part => Sys2Proof.Machine.execLaunchPrepare part s
  | .launchStart part id core => Sys2Proof.Machine.execLaunchStart part id core s
  | .launchRecordFinal part => Sys2Proof.Machine.execLaunchRecordFinal part s
  | .lqtailWrite first tail => Sys2Proof.Machine.execLqtailWrite first tail s
  | .submit first desc host => Sys2Proof.Machine.execSubmit first desc host s
  | .endlaunch id host => Sys2Proof.Machine.execEndlaunch id host s
  | .preboundExpiry core bank => Sys2Proof.Machine.execPreboundExpiry core bank s
  | .unansweredRecordExpiry core bank => Sys2Proof.Machine.execUnansweredRecordExpiry core bank s
  | .taskRestore core bank => Sys2Proof.Machine.execTaskRestore core bank s
  | .lateTrapRecord core bank => Sys2Proof.Machine.execLateTrapRecord core bank s
  | .answerResume part slot => Sys2Proof.Machine.execAnswerResume part slot s
  | .answerEnd part slot => Sys2Proof.Machine.execAnswerEnd part slot s
  | .cut core bank host => Sys2Proof.Machine.execCut core bank host s
  | .readbank core bank dst host => Sys2Proof.Machine.execReadbank core bank dst host s
  | .regpart first size addr host => Sys2Proof.Machine.execRegpart first size addr host s
  | .regtq first addr host => Sys2Proof.Machine.execRegtq first addr host s
  | .partitionDestroy first => Sys2Proof.Machine.execPartitionDestroy first s
  | .bar2Read off len => Sys2Proof.Machine.execBar2Read off len s
  | .bar2Write off bytes => Sys2Proof.Machine.execBar2Write off bytes s
  | .registerWrite r v => Sys2Proof.Machine.execRegisterWrite r v s
  | .attestationReport nonce => Sys2Proof.Machine.execAttestationReport nonce s
  | .moduleReset hostBoot image readOk => Sys2Proof.Machine.execModuleReset hostBoot image readOk s
  | .bootHostBuffer addr image readOk => Sys2Proof.Machine.execBootHostBuffer addr image readOk s
  | .pwrok  => Sys2Proof.Machine.execPwrok  s
  | .railLoss rail => Sys2Proof.Machine.execRailLoss rail s
  | .thermalThrottle die f => Sys2Proof.Machine.execThermalThrottle die f s
  | .thermtrip die => Sys2Proof.Machine.execThermtrip die s
  | .islandFrequencyChange island f => Sys2Proof.Machine.execIslandFrequencyChange island f s
  | .functionReady f => Sys2Proof.Machine.execFunctionReady f s
  | .driveDma addr bytes => Sys2Proof.Machine.execDriveDma addr bytes s
  | .spdmMessage stream key => Sys2Proof.Machine.execSpdmMessage stream key s

end Sys2Proof.Machine
end

