-- ==== Sys2Proof/Machine/Place.lean ====
section
/-! DEFINITION. An instruction stored where the next step fetches it: the load of a program that withFetchWord stands for
(log 10). -/

namespace Sys2Proof.Machine

/-- An instruction is none of the events. -/
def isEvent (i : Instr) : Bool := !([SeqId.c, .t, .v, .m].any (fun q => inSpace q i))

/-- Where the placed program lies: task address and physical page. -/
def placeVa : Nat := Config.hbmBase
def placePa : Nat := 0x100000

/-- A privileged token-mode task of a one-cluster partition at cluster 0, whose sequencer `q` stands at `placeVa`, with a
trap queue registered in stack 0 (block at 0x8000, queue at 0x10000, save area at 0x200000). -/
def placeTask (q : SeqId) : Task :=
  let u : Seq := { Seq.reset with stream := .running, pc := BitVec.ofNat 48 placeVa, lastRegion := BitVec.ofNat 48 placeVa }
  let e : Extent := { Extent.reset with valid := true, vbase := placeVa, pbase := placePa, r := true, x := true }
  { Task.reset with priv := true, launch := 1, extents := [(0, e)] }.setSeq q u

def placePart : Partition := { Partition.absent with present := true, tqBlock := 0x8000, nextId := 2 }

/-- The parcels in memory, the task in core 0, the turn with its sequencer. Partition 0 owns the position at which the wheel of stack 0 stands, so that an
instruction of several granules is fetched on one cycle (R320). -/
def placeAt (s : State) (q : SeqId) (ps : List Parcel) : State :=
  let bytes := ps.flatMap (fun p => leBytes 4 p.toNat)
  let s := { s with hbm := putBytes (putBytes (putBytes s.hbm placePa bytes) 0x8000 (leBytes 8 0x10000)) (0x8000 + 48) (leBytes 8 0x200000),
                    ready := s.ready ||| 0x40000#64, wheels := Sparse.set 0 (s.mcc % 64) 0x80 s.wheels, agenda := [.seq 0 q] }
  let s := s.setPart 0 placePart
  s.setCore 0 { s.core 0 with bank0 := some (placeTask q), bank := 0 }

/-- The sequencer whose space reads the parcels, C where none does. -/
def placeSeq (ps : List Parcel) : SeqId := match decodeAny ps with | some (q, _) => q | none => .c

end Sys2Proof.Machine
end

