-- ==== Sys2Proof/Machine/Step.lean ====
section
/-! DEFINITION. One step of the module: the next turn of the agenda, or a free turn (log 2), and the placing of an
instruction where the next step fetches it. -/

namespace Sys2Proof.Machine

/-- A sequencer waits at a fetch: for the wheel of the stack of what it has yet to fetch, where the turn tried all of it. Where it is in its waiting
phase, or made one read alone, it only waits. -/
def fetchWait (s : State) : Host.Outcome State Fault Refusal :=
  if s.pick.isSome || inWait s.me then .next s
  else .next (stallWith s { blankWait 5 with op := fetchStack s s.cur.core s.cur.q })

/-- A sequencer's turn: the next single issue of its record in progress, or the instruction at its PC. -/
def runSeq (core : Nat) (q : SeqId) (s : State) : Host.Outcome State Fault Refusal :=
  match onTurn s core q with
  | none => .next s
  | some s =>
    if s.me.prog.isSome then exec (.recordSingleIssue core q) s
    else
      let r := fetchNow s core q
      match r.2 with
      | none => fetchWait r.1
      | some (.run i) => exec i r.1
      | some (.trap c faddr flags) => trapHere r.1 c faddr flags

/-- What a turn of one read leaves: the next turn is an ordinary one. -/
def unpicked (r : Host.Outcome State Fault Refusal) : Host.Outcome State Fault Refusal :=
  match r with
  | .next s => .next { s with pick := none }
  | r => r

/-- A sequencer that is not timed makes one read before it goes on, the `n`-th of those that it can make now (R293). A timed one reads as it issues. -/
def turnEarly (core : Nat) (q : SeqId) (n : Nat) (s : State) : Host.Outcome State Fault Refusal :=
  match s.task? core (s.bankOf core) with
  | none => .next s
  | some t => if isTimed t (t.seq q) then .next s else unpicked (runSeq core q { s with pick := some n })

/-- One turn: an event acts as its row says; an instruction is no event. -/
def runTurn (t : Turn) (s : State) : Host.Outcome State Fault Refusal :=
  match t with
  | .seq core q => runSeq core q s
  | .event i => if isEvent i then exec i s else .next s
  | .clock cycles ns => .next (clockTick s cycles ns)
  | .early core q n => turnEarly core q n s
  | .port core busy => turnPort core busy s
  | .land n => turnLand n s
  | .packet part n port => turnPacket part n port s
  | .coll part n pick => turnColl part n pick s
  | .gap id port => turnGap id port s
  | .digest part id range => turnDigest part id range s
  | .lineUpset line symbols => turnLineUpset line symbols s
  | .wordUpset w => turnWordUpset w s
  | .fecDiscard port => turnFecDiscard port s
  | .bar0Read off => turnBar0Read off s

def step (s : State) : Host.Outcome State Fault Refusal :=
  match s.agenda with
  | t :: rest => runTurn t { s with agenda := rest }
  | [] => runTurn (Config.freeTurn s.moves) { s with moves := s.moves + 1 }

def State.withFetchWord (s : State) (nbits w : Nat) : State :=
  let ps := parcelsOf 16 (w % 2 ^ nbits)
  placeAt s (placeSeq ps) ps

end Sys2Proof.Machine
end

