-- ==== Sys2Proof/Safety.lean ====
section
/-! DEFINITION. What counts as a safe run, and the terms in which the statements speak: when an instruction may issue, and
what a completed one leaves. -/

namespace Sys2Proof

open Sys2Proof.Machine

/-- `n` steps from `s` all answer a next state. -/
def SafeFor : Nat → Machine.State → Prop
  | 0, _ => True
  | n + 1, s => ∃ t, Machine.step s = .next t ∧ SafeFor n t

/-- A step never stops the machine at `s`. -/
def SafeStep (s : Machine.State) : Prop := ∃ t, Machine.step s = .next t

/-- Instruction `i`, whose SYN field is `y`, issues at `s` (R25 to R29): the sequencer has the turn and stands at no waiting
phase, the form belongs to its space, is allowed in its mode and has legal fields, its cycle and its tokens are there, and
the results that are due can be written. `t` is the executing task with those results in its registers. -/
structure Ready (s : State) (i : Instr) (y : Syn) (t : Task) : Prop where
  turn : mayIssue s = true
  fresh : inWait s.me = false
  space : inSpace s.cur.q i = true
  mode : instrPrivileged i = true → s.here.priv = true
  fields : fieldsOk i = true
  syn : modeOk s.here.timed s.cur.q y i = true
  cycle : timing s s.here s.cur.q y i = .go
  due : dueWrites s.here s.cur.q (issueTick s) = some t
  tokens : s.here.timed = false → tokensReady t s.cur.q (waitMask y) = true ∧ roomReady t s.cur.q (sigMask y) = true

/-- A sequencer without the bookkeeping of issue: PC, ticks and the cycles they fall on, counts, what is in flight and what has been read of it. -/
def bareSeq (u : Seq) : Seq :=
  { u with pc := 0, tick := 0, seqno := 0, wait := none, flights := [], nextId := 0, lastIssue := 0, nextFree := 0, armed := false,
           tickAt := 0, head := 0, early := [] }

/-- A task without the bookkeeping of issue of sequencer `q`, its first issue, and its token counts. Everything else of the task is
in it: every register of the four sequencers, every special register, accumulator and queue, the results and stores on
their way. -/
def bareTask (t : Task) (q : SeqId) : Task :=
  { t with tok := [], resv := [], psig := [], taken := [], sent := [], credit := [], mute := [], owed := [], firstIssue := 0 }.setSeq q (bareSeq (t.seq q))

/-- Instruction `i` completes at `s`: the next state is `s0` with the executing task changed to `t2`, but for the bookkeeping
of issue; its PC is `pc`, it has occupied `ticks` ticks, and SEQNO counts it (R345). With `s0 = s` nothing outside the task
changes: no byte of memory, no other task, no partition, no window. -/
def Effect (s : State) (i : Instr) (y : Syn) (s0 : State) (t2 : Task) (pc : BitVec 48) (ticks : Nat) : Prop :=
  ∃ t' : Task, Machine.exec i s = .next (s0.setTask s.cur.core (s.bankOf s.cur.core) (some t'))
    ∧ bareTask t' s.cur.q = bareTask t2 s.cur.q
    ∧ (t'.seq s.cur.q).pc = pc
    ∧ (t'.seq s.cur.q).tick = issueTick s + ticks
    ∧ (t'.seq s.cur.q).seqno = (t2.seq s.cur.q).seqno + 1
    ∧ (t'.seq s.cur.q).wait = none

/-- The address of the instruction after `i`. -/
def nextPc (s : State) (i : Instr) : BitVec 48 := s.me.pc + BitVec.ofNat 48 (4 * (encode i).length)

/-- The executing task with register `r` of its sequencer set to `v`. -/
def withReg (s : State) (t : Task) (r : Nat) (v : Word) : Task := t.setSeq s.cur.q ((t.seq s.cur.q).setReg r v)

/-- A task with a result of sequencer `q` on its way: the instruction at `head`, number `id`, issues on cycle `since` at tick `tick`
and writes it `lat` ticks later; it is produced by an event of its own (R29, R363). -/
def withPendAt (t : Task) (q : SeqId) (head : BitVec 48) (id since tick lat : Nat) (ws : List Write) (fl : Flags) (ordered : Bool)
    (loads : List LoadPiece) : Task :=
  let u := t.seq q
  t.setSeq q { u with pend := u.pend ++ [{ id := id, due := tick + lat, writes := ws, flags := fl, loads := loads, produced := false,
                                           region := u.regionNo, since := since, lat := lat, pc := head, ordered := ordered }] }

/-- The executing task with a result on its way: it is written `lat` ticks after the issue tick (R29). -/
def withPend (s : State) (t : Task) (lat : Nat) (ws : List Write) (fl : Flags) (ordered : Bool) (loads : List LoadPiece) : Task :=
  withPendAt t s.cur.q s.me.pc (t.seq s.cur.q).nextId s.mcc (issueTick s) lat ws fl ordered loads

/-- Instruction `i` of an engine completes its issue with writes that are due `lat` ticks later (R29, R139). -/
def WritesLater (s : State) (i : Instr) (y : Syn) (t : Task) (lat : Nat) (ws : List Write) (fl : Flags) : Prop :=
  Effect s i y s (withPend s t lat ws fl false []) (nextPc s i) 1

/-- Instruction `i` of an engine completes its issue with bytes that it has yet to read, `ordered` or not, and that it writes `lat` ticks
later (R29, R158, R159). -/
def LoadsLater (s : State) (i : Instr) (y : Syn) (t : Task) (lat : Nat) (ordered : Bool) (loads : List LoadPiece) : Prop :=
  Effect s i y s (withPend s t lat [] 0 ordered loads) (nextPc s i) 1

/-- After how many cycles a store commits (R26, R139, R158): 2 for V, and for C into its own scratchpad. -/
def commitLat (core : Nat) (q : SeqId) (p : Place) : Nat :=
  match q, p with
  | .v, _ => 2
  | .c, .spad n _ => if n = core then 2 else 0
  | _, _ => 0

/-- A task with stores of instruction `id` of sequencer `q`, whose head parcel is at `head`, joined on cycle `since` to those that are not
yet performed, each in the chain that `chain` gives its place; granules that make up a line of HBM together are stored as a whole line (R93, R103,
R107, R139, R159, R263). -/
def withStoresOf (t : Task) (core : Nat) (q : SeqId) (head : BitVec 48) (since id : Nat) (chain : Place → Nat)
    (us : List (Place × List (Option Byte))) : Task :=
  let u := t.seq q
  t.setSeq q { u with stores := u.stores ++ us.map (fun x =>
    { id := id, place := x.1, bytes := x.2, upd := none, since := since, lat := commitLat core q x.1, pc := head, chain := chain x.1,
      whole := wholeLine us x }) }

/-- The executing task with stores of instruction `id`. -/
def withStores (s : State) (t : Task) (id : Nat) (us : List (Place × List (Option Byte))) : Task :=
  withStoresOf t s.cur.core s.cur.q s.me.pc s.mcc id (fun _ => 0) us

/-- In `s'` the executing task is `t2`, but for the bookkeeping of issue, and its instruction is complete. -/
def After (s s' : State) (t2 : Task) (pc : BitVec 48) : Prop :=
  ∃ t' : Task, s'.task? s.cur.core (s.bankOf s.cur.core) = some t' ∧ bareTask t' s.cur.q = bareTask t2 s.cur.q
    ∧ (t'.seq s.cur.q).pc = pc ∧ (t'.seq s.cur.q).wait = none

/-- Every earlier access of C has been performed (R263, R103): no store waits, and no flit that has yet to depart holds one. -/
def cDone (s : State) (t : Task) : Prop :=
  t.c.stores = [] ∧ ∀ f ∈ s.flits, f.departed = false → f.core = s.cur.core → ∀ o ∈ f.owners, o.bank = s.bankOf s.cur.core → o.q ≠ .c

/-- Every earlier store of C is performed and, where it went to a window, acknowledged (R270 step 1, R279). -/
def cQuiet (s : State) (t : Task) : Prop :=
  t.c.stores = [] ∧ ∀ f ∈ s.flits, f.core = s.cur.core → ∀ o ∈ f.owners, o.bank = s.bankOf s.cur.core → o.q ≠ .c

/-- Instruction `i` waits at `s` after its issue and goes on with the sequencer's turn (R27, R262): `w` is its waiting phase. -/
structure Resumes (s : State) (i : Instr) (y : Syn) (w : Wait) : Prop where
  turn : mayIssue s = true
  waiting : s.me.wait = some w
  issued : w.issued = true
  space : inSpace s.cur.q i = true
  mode : instrPrivileged i = true → s.here.priv = true
  fields : fieldsOk i = true
  syn : modeOk s.here.timed s.cur.q y i = true

/-- The waiting instruction `i` completes at `s`: the next state is `s0` with the executing task changed to `t2`, but for the
bookkeeping of issue. -/
def Completes (s : State) (i : Instr) (s0 : State) (t2 : Task) (pc : BitVec 48) : Prop :=
  ∃ t' : Task, Machine.exec i s = .next (s0.setTask s.cur.core (s.bankOf s.cur.core) (some t'))
    ∧ bareTask t' s.cur.q = bareTask t2 s.cur.q ∧ (t'.seq s.cur.q).pc = pc ∧ (t'.seq s.cur.q).wait = none

/-- A place is no transmit window. -/
def notWindow : Place → Bool
  | .tx _ => false
  | _ => true

/-- Operand B of C over the registers of a sequencer (R264). -/
def bVal (u : Seq) (b : CB) : Word :=
  match b with
  | .reg r => u.reg r.toNat
  | .simm v => v.signExtend 64
  | .zimm v => v.setWidth 64
  | .imm64 v => v

/-- An operand address of C, modulo 2^48 (R264). -/
def addrC (u : Seq) (o : COp) : Nat := (u.reg o.sa.toNat + bVal u o.b).toNat % 2 ^ 48

/-- Instruction `i` traps at `s` before it issues (R25 to R27): the shared operation takes the exception, at the head parcel. -/
def TrapsBefore (s : State) (i : Instr) (c : Cause) (faddr : Nat) : Prop :=
  Machine.exec i s = takeTrap s s.cur.core (s.bankOf s.cur.core) s.cur.q.num c faddr 0 s.me.pc.toNat

/-- Instruction `i` traps precisely once its operands are known (R332): the exception is taken in a state that differs from
`s0` in the executing task alone, which is `t`, with no effect of `i`, but for the bookkeeping of issue; its PC is the head parcel. `s0` is what the
reads that `i` has made leave, and `s` where it has made none. -/
def TrapsAfter (s : State) (i : Instr) (s0 : State) (t : Task) (c : Cause) (faddr : Nat) : Prop :=
  ∃ t' : Task, Machine.exec i s
      = takeTrap (s0.setTask s.cur.core (s.bankOf s.cur.core) (some t')) s.cur.core (s.bankOf s.cur.core) s.cur.q.num c faddr 0 s.me.pc.toNat
    ∧ bareTask t' s.cur.q = bareTask t s.cur.q ∧ (t'.seq s.cur.q).pc = s.me.pc ∧ (t'.seq s.cur.q).wait = none

def TrapsPrecisely (s : State) (i : Instr) (t : Task) (c : Cause) (faddr : Nat) : Prop := TrapsAfter s i s t c faddr

/-- The record `i` begins at `s` (R39): it stands at the sequencer's PC with its counters at 0, holding what `P` says, and the next state is `s0`
with the executing task changed to `t2`; its first single issue comes with a later turn. -/
def BeginsWith (s : State) (i : Instr) (s0 : State) (t2 : Task) (P : RecProg → Prop) : Prop :=
  ∃ (t' : Task) (p : RecProg), Machine.exec i s = .next (s0.setTask s.cur.core (s.bankOf s.cur.core) (some t'))
    ∧ (t'.seq s.cur.q).prog = some p ∧ P p ∧ p.instr = i ∧ p.pc = s.me.pc ∧ p.i0 = 0 ∧ p.i1 = 0 ∧ p.i2 = 0 ∧ p.i3 = 0 ∧ p.began = false
    ∧ bareTask (t'.setSeq s.cur.q { t'.seq s.cur.q with prog := none }) s.cur.q = bareTask t2 s.cur.q
    ∧ (t'.seq s.cur.q).pc = s.me.pc ∧ (t'.seq s.cur.q).seqno = (t2.seq s.cur.q).seqno

def Begins (s : State) (i : Instr) (t2 : Task) : Prop := BeginsWith s i s t2 (fun _ => True)

/-- The state in which sequencer `q` of a core executes. -/
def turnOf (s : State) (core : Nat) (q : SeqId) : State := { s with cur := { core := core, q := q } }

/-- The record `p` in progress on sequencer `q` of a core can go on with its next single issue (R39, R110): the task may issue, its
cycle is there, no cut came between, and the results that are due can be written, which gives `t`. -/
structure ReadySingle (s : State) (core : Nat) (q : SeqId) (p : RecProg) (t : Task) : Prop where
  turn : onTurn s core q = some (turnOf s core q)
  prog : (turnOf s core q).me.prog = some p
  fetched : p.refetch = false
  kept : p.recheck = false
  cycle : recordTiming (turnOf s core q) = .go
  due : dueWrites (turnOf s core q).here q (turnOf s core q).me.tick = some t

/-- The record with what its first single issue reads and it then holds (R39, R194). -/
def heldBy (p : RecProg) (t : Task) (q : SeqId) : RecProg := p.held t (t.seq q)

/-- The state in which the next single issue of a record of sequencer `q` runs, with the results that are due in their registers. -/
def singleState (s : State) (core : Nat) (q : SeqId) (t : Task) : State := (turnOf s core q).setHere t

/-- One single issue of a record is performed: nothing outside the task changes, the task becomes `t2`, the record `p` goes on to
the next point of its loop nest, or the PC passes it; SEQNO and the tick count it. -/
def SingleEffect (s : State) (core : Nat) (q : SeqId) (p : RecProg) (t2 : Task) : Prop :=
  ∃ t' : Task, Machine.exec (.recordSingleIssue core q) s = .next ((turnOf s core q).setTask core (s.bankOf core) (some t'))
    ∧ bareTask t' q = bareTask (t2.setSeq q { t2.seq q with prog := p.next }) q
    ∧ (t'.seq q).pc = (if p.next.isSome then p.pc else p.pc + 64)
    ∧ (t'.seq q).seqno = (t2.seq q).seqno + 1 ∧ (t'.seq q).tick = (t2.seq q).tick + 1 ∧ (t'.seq q).wait = none

/-- The two states hold the same memory, with its errors, and the same partitions, flits and landings. -/
def SameOutside (s s' : State) : Prop :=
  s'.hbm = s.hbm ∧ s'.errs = s.errs ∧ s'.parts = s.parts ∧ s'.flits = s.flits ∧ s'.landings = s.landings
    ∧ ∀ n, (s'.core n).spad = (s.core n).spad ∧ (s'.core n).tags = (s.core n).tags

/-- The state in which the body of `i`, an instruction of one tick, runs at `s`: `t` is the task with the results that are due. -/
def enteredAt (s : State) (t : Task) (y : Syn) (i : Instr) : State := entered s t y (encode i).length 1

/-- Instruction `i` completes at `s`: the next state is `s0` with the executing task changed to `t2`, but for the bookkeeping of issue. -/
def Leaves (s : State) (i : Instr) (s0 : State) (t2 : Task) : Prop := Completes s i s0 t2 (nextPc s i)

/-- The wheel of the stack of a place stands at a position of the partition (R122). -/
def WheelMet (s : State) (part : Nat) (p : Place) : Prop :=
  ∀ a, p = .hbm a → ownsWheel s (a / 2 ^ 37) part = true ∧ ownedBy (wheelAt s (a / 2 ^ 37) (s.mcc % 64)) part = true

/-- The cluster port of the executing core is not busy where a place lies beyond it (R125). -/
def PortMet (s : State) (p : Place) : Prop := ∀ k off, p = .spad k off → k ≠ s.cur.core → s.cur.core ∉ s.ports

/-- Instruction `i` completes at `s` once it has read `n` bytes at a place, after its own stores to their granules (R263, R295): `r` is what
that read leaves, and `t2` the task after it. -/
def ReadsAndWrites (s : State) (i : Instr) (t2 : State × List Byte → Task) (r : State × List Byte) : Prop :=
  Leaves s i r.1 (t2 r)

/-- The record that stands as `h` reads its next operand, `n` bytes at a place (R103, R293): of its granule, where it has read that ahead, or of
memory, where nothing keeps the read waiting and E1 of R295 allows it. It is an event of its own, after which the record holds the value too, and
neither tick nor PC has moved. -/
def ReadsNext (s : State) (core : Nat) (q : SeqId) (h : RecProg) (t : Task) (pl : Place) (n : Nat) : Prop :=
  let st := singleState s core q t
  let Takes (x : State) (bs : List Byte) : Prop := ∃ s' t', Machine.exec (.recordSingleIssue core q) s = .next s' ∧ s'.task? core (s.bankOf core) = some t'
    ∧ SameOutside x s' ∧ bareTask t' q = bareTask (x.here.setSeq q { x.here.seq q with prog := some { h with got := h.got ++ [leNat bs] } }) q
    ∧ (t'.seq q).tick = (t.seq q).tick ∧ (t'.seq q).pc = (t.seq q).pc
  s.pick = none →
    (∀ bs, st.me.earlyAt false pl n = some bs → Takes st bs)
      ∧ (st.me.earlyAt false pl n = none → open1 st pl = true → ownCommitted st pl n = true → Takes (readNow st pl n).1 (readNow st pl n).2)

/-- The record that stands as `h` reads the granule of another of its operands ahead (R293): it keeps it, and nothing else moves. -/
def ReadsAhead (s : State) (core : Nat) (q : SeqId) (h : RecProg) (t : Task) (pl : Place) : Prop :=
  let st := singleState s core q t
  open1 st pl = true → ownCommitted st pl.granule 16 = true →
    let r := readNow st pl.granule 16
    ∃ s' t', Machine.exec (.recordSingleIssue core q) s = .next s' ∧ s'.task? core (s.bankOf core) = some t' ∧ SameOutside r.1 s'
      ∧ bareTask t' q = bareTask (r.1.here.setSeq q { r.1.here.seq q with prog := some h }) q
      ∧ (t'.seq q).early = (r.1.here.seq q).early ++ [{ fetch := false, place := pl.granule, bytes := r.2 }]
      ∧ (t'.seq q).tick = (t.seq q).tick ∧ (t'.seq q).pc = (t.seq q).pc

/-- The record that stands as `h` performs its single issue with the stores `us`, each in the chain of its place: outside the windows they join
those of the sequencer; with stores into windows among them, the shared operation on stores says what becomes of each (R99, R158, R184). -/
def SingleSends (s : State) (core : Nat) (q : SeqId) (h : RecProg) (t : Task) (chain : Place → Nat) (us : List (Place × List (Option Byte))) : Prop :=
  ((∀ u ∈ us, notWindow u.1 = true ∧ PortMet (turnOf s core q) u.1 ∧ (timedHere (singleState s core q t) = true → WheelMet s t.part u.1)) →
      SingleEffect s core q h (withStoresOf t core q (t.seq q).head s.mcc h.issueId chain us))
    ∧ ∀ s1, sendChained chain (setProg (singleState s core q t) h) us = .ok s1 →
      ∃ s' t', Machine.exec (.recordSingleIssue core q) s = .next s' ∧ SameOutside s1 s' ∧ s'.task? core (s.bankOf core) = some t'
        ∧ bareTask t' q = bareTask (s1.here.setSeq q { s1.here.seq q with prog := h.next }) q

/-- The state after every store of a list of A2A has gone, each as its window and its granule let it, and none where one of them must wait (R258). -/
def a2aSends : List A2aStore → State → Option State
  | [], s => some s
  | x :: rest, s =>
    match a2aStore s x with
    | some (.sent s1) => a2aSends rest s1
    | _ => none

/-- Every memory is in its canonical form: HBM and each scratchpad. -/
def MemoryCanonical (s : State) : Prop := Memory.wf s.hbm = true ∧ ∀ n, Memory.wf (s.core n).spad = true

/-- The memory that a program can see is the same in both states: every byte of HBM and of every scratchpad. -/
def SameMemory (s s' : State) : Prop :=
  (∀ a, getByte s'.hbm a = getByte s.hbm a) ∧ ∀ n a, getByte (s'.core n).spad a = getByte (s.core n).spad a

/-- An event that takes an exception (R328): the shared operation takes it in a state whose memory and partitions are those of
`s` and whose task is that of the turn, with no effect of the instruction at its PC, but for the bookkeeping of issue. With a free slot
in the trap queue that no other task waits for, its memory there, no store on its way, and nothing that holds the trap, the task is then held with its
record. -/
def TrapsEvent (s : State) (ev : Instr) (core : Nat) (q : SeqId) (c : Cause) (faddr flags : Nat) : Prop :=
  let b := s.bankOf core
  let st := turnOf s core q
  let t := st.here
  (∃ (s1 : State) (t' : Task), Machine.exec ev s = takeTrap s1 core b q.num c faddr flags st.me.pc.toNat ∧ s1.task? core b = some t'
      ∧ bareTask t' q = bareTask t q ∧ (t'.seq q).pc = st.me.pc ∧ SameMemory s s1 ∧ s1.parts = s.parts)
    ∧ (t.cutting = false → trapHeld s core b t q.num c = false → (∀ w, st.me.wait = some w → w.op ≠ .ending) →
      ∀ j, freeSlot (s.part t.part) = some j → (c.cls = 1 ∨ lateBelow s t.part 512 = false) → (∀ r : SeqId, (t.seq r).stores = []) → s.flits = [] →
        s.populated (tqBase s (s.part t.part) + 128 * j) 128 = true →
        ∃ s' t', Machine.exec ev s = .next s' ∧ s'.task? core b = some t' ∧ t'.hold = .record j)

end Sys2Proof
end

