-- ==== Sys2Proof/WellFormed.lean ====
section
/-! DEFINITION. A well-formed instruction: one that passes every field check of R25 step 6 that its bits alone decide. -/

namespace Sys2Proof

/-- Every field of the instruction is legal. -/
def Instr.WellFormed (i : Instr) : Prop := fieldsOk i = true

end Sys2Proof
end

