-- ==== Sys2Proof/Certificates/Slice0/Obligations.lean ====
section
/-! DEFINITION. The statements for the provers. -/

open Sys2Proof Sys2Proof.Machine

/-! ### The control sequencer -/

/-- R265: what each instruction of the integer group writes, from a = s[SA] and b = B, and that it completes. -/
def Obligations.IntegerGroup : Prop := ∀ (s : State) (y : Syn) (o : COp) (t : Task),
  let a := t.c.reg o.sa.toNat
  let b := bVal t.c o.b
  let Writes (i : Instr) (ticks : Nat) (v : Word) : Prop := Ready s i y t → Effect s i y s (withReg s t o.sd.toNat v) (nextPc s i) ticks
  Writes (.add y o) 1 (a + b) ∧ Writes (.sub y o) 1 (a - b)
    ∧ Writes (.and y o) 1 (a &&& b) ∧ Writes (.or y o) 1 (a ||| b) ∧ Writes (.xor y o) 1 (a ^^^ b)
    ∧ Writes (.sll y o) 1 (BitVec.ofNat 64 (a.toNat * 2 ^ (b.toNat % 64)))
    ∧ Writes (.srl y o) 1 (BitVec.ofNat 64 (a.toNat / 2 ^ (b.toNat % 64)))
    ∧ Writes (.sra y o) 1 (BitVec.ofInt 64 (a.toInt / 2 ^ (b.toNat % 64)))
    ∧ Writes (.mul y o) 2 (BitVec.ofNat 64 (a.toNat * b.toNat))
    ∧ Writes (.mulh y o) 2 (BitVec.ofInt 64 (a.toInt * b.toInt / 2 ^ 64))
    ∧ Writes (.mulhu y o) 2 (BitVec.ofNat 64 (a.toNat * b.toNat / 2 ^ 64))
    ∧ Writes (.div y o) 12 (if b = 0 then -1 else BitVec.ofInt 64 (a.toInt.tdiv b.toInt))
    ∧ Writes (.divu y o) 12 (if b = 0 then -1 else BitVec.ofNat 64 (a.toNat / b.toNat))
    ∧ Writes (.rem y o) 12 (if b = 0 then a else BitVec.ofInt 64 (a.toInt.tmod b.toInt))
    ∧ Writes (.remu y o) 12 (if b = 0 then a else BitVec.ofNat 64 (a.toNat % b.toNat))
    ∧ Writes (.min y o) 1 (BitVec.ofInt 64 (min a.toInt b.toInt)) ∧ Writes (.max y o) 1 (BitVec.ofInt 64 (max a.toInt b.toInt))
    ∧ Writes (.minu y o) 1 (BitVec.ofNat 64 (min a.toNat b.toNat)) ∧ Writes (.maxu y o) 1 (BitVec.ofNat 64 (max a.toNat b.toNat))
    ∧ Writes (.slt y o) 1 (if a.toInt < b.toInt then 1 else 0) ∧ Writes (.sltu y o) 1 (if a.toNat < b.toNat then 1 else 0)
    ∧ Writes (.seq y o) 1 (if a = b then 1 else 0) ∧ Writes (.li y o) 1 b
    ∧ Writes (.rotl y o) 1 (BitVec.ofNat 64 (a.toNat * 2 ^ (b.toNat % 64) + a.toNat / 2 ^ (64 - b.toNat % 64)))

/-- R266: CLZ, POPC, BEXT and BINS, and the field specifications that trap. -/
def Obligations.BitFieldGroup : Prop := ∀ (s : State) (y : Syn) (o : COp) (t : Task),
  let a := t.c.reg o.sa.toNat
  let d := t.c.reg o.sd.toNat
  let Writes (i : Instr) (v : Word) : Prop := Effect s i y s (withReg s t o.sd.toNat v) (nextPc s i) 1
  (Ready s (.clz y o) y t → ∃ n, n ≤ 64 ∧ a.toNat < 2 ^ (64 - n) ∧ (n < 64 → 2 ^ (63 - n) ≤ a.toNat)
      ∧ Writes (.clz y o) (BitVec.ofNat 64 n))
    ∧ (Ready s (.popc y o) y t → Writes (.popc y o) (BitVec.ofNat 64 ((List.range 64).countP (fun k => a.getLsbD k))))
    ∧ (∀ v : BitVec 32, o.b = .zimm v →
        let pos := (v.extractLsb' 0 6).toNat
        let width := (v.extractLsb' 6 6).toNat + 1
        (Ready s (.bext y o) y t → ∃ r : Word, Writes (.bext y o) r ∧ ∀ k < 64, r.getLsbD k = (decide (k < width) && a.getLsbD (pos + k)))
          ∧ (Ready s (.bins y o) y t → ∃ r : Word, Writes (.bins y o) r
              ∧ ∀ k < 64, r.getLsbD k = if pos ≤ k ∧ k < pos + width then a.getLsbD (k - pos) else d.getLsbD k)
          ∧ (mayIssue s = true → s.cur.q = .c → (64 < pos + width ∨ v.extractLsb' 12 20 ≠ 0) →
              TrapsBefore s (.bext y o) .illegalField s.me.pc.toNat ∧ TrapsBefore s (.bins y o) .illegalField s.me.pc.toNat))

/-- R267, with the targets of R31: when each branch is taken, the links of JAL and JR, and the trap of a misaligned target. -/
def Obligations.Branches : Prop := ∀ (s : State) (y : Syn) (o : COp) (t : Task) (off : BitVec 32), o.b = .simm off →
  let a := t.c.reg o.sa.toNat
  let d := t.c.reg o.sd.toNat
  let target : BitVec 48 := BitVec.ofInt 48 (s.me.pc.toNat + 4 * off.toInt)
  let link : Word := BitVec.ofNat 64 ((s.me.pc.toNat + 8) % 2 ^ 48)
  let jump := (a.toNat + off.toInt) % 2 ^ 48
  let Goes (i : Instr) (taken : Prop) [Decidable taken] : Prop :=
    Ready s i y t → Effect s i y s t (if taken then target else s.me.pc + 8) 1
  Goes (.j y o) True ∧ Goes (.beq y o) (a = d) ∧ Goes (.bne y o) (a ≠ d)
    ∧ Goes (.blt y o) (a.toInt < d.toInt) ∧ Goes (.bge y o) (d.toInt ≤ a.toInt)
    ∧ Goes (.bltu y o) (a.toNat < d.toNat) ∧ Goes (.bgeu y o) (d.toNat ≤ a.toNat)
    ∧ Goes (.bbs y o) (a.getLsbD o.sd.toNat = true)
    ∧ (Ready s (.jal y o) y t → Effect s (.jal y o) y s (withReg s t o.sd.toNat link) target 1)
    ∧ (Ready s (.jr y o) y t → jump % 4 = 0 → Effect s (.jr y o) y s (withReg s t o.sd.toNat link) (BitVec.ofInt 48 jump) 1)
    ∧ (Ready s (.jr y o) y t → jump % 4 ≠ 0 → TrapsPrecisely s (.jr y o) t .misaligned jump.toNat)

/-- R263, R268, R260: what a load of C writes: the bytes at its address, read after C's own earlier stores to their granules, extended; but for its
destination nothing differs from the state after that read. The load of a timed C is on its way for the ticks of R260, by the range of its address
(R88), and its bytes are read within them; nothing else changes at its issue. -/
def Obligations.Loads : Prop := ∀ (s : State) (y : Syn) (o : COp) (t : Task) (p : Place),
  let LoadsBytes (i : Instr) (n : Nat) (signed : Bool) : Prop :=
    Ready s i y t → checkAccess s s.cur.core t Ranges.noTx .load (addrC t.c o) n n = .ok p →
      let e := enteredAt s t y i
      let a := addrC t.c o
      let ticks := if a < 2 ^ 23 then 14 else if 2 ^ 27 ≤ a ∧ a < 2 ^ 27 + 2 ^ 26 then 64 else 800
      (timedHere s = false → open1 e p = true → ownCommitted e p n = true →
        ReadsAndWrites s i (fun r =>
          let v := leNat r.2
          withReg s r.1.here o.sd.toNat (BitVec.ofInt 64 (if signed ∧ 2 ^ (8 * n - 1) ≤ v then (v : Int) - 2 ^ (8 * n) else v))) (readNow e p n))
        ∧ (timedHere s = true → WheelMet s t.part p →
          Effect s i y s (withPend s t ticks [] 0 false [{ place := p, len := n, dest := .s o.sd.toNat signed, addr := a }]) (nextPc s i) 1)
  LoadsBytes (.ldb y o) 1 true ∧ LoadsBytes (.ldbu y o) 1 false ∧ LoadsBytes (.ldh y o) 2 true ∧ LoadsBytes (.ldhu y o) 2 false
    ∧ LoadsBytes (.ldw y o) 4 true ∧ LoadsBytes (.ldwu y o) 4 false ∧ LoadsBytes (.ldd y o) 8 false

/-- R268, R223: a store of C joins C's stores with the low bytes of s[SD] at its address, where its cluster port is not busy (R125); into a transmit
window it goes as the one shared operation on reflected stores says, at the same address. But for the task, and for what that operation changes,
nothing changes at the issue: no byte of memory, no other task, no window (R103). -/
def Obligations.Stores : Prop := ∀ (s : State) (y : Syn) (o : COp) (t : Task) (p : Place),
  let a := addrC t.c o
  let d := t.c.reg o.sd.toNat
  let StoresBytes (i : Instr) (n : Nat) : Prop :=
    Ready s i y t → checkAccess s s.cur.core t Ranges.all .store a n n = .ok p →
      let bs : List Byte := (List.range n).map (fun k => BitVec.ofNat 8 (d.toNat / 2 ^ (8 * k)))
      (notWindow p = true → PortMet s p → (timedHere s = true → WheelMet s t.part p) → Effect s i y s (withStores s t s.me.nextId [(p, bs.map some)]) (nextPc s i) 1)
        ∧ (∀ s2, notWindow p = false →
            txStore (enteredAt s t y i) s.cur.core (s.bankOf s.cur.core) .c s.me.nextId t.part a (bs.mapIdx (fun k b => (a + k, b))) = .sent s2 →
            Leaves s i s2 s2.here)
  StoresBytes (.stb y o) 1 ∧ StoresBytes (.sth y o) 2 ∧ StoresBytes (.stw y o) 4 ∧ StoresBytes (.std y o) 8

/-- R362, R269, R93: the order of the checks of a C access, and that each failure is a precise trap of the load or store. -/
def Obligations.AccessChecks : Prop := ∀ (s : State) (y : Syn) (o : COp) (t : Task),
  let a := addrC t.c o
  let LoadTraps (i : Instr) (n : Nat) : Prop := Ready s i y t →
    (inTx a = true → TrapsPrecisely s i t .txLoad a)
      ∧ (inOwn a = false → inPeer a = false → inTx a = false → inHbm a = false → TrapsPrecisely s i t .extent a)
      ∧ ((inOwn a = true ∨ inPeer a = true ∨ inHbm a = true) → a % n ≠ 0 → TrapsPrecisely s i t .misaligned a)
      ∧ (inHbm a = true → a % n = 0 → translateIn s t.extents .load a = none → TrapsPrecisely s i t .extent a)
      ∧ (∀ pa, inHbm a = true → a % n = 0 → translateIn s t.extents .load a = some pa → unreadable s pa n = true →
          TrapsPrecisely s i t .eccUncorrectable a)
  let StoreTraps (i : Instr) (n : Nat) : Prop := Ready s i y t →
    (inOwn a = false → inPeer a = false → inTx a = false → inHbm a = false → TrapsPrecisely s i t .extent a)
      ∧ ((inOwn a = true ∨ inPeer a = true ∨ inTx a = true ∨ inHbm a = true) → a % n ≠ 0 → TrapsPrecisely s i t .misaligned a)
      ∧ (inHbm a = true → a % n = 0 → translateIn s t.extents .store a = none → TrapsPrecisely s i t .extent a)
      ∧ (inTx a = true → a % n = 0 → findTx s t.part a = none → TrapsPrecisely s i t .extent a)
  LoadTraps (.ldb y o) 1 ∧ LoadTraps (.ldh y o) 2 ∧ LoadTraps (.ldw y o) 4 ∧ LoadTraps (.ldd y o) 8
    ∧ LoadTraps (.ldbu y o) 1 ∧ LoadTraps (.ldhu y o) 2 ∧ LoadTraps (.ldwu y o) 4
    ∧ StoreTraps (.stb y o) 1 ∧ StoreTraps (.sth y o) 2 ∧ StoreTraps (.stw y o) 4 ∧ StoreTraps (.std y o) 8

/-- R270: LDSC and STSC with no earlier access of C outstanding, in a position of the wheel that the core owns. -/
def Obligations.SlotWheelAccesses : Prop := ∀ (s : State) (y : Syn) (o : COp) (t : Task) (p : Place), cQuiet s t →
  (Sparse.get 0 (s.core s.cur.core).wheel (s.mcc % 1024 / 64)).getLsbD (s.mcc % 1024 % 64) = true →
  (Ready s (.ldsc y o) y t → checkAccess s s.cur.core t Ranges.noTx .load (addrC t.c o) 8 8 = .ok p →
      let e := enteredAt s t y (.ldsc y o)
      open1 e p = true →
      ReadsAndWrites s (.ldsc y o) (fun r => withReg s r.1.here o.sd.toNat (BitVec.ofNat 64 (leNat r.2))) (readNow e p 8))
    ∧ (Ready s (.stsc y o) y t → checkAccess s s.cur.core t Ranges.noTx .store (addrC t.c o) 8 8 = .ok p →
      let e := enteredAt s t y (.stsc y o)
      open1 e p = true →
      Leaves s (.stsc y o) (performAt (served e t.part p) p (leBytes 8 (t.c.reg o.sd.toNat).toNat)) t)

/-- R271 to R273: START sets the engines that it names to issue from their PC, also one that END has ended; PARAM and FMTQ push onto a
queue with room. That in timetable mode it leaves an engine held for its ALIGN, and that one ended by END issues at once there too, is the
model's reading (log 20). -/
def Obligations.EngineFeeding : Prop := ∀ (s : State) (y : Syn) (o : COp) (t : Task) (m v e : Bool),
  let started (b : Bool) (u : Seq) : Seq :=
    if b = true ∧ ¬ (t.timed = true ∧ u.stream = .held) then { u with stream := .running } else u
  (Ready s (.start y m v e) y t →
      Effect s (.start y m v e) y s { t with t := started e t.t, v := started v t.v, m := started m t.m } (nextPc s (.start y m v e)) 1)
    ∧ (Ready s (.param y o) y t →
        let w := t.c.reg o.sa.toNat + bVal t.c o.b
        (o.sd = 1 → t.pqT.length < 32 → Effect s (.param y o) y s { t with pqT := t.pqT ++ [w] } (nextPc s (.param y o)) 1)
          ∧ (o.sd = 2 → t.pqV.length < 32 → Effect s (.param y o) y s { t with pqV := t.pqV ++ [w] } (nextPc s (.param y o)) 1)
          ∧ (o.sd = 3 → t.pqM.length < 32 → Effect s (.param y o) y s { t with pqM := t.pqM ++ [w] } (nextPc s (.param y o)) 1))
    ∧ (Ready s (.fmtq y o) y t → t.fq.length < 32 →
        Effect s (.fmtq y o) y s { t with fq := t.fq ++ [match o.b with | .imm64 v => v | _ => t.c.reg o.sa.toNat] } (nextPc s (.fmtq y o)) 1)

/-- R275: SEMADD and SEMSET with every earlier access of C performed: the value changes; each waiter of the semaphore, in the order in which they
reached it, whose need the value left meets is satisfied, leaves the queue, and its SEMWAIT completes. A SEMWAIT that its semaphore satisfies
subtracts, another one joins the waiters. The premise on the queue (each bank waits once, and not the one that executes) holds where a run begins
and no step breaks it.
R276, R277, R257: BINIT and BARM set a barrier; ARRIVE counts, and the last arrival flips the phase, with which the COLL of an armed barrier joins those
that no core issued; BWAIT passes once the phase differs from the one recorded. A barrier with E = 0 traps ILLEGAL_FIELD at ARRIVE and BWAIT. -/
def Obligations.SemaphoresAndBarriers : Prop :=
  (∀ (s : State) (y : Syn) (o : COp) (t : Task),
    let k := 64 * (s.cur.core / 8) + o.sd.toNat
    let p := s.part s.here.part
    let sem : BitVec 32 := Sparse.get 0 p.sems k
    let v : BitVec 32 := (t.c.reg o.sa.toNat + bVal t.c o.b).setWidth 32
    let put (x : BitVec 32) : State := s.setPart s.here.part { p with sems := Sparse.set 0 k x p.sems }
    let Changes (i : Instr) (x : BitVec 32) : Prop := Ready s i y t → cDone s t →
      (∀ w ∈ p.semq, w.sem ≠ k) → Effect s i y (put x) t (nextPc s i) 1
    let granted (x : BitVec 32) : BitVec 32 × List SemWaiter :=
      (p.semq.filter (fun w => w.sem = k)).foldl (fun r w => if w.need.toNat ≤ r.1.toNat then (r.1 - w.need, r.2 ++ [w]) else r) (x, [])
    let Grants (i : Instr) (x : BitVec 32) : Prop := Ready s i y t → cDone s t → (p.semq.map (fun w => (w.core, w.bank))).Nodup →
      (∀ w ∈ p.semq, (w.core, w.bank) ≠ (s.cur.core, s.bankOf s.cur.core)) →
      let g := granted x
      ∃ s' t', exec i s = .next s' ∧ s'.task? s.cur.core (s.bankOf s.cur.core) = some t' ∧ bareTask t' .c = bareTask t .c ∧ t'.c.pc = nextPc s i
        ∧ SameMemory s s'
        ∧ s'.part s.here.part = { p with sems := Sparse.set 0 k g.1 p.sems, semq := p.semq.filter (fun w => !g.2.contains w) }
        ∧ ∀ w ∈ g.2, ∀ z x, s.task? w.core w.bank = some z → z.c.wait = some x →
          ∃ z', s'.task? w.core w.bank = some z' ∧ z'.c.wait = none ∧ z'.c.pc = z.c.pc + 8 ∧ bareTask z' .c = bareTask z .c
    Changes (.semadd y o) (sem + v) ∧ Changes (.semset y o) v
      ∧ Grants (.semadd y o) (sem + v) ∧ Grants (.semset y o) v
      ∧ (Ready s (.semwait y o) y t → sem.toNat < v.toNat → timedHere s = false →
        ∃ s' w, exec (.semwait y o) s = .next s' ∧ s'.me.wait = some w ∧ w.kind = 2 ∧ w.op = .sem ∧ w.issued = true ∧ s'.me.pc = s.me.pc ∧ SameMemory s s'
          ∧ s'.part s.here.part = { p with semq := p.semq ++ [{ sem := k, core := s.cur.core, bank := s.bankOf s.cur.core, need := v }] })
      ∧ (Ready s (.semwait y o) y t → v.toNat ≤ sem.toNat → Effect s (.semwait y o) y (put (sem - v)) t (nextPc s (.semwait y o)) 1))
    ∧ (∀ (s : State) (y : Syn) (o : COp) (n : BitVec 6) (t : Task),
    let p := s.part s.here.part
    let bar (k : Nat) : Barrier := Sparse.get Barrier.reset p.bars k
    let put (k : Nat) (b : Barrier) : State := s.setPart s.here.part { p with bars := Sparse.set Barrier.reset k b p.bars }
    let v := (t.c.reg o.sa.toNat + bVal t.c o.b).toNat
    let k := n.toNat
    (Ready s (.binit y o) y t → v < 65536 →
        Effect s (.binit y o) y (put o.sd.toNat { bar o.sd.toNat with e := v, pending := v }) t (nextPc s (.binit y o)) 1)
      ∧ (Ready s (.binit y o) y t → 65536 ≤ v → TrapsPrecisely s (.binit y o) t .illegalField s.me.pc.toNat)
      ∧ (Ready s (.barm y o) y t → addrC t.c o = 0 →
        Effect s (.barm y o) y (put o.sd.toNat { bar o.sd.toNat with arm := none }) t (nextPc s (.barm y o)) 1)
      ∧ (Ready s (.barm y o) y t → addrC t.c o ≠ 0 → (∃ c ∈ p.colls, c.addr = addrC t.c o) →
        Effect s (.barm y o) y (put o.sd.toNat { bar o.sd.toNat with arm := some (addrC t.c o) }) t (nextPc s (.barm y o)) 1)
      ∧ (Ready s (.arrive y n) y t → cDone s t → (bar k).e ≠ 0 → 1 < (bar k).pending →
        Effect s (.arrive y n) y (put k { bar k with pending := (bar k).pending - 1 })
          { t with phases := Sparse.set 0 k (bar k).phase t.phases } (nextPc s (.arrive y n)) 1)
      ∧ (Ready s (.arrive y n) y t → cDone s t → (bar k).e ≠ 0 → (bar k).pending ≤ 1 → (bar k).arm = none →
        Effect s (.arrive y n) y (put k { bar k with phase := (bar k).phase + 1, pending := (bar k).e })
          { t with phases := Sparse.set 0 k (bar k).phase t.phases } (nextPc s (.arrive y n)) 1)
      ∧ (∀ a, Ready s (.arrive y n) y t → cDone s t → (bar k).e ≠ 0 → (bar k).pending ≤ 1 → (bar k).arm = some a →
        Effect s (.arrive y n) y
          (s.setPart s.here.part { p with bars := Sparse.set Barrier.reset k { bar k with phase := (bar k).phase + 1, pending := (bar k).e } p.bars,
                                          collPend := p.collPend ++ [{ addr := a, bar := k, core := s.cur.core, bank := s.bankOf s.cur.core, sinceGt := s.gt,
                                                                       late := none, early := [], stack := none }] })
          { t with phases := Sparse.set 0 k (bar k).phase t.phases } (nextPc s (.arrive y n)) 1)
      ∧ (Ready s (.bwait y n) y t → (bar k).e ≠ 0 → (bar k).phase ≠ Sparse.get 0 t.phases k →
        Effect s (.bwait y n) y s t (nextPc s (.bwait y n)) 1)
      ∧ (Ready s (.arrive y n) y t → (bar k).e = 0 → TrapsPrecisely s (.arrive y n) t .illegalField s.me.pc.toNat)
      ∧ (Ready s (.bwait y n) y t → (bar k).e = 0 → TrapsPrecisely s (.bwait y n) t .illegalField s.me.pc.toNat))

/-- R278, R279, R230: the fences pass once what they wait for is done. RFENCE counts the failures in the windows of its mask,
adds them to RFSTAT and clears them. -/
def Obligations.Fences : Prop := ∀ (s : State) (y : Syn) (o : COp) (q : BitVec 4) (scope : BitVec 2) (t : Task),
  let mask := match o.b with | .reg _ => t.c.reg o.sa.toNat | b => bVal t.c b
  let failed := (List.range 64).foldl (fun a b => if mask.getLsbD b then a ||| Sparse.get 0 t.failw b else a) (0 : Word)
  let idle (u : Seq) : Prop := u.wait = none ∧ u.flights = []
  (Ready s (.qfence y q) y t → (q.getLsbD 0 = true → cDone s t) → (q.getLsbD 1 = true → idle t.t) → (q.getLsbD 2 = true → idle t.v) → (q.getLsbD 3 = true → idle t.m) →
      Effect s (.qfence y q) y s t (nextPc s (.qfence y q)) 1)
    ∧ (Ready s (.fence y scope) y t → cDone s t → (scope = 3 → cQuiet s t) → Effect s (.fence y scope) y s t (nextPc s (.fence y scope)) 1)
    ∧ (Ready s (.rfence y o) y t →
      (∀ f ∈ s.flits, f.core = s.cur.core → mask.getLsbD (f.win / 16) = true → ∀ x ∈ f.owners, x.bank = s.bankOf s.cur.core →
        x.q ≠ .c ∧ f.departed = false) →
      Effect s (.rfence y o) y s
        (withReg s { t with failw := t.failw.filter (fun e => !mask.getLsbD e.1), rfstat := t.rfstat ||| failed } o.sd.toNat
          (BitVec.ofNat 64 ((List.range 64).countP (fun k => failed.getLsbD k)))) (nextPc s (.rfence y o)) 1)

/-- R280 to R282: RDCC and RDGT read the clocks; WAITT passes at its target; ALIGN in token mode passes at its cycle, and in
timetable mode on its cycle, where it times C and releases the held engines that its field names: this core's, with PART those of every
timetable task of the partition. An engine that is not held keeps its own timing; that this takes in the ALIGN from which its STAMP counts is
the model's reading (log 69). -/
def Obligations.TimeInstructions : Prop := ∀ (s : State) (y : Syn) (o : COp) (t : Task),
  let p := s.part s.here.part
  let dcc := s.mcc - p.mcc0
  let target := (t.c.reg o.sa.toNat + bVal t.c o.b).toNat
  let cycle := (t.c.reg o.sa.toNat).toNat
  let bank := s.bankOf s.cur.core
  let counts (u : Seq) : Seq := { u with timed := true, lastIssue := s.mcc, nextFree := s.mcc, alignAt := s.mcc, tickAt := s.mcc + 1 }
  (Ready s (.rdcc y o) y t → Effect s (.rdcc y o) y s (withReg s t o.sd.toNat (BitVec.ofNat 64 dcc)) (nextPc s (.rdcc y o)) 1)
    ∧ (Ready s (.rdgt y o) y t → Effect s (.rdgt y o) y s (withReg s t o.sd.toNat (BitVec.ofNat 64 s.gt)) (nextPc s (.rdgt y o)) 1)
    ∧ (Ready s (.waitt y o) y t → target ≤ s.gt →
      Effect s (.waitt y o) y s (withReg s t o.sd.toNat (BitVec.ofNat 64 s.gt)) (nextPc s (.waitt y o)) 1)
    ∧ (Ready s (.align y o) y t → t.timed = false → cycle ≤ dcc → Effect s (.align y o) y s t (nextPc s (.align y o)) 1)
    ∧ (Ready s (.align y o) y t → t.timed = true → dcc > cycle → TrapsPrecisely s (.align y o) t .schedMiss cycle)
    ∧ (∀ v : BitVec 32, o.b = .zimm v → Ready s (.align y o) y t → t.timed = true → dcc = cycle →
      (v.getLsbD 4 = true → s.cur.core ∈ coresOf t.part p) → (bank = 0 ∨ bank = 1) →
      let freed (k : Nat) (u : Seq) : Seq := if v.getLsbD k = true ∧ u.stream = .held then { counts u with stream := .running, armed := true } else u
      ∃ s', exec (.align y o) s = .next s' ∧ SameMemory s s' ∧ s'.parts = s.parts
        ∧ (∃ t', s'.task? s.cur.core bank = some t' ∧ t'.c.alignAt = s.mcc ∧ t'.c.timed = true ∧ t'.c.lastIssue = s.mcc
          ∧ t'.t = freed 1 t.t ∧ t'.v = freed 2 t.v ∧ t'.m = freed 3 t.m ∧ t'.c.regs = t.c.regs ∧ t'.c.pc = nextPc s (.align y o))
        ∧ (v.getLsbD 4 = true → ∀ n ∈ coresOf t.part p, ∀ b, b = 0 ∨ b = 1 → (n ≠ s.cur.core ∨ b ≠ bank) → ∀ x, s.task? n b = some x →
          x.part = t.part → x.timed = true → s'.task? n b = some { x with t := freed 1 x.t, v := freed 2 x.v, m := freed 3 x.m }))

/-- R274: SIG adds n tokens to queue (c, e) once every earlier access of C is performed and the queue has room; WAIT takes n
tokens from queue (e, c) in one tick. The counts are stated for an instruction that SYN gives no token of its own, with no
earlier instruction of C in flight and no token owed.
R26, R27: what the SYN field of an instruction does with the token queues, shown on NOP in the three spaces of the
engines and on C: one token from each queue that its wait mask names, one to each that its signal mask names. -/
def Obligations.TokensMove : Prop :=
  (∀ (s : State) (y : Syn) (e : BitVec 2) (n : BitVec 8) (t : Task),
    let k := e.toNat
    let bank := s.bankOf s.cur.core
    let own (mask : BitVec 4) : Nat := if t.timed = false ∧ mask.getLsbD k = true then 1 else 0
    let Counts (i : Instr) (key v : Nat) : Prop := (y = 0 ∨ t.timed = true) → t.c.flights = [] → t.owed = [] →
      ∃ s' t', exec i s = .next s' ∧ s'.task? s.cur.core bank = some t' ∧ Sparse.get 0 t'.tok key = v
        ∧ ∀ j, j ≠ key → Sparse.get 0 t'.tok j = Sparse.get 0 t.tok j
    (Ready s (.sig y e n) y t → cDone s t → (k = 2 → Sparse.get 0 t.owed 0 = 0) →
        Sparse.get 0 t.tok k + Sparse.get 0 t.resv k + Sparse.get 0 t.psig k + own (y.extractLsb' 0 4) + n.toNat ≤ 255 →
        Effect s (.sig y e n) y s t (nextPc s (.sig y e n)) 1 ∧ Counts (.sig y e n) k (Sparse.get 0 t.tok k + n.toNat))
      ∧ (Ready s (.wait y e n) y t → n.toNat + own (y.extractLsb' 4 4) ≤ Sparse.get 0 t.tok (4 * k) →
        Effect s (.wait y e n) y s t (nextPc s (.wait y e n)) 1 ∧ Counts (.wait y e n) (4 * k) (Sparse.get 0 t.tok (4 * k) - n.toNat)))
    ∧ (∀ (s : State) (y : Syn) (t : Task), Ready s (.nop y) y t → t.timed = false →
    (s.cur.q = .v → t.replay = false) → (t.seq s.cur.q).flights = [] → t.owed = [] →
    complete s s.cur.core (s.bankOf s.cur.core) s.cur.q (t.seq s.cur.q) s.me.nextId = true →
    let q := s.cur.q.num
    ∃ s' t', exec (.nop y) s = .next s' ∧ s'.task? s.cur.core (s.bankOf s.cur.core) = some t'
      ∧ ∀ a b, a < 4 → b < 4 → Sparse.get 0 t'.tok (4 * a + b)
          = Sparse.get 0 t.tok (4 * a + b) - (if b = q ∧ (y.extractLsb' 4 4).getLsbD a = true then 1 else 0)
            + (if a = q ∧ (y.extractLsb' 0 4).getLsbD b = true then 1 else 0))

/-- R283, R308, R309, R315: LAUNCH and CHILD on a descriptor that can be read, with every earlier access of C performed and their turn come:
s[SD] is the new launch's number, or 2^63 plus the code of the first check that fails; LAUNCH fails with code 6 where the launch queue is full,
else its descriptor enters the queue at LQTAIL, and it waits for the answer. An accepted launch joins its partition with its
descriptor, its parent and its counter base; that the base is taken from the cursor at acceptance, and the cursor moved on, is the model's
reading (log 55).
R284: YIELD with its engines idle: s[SD] is 0 where no launch of higher priority is ready or a queue is not empty, else
the task gives up its bank and the items of R284 are kept: PCs, which streams have ended, token counts, key, the registers named. That the counts
kept are those after its own signals (log 62), and that a full launch queue answers 6 before the descriptor is checked (log 88), are the model's
readings. -/
def Obligations.LaunchAndYield : Prop :=
  (∀ (s : State) (y : Syn) (o : COp) (t : Task), cDone s t →
    let p := s.part t.part
    let core := s.cur.core
    let bank := s.bankOf core
    (p.subMcc ≠ s.mcc + 1 ∨ p.subCore ≤ core) →
    let Reads (i : Instr) (r : State × List Byte) : Prop :=
      Ready s i y t ∧ readTask (enteredAt s t y i) Ranges.noTx 64 4 (addrC t.c o) = .ok r
    let Says (i : Instr) (e : State) (v : Word) (q : Partition → Prop) : Prop :=
      ∃ s', exec i s = .next s' ∧ After s s' (withReg s e.here o.sd.toNat v) (nextPc s i) ∧ q (s'.part t.part)
    let base (d : BitVec 2048) : Nat := if dCursor d then p.cursor.toNat else dF d 48 8
    let Unmoved (x : Partition) : Prop := x.launches = p.launches ∧ x.nextId = p.nextId ∧ x.cursor = p.cursor
    let Cases (i : Instr) (e : State) (d : BitVec 2048) (room child : Bool) : Prop :=
      (descOk d (base d) t.priv = false → Says i e (BitVec.ofNat 64 (2 ^ 63 + 1)) Unmoved)
        ∧ (descOk d (base d) t.priv = true → room = false → Says i e (BitVec.ofNat 64 (2 ^ 63 + 6)) Unmoved)
        ∧ (descOk d (base d) t.priv = true → room = true → dTimed d = true → timetableOk s t.part = false →
          Says i e (BitVec.ofNat 64 (2 ^ 63 + 5)) Unmoved)
        ∧ (descOk d (base d) t.priv = true → room = true → (dTimed d = true → timetableOk s t.part = true) →
          Says i e (BitVec.ofNat 64 (p.nextId % 2 ^ 48)) (fun x => x.nextId = p.nextId + 1
            ∧ x.cursor = (if dCursor d then p.cursor + BitVec.ofNat 64 (dCount d) else p.cursor)
            ∧ ∃ l, x.launches = p.launches ++ [l] ∧ l.id = p.nextId ∧ l.desc = d ∧ l.stage = .accepted ∧ l.child = child ∧ l.parent = t.launch
              ∧ l.cbase = BitVec.ofNat 64 (base d)))
    (∀ r, Reads (.launch y o) r →
      let i := Instr.launch y o
      let e := r.1
      let d : BitVec 2048 := BitVec.ofNat 2048 (leNat r.2)
      let tail := blk e t.part 16 4
      let len := blk e t.part 8 4
      let queue := blk e t.part 0 8
      let slot := queue + 256 * (tail % max 1 len)
      let s1 := enterQueue (noteSubmit e) t.part core bank t.launch t.priv d
      let s2 := setBlk (partStore (noteSubmit e) slot (leBytes 256 d.toNat)) t.part 16 4 (tail + 1)
      (lqRoom e t.part = false → Says i e (BitVec.ofNat 64 (2 ^ 63 + 6)) Unmoved)
        ∧ (lqRoom e t.part = true → (lqOwnOf (s1.part t.part) core bank tail).bind (·.result) = none → timedHere s = false →
          ∃ s' w, exec i s = .next s' ∧ s'.me.wait = some w ∧ w.op = .lq tail ∧ s'.me.pc = s.me.pc ∧ s'.hbm = s1.hbm)
        ∧ (lqRoom e t.part = true → core < 512 → blk s2 t.part 12 4 = tail → blk s2 t.part 16 4 = tail + 1 → blk s2 t.part 8 4 = len →
          blk s2 t.part 0 8 = queue → BitVec.ofNat 2048 (partNat s2 slot 256) = d → p.lqOwn = [] → cpFree p = true → Cases i e d true false))
      ∧ (∀ r, Reads (.child y o) r → cpFree p = true →
        Cases (.child y o) r.1 (BitVec.ofNat 2048 (leNat r.2)) (childPool r.1 t.part t.launch).isSome true))
    ∧ (∀ (s : State) (y : Syn) (o : COp) (t : Task), Ready s (.yield y o) y t →
    (∀ q : SeqId, q ≠ .c → (t.seq q).prog = none ∧ (t.seq q).wait = none ∧ (t.seq q).flights = []) →
    let bank := s.bankOf s.cur.core
    ((higherReady s s.cur.core bank t = none ∨ queuesEmpty t = false) →
        Effect s (.yield y o) y s (withReg s t o.sd.toNat 0) (nextPc s (.yield y o)) 1)
      ∧ ((higherReady s s.cur.core bank t).isSome = true → queuesEmpty t = true → t.c.stores = [] → (s.flits.map (·.id)).Nodup →
        (∀ f ∈ s.flits, f.ofBank s.cur.core bank = true → f.departed = true ∧ f.copies = 0) →
        ∃ s', exec (.yield y o) s = .next s' ∧ s'.task? s.cur.core bank = none ∧ SameMemory s s'
          ∧ ∃ k, (s'.part t.part).yielded = (s.part t.part).yielded ++ [k] ∧ k.launch = t.launch ∧ k.rank = t.rank ∧ k.core = s.cur.core
            ∧ k.key = t.key ∧ k.pcs = [nextPc s (.yield y o), t.t.pc, t.v.pc, t.m.pc] ∧ k.sa = o.sa.toNat ∧ k.sd = o.sd.toNat
            ∧ k.streams = [t.c.stream, t.t.stream, t.v.stream, t.m.stream]
            ∧ k.regions = [t.c.lastRegion, t.t.lastRegion, t.v.lastRegion, t.m.lastRegion]
            ∧ (t.timed = false → t.c.flights = [] → ∀ a b, a < 4 → b < 4 → Sparse.get 0 k.tok (4 * a + b)
              = Sparse.get 0 t.tok (4 * a + b) - (if b = 0 ∧ (y.extractLsb' 4 4).getLsbD a = true then 1 else 0)
                + (if a = 0 ∧ (y.extractLsb' 0 4).getLsbD b = true then 1 else 0))
            ∧ k.vals = (List.range (cbImm o.b).toNat).map (fun j => t.c.reg (o.sa.toNat + j))))

/-- R287 to R289: CSRR reads the CSR that its immediate numbers; the values of the task's own CSRs are written out.
R287, R288, R230, R243, R356, R95: CSRW writes s[SA] to the CSR that its immediate numbers and returns the old value: RFSTAT is cleared
by ones, WHEEL takes the word, the partition's registers and the module's take their writable bits, PSTAT clears its three events and
with its doorbell has the record answered, and a register that takes no write keeps its value. Which membership each EFF goes with is the model's
reading (log 70).
R193: SETKEY loads KEY from s[SA] and returns the old key; the launch's record learns of it. -/
def Obligations.CsrAccesses : Prop :=
  (∀ (s : State) (y : Syn) (o : COp) (t : Task), Ready s (.csrr y o) y t →
    let n := (cbImm o.b).toNat % 4096
    let p := s.part t.part
    let value : Word :=
      if n = 0x000 then BitVec.ofNat 64 (s.mcc - p.mcc0)
      else if n = 0x001 then BitVec.ofNat 64 s.gt
      else if n = 0x002 then t.key
      else if n = 0x003 then t.cbase
      else if n = 0x004 then t.sbase
      else if n = 0x005 then t.rfstat
      else if n = 0x006 then BitVec.ofNat 64 (s.modNum * 2 ^ 48 + p.size * 2 ^ 40 + t.part * 2 ^ 32 + t.rank * 2 ^ 16 + s.cur.core)
      else if n = 0x007 then BitVec.ofNat 64 (t.launch % 2 ^ 48)
      else if n = 0x008 then t.tend ++ t.tfirst
      else if n = 0x009 then t.paramb
      else if 0x010 ≤ n ∧ n < 0x020 then Sparse.get 0 t.opbase (n - 0x010)
      else if 0x020 ≤ n ∧ n < 0x060 then Sparse.get 0 t.failw (n - 0x020)
      else if 0x140 ≤ n ∧ n < 0x150 then Sparse.get 0 (s.core s.cur.core).wheel (n - 0x140)
      else csrRead s n
    Effect s (.csrr y o) y s (withReg s t o.sd.toNat value) (nextPc s (.csrr y o)) 1)
    ∧ (∀ (s : State) (y : Syn) (o : COp) (t : Task), Ready s (.csrw y o) y t →
    let n := (cbImm o.b).toNat % 4096
    let a := t.c.reg o.sa.toNat
    let p := s.part t.part
    let x := s.sorus
    let d := n - 0x130
    let Writes (s0 : State) (t2 : Task) : Prop :=
      Effect s (.csrw y o) y s0 (t2.setSeq s.cur.q ((t2.seq s.cur.q).setReg o.sd.toNat (csrRead s n))) (nextPc s (.csrw y o)) 1
    let cleared : Partition := { p with lost := p.lost && !a.getLsbD 5, halted := p.halted && !a.getLsbD 2, fatal2 := p.fatal2 && !a.getLsbD 1 }
    (n = 0x005 → Writes s { t with rfstat := t.rfstat &&& ~~~ a })
      ∧ (0x140 ≤ n → n < 0x150 →
          Writes (s.setCore s.cur.core { s.core s.cur.core with wheel := Sparse.set 0 (n - 0x140) a (s.core s.cur.core).wheel }) t)
      ∧ (n = 0x100 → Writes (s.setPart t.part (p.setCsr n (a &&& 0x000FFFFFFFFFF000#64))) t)
      ∧ (0x101 ≤ n → n ≤ 0x105 → Writes (s.setPart t.part (p.setCsr n (a &&& 0xFFFFFFFF#64))) t)
      ∧ (n = 0x108 → Writes (s.setPart t.part (p.setCsr n (a &&& 0x76#64))) t)
      ∧ (0x118 ≤ n → n ≤ 0x11F → Writes (s.setPart t.part (p.setCsr n a)) t)
      ∧ (n = 0x150 → a.getLsbD 47 = false → Writes (s.setPart t.part cleared) t)
      ∧ (n = 0x150 → a.getLsbD 47 = true →
          ∃ t', exec (.csrw y o) s
              = .next (doorbell ((s.setPart t.part cleared).setTask s.cur.core (s.bankOf s.cur.core) (some t')) t.part (a.extractLsb' 39 8).toNat)
            ∧ bareTask t' .c = bareTask (withReg s t o.sd.toNat (csrRead s n)) .c ∧ t'.c.pc = nextPc s (.csrw y o) ∧ t'.c.wait = none)
      ∧ (n = 0x106 → s.timedisc = false → Writes s t)
      ∧ (n = 0x106 → s.timedisc = true → Writes
          { s with timelock := if a.extractLsb' 62 2 = 3#2 then true else if a.extractLsb' 62 2 = 2#2 then false else s.timelock,
                   lockedOnce := s.lockedOnce || a.extractLsb' 62 2 == 3#2, slew := s.slew + (a.extractLsb' 0 32).toInt } t)
      ∧ (n = 0x10A → Writes { s with sorus := { x with cfg := a &&& 0x1FFBFFFFFFF#64 } } t)
      ∧ (n = 0x10B → Writes (sorfirst s (a.setWidth 32)) t)
      ∧ (n = 0x10C → Writes { s with sorus := { x with eff := a.setWidth 32, memOld := x.memOld.filter (fun e => e.1 < a.toNat % 2 ^ 32) ++ [(a.toNat % 2 ^ 32, x.mem)] } } t)
      ∧ (n = 0x10D → Writes { s with sorus := { x with dl := a.setWidth 32 } } t)
      ∧ (n = 0x10E → Writes { s with sorus := { x with gap := a.setWidth 32 } } t)
      ∧ (0x110 ≤ n → n ≤ 0x117 → ∃ m : BitVec 512,
          Writes { s with sorus := { x with mem := m, memOld := x.memOld.filter (fun e => e.1 < x.eff.toNat) ++ [(x.eff.toNat, m)] } } t
          ∧ ∀ k, k < 512 → m.getLsbD k = if k / 64 = n - 0x110 then a.getLsbD (k % 64) else x.mem.getLsbD k)
      ∧ (0x130 ≤ n → n ≤ 0x13F → Writes { s with eccstat := Sparse.set 1 d (Sparse.get 1 s.eccstat d &&& ~~~ (a &&& 0xE#64)) s.eccstat } t)
      ∧ ((n = 0x000 ∨ n = 0x001 ∨ n = 0x107 ∨ n = 0x109 ∨ n = 0x10F ∨ (0x120 ≤ n ∧ n ≤ 0x12F)) → Writes s t)
      ∧ (csrScope n = .task → n ≠ 0x005 → Writes s t))
    ∧ (∀ (s : State) (y : Syn) (o : COp) (t : Task), Ready s (.setkey y o) y t →
    let p := s.part t.part
    Effect s (.setkey y o) y
      (s.setPart t.part { p with launches := p.launches.map (fun l => if l.id = t.launch then { l with keychg := true } else l) })
      (withReg s { t with key := t.c.reg o.sa.toNat } o.sd.toNat t.key) (nextPc s (.setkey y o)) 1)

/-- R328, R331, R332: taking an exception with a free slot in the trap queue, for a task with no store on its way that waits for no other trap and has
nothing begun: the task is held with its record, the lowest free slot holds the 128 bytes of a record of that cause, sequencer, FADDR and FPC, laid
out as R331 says, and the servicing agent is interrupted. CUTPC, SEQNO, TITER, MITER, TOKENS and FQDEPTH are those of the task after its cut: an
instruction of C, T or M that does not wait stands at its PC, V at its last REGION, and where nothing is in flight no token has moved. -/
def Obligations.TrapEntry : Prop := ∀ (s : State) (core bank q : Nat) (c : Cause) (faddr fpc : Nat) (t : Task) (j : Nat), s.task? core bank = some t →
  freeSlot (s.part t.part) = some j → (c.cls = 1 ∨ lateBelow s t.part 512 = false) → t.c.stream = .running → t.late = none → t.cutting = false →
  trapHeld s core bank t q c = false →
  (∀ q : SeqId, (t.seq q).stores = []) → s.flits = [] → s.poison = [] → s.errs = [] →
  s.populated (tqBase s (s.part t.part) + 128 * j) 128 = true →
  ∃ (s' : State) (t' k : Task) (r : TrapRec), takeTrap s core bank q c faddr 0 fpc = .next s' ∧ s'.task? core bank = some t' ∧ t'.hold = .record j
    ∧ (s'.part t.part).tq = (s.part t.part).tq ++ [{ slot := j, core := core, bank := bank, noTask := false, cls := c.cls, gt := s.gt }]
    ∧ s'.out.getLast? = some (.interrupt t.part j)
    ∧ getBytes s'.hbm (tqBase s (s.part t.part) + 128 * j) 128 = r.bytes ∧ r.cause = c ∧ r.seq = q ∧ r.core = core ∧ r.bank = bank ∧ r.noCore = false
    ∧ r.faddr = BitVec.ofNat 64 faddr ∧ r.fpc = BitVec.ofNat 64 fpc ∧ r.dcc = BitVec.ofNat 64 (s.mcc - (s.part t.part).mcc0)
    ∧ t' = { k with hold := .record j }
    ∧ r.cutpc = [k.c.pc.setWidth 64, k.t.pc.setWidth 64, k.v.pc.setWidth 64, k.m.pc.setWidth 64]
    ∧ r.seqno = (if c = .schedMiss then [k.c.lastRegion.setWidth 64, k.t.lastRegion.setWidth 64, k.v.lastRegion.setWidth 64, k.m.lastRegion.setWidth 64]
        else [k.c.seqno, k.t.seqno, k.v.seqno, k.m.seqno])
    ∧ (let counters (u : Seq) : List Nat := match u.prog with | some p => [p.i0, p.i1, p.i2, p.i3] | none => [0, 0, 0, 0]
       r.titer = counters k.t ∧ r.miter = counters k.m ∧ counters k.t = counters t.t ∧ counters k.m = counters t.m)
    ∧ r.tokens = [(0, 1), (0, 2), (0, 3), (1, 0), (1, 2), (1, 3), (2, 0), (2, 1), (2, 3), (3, 0), (3, 1), (3, 2)].map
        (fun x => Sparse.get 0 k.tok (4 * x.1 + x.2))
    ∧ r.fqDepth = k.fq.length ∧ k.fq = t.fq ∧ k.c.lastRegion = t.c.lastRegion ∧ k.t.lastRegion = t.t.lastRegion ∧ k.v.lastRegion = t.v.lastRegion
    ∧ k.m.lastRegion = t.m.lastRegion
    ∧ (∀ u : SeqId, u ≠ .v → (t.seq u).wait = none → (k.seq u).pc = (t.seq u).pc ∧ (k.seq u).seqno = (t.seq u).seqno)
    ∧ (t.v.stream = .running → k.v.pc = t.v.lastRegion) ∧ (t.v.stream ≠ .running → k.v.pc = t.v.pc) ∧ (t.v.wait = none → k.v.seqno = t.v.seqno)
    ∧ ((∀ u : SeqId, (t.seq u).wait = none ∧ (t.seq u).flights = []) → t.owed = [] → k.tok = t.tok)
    ∧ (let field (at0 n : Nat) : List Byte := (r.bytes.drop at0).take n
       let word (w : Word) : List Byte := leBytes 8 w.toNat
       r.bytes.length = 128 ∧ field 0 6 = [BitVec.ofNat 8 c.code, BitVec.ofNat 8 c.cls, BitVec.ofNat 8 q, r.flags, 0, 0]
         ∧ field 6 2 = leBytes 2 (core + 512 * bank) ∧ field 8 8 = word r.dcc ∧ field 16 8 = word r.faddr ∧ field 24 8 = word r.fpc
         ∧ (∀ k, k < 4 → field (32 + 8 * k) 8 = word (r.cutpc.getD k 0) ∧ field (64 + 8 * k) 8 = word (r.seqno.getD k 0)
             ∧ field (96 + 2 * k) 2 = leBytes 2 (r.titer.getD k 0) ∧ field (104 + 2 * k) 2 = leBytes 2 (r.miter.getD k 0))
         ∧ (∀ k, k < 12 → field (112 + k) 1 = [BitVec.ofNat 8 (r.tokens.getD k 0)]) ∧ field 124 4 = [BitVec.ofNat 8 r.fqDepth, 0, 0, 0])
    ∧ ∀ k, k < 255 → (∀ x ∈ (s.part t.part).tq, x.slot ≠ k) → j ≤ k

/-- R285: TRAP takes a SOFTWARE exception after it has issued, with its code as FADDR; the PC is past it. Where the trap queue
has a free slot and memory, no task of the partition waits for one, and no store is on its way, the task stops with its record there.
R286: HALT stops every core of its partition, sets HALTED, and interrupts Milnos. -/
def Obligations.SoftwareTrapAndHalt : Prop :=
  (∀ (s : State) (y : Syn) (code : BitVec 14) (t : Task), Ready s (.trap y code) y t → timedHere s = false →
    let bank := s.bankOf s.cur.core
    (∃ t1, exec (.trap y code) s = takeTrap (s.setTask s.cur.core bank (some t1)) s.cur.core bank 0 .software code.toNat 0 s.me.pc.toNat
        ∧ bareTask t1 .c = bareTask { t with trapId := some s.me.nextId } .c ∧ t1.c.pc = s.me.pc + 4 ∧ t1.c.wait = none)
      ∧ ∀ j, freeSlot (s.part t.part) = some j → lateBelow s t.part 512 = false → t.late = none → t.cutting = false →
          (∀ q : SeqId, (t.seq q).stores = [] ∧ ∀ p, (t.seq q).prog = some p → p.sent = 0) → s.flits = [] → s.populated (tqBase s (s.part t.part) + 128 * j) 128 = true →
          ∃ s' t', exec (.trap y code) s = .next s' ∧ s'.task? s.cur.core bank = some t' ∧ t'.hold = .record j ∧ t'.c.pc = s.me.pc + 4
            ∧ s'.out.getLast? = some (.interrupt t.part j))
    ∧ (∀ (s : State) (y : Syn) (code : BitVec 14) (t : Task), Ready s (.trap y code) y t → timedHere s = true →
      TrapsPrecisely s (.trap y code) t .schedMiss (s.mcc - t.c.alignAt))
    ∧ (∀ (s : State) (y : Syn) (t : Task), Ready s (.halt y) y t →
    ∃ s', exec (.halt y) s = .next s' ∧ (s'.part t.part).halted = true ∧ (s'.part t.part).stopped = true
      ∧ s'.out.getLast? = some (.mgmtInterrupt 0)
      ∧ ∀ n, 8 * t.part ≤ n → n < 8 * t.part + 8 * 2 ^ (s.part t.part).size → ∀ b, b = 0 ∨ b = 1 → ∀ x, s'.task? n b = some x → x.hold ≠ .none)

/-- R287, R42, R288: a privileged form in a task without privilege traps PRIVILEGED at its head parcel, before anything else of it; CSRW is one
for every CSR that R288 marks. -/
def Obligations.PrivilegedForms : Prop := ∀ (s : State) (y : Syn) (o : COp), mayIssue s = true → s.cur.q = .c → s.here.priv = false →
  let Refused (i : Instr) : Prop := TrapsBefore s i .privileged s.me.pc.toNat
  Refused (.halt y) ∧ Refused (.wmap y o) ∧ Refused (.wunmap y o) ∧ Refused (.lrecall y o)
    ∧ (∀ v : BitVec 32, o.b = .zimm v →
      let n := v.toNat % 4096
      ((0x100 ≤ n ∧ n ≤ 0x106) ∨ n = 0x108 ∨ (0x10A ≤ n ∧ n ≤ 0x11F) ∨ (0x130 ≤ n ∧ n ≤ 0x150)) → Refused (.csrw y o))

/-- R255, R256: COLL issues the next instance of its descriptor: the counter moves on by one, the source is read, and the packets of the
instance join those that wait for their slots, of which one may depart with the issue; once the last has departed, s[SD] is the generation.
COLLW is 0 once the last issued instance is complete, 1 | M << 32 once CTMO has passed with M operations and acknowledgements
missing; that with RETIRE the entry goes in the second case too is the model's reading (log 42); a descriptor that is not registered is an
illegal field. That the source is read at the issue, that the packets wait in a list, and that one departs with the issue, are the model's readings
(log 41). -/
def Obligations.Collectives : Prop := ∀ (s : State) (y : Syn) (o : COp) (t : Task),
  let p := s.part t.part
  let a := addrC t.c o
  let departs (x : State) (b g : Nat) : State :=
    match sendIndex x t.part b g with
    | some n => (match sendPorts x t.part n with | port :: _ => departPacket x t.part n port | [] => x)
    | none => x
  (∀ s0 g, Ready s (.coll y o) y t → collTry (enteredAt s t y (.coll y o)) t.part s.cur.core (enteredAt s t y (.coll y o)).here ownReader a = .go s0 g →
      (∀ e ∈ t.c.early, e.bytes.length = 16) →
      let s1 := departs s0 a g
      (sendIndex s1 t.part a g = none → Leaves s (.coll y o) s1 (withReg s s1.here o.sd.toNat (BitVec.ofNat 64 g)))
        ∧ ((sendIndex s1 t.part a g).isSome = true → timedHere s = false →
          ∃ s' w, exec (.coll y o) s = .next s' ∧ s'.me.wait = some w ∧ w.op = .collSend a g ∧ w.addr = o.sd.toNat ∧ s'.me.pc = s.me.pc ∧ SameOutside s1 s')
        ∧ (∃ x, (s0.part t.part).collSends = p.collSends ++ [x] ∧ x.addr = a ∧ x.gen = g ∧ x.next = 0 ∧ x.bytes.length = 64 * cBlocks x.desc)
        ∧ ∀ c, p.coll? a = some c → g = c.issued ∧ ∃ c', (s0.part t.part).coll? a = some c' ∧ c'.issued = c.issued + 1 ∧ c'.issuedGt = s.gt ∧ c'.desc = c.desc)
    ∧ (∀ w b g, Resumes s (.coll y o) y w → w.op = .collSend b g →
      sendIndex s s.here.part b g = none → Completes s (.coll y o) s (withReg s s.here o.sd.toNat (BitVec.ofNat 64 g)) (nextPc s (.coll y o)))
    ∧ (p.coll? a = none → (Ready s (.collw y o) y t → TrapsPrecisely s (.collw y o) t .illegalField s.me.pc.toNat)
        ∧ (Ready s (.collwRetire y o) y t → TrapsPrecisely s (.collwRetire y o) t .illegalField s.me.pc.toNat))
    ∧ ∀ c, p.coll? a = some c →
      let g := c.issued - 1
      let missing := (cExpect c.desc - Sparse.get 0 c.applied g) + (cBlocks c.desc - Sparse.get 0 c.acked g)
      let gone := s.setPart t.part { p with colls := p.colls.filter (fun x => x.addr != a) }
      let Ends (v : Word) : Prop :=
        (Ready s (.collw y o) y t → Effect s (.collw y o) y s (withReg s t o.sd.toNat v) (nextPc s (.collw y o)) 1)
          ∧ (Ready s (.collwRetire y o) y t → Effect s (.collwRetire y o) y gone (withReg s t o.sd.toNat v) (nextPc s (.collwRetire y o)) 1)
      ((c.issued ≤ c.done ∨ (cExpect c.desc ≤ Sparse.get 0 c.applied g ∧ cBlocks c.desc ≤ Sparse.get 0 c.acked g)) → Ends 0)
        ∧ (c.done < c.issued → missing ≠ 0 → c.issuedGt + (p.csrVal 0x103).toNat ≤ s.gt → Ends (BitVec.ofNat 64 (1 + 2 ^ 32 * missing)))

/-- R248: SPORE outside the sorus' partition traps; s[SD] is 1, 2, 3 for a step that cannot be open, a module that is no member,
a step already spored; otherwise the record goes to every sorus window and s[SD] is 0 once it has departed.
R249: SORW outside the sorus' partition traps; s[SD] is 2^62 for a step that this module cannot have opened, 2^63 for one no
longer held; for a complete step it is N | A << 16, and LAST moves up to it. -/
def Obligations.SporeAndSorw : Prop :=
  (∀ (s : State) (y : Syn) (o : COp) (t : Task) (r : State × List Byte),
    let i := Instr.spore y o
    let e := r.1
    let img := leNat r.2
    let n := bits img 64 32
    let Says (v : Word) : Prop := Leaves s i e (withReg s e.here o.sd.toNat v)
    let s1 := agentSend { e with sorus := { e.sorus with spored := e.sorus.spored ++ [n] } } (slotOff n s.modNum) (sporeImage s img)
    (Ready s i y t → sorusMine s = false → TrapsPrecisely s i t .privileged s.me.pc.toNat)
      ∧ (Ready s i y t → sorusMine s = true → readTask (enteredAt s t y i) Ranges.ownHbm 32 1 (addrC t.c o) = .ok r →
        (bits img 120 8 ≠ 0 → TrapsAfter s i e e.here .illegalField s.me.pc.toNat)
          ∧ (bits img 120 8 = 0 →
            (s.sorus.openable n = false → Says 1)
              ∧ (s.sorus.openable n = true → (memOf s n).getLsbD s.modNum = false → Says 2)
              ∧ (s.sorus.openable n = true → (memOf s n).getLsbD s.modNum = true → n ∈ s.sorus.spored → Says 3)
              ∧ (s.sorus.openable n = true → (memOf s n).getLsbD s.modNum = true → n ∉ s.sorus.spored → sorusFull e = none →
                (∀ f ∈ s1.flits, s.nextFlit ≤ f.id → f.departed = true) →
                Leaves s i s1 (withReg s s1.here o.sd.toNat 0))))
      ∧ (∀ w ids, Resumes s i y w → w.op = .spore ids → ids ≠ [] → (∀ f ∈ s.flits, f.id ∈ ids → f.departed = true) →
        Completes s i s (withReg s s.here o.sd.toNat 0) (nextPc s i)))
    ∧ (∀ (s : State) (y : Syn) (o : COp) (t : Task), Ready s (.sorw y o) y t →
    let i := Instr.sorw y o
    let n := (t.c.reg o.sa.toNat + bVal t.c o.b).toNat % 2 ^ 32
    let x := s.sorus
    let Says (s0 : State) (v : Word) : Prop := Effect s i y s0 (withReg s t o.sd.toNat v) (nextPc s i) 1
    (sorusMine s = false → TrapsPrecisely s i t .privileged s.me.pc.toNat)
      ∧ (sorusMine s = true → x.lastPlus1 + 64 ≤ n → Says s (BitVec.ofNat 64 (2 ^ 62)))
      ∧ (sorusMine s = true → n < x.lastPlus1 + 64 → x.gone n = true → Says s (BitVec.ofNat 64 (2 ^ 63)))
      ∧ (∀ k, sorusMine s = true → n < x.lastPlus1 + 64 → x.gone n = false → x.step? n = some k → k.complete = true →
        let absent := ((members k.mem).filter (isAbsent s k.step)).length
        Says { s with sorus := { x with last := if x.lastPlus1 ≤ n then BitVec.ofNat 32 n else x.last } }
          (BitVec.ofNat 64 ((members k.mem).length - absent + 65536 * absent))))

/-- R258: the routing of A2A, token by token in ascending index. A token whose expert has room goes there, into the next slot of that
expert's queue; one whose expert is full goes nowhere without FALLBACK or a fallback expert, else to the fallback expert, where that one has
room; a token of DEST -1 goes nowhere. No expert holds more tokens than its capacity. The counts of drops and falls are the tokens with a destination that went
nowhere, and those that went elsewhere.
R258: A2A checks everything first, and then each token goes, with its entry of MAP after it, and the headers after the tokens; its result
comes once the last store has departed. What is read when, and in which order the faults come, are the model's readings (log 43). -/
def Obligations.AllToAll : Prop :=
  (∀ (xs : List Expert) (fallback : Bool) (dests : List Nat),
    (∀ d ∈ dests, d < xs.length ∨ d = 2 ^ 32 - 1) → xs.length < 2 ^ 32 - 1 →
    let r := routeAll xs fallback dests
    let held (k e : Nat) : Nat := Sparse.get 0 (routeAll xs fallback (dests.take k)).counts e
    r.map.length = dests.length
      ∧ (∀ (e : Nat) (x : Expert), xs[e]? = some x → Sparse.get 0 r.counts e ≤ x.cap ∧ Sparse.get 0 r.counts e = r.map.countP (fun m => m == some e))
      ∧ (∀ k d : Nat, dests[k]? = some d →
        (d = 2 ^ 32 - 1 → r.map[k]? = some none)
          ∧ (∀ x, xs[d]? = some x → held k d < x.cap → r.map[k]? = some (some d))
          ∧ (∀ x, xs[d]? = some x → held k d = x.cap → (fallback = false ∨ x.fb = 0xFF) → r.map[k]? = some none)
          ∧ (∀ x z, xs[d]? = some x → held k d = x.cap → fallback = true → x.fb ≠ 0xFF → xs[x.fb]? = some z → held k x.fb < z.cap →
            r.map[k]? = some (some x.fb))
          ∧ (r.rows dests.length)[k]? = some (k, (r.map.getD k none).map (fun e => (e, held k e)))
          ∧ ∀ e, held (k + 1) e = held k e + (if r.map[k]? = some (some e) then 1 else 0))
      ∧ r.drops = (dests.zip r.map).countP (fun z => z.1 != 2 ^ 32 - 1 && z.2.isNone)
      ∧ r.falls = (dests.zip r.map).countP (fun z => z.2.isSome && z.2 != some z.1))
    ∧ (∀ (s : State) (y : Syn) (o : COp) (t : Task),
    let i := Instr.a2a y o
    let bank := s.bankOf s.cur.core
    (∀ x, a2aPlan (enteredAt s t y i) i (addrC t.c o) = .ok x → ∃ (ds ws : State × List Nat) (de : State × List Byte),
      let e := enteredAt s t y i
      let d := leNat de.2
      let field (at0 n : Nat) : Nat := bits d (8 * at0) (8 * n)
      let count := field 4 4
      let xs : List Expert := ws.2.map (fun w => { win := bits w 0 10, cap := bits w 16 16, fb := bits w 32 8 })
      let r := routeAll xs (field 41 1 = 1) ds.2
      let row (k : Nat) : Option (Nat × Nat) := (r.rows count)[k]?.bind (·.2)
      let size := field 2 2
      readAs ownReader s.cur.core e.here Ranges.noTx 64 1 (addrC t.c o) e = .ok de
        ∧ readNums ownReader s.cur.core e.here 8 (field 40 1 + 1) (field 24 8) de.1 = .ok ws
        ∧ readNums ownReader s.cur.core e.here 4 count (field 16 8) ws.1 = .ok ds ∧ x.state = ds.1
        ∧ x.result = BitVec.ofNat 64 (r.drops + 2 ^ 32 * r.falls)
        ∧ ∃ (src : Nat → Nat → Place) (map : Nat → Place),
          (∀ k g, k < count → (row k).isSome = true → g < size / 16 →
            checkAccess ds.1 s.cur.core ds.1.here Ranges.noTx .load ((field 8 8 + k * size + 16 * g) % 2 ^ 48) 16 16 = .ok (src k g))
          ∧ (∀ k, k < count → checkAccess ds.1 s.cur.core ds.1.here Ranges.all .store ((field 32 8 + 4 * k) % 2 ^ 48) 4 4 = .ok (map k))
          ∧ x.stores = (List.range count).flatMap (fun k =>
                (match row k with
                 | some z => (List.range (size / 16)).map (fun g =>
                     (some (src k g), .tx ((ds.1.txWin (xs.getD z.1 ⟨0, 0, 0⟩).win).lbase + 64 + z.2 * size + 16 * g), []))
                 | none => [])
                ++ [(none, map k, (leBytes 4 (((row k).map (·.1)).getD (2 ^ 32 - 1))).map some)])
              ++ xs.zipIdx.map (fun z => (none, .tx (ds.1.txWin z.1.win).lbase, (leBytes 8 (Sparse.get 0 r.counts z.2) ++ leBytes 8 ds.1.modNum).map some)))
      ∧ (∀ x s1, Ready s i y t → a2aPlan (enteredAt s t y i) i (addrC t.c o) = .ok x → a2aSends x.stores x.state = some s1 →
        (s1.undeparted s.cur.core bank .c s.me.nextId = false → Leaves s i s1 (withReg s s1.here o.sd.toNat x.result))
          ∧ (s1.undeparted s.cur.core bank .c s.me.nextId = true → timedHere s = false →
            ∃ s' w, exec i s = .next s' ∧ s'.me.wait = some w ∧ w.op = .status x.result ∧ s'.me.pc = s.me.pc ∧ SameOutside s1 s'))
      ∧ (∀ w v, Resumes s i y w → w.op = .status v → s.undeparted s.cur.core bank .c w.id = false →
        Completes s i s (withReg s s.here o.sd.toNat v) (nextPc s i)))

/-- R219, R220: WMAP: the code and the member position of the first check that fails; a receive window is mapped at once, with epoch 0 or
with the next one; a transmit window asks every member, and is mapped once all have granted, or is free again with code 4 or 5.
The order of the checks that fail together (log 36), that a slot set without an owner is no failure (log 35), and the status words that R219 leaves
open (log 87), are the model's readings. -/
def Obligations.WindowMapping : Prop := ∀ (s : State) (y : Syn) (o : COp) (t : Task) (r : State × List Byte) (ms : List Nat) (z : State),
  let i := Instr.wmap y o
  let d := leNat r.2
  let k := wIndex d
  let n := 2 ^ wLog d
  let base := wLBase d
  let rx := s.rxWin k
  let Says (e : State) (v : Nat) : Prop := Leaves s i e (withReg s e.here o.sd.toNat (BitVec.ofNat 64 v))
  let busy : Prop := if wIsRx d then rx.state ≠ 0 ∧ ¬ (rx.state = 2 ∧ rx.part = t.part) else s.txWin k ≠ TxWin.free
  let odd : Prop := bits d 320 192 ≠ 0 ∨ bits d 200 56 ≠ 0 ∨ bits d 32 8 ≠ 0 ∨ bits d 26 5 ≠ 0 ∨ bits d 10 5 ≠ 0 ∨ wLog d < 12 ∨ 32 < wLog d ∨ 64 < wCount d
  let oddRx : Prop := bits d 128 64 ≠ 0 ∨ wAllow d ≠ 0 ∨ wSlots d ≠ 0 ∨ d.testBit 31 = true ∨ wLoop d ≠ 0
    ∨ (base.testBit 63 = false ∧ (base % n ≠ 0 ∨ s.populated base n = false ∨ s.stackReady (base / 2 ^ 37) = false))
    ∨ (base.testBit 63 = true ∧ (bits base 57 6 ≠ 0 ∨ bits base 23 25 ≠ 0 ∨ bits base 0 23 % n ≠ 0 ∨ 23 < wLog d))
  let oddTx : Prop := wCount d = 0 ∨ bits d 186 6 ≠ 0 ∨ wAllow d = 0 ∨ 64 ≤ wSlots d ∨ wLoop d = 3
    ∨ base % n ≠ 0 ∨ base < 0x100000000 ∨ 0x200000000 < base + n
    ∨ (∃ e ∈ s.tx, e.2.part = t.part ∧ base < e.2.lbase + e.2.size ∧ e.2.lbase < base + n)
    ∨ ((Sparse.get 0 s.slotOwner (wSlots d)).getLsbD 7 = true ∧ ((Sparse.get 0 s.slotOwner (wSlots d)).extractLsb' 0 6).toNat ≠ t.part)
  let peer (m : Nat) : Prop := m < 512 ∧ (∀ a, a < 3 → placeOn m a < ringSize s a) ∧ s.disabled.getLsbD m = false
    ∧ ((s.part t.part).csrVal (0x118 + m / 64)).getLsbD (m % 64) = true
    ∧ (if wIsRx d then (∀ p, firstHop s m = some p → portReady s p = true ∨ portReady s (p + 1) = true)
        else ∃ p ∈ exitPorts s (wSlots d) m, portReady s p = true)
  (Ready s i y t → readTask (enteredAt s t y i) Ranges.noTx 64 1 (addrC t.c o) = .ok r →
      (busy → Says r.1 1)
        ∧ (¬ busy → (odd ∨ (if wIsRx d then oddRx else oddTx)) → Says r.1 2)
        ∧ (wmapHead s t.part d = none ↔ ¬ busy ∧ ¬ odd ∧ ¬ (if wIsRx d then oddRx else oddTx))
        ∧ (wmapHead s t.part d = none → readMembers r.1 (wCount d) (wList d) = .ok (z, ms) →
          ((¬ ms.Nodup ∨ (∃ m ∈ ms, 1024 ≤ m)) → Says z 2)
            ∧ (wIsRx d = false → ms.Nodup → (∀ m ∈ ms, m < 1024) → (∃ m ∈ ms, inDomain s m = true ∧ exitPorts s (wSlots d) m = []) → Says z 2)
            ∧ (∀ pos m, ms.Nodup → (∀ m ∈ ms, m < 1024) → (wIsRx d = false → ∀ m ∈ ms, inDomain s m = true → exitPorts s (wSlots d) m ≠ []) →
              ms[pos]? = some m → ¬ peer m → (∀ j x, j < pos → ms[j]? = some x → peer x) → Says z (3 + 256 * pos))
            ∧ (wIsRx d = false → ms.Nodup → (∀ m ∈ ms, m < 1024) → (∀ m ∈ ms, peer m) → wLoop d ≠ 0 →
              (let x := s.rxWin (wRx d)
               ¬ (x.state = 1 ∧ (if x.sources = [] then s.modNum < 512 ∧ ((s.part x.part).csrVal (0x118 + s.modNum / 64)).getLsbD (s.modNum % 64) = true
                   else s.modNum ∈ x.sources) ∧ wRxOff d + n ≤ x.size)) → Says z (4 + 256 * 0xFF))
            ∧ (∀ v, wmapCheck s t.part d ms = some v → Leaves s i z (withReg s z.here o.sd.toNat v))
            ∧ (wmapCheck s t.part d ms = none → wIsRx d = true → rx.state = 0 →
              Leaves s i (z.setRx k { RxWin.free with state := 1, part := t.part, lbase := BitVec.ofNat 64 base, size := n, sources := ms })
                (withReg s z.here o.sd.toNat 0))
            ∧ (wmapCheck s t.part d ms = none → wIsRx d = true → rx.state = 2 → rx.size = n →
              ∃ s', exec i s = .next s' ∧ After s s' (withReg s z.here o.sd.toNat 0) (nextPc s i) ∧ SameOutside z s'
                ∧ (s'.rxWin k).state = 1 ∧ (s'.rxWin k).epoch = rx.epoch + 1 ∧ (s'.rxWin k).lbase = BitVec.ofNat 64 base)
            ∧ (wmapCheck s t.part d ms = none → wIsRx d = true → rx.state = 2 → rx.size ≠ n → Says z 2)
            ∧ (wmapCheck s t.part d ms = none → wIsRx d = false → timedHere s = false →
              ∃ s', exec i s = .next s' ∧ s'.me.pc = s.me.pc ∧ s'.out = s.out ++ ms.map (fun m => Msg.leaseAsk m (wRx d) (wRxOff d + n))
                ∧ (s'.txWin k).mapped = false ∧ (s'.txWin k).members = ms ∧ (s'.txWin k).lbase = base ∧ SameOutside z s')))
    ∧ (∀ w win, Resumes s i y w → w.op = .wmap win →
      let x := s.txWin win
      let free (pos code : Nat) : Prop := ∃ s0, Completes s i s0 (withReg s s.here o.sd.toNat (BitVec.ofNat 64 (code + 256 * pos))) (nextPc s i)
        ∧ s0.txWin win = TxWin.free ∧ s0.cores = s.cores ∧ s0.hbm = s.hbm
      (x.granted = x.mask → Completes s i (s.setTx win { x with mapped := true, asker := 0 }) (withReg s s.here o.sd.toNat 0) (nextPc s i))
        ∧ (∀ pos, pos < x.members.length → (∀ j, j < pos → x.granted.getLsbD j = true) → x.granted.getLsbD pos = false → x.members.length ≤ 64 →
            x.mask &&& ~~~(x.granted ||| x.refused) = 0 → x.refused.getLsbD pos = true → free pos 4)
        ∧ (∀ pos, pos < x.members.length → (∀ j, j < pos → x.granted.getLsbD j = true) → x.granted.getLsbD pos = false → x.members.length ≤ 64 →
            x.askedGt + 10000 ≤ s.gt → x.refused.getLsbD pos = false → free pos 5))

/-- R221, R222, R98: WUNMAP of a transmit window without a flit on its way frees it and returns its leases; WUNMAP and LRECALL of a receive
window complete once no lease is left; LRECALL then leaves it RECALLED and stores FAILMAP; the failing statuses (the handle's upper bits: log 63; an entry of another partition, which is not
this one's to unmap: log 87). -/
def Obligations.WindowEnds : Prop := ∀ (s : State) (y : Syn) (o : COp) (t : Task),
  let a := addrC t.c o
  let k := a % 1024
  let SaysU (s0 : State) (v : Word) : Prop := Effect s (.wunmap y o) y s0 (withReg s t o.sd.toNat v) (nextPc s (.wunmap y o)) 1
  (Ready s (.wunmap y o) y t →
      (2048 ≤ a → SaysU s 2)
        ∧ (a < 1024 → ((s.txWin k).mapped = false ∨ (s.txWin k).part ≠ t.part) → SaysU s 1)
        ∧ (a < 1024 → (s.txWin k).mapped = true → (s.txWin k).part = t.part → (∀ f ∈ s.flits, f.win ≠ k) →
            ∃ s0, SaysU s0 0 ∧ s0.txWin k = TxWin.free ∧ s0.cores = s.cores ∧ s0.hbm = s.hbm ∧ s0.out = s.out
              ++ ((s.txWin k).members.zipIdx.filter (fun x => (s.txWin k).granted.getLsbD x.2)).map (fun x => Msg.leaseReturn x.1 (s.txWin k).rx))
        ∧ (1024 ≤ a → a < 2048 → ((s.rxWin k).state = 0 ∨ (s.rxWin k).part ≠ t.part) → SaysU s 1)
        ∧ (1024 ≤ a → a < 2048 → (s.rxWin k).state ≠ 0 → (s.rxWin k).part = t.part → (s.rxWin k).leases = [] → (s.rxWin k).recallGt = 0 →
            SaysU (s.setRx k RxWin.free) 0))
    ∧ (∀ w rx addr, Resumes s (.wunmap y o) y w → w.op = .recall rx addr true → (s.rxWin rx).leases = [] →
        Completes s (.wunmap y o) (s.setRx rx RxWin.free)
          (withReg s s.here o.sd.toNat (BitVec.ofNat 64 (65536 * (s.rxWin rx).silent.length))) (nextPc s (.wunmap y o)))
    ∧ (∀ w rx addr p, Resumes s (.lrecall y o) y w → w.op = .recall rx addr false → (s.rxWin rx).leases = [] →
        checkAccess s s.cur.core s.here Ranges.noTx .store (addr + 64) 64 64 = .ok p →
        let fail := ((s.rxWin rx).silent.map (fun m => 2 ^ m)).sum
        Completes s (.lrecall y o) (s.setRx rx { s.rxWin rx with state := 2, recallGt := 0 })
          (withReg s (withStoresOf s.here s.cur.core .c s.me.head s.mcc w.id (fun _ => 0)
            ((List.range 4).map (fun g => (p.add (16 * g), (leBytes 16 (fail / 2 ^ (128 * g))).map some)))) o.sd.toNat
            (BitVec.ofNat 64 (65536 * (s.rxWin rx).silent.length))) (nextPc s (.lrecall y o)))
    ∧ (∀ (x : State × List Byte) (p : Place), Ready s (.lrecall y o) y t → readTask (enteredAt s t y (.lrecall y o)) Ranges.noTx 128 1 a = .ok x →
        checkAccess x.1 s.cur.core t Ranges.noTx .store (a + 64) 64 64 = .ok p →
        let d := leNat (x.2.take 64)
        let e := x.1
        let Says (v : Word) : Prop := Leaves s (.lrecall y o) e (withReg s e.here o.sd.toNat v)
        (1024 ≤ d → Says 2)
          ∧ (d < 1024 → ((s.rxWin d).state ≠ 1 ∨ (s.rxWin d).part ≠ t.part) → Says 1)
          ∧ (d < 1024 → (s.rxWin d).state = 1 → (s.rxWin d).part = t.part → (s.rxWin d).leases = [] → (s.rxWin d).recallGt = 0 →
            ∃ s', exec (.lrecall y o) s = .next s'
              ∧ After s s' (withReg s (withStores s e.here s.me.nextId ((List.range 4).map (fun g => (p.add (16 * g), List.replicate 16 (some 0))))) o.sd.toNat 0)
                (nextPc s (.lrecall y o)) ∧ SameOutside e s' ∧ s'.rxWin d = { s.rxWin d with state := 2, silent := [], recallGt := 0 }))

/-! ### The common group -/

/-- R41, R31, R101, R344: NOP, IDLE, JMP, BNZD, POP and XADD; a POP of an entry with two bits in error traps (its FADDR is a free value: log 73), the
errors of the entries behind the one taken move up with them. -/
def Obligations.CommonGroup : Prop := ∀ (s : State) (y : Syn) (t : Task),
  let q := s.cur.q
  let u := t.seq q
  let target (off : BitVec 32) : BitVec 48 := BitVec.ofInt 48 (s.me.pc.toNat + 4 * off.toInt)
  let kept (e : Nat) : List BadWord := t.bad.filterMap (fun w =>
    match w with
    | .pq f i => if f = e then (if i = 0 then none else some (.pq f (i - 1))) else some w
    | _ => some w)
  (Ready s (.nop y) y t → Effect s (.nop y) y s t (nextPc s (.nop y)) 1)
    ∧ (∀ n, Ready s (.idle y n) y t → Effect s (.idle y n) y s t (nextPc s (.idle y n)) (1 + n.toNat))
    ∧ (∀ off, Ready s (.jmp y off) y t → Effect s (.jmp y off) y s t (target off) 1)
    ∧ (∀ r off, Ready s (.bnzd y (.s r) off) y t →
        Effect s (.bnzd y (.s r) off) y s (withReg s t r.toNat (u.reg r.toNat - 1))
          (if u.reg r.toNat - 1 = 0 then nextPc s (.bnzd y (.s r) off) else target off) 1)
    ∧ (∀ r off, Ready s (.bnzd y (.x r) off) y t →
        Effect s (.bnzd y (.x r) off) y s (withPend s t 1 [.x r.toNat (u.reg r.toNat - 1)] 0 false [])
          (if u.reg r.toNat - 1 = 0 then nextPc s (.bnzd y (.x r) off) else target off) 1)
    ∧ (∀ xd w l, Ready s (.pop y xd) y t → q = .t → t.pqT = w :: l → .pq 1 0 ∉ t.bad →
        WritesLater s (.pop y xd) y { t with pqT := l, bad := kept 1 } 1 [.x xd.toNat w] 0)
    ∧ (∀ xd w l, Ready s (.pop y xd) y t → q = .m → t.pqM = w :: l → .pq 3 0 ∉ t.bad →
        WritesLater s (.pop y xd) y { t with pqM := l, bad := kept 3 } 1 [.x xd.toNat w] 0)
    ∧ (∀ xd w, Ready s (.pop y xd) y t → q = .v → t.pqV[t.heldTaken]? = some w → .pq 2 t.heldTaken ∉ t.bad →
        WritesLater s (.pop y xd) y { t with heldTaken := t.heldTaken + 1, heldV := max t.heldV (t.heldTaken + 1) } 1 [.x xd.toNat w] 0)
    ∧ (∀ xd, Ready s (.pop y xd) y t → popEntry t q ≠ none → .pq q.num (if q = .v then t.heldTaken else 0) ∈ t.bad → TrapsPrecisely s (.pop y xd) t .eccUncorrectable (Config.eccAddr s.moves))
    ∧ (∀ o, Ready s (.xadd y o) y t →
        WritesLater s (.xadd y o) y t 1 [.x o.xd.toNat (BitVec.ofInt 64 ((u.reg o.xa.toNat).toNat + o.imm.toInt))] 0)

/-- R41, R282, R331, R332, R334: REGION marks where T and M restart, and C's last one, and opens a region on V, whose control values it
keeps, and frees the parameters that the region before it took; in timetable mode an engine that no ALIGN has armed is held there.
R41, R271, R137: END with no earlier instruction of its sequencer in flight ends the stream, and with C's the engines still held;
with the last stream the task ends: its bank is free. -/
def Obligations.RegionAndEnd : Prop :=
  let freedBad (t : Task) : List BadWord := t.bad.filterMap (fun w =>
    match w with
    | .pq f i => if f = 2 then (if i < t.heldTaken then none else some (.pq f (i - t.heldTaken))) else some w
    | _ => some w)
  (∀ (s : State) (y : Syn) (t : Task),
    let i := Instr.region y
    let freed (t : Task) : Task := { t with pqV := t.pqV.drop t.heldTaken, heldV := t.heldV - t.heldTaken, heldTaken := 0, bad := freedBad t }
    let opened (t : Task) : Task :=
      { t with regVl := t.vl, regVrb := t.vrb, regVcsr := t.vcsr, v := { t.v with lastRegion := s.me.pc, regionNo := t.v.regionNo + 1 } }
    (Ready s i y t → s.cur.q = .c → Effect s i y s { t with c := { t.c with lastRegion := s.me.pc } } (nextPc s i) 1)
      ∧ (mayIssue s = true → s.here.timed = true → s.cur.q ≠ .c → s.me.armed = false → exec i s = .next (s.setMe { s.me with stream := .held, early := [] }))
      ∧ (Ready s i y t → (s.here.timed = true → s.me.armed = true) →
        (s.cur.q = .t → Effect s i y s { t with t := { t.t with lastRegion := s.me.pc } } (nextPc s i) 1)
          ∧ (s.cur.q = .m → Effect s i y s { t with m := { t.m with lastRegion := s.me.pc } } (nextPc s i) 1)
          ∧ (s.cur.q = .v → t.replay = true → t.atRegion = true → Effect s i y s { opened t with atRegion := false } (nextPc s i) 1)
          ∧ (s.cur.q = .v → (t.replay = false ∨ t.atRegion = false) → Effect s i y s { opened (freed t) with replay := false } (nextPc s i) 1)))
    ∧ (∀ (s : State) (y : Syn) (t : Task), Ready s (.endStream y) y t → (t.seq s.cur.q).flights = [] →
    let i := Instr.endStream y
    let release (u : Seq) : Seq := if u.stream = .held then { u with stream := .ended } else u
    let t1 : Task :=
      match s.cur.q with
      | .c => { t with c := { t.c with stream := .ended }, t := release t.t, v := release t.v, m := release t.m }
      | .t => { t with t := { t.t with stream := .ended } }
      | .v =>
        { t with v := { t.v with stream := .ended }, pqV := t.pqV.drop t.heldTaken, heldV := t.heldV - t.heldTaken, heldTaken := 0, bad := freedBad t }
      | .m => { t with m := { t.m with stream := .ended } }
    ((∃ q : SeqId, (t1.seq q).stream ≠ .ended) → Effect s i y s t1 (nextPc s i) 1)
      ∧ ((∀ q : SeqId, (t1.seq q).stream = .ended) → ∃ s', exec i s = .next s' ∧ s'.task? s.cur.core (s.bankOf s.cur.core) = none ∧ SameMemory s s'))

/-! ### The vector sequencer -/

/-- R144, R141, R139, R70, R71: the floating-point group: at each selected element the exact result, rounded once in the mode of
RM into TYPE, or a result of bits alone; each at its latency, with the flags of the elements. VEXP2 of an integer whose power
TYPE does not hold raises UF with NX where it does not raise OF: the model's reading (log 14). -0 - (+0) in VSUB and VFMS, and the RNE tie of P = 1, are
the model's readings (log 75, 74). R344: a source with a word in error traps, with a free value in FADDR (log 73). -/
def Obligations.VectorFloat : Prop := ∀ (s : State) (y : Syn) (o : VOp) (t : Task),
  let ty := vtype o false
  let w := typeBytes ty
  let f := typeFmt t ty
  let sel := selElems t o.pred.toNat w
  let d (e : Nat) : Nat := spanElem t o.vd.toNat w e
  let a (e : Nat) : Nat := spanElem t o.va.toNat w e
  let b (e : Nat) : Nat := vsrc t o.b false w e
  let mode (e : Nat) : Mode := vmode t o.rm.toNat t.x31 e
  let Writes (i : Instr) (lat : Nat) (r : Nat → Nat × Flags) : Prop := Ready s i y t →
    ((isB8 ty = true → b8p t ≠ 0) → readsBad t (vSources t i) = false →
        WritesLater s i y t lat (elemWrites t o.vd.toNat w (sel.map (fun e => (e, (r e).1)))) (sel.foldl (fun fl e => fl ||| (r e).2) 0))
      ∧ ((isB8 ty = true → b8p t ≠ 0) → readsBad t (vSources t i) = true → TrapsPrecisely s i t .eccUncorrectable (Config.eccAddr s.moves))
      ∧ (isB8 ty = true → b8p t = 0 → TrapsPrecisely s i t .illegalField s.me.pc.toNat)
  let Rounds (i : Instr) (lat : Nat) (r : Nat → FVal × Flags) : Prop :=
    Writes i lat (fun e => let c := roundTo f (mode e) false (r e).1; (c.1, c.2 ||| (r e).2))
  let sign := 2 ^ (8 * w - 1)
  Rounds (.vadd y o) 4 (fun e => fAdd (f.decode (a e)) (f.decode (b e)))
    ∧ Rounds (.vsub y o) 4 (fun e => fAdd (f.decode (a e)) (f.decode (b e)).neg)
    ∧ Rounds (.vmul y o) 4 (fun e => fMul (f.decode (a e)) (f.decode (b e)))
    ∧ Rounds (.vfma y o) 6 (fun e => fFma (f.decode (d e)) (f.decode (a e)) (f.decode (b e)))
    ∧ Rounds (.vfms y o) 6 (fun e => fFma (f.decode (d e)) (f.decode (a e)) (f.decode (b e)).neg)
    ∧ Rounds (.vdiv y o) 20 (fun e => fDiv (f.decode (a e)) (f.decode (b e)))
    ∧ Rounds (.vsqrt y o) 18 (fun e => fSqrt (f.decode (b e))) ∧ Rounds (.vrcp y o) 10 (fun e => fRcp (f.decode (b e)))
    ∧ Rounds (.vrsq y o) 10 (fun e => fRsq (f.decode (b e)))
    ∧ Writes (.vexp2 y o) 16 (fun e =>
        let x := f.decode (b e)
        let c := roundTo f (mode e) false (fExp2 x).1
        let fl := c.2 ||| (fExp2 x).2
        (c.1, if x.isInt = true ∧ fl.getLsbD 0 = true ∧ fl.getLsbD 2 = false then fl ||| 2 else fl))
    ∧ Rounds (.vlog2 y o) 16 (fun e => fLog2 (f.decode (b e)))
    ∧ Writes (.vmin y o) 4 (fun e => (fMinMax f false (a e) (b e), 0)) ∧ Writes (.vmax y o) 4 (fun e => (fMinMax f true (a e) (b e), 0))
    ∧ Writes (.vabs y o) 4 (fun e => (b e % sign, 0)) ∧ Writes (.vneg y o) 4 (fun e => ((b e + sign) % (2 * sign), 0))
    ∧ Writes (.vmov y o) 4 (fun e => (b e, 0))

/-- R145: the integer and bitwise group of V, at latency 2. -/
def Obligations.VectorInteger : Prop := ∀ (s : State) (y : Syn) (o : VOp) (t : Task),
  let ty := vtype o true
  let w := typeBytes ty
  let sel := selElems t o.pred.toNat w
  let a (e : Nat) : Nat := spanElem t o.va.toNat w e
  let b (e : Nat) : Nat := vsrc t o.b true w e
  let Writes (i : Instr) (r : Nat → Nat) : Prop := Ready s i y t → (isB8 ty = true → b8p t ≠ 0) → readsBad t (vSources t i) = false →
    WritesLater s i y t 2 (elemWrites t o.vd.toNat w (sel.map (fun e => (e, r e)))) 0
  let lo : Int := if intSigned ty then -(2 ^ (8 * w - 1) : Nat) else 0
  let hi : Int := if intSigned ty then (2 ^ (8 * w - 1) : Nat) - 1 else (2 ^ (8 * w) : Nat) - 1
  let exact (op : Int → Int → Int) (e : Nat) : Nat :=
    let z := op (intVal ty (a e)) (intVal ty (b e))
    ((if o.opx.getLsbD 0 then max lo (min hi z) else z) % 2 ^ (8 * w)).toNat
  let n (e : Nat) : Nat := b e % (8 * w)
  Writes (.viadd y o) (exact (fun x z => x + z)) ∧ Writes (.visub y o) (exact (fun x z => x - z)) ∧ Writes (.vimul y o) (exact (fun x z => x * z))
    ∧ Writes (.vand y o) (fun e => a e &&& b e) ∧ Writes (.vor y o) (fun e => a e ||| b e) ∧ Writes (.vxor y o) (fun e => a e ^^^ b e)
    ∧ Writes (.vshl y o) (fun e => a e * 2 ^ n e % 2 ^ (8 * w)) ∧ Writes (.vshr y o) (fun e => a e / 2 ^ n e)
    ∧ Writes (.vsra y o) (fun e => ((sbits (a e) 0 (8 * w) / (2 ^ n e : Nat)) % 2 ^ (8 * w)).toNat)
    ∧ Writes (.vimin y o) (fun e => if intVal ty (a e) ≤ intVal ty (b e) then a e else b e)
    ∧ Writes (.vimax y o) (fun e => if intVal ty (a e) ≤ intVal ty (b e) then b e else a e)

/-- R146 to R149: VCMP writes the lanes of its predicate, VSEL picks by one; the predicate operations act on the lanes up to
VLM1; PCNT counts them. -/
def Obligations.VectorPredicates : Prop := ∀ (s : State) (y : Syn) (o : VOp) (pd pa pb : BitVec 4) (xd : BitVec 5) (t : Task),
  let lanes : BitVec 256 := BitVec.ofNat 256 (2 ^ (t.vlm1 + 1) - 1)
  let a := t.pget pa.toNat
  let b := t.pget pb.toNat
  let Sets (i : Instr) (v : BitVec 256) : Prop := Ready s i y t → WritesLater s i y t 3 [.p (physP t pd.toNat) lanes v] 0
  Sets (.pand y pd pa pb) (a &&& b) ∧ Sets (.por y pd pa pb) (a ||| b) ∧ Sets (.pxor y pd pa pb) (a ^^^ b) ∧ Sets (.pnot y pd pa) (~~~ a)
    ∧ Sets (.pset y pd pb) (if pb.getLsbD 0 then BitVec.allOnes 256 else 0)
    ∧ (Ready s (.pcnt y xd pa) y t →
      WritesLater s (.pcnt y xd pa) y t 3 [.x xd.toNat (BitVec.ofNat 64 ((List.range 256).countP (fun k => a.getLsbD k && decide (k ≤ t.vlm1))))] 0)
    ∧ (Ready s (.vsel y o) y t → (isB8 (vtype o false) = true → b8p t ≠ 0) → readsBad t (vSources t (.vsel y o)) = false →
      let w := typeBytes (vtype o false)
      WritesLater s (.vsel y o) y t 4 (elemWrites t o.vd.toNat w ((selElems t o.pred.toNat w).map (fun e =>
        (e, if (t.pget o.opx.toNat).getLsbD (e * w) then spanElem t o.va.toNat w e else vsrc t o.b false w e)))) 0)
    ∧ (Ready s (.vcmp y o) y t → (isB8 (vtype o (o.vd.getLsbD 9)) = true → b8p t ≠ 0) → readsBad t (vSources t (.vcmp y o)) = false →
      let ty := vtype o (o.vd.getLsbD 9)
      let w := typeBytes ty
      let x (e : Nat) : FVal := typeVal t ty (spanElem t o.va.toNat w e)
      let z (e : Nat) : FVal := typeVal t ty (vsrc t o.b (o.vd.getLsbD 9) w e)
      let un (e : Nat) : Bool := (x e).isNan || (z e).isNan
      let eq (e : Nat) : Bool := FVal.eq (x e) (z e)
      let holds (e : Nat) : Bool :=
        match (o.vd.extractLsb' 4 3).toNat with
        | 0 => eq e
        | 1 => !eq e
        | 2 => !un e && !eq e && (x e).le (z e)
        | 3 => !un e && (eq e || (x e).le (z e))
        | 4 => !un e && !eq e && (z e).le (x e)
        | 5 => !un e && (eq e || (z e).le (x e))
        | _ => un e
      WritesLater s (.vcmp y o) y t 3 [predWrite t (o.vd.extractLsb' 0 4).toNat w ((selElems t o.pred.toNat w).map (fun e => (e, holds e)))] 0)

/-- R150 to R153: conversions between the source type and TYPE, selected by the narrower one. -/
def Obligations.VectorConversions : Prop := ∀ (s : State) (y : Syn) (o : VOp) (t : Task),
  let ty := o.ty.toNat
  let from1 := o.opx.toNat
  let mode (e : Nat) : Mode := vmode t o.rm.toNat t.x31 e
  let sat (k : Nat) : Bool := isB8 k && !b8inf t
  let into (k : Nat) (e : Nat) (v : Bool) (x : FVal) : Nat × Flags :=
    if isIntTy k then roundToInt (8 * typeBytes k) (intSigned k) (mode e) x else roundTo (typeFmt t k) (mode e) v x
  let scale (e : Nat) : FVal := fp32.decode (spanElem t o.va.toNat 4 (e / 2 ^ from1))
  let Writes (i : Instr) (lat ws wd : Nat) (r : Nat → Nat → Nat × Flags) : Prop := Ready s i y t → (isB8 ty = true → b8p t ≠ 0) →
    readsBad t (vSources t i) = false →
    let sel := selElems t o.pred.toNat (min ws wd)
    let c (e : Nat) : Nat := vsrc t o.b false ws e
    WritesLater s i y t lat (elemWrites t o.vd.toNat wd (sel.map (fun e => (e, (r e (c e)).1)))) (sel.foldl (fun fl e => fl ||| (r e (c e)).2) 0)
  ((isB8 from1 = true → b8p t ≠ 0) → Writes (.vcvt y o) 4 (typeBytes from1) (typeBytes ty) (fun e c =>
      if isIntTy from1 && isIntTy ty then (intCode ty (max (intLo ty) (min (intHi ty) (intVal from1 c))), 0) else into ty e (sat ty) (typeVal t from1 c)))
    ∧ Writes (.vqnt y o) 6 4 (typeBytes ty) (fun e c =>
        let p := fMul (fp32.decode c) (scale e); let r := into ty e (sat ty) p.1; (r.1, r.2 ||| p.2))
    ∧ Writes (.vdqnt y o) 6 (typeBytes ty) 4 (fun e c =>
        let p := fMul (typeVal t ty c) (scale e); let r := roundTo fp32 (mode e) false p.1; (r.1, r.2 ||| p.2))
    ∧ Writes (.vsrnd y o) 4 4 4 (fun e c =>
        let r := into ty e (sat ty) (fp32.decode c)
        ((roundTo fp32 .rne false ((typeFmt t ty).decode r.1)).1, r.2))

/-- R154 to R156: the reductions in the tree of R154, with element 0 as their only result, and the permutes. A product of VDOT of 16-bit
operands raises no flag of its own rounding. -/
def Obligations.VectorReductions : Prop := ∀ (s : State) (y : Syn) (o : VOp) (t : Task),
  let ty := o.ty.toNat
  let w := typeBytes ty
  let n := 256 / w
  let f := wideFmt ty
  let a (e : Nat) : Nat := spanElem t o.va.toNat w e
  let b (e : Nat) : Nat := vsrc t o.b false w e
  let Clean (i : Instr) : Prop := Ready s i y t ∧ (isB8 ty = true → b8p t ≠ 0) ∧ readsBad t (vSources t i) = false
  let Reduces (i : Instr) (wr : Nat) (val : Nat → Nat × Flags) (op : Nat → Nat → Nat × Flags) (empty : Nat) : Prop :=
    Clean i →
      let xs : List (Option (Nat × Flags)) := (List.range n).map (fun e => if selected t o.pred.toNat w e then some (val e) else none)
      let r := reduceTree op (xs.map (fun x => x.map (fun v => v.1)))
      WritesLater s i y t 12 (elemWrites t o.vd.toNat wr [(0, r.1.getD empty)]) (xs.foldl (fun fl x => match x with | some v => fl ||| v.2 | none => fl) r.2)
  let Permutes (i : Instr) (r : Nat → Nat) : Prop := Clean i →
    WritesLater s i y t 6 (elemWrites t o.vd.toNat w ((selElems t o.pred.toNat w).map (fun e => (e, r e)))) 0
  let vb := match o.b with | .reg k => k | _ => 0
  let product (e : Nat) : Nat × Flags :=
    let p := fMul (f.decode (a e)) (f.decode (b e))
    let c := roundTo fp32 .rne false p.1
    (c.1, if ty = 0 then c.2 ||| p.2 else p.2)
  Reduces (.vrsum y o) w (fun e => (b e, 0))
      (fun x z => if isIntTy ty then (((intVal ty x + intVal ty z) % 2 ^ (8 * w)).toNat, 0) else addRne f x z)
      (if isIntTy ty then 0 else f.signCode true 0)
    ∧ Reduces (.vrmax y o) w (fun e => (b e, 0))
      (fun x z => (if isIntTy ty then (if intVal ty x ≤ intVal ty z then z else x) else fMinMax f true x z, 0))
      (if isIntTy ty then intCode ty (intLo ty) else f.nanCode)
    ∧ Reduces (.vrmin y o) w (fun e => (b e, 0))
      (fun x z => (if isIntTy ty then (if intVal ty x ≤ intVal ty z then x else z) else fMinMax f false x z, 0))
      (if isIntTy ty then intCode ty (intHi ty) else f.nanCode)
    ∧ Reduces (.vdot y o) 4 product (addRne fp32) (fp32.signCode true 0)
    ∧ Permutes (.vperm y o) (fun e => if b e < n then a (b e) else 0)
    ∧ Permutes (.vslide y o) (fun e => let j : Int := e + vb.toInt; if 0 ≤ j ∧ j < n then a j.toNat else 0)
    ∧ Permutes (.vbcast y o) (fun _ => a vb.toNat)
    ∧ Permutes (.vzip y o) (fun e => let h := if o.opx.getLsbD 0 then n / 2 else 0; if e % 2 = 0 then a (e / 2 + h) else b ((e - 1) / 2 + h))
    ∧ Permutes (.vunzip y o) (fun e => let j := 2 * e + (if o.opx.getLsbD 0 then 1 else 0); if j < n then a j else b (j - n))

/-- R157, R158, R161, R96, R159: the two-parcel loads of V and KLD: the addresses, the granules or elements that are read, each an event of its
own, those of VLDS and VGATH in ascending order, and the lanes or entries that the data goes to 14 ticks later. VLD reads all of its 16 granules,
and writes the lanes of the selected elements. A word in error in the index register traps (R344), with a free value in FADDR (log 73). -/
def Obligations.VectorLoads : Prop := ∀ (s : State) (y : Syn) (o : VMemOp) (t : Task),
  let ty := o.ty.toNat
  let w := typeBytes ty
  let sel := selElems t o.pred.toNat w
  let reg := physV t o.vd.toNat
  let x := (t.v.reg o.xa.toNat).toNat
  let lanes (l : List Nat) : BitVec 256 := BitVec.ofNat 256 (l.map (2 ^ ·)).sum
  let OnTime (p : Place) : Prop := timedHere s = true → WheelMet s t.part p
  let Each (i : Instr) (idx : List VReg) (addr : Nat → Int) : Prop := ∀ ps, Ready s i y t → (isB8 ty = true → b8p t ≠ 0) →
    let at0 (e : Nat) : Nat := (addr e % 2 ^ 48).toNat
    (readsBad t idx = true → TrapsPrecisely s i t .eccUncorrectable (Config.eccAddr s.moves))
      ∧ (readsBad t idx = false → checkEach s Ranges.noTx .load w (sel.map (fun e => (e, at0 e))) = .ok ps → (∀ z ∈ ps, OnTime z.2) →
        LoadsLater s i y t 14 true (ps.map (fun z =>
          { place := z.2, len := w, dest := .v reg (z.1 * w) (lanes ((List.range w).map (z.1 * w + ·))), addr := at0 z.1 })))
  (∀ p, Ready s (.vld y (.two o)) y t → (isB8 ty = true → b8p t ≠ 0) →
      let a := ((x + o.vb.toInt * 256) % 2 ^ 48).toNat
      let mask (g : Nat) : BitVec 256 := lanes (((List.range 16).map (16 * g + ·)).filter (fun b => selected t o.pred.toNat w (b / w)))
      checkAccess s s.cur.core t Ranges.noTx .load a 256 256 = .ok p → OnTime p →
      LoadsLater s (.vld y (.two o)) y t 14 false ((List.range 16).map (fun g =>
        { place := p.add (16 * g), len := 16, dest := .v reg (16 * g) (mask g), addr := a + 16 * g })))
    ∧ Each (.vlds y (.two o)) [] (fun e => x + o.vb.toInt * w + e * (t.v.reg o.opx.toNat).toNat)
    ∧ Each (.vgath y (.two o)) [.v (physV t o.vb.toNat)] (fun e => x + sbits (spanElem t o.vb.toNat w e) 0 (8 * w) * w)
    ∧ (∀ ps, Ready s (.kld y o) y t →
      let n := o.vb.toNat + 1
      let at0 (k : Nat) : Nat := (x + 4 * k) % 2 ^ 48
      let firsts : List Nat := (List.range n).filter (fun k => k == 0 || (x + 4 * k) % 16 == 0)
      checkEach s Ranges.noTx .load 4 ((List.range n).map (fun k => (k, at0 k))) = .ok ps → (∀ z ∈ ps, OnTime z.2) →
      LoadsLater s (.kld y o) y t 14 false (firsts.filterMap (fun k => (ps[k]?).map (fun z =>
        { place := z.2, len := 4 * min (n - k) ((16 - (x + 4 * k) % 16) / 4), dest := .k (o.vd.toNat + k), addr := at0 k }))))

/-- R157 to R159: the two-parcel stores of V: the bytes of the selected elements join V's stores, which commit 2 cycles on, the wide one by
granules, the others element by element in ascending order; a store past the cluster port needs it not busy (R125), a timed one its wheel (R122).
With elements in transmit windows, those go into their windows first, each as the shared operation on reflected stores lets it, and the others only
when all of those are accepted: so the model makes R158's 'one that faults has made no access' true (log 27). -/
def Obligations.VectorStores : Prop := ∀ (s : State) (y : Syn) (o : VMemOp) (t : Task),
  let ty := o.ty.toNat
  let w := typeBytes ty
  let sel := selElems t o.pred.toNat w
  let x := (t.v.reg o.xa.toNat).toNat
  let byte (b : Nat) : Byte := (t.vget o.vd.toNat).extractLsb' (8 * b) 8
  let Sends (i : Instr) (us : List (Place × List (Option Byte))) : Prop :=
    ((∀ u ∈ us, notWindow u.1 = true ∧ PortMet s u.1 ∧ (timedHere s = true → WheelMet s t.part u.1)) → Effect s i y s (withStores s t s.me.nextId us) (nextPc s i) 1)
      ∧ (∀ s1, sendAll (enteredAt s t y i) us = .ok s1 → Leaves s i s1 s1.here)
  let Clean (i : Instr) (idx : List VReg) : Prop :=
    Ready s i y t ∧ (isB8 ty = true → b8p t ≠ 0) ∧ readsBad t (.v (physV t o.vd.toNat) :: idx) = false
  let Each (i : Instr) (idx : List VReg) (addr : Nat → Int) : Prop := ∀ ps, Clean i idx →
    checkEach s Ranges.all .store w (sel.map (fun e => (e, (addr e % 2 ^ 48).toNat))) = .ok ps →
    Sends i (ps.map (fun z => (z.2, (List.range w).map (fun b => some (byte (z.1 * w + b))))))
  (∀ p, Clean (.vst y (.two o)) [] →
      checkAccess s s.cur.core t Ranges.all .store (((x + o.vb.toInt * 256) % 2 ^ 48).toNat) 256 256 = .ok p →
      Sends (.vst y (.two o)) (blockUnits p ((List.range 256).map (fun b => if selected t o.pred.toNat w (b / w) then some (byte b) else none))))
    ∧ Each (.vsts y (.two o)) [] (fun e => x + o.vb.toInt * w + e * (t.v.reg o.opx.toNat).toNat)
    ∧ Each (.vscat y (.two o)) [.v (physV t o.vb.toNat)] (fun e => x + sbits (spanElem t o.vb.toNat w e) 0 (8 * w) * w)

/-- R162 to R164, R133: VSETVL in both forms, ROTSET and LOOPV. -/
def Obligations.VectorControl : Prop := ∀ (s : State) (y : Syn) (t : Task),
  (∀ n, Ready s (.vsetvl y n) y t → WritesLater s (.vsetvl y n) y t 1 [.vl n] 0)
    ∧ (∀ xd xa xb opx, Ready s (.vsetvlReg y xd xa xb opx) y t →
        WritesLater s (.vsetvlReg y xd xa xb opx) y t 1
          ((if opx.getLsbD 0 then [.vl ((t.v.reg xa.toNat).setWidth 8)] else []) ++ (if opx.getLsbD 1 then [.vcsr (t.v.reg xb.toNat)] else [])
            ++ (if opx.getLsbD 2 then [.x xd.toNat t.vcsr] else [])) 0)
    ∧ (∀ n, Ready s (.rotset y n) y t → WritesLater s (.rotset y n) y t 1 [.vrb (BitVec.ofNat 64 (8 * n.toNat * 2 ^ 16))] 0)
    ∧ (∀ xc off, Ready s (.loopv y xc off) y t →
        let n := (t.vrb.extractLsb' 16 10).toNat
        let base := (t.vrb.extractLsb' 0 10).toNat
        let v := t.v.reg xc.toNat - 1
        Effect s (.loopv y xc off) y s
          (withPend s t 1 ((if n = 0 then [] else [.vrb (BitVec.ofNat 64 (n * 2 ^ 16 + (base + n - 1) % n))]) ++ [.x xc.toNat v]) 0 false [])
          (if v = 0 then nextPc s (.loopv y xc off) else BitVec.ofInt 48 (s.me.pc.toNat + 4 * off.toInt)) 1)

/-- R189 to R199: the two-parcel draws: each selected element takes the word of Lichen at its own position, under the key
and the stream that the form names; VDROP's mask is written on the same tick; VCAT writes one index. -/
def Obligations.VectorDraws : Prop := ∀ (s : State) (y : Syn) (o : VRndOp) (t : Task),
  let f := wideFmt o.ty.toNat
  let w := typeBytes o.ty.toNat
  let sel := selElems t o.pred.toNat w
  let key : Word := if o.xk = 0 then t.key else t.v.reg o.xk.toNat
  let stream : BitVec 32 := (t.v.reg o.xs.toNat).setWidth 32
  let word (e : Nat) : BitVec 32 := lichen key stream (t.v.reg 31 + BitVec.ofNat 64 e)
  let mode (e : Nat) : Mode := vmode t o.rm.toNat (t.v.reg 31) e
  let b (e : Nat) : FVal := f.decode (vsrc t (if o.kb then .kbank o.vb else .reg o.vb) false w e)
  let old (e : Nat) : FVal := f.decode (spanElem t o.vd.toNat w e)
  let z (e : Nat) : FVal := drawVal (o.opx.getLsbD 0) (word e)
  let Clean (i : Instr) (k : RndKind) : Prop := Ready s i y t ∧ readsBad t (rndSources t k o o.vd.toNat) = false
  let Writes (i : Instr) (k : RndKind) (r : Nat → FVal × Flags) : Prop := Clean i k →
    let c (e : Nat) : Nat × Flags := rounded f (mode e) false (r e)
    WritesLater s i y t 8 (elemWrites t o.vd.toNat w (sel.map (fun e => (e, (c e).1)))) (sel.foldl (fun fl e => fl ||| (c e).2) 0)
  Writes (.vz y (.two o)) .z (fun e => fMul (z e) (b e)) ∧ Writes (.vzacc y (.two o)) .zacc (fun e => fFma (z e) (b e) (old e))
    ∧ Writes (.vunif y (.two o)) .unif (fun e => fMul (unifVal (word e)) (b e))
    ∧ (Clean (.vdrop y (.two o)) .drop →
      let pdrop := fp32.decode (t.kget o.vb.toNat).toNat
      let keep (e : Nat) : Bool := !pdrop.isNan && (FVal.eq pdrop (unifVal (word e)) || pdrop.le (unifVal (word e)))
      let c (e : Nat) : Nat × Flags :=
        if keep e then rounded f (mode e) false (fMul (old e) (fp32.decode (t.kget (o.vb.toNat + 1)).toNat)) else (0, 0)
      WritesLater s (.vdrop y (.two o)) y t 8
        (elemWrites t o.vd.toNat w (sel.map (fun e => (e, (c e).1))) ++ (if o.opx ≠ 0 then [predWrite t o.opx.toNat w (sel.map (fun e => (e, keep e)))] else []))
        (sel.foldl (fun fl e => fl ||| (c e).2) 0))
    ∧ (Ready s (.vcat y o) y t → readsBad t [.v (physV t o.vb.toNat)] = false → let r := catDraw (s.setHere t) o
      WritesLater s (.vcat y o) y t 12 (elemWrites t o.vd.toNat 4 [(0, r.1)]) r.2)

/-! ### Records, and the transfer sequencer -/

/-- R37, R39, R160, R200: the record forms of V begin at the PC with their counters at 0; nothing is read or written yet.
R160, R200, R39, R194: one single issue of a record of V, on the register, the address, the index register or the position of its point, under
the key that the record holds, each at its own latency. -/
def Obligations.VectorRecords : Prop :=
  (∀ (s : State) (y : Syn) (r : Rec) (t : Task),
    let Starts (i : Instr) : Prop := Ready s i y t → Begins s i t
    Starts (.vld y (.record r)) ∧ Starts (.vst y (.record r)) ∧ Starts (.vlds y (.record r)) ∧ Starts (.vsts y (.record r))
      ∧ Starts (.vgath y (.record r)) ∧ Starts (.vscat y (.record r)) ∧ Starts (.vz y (.record r)) ∧ Starts (.vzacc y (.record r))
      ∧ Starts (.vunif y (.record r)) ∧ Starts (.vdrop y (.record r)))
    ∧ (∀ (s : State) (core : Nat) (p : RecProg) (t : Task) (y : Syn) (r : Rec) (reg : Nat),
    ReadySingle s core .v p t → p.sent = 0 → reg < 1024 →
    let h := heldBy p t .v
    let st := turnOf s core .v
    let steps (x : RecOperand) : Int := h.i0 * x.s0.toInt + h.i1 * x.s1.toInt + h.i2 * x.s2.toInt + h.i3 * x.s3.toInt
    let name (x : RecOperand) : Int := (x.base.extractLsb' 0 10).toNat + steps x
    let ty := r.opm.toNat
    let w := typeBytes ty
    let sel := selElems t 0 w
    let lanes (l : List Nat) : BitVec 256 := BitVec.ofNat 256 (l.map (2 ^ ·)).sum
    let OnTime (pl : Place) : Prop := timedHere st = true → WheelMet s t.part pl
    let wide (base : Word) (x : RecOperand) : Nat := ((base.toNat + steps x * 256) % 2 ^ 48).toNat
    let strided (base : Word) (x : RecOperand) (e : Nat) : Nat := ((base.toNat + steps x * w + e * r.aux0.toInt) % 2 ^ 48).toNat
    let indexed (base : Word) (x : RecOperand) (n e : Nat) : Nat := ((base.toNat + steps x * w + sbits (spanElem t n w e) 0 (8 * w) * w) % 2 ^ 48).toNat
    let index (n : Nat) : List VReg := [.v (physV t n)]
    let Loads (ordered : Bool) (ls : List LoadPiece) : Prop :=
      SingleEffect s core .v h (withPendAt t .v t.v.head h.issueId s.mcc t.v.tick 14 [] 0 ordered ls)
    let Sends (us : List (Place × List (Option Byte))) : Prop := SingleSends s core .v h t (fun _ => 0) us
    let Reads (addr : Nat → Nat) : Prop := ∀ ps, checkEach (singleState s core .v t) Ranges.noTx .load w (sel.map (fun e => (e, addr e))) = .ok ps →
      (∀ z ∈ ps, OnTime z.2) → Loads true (ps.map (fun z =>
        { place := z.2, len := w, dest := .v (physV t reg) (z.1 * w) (lanes ((List.range w).map (z.1 * w + ·))), addr := addr z.1 }))
    let byte (b : Nat) : Byte := (t.vget reg).extractLsb' (8 * b) 8
    let Writes (addr : Nat → Nat) : Prop := ∀ ps, checkEach (singleState s core .v t) Ranges.all .store w (sel.map (fun e => (e, addr e))) = .ok ps →
      Sends (ps.map (fun z => (z.2, (List.range w).map (fun b => some (byte (z.1 * w + b))))))
    let B8 : Prop := isB8 ty = true → b8p t ≠ 0
    (∀ pl, p.instr = .vld y (.record r) → B8 → name r.d = reg →
        let d := wide h.baseA r.a
        let mask (g : Nat) : BitVec 256 := lanes (((List.range 16).map (16 * g + ·)).filter (fun b => selected t 0 w (b / w)))
        checkAccess st core t Ranges.noTx .load d 256 256 = .ok pl → OnTime pl →
        Loads false ((List.range 16).map (fun g =>
          { place := pl.add (16 * g), len := 16, dest := .v (physV t reg) (16 * g) (mask g), addr := d + 16 * g })))
      ∧ (p.instr = .vlds y (.record r) → B8 → name r.d = reg → Reads (strided h.baseA r.a))
      ∧ (∀ n : Nat, p.instr = .vgath y (.record r) → B8 → name r.d = reg → name r.b = n → n < 1024 → readsBad t (index n) = false →
        Reads (indexed h.baseA r.a n))
      ∧ (∀ pl, p.instr = .vst y (.record r) → B8 → name r.a = reg → readsBad t (index reg) = false →
        checkAccess st core t Ranges.all .store (wide h.baseD r.d) 256 256 = .ok pl →
        Sends (blockUnits pl ((List.range 256).map (fun b => if selected t 0 w (b / w) then some (byte b) else none))))
      ∧ (p.instr = .vsts y (.record r) → B8 → name r.a = reg → readsBad t (index reg) = false → Writes (strided h.baseD r.d))
      ∧ (∀ n : Nat, p.instr = .vscat y (.record r) → B8 → name r.a = reg → name r.b = n → n < 1024 → readsBad t (index reg ++ index n) = false →
        Writes (indexed h.baseD r.d n))
      ∧ (name r.d = reg →
        let o := rndOpOf r.aux0
        let f := wideFmt o.ty.toNat
        let wz := typeBytes o.ty.toNat
        let pos : Word := t.v.reg 31 + BitVec.ofInt 64 (r.a.base.toNat + steps r.a)
        let key : Word := if o.xk = 0 then h.key else t.v.reg o.xk.toNat
        let word (e : Nat) : BitVec 32 := lichen key ((t.v.reg o.xs.toNat).setWidth 32) (pos + BitVec.ofNat 64 e)
        let z (e : Nat) : FVal := drawVal (o.opx.getLsbD 0) (word e)
        let b (e : Nat) : FVal := f.decode (vsrc t (if o.kb then .kbank o.vb else .reg o.vb) false wz e)
        let old (e : Nat) : FVal := f.decode (spanElem t reg wz e)
        let pdrop := fp32.decode (t.kget o.vb.toNat).toNat
        let keep (e : Nat) : Bool := !pdrop.isNan && (FVal.eq pdrop (unifVal (word e)) || pdrop.le (unifVal (word e)))
        let Draws (i : Instr) (k : RndKind) (r : Nat → Option (FVal × Flags)) (mask : List Write) : Prop :=
          p.instr = i → readsBad t (rndSources t k o reg) = false →
          let c (e : Nat) : Nat × Flags :=
            match r e with | some v => rounded f (vmode { t with key := h.key } o.rm.toNat pos e) false v | none => (0, 0)
          let sel := selElems t 0 wz
          SingleEffect s core .v h (withPendAt t .v t.v.head h.issueId s.mcc t.v.tick 8
            (elemWrites t reg wz (sel.map (fun e => (e, (c e).1))) ++ mask) (sel.foldl (fun fl e => fl ||| (c e).2) 0) false [])
        Draws (.vz y (.record r)) .z (fun e => some (fMul (z e) (b e))) []
          ∧ Draws (.vzacc y (.record r)) .zacc (fun e => some (fFma (z e) (b e) (old e))) []
          ∧ Draws (.vunif y (.record r)) .unif (fun e => some (fMul (unifVal (word e)) (b e))) []
          ∧ Draws (.vdrop y (.record r)) .drop
              (fun e => if keep e then some (fMul (old e) (fp32.decode (t.kget (o.vb.toNat + 1)).toNat)) else none)
              (if o.opx ≠ 0 then [predWrite t o.opx.toNat wz ((selElems t 0 wz).map (fun e => (e, keep e)))] else [])))

/-- R110, R112, R118: a transfer record begins where the map that it names is valid; with TCHK the tag of the block of its first A
element must be the one in AUX2. An invalid map is an illegal field, another tag TAG_MISMATCH with that tag. GTHX's tag is that of addr(A)
without an index: the model's reading (log 77).
R39, R114: the address of a record's operand: base and steps in elements, or the map of the image's fields (R112) at the logical index. -/
def Obligations.TransferHeads : Prop :=
  (∀ (s : State) (y : Syn) (r : Rec) (t : Task),
    let mapped : Bool := r.d.bm || r.a.bm || r.b.bm
    let m := Sparse.get 0 t.bm r.bmsel.toNat
    let a := (recBase t.t r.a).toNat % 2 ^ 48
    let tag : BitVec 16 := Sparse.get 0 (s.core s.cur.core).tags (a / 4096)
    let Head (i : Instr) : Prop := Ready s i y t →
      ((mapped = true → bmValid m = true) → r.opm.getLsbD 4 = false → Begins s i t)
        ∧ (mapped = true → bmValid m = false → TrapsPrecisely s i t .illegalField s.me.pc.toNat)
        ∧ (mapped = false → r.opm.getLsbD 4 = true → a < 0x800000 → tag = r.aux2.extractLsb' 16 16 → Begins s i t)
        ∧ (mapped = false → r.opm.getLsbD 4 = true → a < 0x800000 → tag ≠ r.aux2.extractLsb' 16 16 → TrapsPrecisely s i t .tagMismatch tag.toNat)
    Head (.ldx y r) ∧ Head (.stx y r) ∧ Head (.cpx y r) ∧ Head (.mcx y r) ∧ Head (.gthx y r) ∧ Head (.sctx y r) ∧ Head (.bmx y r)
      ∧ Head (.scacc y r) ∧ Head (.zfx y r))
    ∧ (∀ (m : BitVec 1024) (base : Word) (l : Nat) (dest : Bool),
    let field (at0 n : Nat) : Nat := (m.extractLsb' at0 n).toNat
    let n := field 768 16
    let kind (j : Nat) : Nat := field (16 * j + 13) 3
    let sum (k : Nat) : Nat := (((List.range n).filter (fun j => kind j == k && l.testBit j)).map (fun j => 2 ^ field (16 * j) 6)).sum
    let window := field 896 64
    let a := (base.toNat + sum 2 * field 832 64 + sum 0) % 2 ^ 48
    let skips : Prop := 2 ^ n ≤ l ∨ ∃ j, j < n ∧ kind j = 4 ∧ l.testBit j = true
    let remote : Prop := sum 3 ≠ field 784 16
    (skips → mapAddr m base l dest = .skip)
      ∧ (¬ skips → remote → dest = true → window ≠ 0 → mapAddr m base l dest = .addr ((window + sum 3 * field 960 64 + sum 0) % 2 ^ 48))
      ∧ (¬ skips → remote → (dest = false ∨ window = 0) → mapAddr m base l dest = .skip)
      ∧ (¬ skips → ¬ remote → (∀ j, j < n → kind j ≠ 1) → mapAddr m base l dest = .addr a)
      ∧ (¬ skips → ¬ remote → (∃ j, j < n ∧ kind j = 1) →
          mapAddr m base l dest = if 0x7FFFFF < a then .bad a else .addr (0x8000000 + sum 1 * 0x800000 + a)))
    ∧ ∀ (p : RecProg) (x : RecOperand) (base : Word) (size : Nat) (extra : Int) (dest : Bool),
    let steps : Int := p.i0 * x.s0.toInt + p.i1 * x.s1.toInt + p.i2 * x.s2.toInt + p.i3 * x.s3.toInt
    let lbase : Nat := match p.instr with | .bmx _ r => r.aux1.toNat | _ => 0
    (x.bm = false → tAddr p x base size dest = .addr ((base.toNat + steps * size) % 2 ^ 48).toNat
        ∧ mAddr p x base size extra dest = .addr ((base.toNat + (steps + extra) * size) % 2 ^ 48).toNat)
      ∧ (x.bm = true → tAddr p x base size dest = mapAddr p.map base ((lbase + steps) % 2 ^ 48).toNat dest
        ∧ mAddr p x base size extra dest = mapAddr p.map base ((steps + extra) % 2 ^ 48).toNat dest)

/-- R104, R106, R115, R293: one single issue of LDX, STX, CPX, BMX and ZFX: the element at A is read, an event of its own; then it, or the
fill word, joins T's stores at D; a skipped one stores nothing and counts on BMX; a store into a transmit window joins a flit; an operand that
fails its check traps, D before A, with nothing stored. -/
def Obligations.TransferCopies : Prop := ∀ (s : State) (core : Nat) (p : RecProg) (t : Task) (y : Syn) (r : Rec),
  ReadySingle s core .t p t → p.sent = 0 → p.outs = [] →
  let h := heldBy p t .t
  let es := esBytes r.opm
  let st := singleState s core .t t
  let bank := s.bankOf core
  let c := (r.aux2.extractLsb' 0 5).toNat
  let skipped (isBmx : Bool) : Task :=
    if isBmx = true ∧ c ≠ 0 then withPendAt t .t t.t.head h.issueId s.mcc t.t.tick 2 [.xinc c] 0 false [] else t
  let Delivers (d : Place) (bs : List Byte) : Prop := SingleSends s core .t h t (fun _ => 0) [(d, bs.map some)]
  let Fails (f : AccFault) : Prop :=
    ∃ t' : Task, exec (.recordSingleIssue core .t) s
        = takeTrap ((turnOf s core .t).setTask core bank (some t')) core bank 1 f.cause f.addr 0 t.t.pc.toNat
      ∧ bareTask t' .t = bareTask (t.setSeq .t { t.t with prog := some h }) .t
  let Copies (i : Instr) (isBmx : Bool) (dr ar : Ranges) : Prop := p.instr = i →
    (∀ da d aa a, tAddr h r.d h.baseD es true = .addr da → checkAccess st core t dr .store da es es = .ok d →
        tAddr h r.a h.baseA es false = .addr aa → checkAccess st core t ar .load aa es es = .ok a →
        (p.got = [] → ReadsNext s core .t h t a es) ∧ (∀ v, p.got = [v] → Delivers d (leBytes es v)))
      ∧ (tAddr h r.d h.baseD es true = .skip → SingleEffect s core .t h (skipped isBmx))
      ∧ (∀ da d, tAddr h r.d h.baseD es true = .addr da → checkAccess st core t dr .store da es es = .ok d →
          tAddr h r.a h.baseA es false = .skip → SingleEffect s core .t h (skipped isBmx))
      ∧ (∀ da f, tAddr h r.d h.baseD es true = .addr da → checkAccess st core t dr .store da es es = .error f → Fails f)
      ∧ (∀ da, tAddr h r.d h.baseD es true = .bad da → Fails ⟨.extent, da⟩)
      ∧ (∀ da d aa f, tAddr h r.d h.baseD es true = .addr da → checkAccess st core t dr .store da es es = .ok d →
          tAddr h r.a h.baseA es false = .addr aa → checkAccess st core t ar .load aa es es = .error f → Fails f)
  Copies (.ldx y r) false ⟨true, true, false, false⟩ ⟨false, false, false, true⟩
    ∧ Copies (.stx y r) false ⟨false, false, true, true⟩ ⟨true, true, false, false⟩
    ∧ Copies (.cpx y r) false ⟨true, true, false, false⟩ ⟨true, true, false, false⟩
    ∧ Copies (.bmx y r) true ⟨true, true, true, true⟩ ⟨true, true, false, true⟩
    ∧ (p.instr = .zfx y r → ∀ da d, tAddr h r.d h.baseD es true = .addr da → checkAccess st core t Ranges.all .store da es es = .ok d →
        Delivers d ((List.range es).map (fun k => BitVec.ofNat 8 (r.aux0.toNat / 2 ^ (8 * (k % 4))))))

/-- R107: one single issue of MCX reads the element at A and stores it at the offset of D in every peer of the mask, each write in the chain of
its peer. R108, R115: GTHX forms D, reads the index at B and then the row that it selects, which it stores, or zeros where the bound drops it; SCTX reads
the index at B and then the element at A, which it stores at the row of D that the index selects, or nothing; its faults come in the order D, A, B, which
is the model's reading where an index comes between (log 26). R119, R120, R121: SCACC leaves an update with the type and operation that the record
holds, in the chain of the core's updates; its D is checked as a load, the model's choice (log 72). -/
def Obligations.TransferIndexed : Prop := ∀ (s : State) (core : Nat) (p : RecProg) (t : Task) (y : Syn) (r : Rec) (da aa : Nat),
  ReadySingle s core .t p t → p.sent = 0 → p.outs = [] →
  let h := heldBy p t .t
  let es := esBytes r.opm
  let st := singleState s core .t t
  let check (rs : Ranges) (k : AccKind) (x n : Nat) : Except AccFault Place := checkAccess st core t rs k x n n
  let Reads (pl : Place) (n : Nat) : Prop := ReadsNext s core .t h t pl n
  let bytes (v : Nat) : List (Option Byte) := (leBytes es v).map some
  let Stores (chain : Place → Nat) (us : List (Place × List (Option Byte))) : Prop := SingleSends s core .t h t chain us
  let Fails (f : AccFault) : Prop :=
    ∃ t' : Task, exec (.recordSingleIssue core .t) s
        = takeTrap ((turnOf s core .t).setTask core (s.bankOf core) (some t')) core (s.bankOf core) 1 f.cause f.addr 0 t.t.pc.toNat
      ∧ bareTask t' .t = bareTask (t.setSeq .t { t.t with prog := some h }) .t
  tAddr h r.d h.baseD es true = .addr da → tAddr h r.a h.baseA es false = .addr aa →
  (∀ d a, p.instr = .mcx y r → check ⟨true, false, false, false⟩ .store da es = .ok d → check ⟨true, false, false, true⟩ .load aa es = .ok a →
      (p.got = [] → Reads a es)
        ∧ (∀ v, p.got = [v] →
          Stores Place.space (((List.range 8).filter (fun c => r.aux0.getLsbD c)).map (fun c => (Place.spad (8 * (core / 8) + c) d.off, bytes v)))))
    ∧ ∀ ba, tAddr h r.b h.baseB 4 false = .addr ba →
      let k := sbits (h.got.headD 0) 0 32
      let dropped : Prop := r.aux1 ≠ 0 ∧ (k < 0 ∨ (r.aux1.toNat : Int) ≤ k)
      let row (x : Nat) : Nat := ((x + k * r.aux0.toNat) % 2 ^ 48).toNat
      let spads : Ranges := ⟨true, true, false, false⟩
      let scatters : Prop := p.instr = .sctx y r ∨ p.instr = .scacc y r
      (p.instr = .gthx y r →
          (∀ f, check spads .store da es = .error f → Fails f)
            ∧ (∀ d f, check spads .store da es = .ok d → check spads .load ba 4 = .error f → Fails f)
            ∧ ∀ d b, check spads .store da es = .ok d → check spads .load ba 4 = .ok b →
              (p.got = [] → Reads b 4)
                ∧ (p.got ≠ [] → dropped → Stores (fun _ => 0) [(d, List.replicate es (some 0))])
                ∧ (∀ f, p.got ≠ [] → ¬ dropped → check ⟨true, true, false, true⟩ .load (row aa) es = .error f → Fails f)
                ∧ (∀ a, p.got ≠ [] → ¬ dropped → check ⟨true, true, false, true⟩ .load (row aa) es = .ok a →
                  (p.got.length = 1 → Reads a es) ∧ (∀ x v, p.got = [x, v] → Stores (fun _ => 0) [(d, bytes v)])))
        ∧ (∀ f a, scatters → check spads .load ba 4 = .error f → check spads .load aa es = .ok a → Fails f)
        ∧ (∀ f e, scatters → check spads .load ba 4 = .error f → check spads .load aa es = .error e → Fails e)
        ∧ ∀ b, check spads .load ba 4 = .ok b →
          (scatters → p.got = [] → Reads b 4)
            ∧ (∀ a, scatters → p.got ≠ [] → dropped → check spads .load aa es = .ok a → SingleEffect s core .t h t)
            ∧ (∀ f, scatters → p.got ≠ [] → dropped → check spads .load aa es = .error f → Fails f)
            ∧ (p.got ≠ [] → ¬ dropped → p.instr = .sctx y r →
              (∀ f, check Ranges.all .store (row da) es = .error f → Fails f)
                ∧ (∀ d f, check Ranges.all .store (row da) es = .ok d → check spads .load aa es = .error f → Fails f)
                ∧ (∀ d a, check Ranges.all .store (row da) es = .ok d → check spads .load aa es = .ok a →
                  (p.got.length = 1 → Reads a es) ∧ (∀ x v, p.got = [x, v] → Stores (fun _ => 0) [(d, bytes v)])))
            ∧ (p.got ≠ [] → ¬ dropped → p.instr = .scacc y r →
              (∀ f, check spads .load (row da) es = .error f → Fails f)
                ∧ (∀ d f, check spads .load (row da) es = .ok d → check spads .load aa es = .error f → Fails f)
                ∧ (∀ d a, check spads .load (row da) es = .ok d → check spads .load aa es = .ok a →
                  (p.got.length = 1 → Reads a es)
                    ∧ (∀ x v, p.got = [x, v] → PortMet (turnOf s core .t) d → SingleEffect s core .t h { t with t := { t.t with stores := t.t.stores ++
                        [{ id := h.issueId, place := d, bytes := bytes v, since := s.mcc, lat := 0, pc := t.t.head, chain := 1000, whole := false,
                           upd := some { ty := h.scType, op := h.scOp, val := BitVec.ofNat 32 (leNat (leBytes es v)) } }] } })))

/-- R116, R117, R119: BMLD reads a map, granule by granule, and writes it 14 ticks after its issue, SCCFG sets the type and the operation, TAGX
tags whole blocks of one scratchpad once every earlier access of T is performed; that xa counts modulo 2^48 is the model's reading (log 78). -/
def Obligations.TransferSetup : Prop := ∀ (s : State) (y : Syn) (o : E2) (t : Task),
  let a := (((t.t.reg o.xa.toNat).toNat + o.imm.toInt) % 2 ^ 48).toNat
  let x := (t.t.reg o.xa.toNat).toNat % 2 ^ 48
  let n := (o.imm.extractLsb' 16 8).toNat + 1
  (∀ p, Ready s (.bmld y o) y t → checkAccess s s.cur.core t Ranges.noTx .load a 128 128 = .ok p → (timedHere s = true → WheelMet s t.part p) →
      LoadsLater s (.bmld y o) y t 14 false ((List.range 8).map (fun g =>
        { place := p.add (16 * g), len := 16, dest := .bm (o.sub.extractLsb' 0 3).toNat g, addr := a + 16 * g })))
    ∧ (Ready s (.sccfg y o) y t →
      Effect s (.sccfg y o) y s { t with scType := o.imm.extractLsb' 8 4, scOp := o.imm.extractLsb' 0 4 } (nextPc s (.sccfg y o)) 1)
    ∧ (Ready s (.tagx y o) y t → t.t.stores = [] →
      (∀ f ∈ s.flits, f.departed = false → f.core = s.cur.core → ∀ o ∈ f.owners, o.bank = s.bankOf s.cur.core → o.q ≠ .t) → x < 0x800000 → x % 4096 = 0 →
      (x / 4096 + n ≤ 2048 → ∃ s', exec (.tagx y o) s = .next s' ∧ After s s' t (nextPc s (.tagx y o)) ∧ SameMemory s s'
          ∧ ∀ b, Sparse.get 0 (s'.core s.cur.core).tags b
              = if x / 4096 ≤ b ∧ b < x / 4096 + n then o.imm.extractLsb' 0 16 else Sparse.get 0 (s.core s.cur.core).tags b)
        ∧ (2048 < x / 4096 + n → TrapsPrecisely s (.tagx y o) t .extent x))

/-! ### The matrix sequencer -/

/-- R170, R179, R180, R207: the instructions of one tick: ASWAP exchanges the banks and advances the version, AZERO clears the banks
named, ACHK passes where their checksums hold, AVSET sets a version, EPSSET sets a scale. R169, R187, R344: FDROP drops words, their errors with them; with
too few there it traps, as a missed tick in timetable mode, and so it does with one in error among them (FADDR is a free value: log 73; the queue's
errors word by word, and the missed tick: log 29). -/
def Obligations.MatrixOneTick : Prop := ∀ (s : State) (y : Syn) (acc bank : BitVec 2) (o : E2) (n : BitVec 5) (t : Task),
  let a := acc.toNat
  let named (b : Nat) : Prop := (b = 0 ∧ bank ≠ 1) ∨ (b = 1 ∧ bank ≠ 0)
  let fqBad (l : List BadWord) (k : Nat) : List BadWord :=
    l.filterMap (fun w => match w with | .fq i => if i < k then none else some (.fq (i - k)) | w => some w)
  (Ready s (.aswap y acc) y t → ∃ t2, Effect s (.aswap y acc) y s t2 (nextPc s (.aswap y acc)) 1
      ∧ t2.accBank a 0 = t.accBank a 1 ∧ t2.accBank a 1 = t.accBank a 0 ∧ t2.ver a = t.ver a + 1
      ∧ (∀ c b, c ≠ a → b < 2 → t2.accBank c b = t.accBank c b) ∧ (∀ c, c ≠ a → t2.ver c = t.ver c)
      ∧ t2 = { t with acc := t2.acc, version := t2.version })
    ∧ (Ready s (.azero y bank acc) y t → ∃ t2, Effect s (.azero y bank acc) y s t2 (nextPc s (.azero y bank acc)) 1
      ∧ (∀ b, b < 2 → (named b → t2.accBank a b = AccBank.zero) ∧ (¬ named b → t2.accBank a b = t.accBank a b))
      ∧ (∀ c b, c ≠ a → b < 2 → t2.accBank c b = t.accBank c b) ∧ t2 = { t with acc := t2.acc })
    ∧ (Ready s (.achk y bank acc) y t → (∀ b, b < 2 → named b → (t.accBank a b).check = none) →
      Effect s (.achk y bank acc) y s t (nextPc s (.achk y bank acc)) 1)
    ∧ (∀ f, Ready s (.achk y bank acc) y t → bank = 0 → (t.accBank a 0).check = some f →
      TrapsPrecisely s (.achk y bank acc) t .accCheck (f + 2 ^ 16 * a))
    ∧ (Ready s (.avset y o) y t → Effect s (.avset y o) y s
      { t with version := Sparse.set 0 (o.sub.extractLsb' 0 2).toNat ((t.m.reg o.xa.toNat).setWidth 16 + o.imm.setWidth 16) t.version }
      (nextPc s (.avset y o)) 1)
    ∧ (Ready s (.fdrop y n) y t → n.toNat + 1 ≤ t.fq.length → (∀ k, k ≤ n.toNat → .fq k ∉ t.bad) →
      Effect s (.fdrop y n) y s { t with fq := t.fq.drop (n.toNat + 1), bad := fqBad t.bad (n.toNat + 1) } (nextPc s (.fdrop y n)) 1)
    ∧ (∀ k, Ready s (.fdrop y n) y t → n.toNat + 1 ≤ t.fq.length → k ≤ n.toNat → .fq k ∈ t.bad →
      TrapsPrecisely s (.fdrop y n) t .eccUncorrectable (Config.eccAddr s.moves))
    ∧ (Ready s (.fdrop y n) y t → t.fq.length < n.toNat + 1 → timedHere s = false → TrapsPrecisely s (.fdrop y n) t .fmtUnderflow (n.toNat + 1))
    ∧ (Ready s (.fdrop y n) y t → t.fq.length < n.toNat + 1 → timedHere s = true →
      TrapsPrecisely s (.fdrop y n) t .schedMiss (s.mcc - t.m.alignAt))
    ∧ (Ready s (.epsset y o) y t →
      Effect s (.epsset y o) y s { t with eps := Sparse.set 0 (o.sub.extractLsb' 0 3).toNat o.imm t.eps } (nextPc s (.epsset y o)) 1)

/-- R169, R364, R176, R178, R208: the heads of the M records: a format word leaves the queue where every check passes, GATE also reads its
unitary, holds it, and clears W; with an empty queue, FMT_UNDERFLOW and nothing else.
R209, R210, R75: one single issue of GATE: the amplitudes are read one by one, one that gives SKIP as 0; then every row of every group is summed
in two temporaries, drained by RNE, and stored at its element, and no accumulator changes (the model's reading of R134: log 79). -/
def Obligations.MatrixHeads : Prop :=
  (∀ (s : State) (y : Syn) (r : Rec) (t : Task),
    let mapped : Bool := r.d.bm || r.a.bm || r.b.bm
    let shape := mCol0 r + (mNcol r - 1) * mCstep r ≤ 127
    let version := r.opm.getLsbD 2 = true → t.ver (mAcc r) = r.stamp.extractLsb' 0 16
    let g := 2 ^ (r.opm.extractLsb' 0 2).toNat
    let bad : List BadWord := t.bad.filterMap (fun w => match w with | .fq i => if i = 0 then none else some (.fq (i - 1)) | w => some w)
    let Empty (i : Instr) : Prop := Ready s i y t → timedHere s = false → t.fq = [] → TrapsPrecisely s i t .fmtUnderflow 1
    (mapped = true → bmValid (mapSeenByM t r.bmsel.toNat) = true) →
    (Ready s (.asave y r) y t → Begins s (.asave y r) t) ∧ (Ready s (.aload y r) y t → Begins s (.aload y r) t)
      ∧ Empty (.wld y r) ∧ Empty (.mma y r) ∧ Empty (.adrn y r) ∧ Empty (.gate y r)
      ∧ ∀ w rest, t.fq = w :: rest → .fq 0 ∉ t.bad →
        (Ready s (.wld y r) y t → wordOk w = true → Begins s (.wld y r) { t with fq := rest, bad := bad })
          ∧ (Ready s (.wld y r) y t → wordOk w = false → TrapsPrecisely s (.wld y r) t .illegalField s.me.pc.toNat)
          ∧ (Ready s (.mma y r) y t → wordOk w = true → shape → is8 (fwB w) = t.w8 → mK r ≤ (if t.w8 then 256 else 128) → version → r.aux2.getLsbD 9 = false →
              Begins s (.mma y r) { t with fq := rest, bad := bad })
          ∧ (Ready s (.mma y r) y t → wordOk w = true → shape → is8 (fwB w) = t.w8 → mK r ≤ (if t.w8 then 256 else 128) → r.opm.getLsbD 2 = true →
              t.ver (mAcc r) ≠ r.stamp.extractLsb' 0 16 → ∃ t' : Task, exec (.mma y r) s
                = takeTrap (s.setTask s.cur.core (s.bankOf s.cur.core) (some t')) s.cur.core (s.bankOf s.cur.core) 3 .tagMismatch (t.ver (mAcc r)).toNat 4 s.me.pc.toNat
                ∧ bareTask t' .m = bareTask t .m)
          ∧ (Ready s (.adrn y r) y t → wordOk w = true → shape → version → (t.accBank (mAcc r) 1).check = none →
              Begins s (.adrn y r) { t with fq := rest, bad := bad })
          ∧ (∀ ps x, Ready s (.gate y r) y t → gateWordOk w = true →
              mReads (s.setHere t) 8 ((List.range (g * g)).map (fun k => MapRes.addr (((recBase t.m r.b).toNat + 8 * k) % 2 ^ 48))) = .ok ps →
              readPlaces ownReader 8 (ps.filterMap id) (entered s t y 16 0) = .ok x →
              BeginsWith s (.gate y r) x.1 { x.1.here with fq := rest, bad := bad, w := [], wfmt := [], w8 := false } (fun p =>
                ∀ i j, i < g → j < g → ∀ bs, x.2[i * g + j]? = some bs → Sparse.get 0 p.unitary (i * 8 + j) = BitVec.ofNat 64 (leNat bs))))
    ∧ (∀ (s : State) (core : Nat) (p : RecProg) (t : Task) (y : Syn) (r : Rec) (ps : List (Option Place)),
    ReadySingle s core .m p t → p.sent = 0 → p.outs = [] → p.instr = .gate y r →
    let h := heldBy p t .m
    let st := singleState s core .m t
    let w := h.fmt
    let g := 2 ^ (r.opm.extractLsb' 0 2).toNat
    let groups := (r.aux1.extractLsb' 0 3).toNat + 1
    let at0 (x : RecOperand) (base : Word) (step : BitVec 16) (dest : Bool) (j c : Nat) : MapRes :=
      mAddr h x base 8 (j * (r.aux1.extractLsb' 16 16).toInt + c * step.toInt) dest
    let each {α : Type} (f : Nat → Nat → α) : List α := (List.range groups).flatMap (fun j => (List.range g).map (f j))
    let re (v : Nat) : FVal := fp32.decode (v % 2 ^ 32)
    let im (v : Nat) : FVal := fp32.decode (v / 2 ^ 32)
    let zero : AccRes := { e := ⟨0, 0⟩, prange := false, ovf := false }
    let sums (j row : Nat) : AccRes × AccRes := (List.range g).foldl (fun e c =>
      let x := h.got.getD (j * g + c) 0
      let u := (Sparse.get 0 h.unitary (row * 8 + c)).toNat
      let add := accumulate (fwAlsb w)
      (add (add e.1 (fMul (re u) (re x)).1) (fMul (im u) (im x)).1.neg, add (add e.2 (fMul (re u) (im x)).1) (fMul (im u) (re x)).1)) (zero, zero)
    let out (j row : Nat) : List Byte :=
      let word (e : AccRes) : List Byte := leBytes 4 (drain w 2 0 false .rne e.e)
      word (sums j row).1 ++ word (sums j row).2
    mReads st 8 (each (at0 r.a h.baseA (r.aux0.extractLsb' 0 16) false)) = .ok ps →
    (∀ pl, ps[p.got.length]? = some (some pl) → ReadsNext s core .m h t pl 8)
      ∧ (∀ n pl, s.pick = some n → (((ps.drop p.got.length).filterMap id).filter (fun pl => (st.me.earlyAt false pl 8).isNone))[n]? = some pl → ReadsAhead s core .m h t pl)
      ∧ (∀ us, p.got.length = ps.length →
        (fwOvfTrap w = true → ∀ j, j < groups → ∀ row, row < g → (sums j row).1.e.s ≠ 1 ∧ (sums j row).2.e.s ≠ 1) →
        mPlaces st 8 (each (fun j row => (at0 r.d h.baseD (r.aux0.extractLsb' 16 16) true j row, out j row))) = .ok us →
        SingleSends s core .m h t (fun _ => 0) (us.flatMap (fun u =>
          match u.1 with
          | .tx a => [(.tx a, (u.2.take 4).map some), (.tx (a + 4), (u.2.drop 4).map some)]
          | pl => [(pl, u.2.map some)]))))

/-- R174, R175, R167, R72, R293: one single issue of WLD or MMA reads its elements one by one, an element that gives SKIP as 0; then WLD writes one
row of W with its formats, and clears W where the width class changes, and MMA adds its products into one row of the working bank. R177: with
TCHK, a later block whose tag is another one traps. -/
def Obligations.MatrixSingles : Prop := ∀ (s : State) (core : Nat) (p : RecProg) (t : Task) (y : Syn) (r : Rec) (ps : List (Option Place)),
  ReadySingle s core .m p t → p.outs = [] →
  let h := heldBy p t .m
  let w := h.fmt
  let cs := h.got
  let row (x : RecOperand) : Int := (x.base.extractLsb' 0 8).toNat + (h.i0 * x.s0.toInt + h.i1 * x.s1.toInt + h.i2 * x.s2.toInt + h.i3 * x.s3.toInt)
  let st := singleState s core .m t
  let bank := s.bankOf core
  let Gathers (size : Nat) : Prop :=
    (∀ pl, ps[p.got.length]? = some (some pl) → ReadsNext s core .m h t pl size)
      ∧ (∀ n pl, s.pick = some n → (((ps.drop p.got.length).filterMap id).filter (fun pl => (st.me.earlyAt false pl size).isNone))[n]? = some pl → ReadsAhead s core .m h t pl)
      ∧ (s.pick = none → ps[p.got.length]? = some none → ∃ t', exec (.recordSingleIssue core .m) s = .next ((turnOf s core .m).setTask core bank (some t'))
        ∧ bareTask t' .m = bareTask (t.setSeq .m { t.m with prog := some { h with got := h.got ++ [0] } }) .m)
  (p.instr = .wld y r → 0 ≤ row r.d → row r.d < (if is8 (fwB w) then 256 else 128) →
      mReads st (codeBytes (fwB w)) ((List.range ((r.aux2.extractLsb' 20 7).toNat + 1)).map (fun n =>
        mAddr h r.b h.baseB (codeBytes (fwB w)) ((n * ((r.aux2.extractLsb' 27 4).toNat + 1) : Nat) : Int) false)) = .ok ps →
      Gathers (codeBytes (fwB w))
        ∧ (p.got.length = ps.length →
          ∃ t2, SingleEffect s core .m h t2 ∧ t2.w8 = is8 (fwB w) ∧ t2.wlast = lastFmt w ∧ Sparse.get 0 t2.wfmt (row r.d).toNat = rowFmt w
            ∧ (∀ n < 128, Sparse.get 0 t2.w ((row r.d).toNat * 128 + n)
                = BitVec.ofNat 16 (if r.opm.getLsbD 4 then (if n < cs.length then perturb t h (row r.d).toNat n (codeVal (fwB w) (fwBP w) (fwBInf w) (cs.getD n 0)) else 0)
                    else cs.getD n 0))
            ∧ (t.w8 = is8 (fwB w) → ∀ k n, n < 128 → k ≠ (row r.d).toNat → Sparse.get 0 t2.w (k * 128 + n) = Sparse.get 0 t.w (k * 128 + n))
            ∧ t2 = { t with w := t2.w, wfmt := t2.wfmt, w8 := t2.w8, wlast := t2.wlast }))
    ∧ (p.instr = .mma y r → 0 ≤ row r.d → row r.d < 128 → r.aux2.getLsbD 9 = false → p.lastBlock = none →
      mReads st (codeBytes (fwA w)) ((List.range (mK r)).map (fun k =>
        mAddr h r.a h.baseA (codeBytes (fwA w)) (k * (r.aux0.extractLsb' 0 16).toInt) false)) = .ok ps →
      Gathers (codeBytes (fwA w))
        ∧ (p.got.length = ps.length →
          SingleEffect s core .m h
            (t.setAccBank (mAcc r) 0 (mmaBank t w r (row r.d).toNat (cs.map (codeVal (fwA w) (fwAP w) (fwAInf w))) (t.accBank (mAcc r) 0)))))
    ∧ (∀ a, p.instr = .mma y r → 0 ≤ row r.d → row r.d < 128 → r.aux2.getLsbD 9 = true → p.got = [] →
      mAddr h r.a h.baseA (codeBytes (fwA w)) 0 false = .addr a → a < 0x800000 → p.lastBlock ≠ some (2048 * core + a / 4096) →
      let tag : BitVec 16 := Sparse.get 0 (s.core core).tags (a / 4096)
      tag ≠ r.aux2.extractLsb' 16 16 →
      ∃ t' : Task, exec (.recordSingleIssue core .m) s = takeTrap ((turnOf s core .m).setTask core bank (some t')) core bank 3 .tagMismatch tag.toNat 0 t.m.pc.toNat
        ∧ bareTask t' .m = bareTask (t.setSeq .m { t.m with prog := some h }) .m)

/-- R181, R182, R293: one single issue of ADRN drains the columns of one row of the visible bank to its element addresses; ASAVE stores 64 bytes of
an image, ALOAD reads 64 bytes, granule by granule, and takes them into a bank. -/
def Obligations.MatrixDrains : Prop := ∀ (s : State) (core : Nat) (p : RecProg) (t : Task) (y : Syn) (r : Rec),
  ReadySingle s core .m p t → p.sent = 0 → p.outs = [] →
  let h := heldBy p t .m
  let w := h.fmt
  let st := singleState s core .m t
  let Stores (us : List (Place × List (Option Byte))) : Prop := SingleSends s core .m h t (fun _ => 0) us
  let i : Int := (r.a.base.extractLsb' 0 8).toNat + (h.i0 * r.a.s0.toInt + h.i1 * r.a.s1.toInt + h.i2 * r.a.s2.toInt + h.i3 * r.a.s3.toInt)
  let size := codeBytes (fwO w)
  let visible := t.accBank (mAcc r) 1
  let image := if r.opm.getLsbD 2 then 1 else 0
  let out (c : Nat) : List Byte := leBytes size (drain w (fwO w) (fwOP w) (fwOInf w)
    (drainMode h (t.m.reg 31 + BitVec.ofNat 64 (i.toNat * (r.aux2.extractLsb' 0 16).toNat + c))) (visible.elem i.toNat c))
  (∀ us, p.instr = .adrn y r → 0 ≤ i → i < 128 → (fwOvfTrap w = true → ∀ c ∈ mCols r, (visible.elem i.toNat c).s ≠ 1) →
      mPlaces st size ((mCols r).zipIdx.map (fun x => (mAddr h r.d h.baseD size (x.2 * (r.aux0.extractLsb' 0 16).toInt) true, out x.1))) = .ok us →
      Stores (us.map (fun u => (u.1, u.2.map some))))
    ∧ (∀ a d, p.instr = .asave y r → mAddr h r.d h.baseD 64 0 true = .addr a → checkAccess st core t Ranges.all .store a 64 64 = .ok d →
      Stores (blockUnits d ((List.range 64).map (fun k => some (accByte (t.accBank (mAcc r) image) (t.ver (mAcc r)) (64 * h.i0 + k))))))
    ∧ (∀ a d, p.instr = .aload y r → mAddr h r.a h.baseA 64 0 false = .addr a → checkAccess st core t Ranges.noTx .load a 64 64 = .ok d →
      (p.got.length < 4 → ReadsNext s core .m h t (d.add (16 * p.got.length)) 16)
        ∧ (p.got.length = 4 →
          let x := (h.got.flatMap (leBytes 16)).zipIdx.foldl (fun x b => setAccByte x.1 x.2 (64 * h.i0 + b.2) b.1) (t.accBank (mAcc r) image, t.ver (mAcc r))
          SingleEffect s core .m h ((t.setAccBank (mAcc r) image x.1).setVer (mAcc r) x.2)))

/-- R60 to R71: the number formats and the one rounding of every operation: what each code stands for, the neighbour that a mode picks, the code of the
rounded value with its flags, overflow, the special values, conversion to integers, exact sums, products, quotients and roots, and the special cases of R71.
The RNE tie of binary8 with P = 1 is the model's reading (log 74).
R73: accumulation of a finite product into a finite element: the product is aligned to ALSB by flooring, limited to 81 bits, added, and
the sum is limited to 96 bits, with OVF and the tile flags where a limit acts; NaN and infinities are sticky. -/
def Obligations.Accumulation : Prop :=
  let binary8 (unsigned inf : Bool) (p : Nat) : Fmt := if unsigned then b8u p inf else b8s p inf
  let known (f : Fmt) : Prop := f = fp32 ∨ f = fp16 ∨ f = bf16 ∨ ∃ u inf p, 1 ≤ p ∧ p ≤ 7 ∧ f = binary8 u inf p
  -- the magnitude m * 2^a is at most n * 2^b
  let atMost (m : Nat) (a : Int) (n : Nat) (b : Int) : Prop := m * 2 ^ (a - min a b).toNat ≤ n * 2 ^ (b - min a b).toNat
  ((∀ inf p, fp32.maxMag = 0x7F7FFFFF ∧ fp16.maxMag = 0x7BFF ∧ bf16.maxMag = 0x7F7F ∧ (b8s p inf).maxMag = (if inf then 0x7E else 0x7F)
      ∧ (b8u p inf).maxMag = (if inf then 0xFD else 0xFE) ∧ fp32.nanCode = 0x7FC00000 ∧ fp16.nanCode = 0x7E00 ∧ bf16.nanCode = 0x7FC0)
    ∧ ∀ (f : Fmt) (k x B : Nat), (f, k, x, B) ∈ [(fp32, 23, 8, 127), (fp16, 10, 5, 15), (bf16, 7, 8, 127)] → ∀ c : Nat, c < 2 ^ (k + x + 1) →
      let fr := c % 2 ^ k
      let ex := c / 2 ^ k % 2 ^ x
      let neg := c.testBit (k + x)
      f.decode c = if ex = 2 ^ x - 1 then (if fr = 0 then .inf neg else .nan)
        else if ex = 0 then .fin neg fr (1 - (B : Int) - k) false else .fin neg (2 ^ k + fr) (ex - (B : Int) - k) false)
    ∧ (∀ (unsigned inf : Bool) (p c : Nat), 1 ≤ p → p ≤ 7 → c < 256 →
      let w := if unsigned then 8 else 7
      let B := 2 ^ (w - p)
      let mag := c % 2 ^ w
      let fr := mag % 2 ^ (p - 1)
      let ex := mag / 2 ^ (p - 1)
      let neg := !unsigned && c.testBit 7
      (binary8 unsigned inf p).decode c = if c = (if unsigned then 0xFF else 0x80) then .nan
        else if inf = true ∧ mag = (if unsigned then 0xFE else 0x7F) then .inf neg
        else if ex = 0 then .fin neg fr (1 - (B : Int) - (p - 1 : Nat)) false else .fin neg (2 ^ (p - 1) + fr) (ex - (B : Int) - (p - 1 : Nat)) false)
    ∧ (∀ (m : Nat) (e q : Int) (neg : Bool), q ≤ e → ∀ mode, roundMag mode neg m e false q = (m * 2 ^ (e - q).toNat, false))
    ∧ (∀ (m : Nat) (e q : Int) (neg : Bool), e < q →
      let d := (q - e).toNat
      let lo := m / 2 ^ d
      let rem := m % 2 ^ d
      roundMag .rtz neg m e false q = (lo, decide (rem ≠ 0))
        ∧ roundMag .rne neg m e false q = (if 2 * rem < 2 ^ d then lo else if 2 ^ d < 2 * rem then lo + 1 else lo + lo % 2, decide (rem ≠ 0))
        -- f > u for f the part of the way from the lower to the higher value
        ∧ ∀ u, roundMag (.sto u) neg m e false q = (if rem = 0 then lo
            else if neg then (if u * 2 ^ d < 2 ^ 24 * (2 ^ d - rem) then lo else lo + 1) else (if u * 2 ^ d < 2 ^ 24 * rem then lo + 1 else lo), decide (rem ≠ 0)))
    ∧ (∀ f mode sat neg m (e : Int), known f → m ≠ 0 → (f.signed = true ∨ neg = false) →
      let q : Int := max (e + bitLen m - 1) (1 - f.bias) - (f.p - 1 : Nat)
      let r := roundMag mode neg m e false q
      let top := f.magOf f.maxMag
      let c := roundTo f mode sat (.fin neg m e false)
      (atMost r.1 q top.1 top.2 → ∃ neg1 n x, f.decode c.1 = .fin neg1 n x false ∧ atMost r.1 q n x ∧ atMost n x r.1 q
          ∧ (neg1 = (neg && (r.1 != 0 || f.negZero)))
          ∧ c.2 = if r.2 = false then 0 else if r.1 ≠ 0 ∧ n < 2 ^ (f.p - 1) then 3 else 1)
        ∧ (¬ atMost r.1 q top.1 top.2 → c.2 = 5
          ∧ f.decode c.1 = if mode = .rtz ∨ sat = true then .fin neg top.1 top.2 false else if f.infMag.isSome then .inf neg else .nan))
    ∧ (∀ f mode sat m (e : Int), known f → f.signed = false → m ≠ 0 →
      let q : Int := max (e + bitLen m - 1) (1 - f.bias) - (f.p - 1 : Nat)
      roundTo f mode sat (.fin true m e false) = if (roundMag mode false m e false q).1 = 0 then (0, 1) else if sat then (0, 17) else (0xFF, 16))
    ∧ (∀ f mode sat, known f → roundTo f mode sat .nan = (f.nanCode, 0) ∧ f.decode f.nanCode = .nan
      ∧ (∀ neg, roundTo f mode sat (fzero neg) = (f.signCode (neg && f.negZero) 0, 0))
      ∧ ∀ neg, (f.signed = true ∨ neg = false) → f.decode (roundTo f mode sat (.inf neg)).1
            = (if sat then .fin neg (f.magOf f.maxMag).1 (f.magOf f.maxMag).2 false else if f.infMag.isSome then .inf neg else .nan)
          ∧ (roundTo f mode sat (.inf neg)).2 = if sat then 1 else 0)
    ∧ (∀ w sgn mode neg m (e : Int), 0 < w →
      let lo : Int := if sgn then -(2 ^ (w - 1) : Nat) else 0
      let hi : Int := if sgn then (2 ^ (w - 1) : Nat) - 1 else (2 ^ w : Nat) - 1
      let code (z : Int) : Nat := (z % (2 ^ w : Nat)).toNat
      let r := roundMag mode neg m e false 0
      let z : Int := if neg then -(r.1 : Int) else r.1
      let lim := max lo (min hi z)
      roundToInt w sgn mode .nan = (0, 16) ∧ roundToInt w sgn mode (.inf false) = (code hi, 17) ∧ roundToInt w sgn mode (.inf true) = (code lo, 17)
        ∧ roundToInt w sgn mode (.fin neg m e false) = (code lim, if lim ≠ z then 17 else if r.2 then 1 else 0))
    ∧ (∀ n1 m1 e1 n2 m2 e2,
      let a : FVal := .fin n1 m1 e1 false
      let b : FVal := .fin n2 m2 e2 false
      let e := min e1 e2
      let sum : Int := (if n1 then -1 else 1) * (m1 * 2 ^ (e1 - e).toNat) + (if n2 then -1 else 1) * (m2 * 2 ^ (e2 - e).toNat)
      fAdd a b = (if sum = 0 then fzero (decide (n1 = true ∧ n2 = true ∧ m1 = 0 ∧ m2 = 0)) else .fin (decide (sum < 0)) sum.natAbs e false, 0)
        ∧ fMul a b = (.fin (n1 != n2) (m1 * m2) (e1 + e2) false, 0)
        ∧ (m1 ≠ 0 → m2 ≠ 0 → ∃ k n st, fDiv a b = (.fin (n1 != n2) n (e1 - e2 - (k : Nat)) st, 0) ∧ 200 ≤ k ∧ n * m2 ≤ m1 * 2 ^ k ∧ m1 * 2 ^ k < (n + 1) * m2
          ∧ (st = true ↔ n * m2 ≠ m1 * 2 ^ k))
        ∧ (m1 ≠ 0 → fDiv a (fzero n2) = (.inf (n1 != n2), 8) ∧ fDiv (fzero n1) (fzero n2) = (.nan, 16) ∧ fRcp (fzero n2) = (.inf n2, 8))
        ∧ (m1 ≠ 0 → (∃ k n x st, fSqrt (.fin false m1 e1 false) = (.fin false n x st, 0) ∧ 2 * x + (k : Nat) = e1 ∧ 200 ≤ k ∧ n * n ≤ m1 * 2 ^ k ∧ m1 * 2 ^ k < (n + 1) * (n + 1)
            ∧ (st = true ↔ n * n ≠ m1 * 2 ^ k))
          ∧ (∃ k n x st, fRsq (.fin false m1 e1 false) = (.fin false n x st, 0) ∧ 2 * x + (k : Nat) = -e1 ∧ 300 ≤ k ∧ n * n * m1 ≤ 2 ^ k ∧ 2 ^ k < (n + 1) * (n + 1) * m1
            ∧ (st = true ↔ n * n * m1 ≠ 2 ^ k))
          ∧ fSqrt (.fin true m1 e1 false) = (.nan, 16) ∧ fRsq (.fin true m1 e1 false) = (.nan, 16) ∧ fLog2 (.fin true m1 e1 false) = (.nan, 16)))
    ∧ (∀ neg (k : Nat) (e : Int), fSqrt (fzero neg) = (fzero neg, 0) ∧ fRsq (fzero neg) = (.inf neg, 8) ∧ fLog2 (fzero neg) = (.inf true, 8)
      ∧ fSqrt (.inf neg) = (if neg then (.nan, 16) else (.inf false, 0)) ∧ fRsq (.inf neg) = (if neg then (.nan, 16) else (fzero false, 0))
      ∧ fLog2 (.inf neg) = (if neg then (.nan, 16) else (.inf false, 0)) ∧ fExp2 (.inf neg) = (if neg then fzero false else .inf false, 0)
      ∧ fRcp (.inf neg) = (fzero neg, 0) ∧ (∀ n, fDiv (.inf neg) (.inf n) = (.nan, 16) ∧ fAdd (.inf neg) (.inf n) = (if neg = n then (.inf n, 0) else (.nan, 16))
        ∧ fMul (.inf neg) (fzero n) = (.nan, 16) ∧ fMul (fzero n) (.inf neg) = (.nan, 16) ∧ fMul (.inf neg) (.inf n) = (.inf (neg != n), 0))
      ∧ fLog2 (.fin false (2 ^ k) e false) = (.fin (decide (e + k < 0)) (e + k).natAbs 0 false, 0)
      ∧ (k < 2048 → fExp2 (.fin neg k 0 false) = (.fin false 1 (if neg then -(k : Int) else k) false, 0)))
    ∧ (∀ x, fSqrt .nan = (.nan, 0) ∧ fRsq .nan = (.nan, 0) ∧ fExp2 .nan = (.nan, 0) ∧ fLog2 .nan = (.nan, 0) ∧ fAdd .nan x = (.nan, 0) ∧ fAdd x .nan = (.nan, 0)
      ∧ fMul .nan x = (.nan, 0) ∧ fMul x .nan = (.nan, 0) ∧ fDiv .nan x = (.nan, 0) ∧ fDiv x .nan = (.nan, 0)
      ∧ ∀ z, fFma .nan x z = (.nan, 0) ∧ fFma x .nan z = (.nan, 0) ∧ fFma x z .nan = (.nan, 0))
    ∧ (∀ x z w, x ≠ .nan → z ≠ .nan → w ≠ .nan → fFma x z w = if (fMul x z).1 = .nan then (.nan, 16) else fAdd (fMul x z).1 w)
    ∧ ∀ (alsb : Int) (e : Elem) (neg : Bool) (m : Nat) (x : Int) (st : Bool),
      let r0 : AccRes := { e := e, prange := false, ovf := false }
      let z : Int := if neg then -(m : Int) else m
      let q : Int := if alsb ≤ x then z * 2 ^ (x - alsb).toNat else z / 2 ^ (alsb - x).toNat
      let lim (n : Nat) (v : Int) : Int := max (-(2 ^ n)) (min (2 ^ n - 1) v)
      let sum := e.v.toInt + lim 80 q
      (e.s ≠ 3 → e.s ≠ 2 →
          let r := accumulate alsb r0 (.fin neg m x st)
          r.e.v.toInt = lim 95 sum ∧ (r.e.s = if lim 95 sum = sum then e.s else 1) ∧ r.prange = decide (lim 80 q ≠ q) ∧ r.ovf = decide (lim 95 sum ≠ sum))
        ∧ (e.s = 3 → ∀ v, accumulate alsb r0 v = r0)
        ∧ (e.s ≠ 3 → (accumulate alsb r0 .nan).e.s = 3)
        ∧ (e.s = 2 → accumulate alsb r0 (.fin neg m x st) = r0)
        ∧ (e.s ≠ 3 → e.s ≠ 2 → (accumulate alsb r0 (.inf neg)).e.s = 2 ∧ (accumulate alsb r0 (.inf neg)).e.v.msb = neg)
        ∧ (e.s = 2 → e.v.msb ≠ neg → (accumulate alsb r0 (.inf neg)).e.s = 3)

/-! ### Events of the sequencers -/

/-- R29, R363, R96, R124, R103, R159, R293, R295: an engine's result is there once its latency has passed; a piece of a load is read, an event of
its own, after the sequencer's own earlier stores to its granule; one with an error that cannot be corrected traps, and its load writes nothing (R332,
R344); a store that may be performed is: the bytes that it names are in memory, and no other byte changes. -/
def Obligations.SequencerEvents : Prop := ∀ (s : State) (core : Nat) (q : SeqId) (t : Task), alive s = true → s.task? core (s.bankOf core) = some t →
  let u := t.seq q
  let bank := s.bankOf core
  (∀ id, (∃ p ∈ u.pend, p.id = id ∧ p.produced = false ∧ p.loads = [] ∧ p.since + p.lat ≤ s.mcc) →
      ∃ t', exec (.engineResultWrite core q id) s = .next (s.setTask core bank (some t')) ∧ (t'.seq q).pc = u.pc ∧ (t'.seq q).wait = u.wait
        ∧ bareTask t' q = bareTask (t.setSeq q { u with pend := u.pend.map (fun p =>
          if p.id = id ∧ p.loads = [] ∧ p.since + p.lat ≤ s.mcc then { p with produced := true } else p) }) q)
    ∧ (∀ (pl : Place) (n id : Nat),
      let x := drainAt s core bank q id pl n
      let near (st : PStore) : Bool := decide (st.id < id) && sameGranule st.place st.bytes.length pl n
      (u.stores.any near = false → x = correctAt s pl n) ∧ (∀ t1, x.task? core bank = some t1 → (t1.seq q).stores.any near = false))
    ∧ (∀ (x : LoadAt) p l, u.pend.find? (fun p => p.id == x.id && p.due == x.due) = some p → p.loads[x.piece]? = some l → loadReady s core t q x = true →
      loadNow s core t q p l = true →
      (placeBad s l.place l.len = true → ∃ t',
          exec (.loadDataArrival core q x) s = takeTrap (s.setTask core bank (some t')) core bank q.num .eccUncorrectable l.addr 0 p.pc.toNat
            ∧ bareTask t' q = bareTask (t.setSeq q { u with pend := u.pend.filter (fun z => z.id != x.id || z.due != x.due) }) q
            ∧ (t'.seq q).flights = u.flights.filter (fun f => f.id != x.id) ∧ (t'.seq q).pc = (if q = .c then p.pc else u.pc))
        ∧ (placeBad s l.place l.len = false →
          let z := drainAt s core bank q x.id l.place l.len
          let bs := readPlace z l.place l.len
          let ws : List Write := match l.dest with
            | .v r lane m => [.v r m (BitVec.ofNat 2048 (leNat bs * 2 ^ (8 * lane)))]
            | .bm n g => [.bm n g (BitVec.ofNat 128 (leNat bs))]
            | .k i => (List.range (l.len / 4)).map (fun j => .k (i + j) (BitVec.ofNat 32 (leNat ((bs.drop (4 * j)).take 4))))
            | .s r sgn => [.x r (BitVec.ofInt 64 (if sgn then sbits (leNat bs) 0 (8 * l.len) else leNat bs))]
          ∃ s' t1 t', exec (.loadDataArrival core q x) s = .next s' ∧ SameOutside z s' ∧ z.task? core bank = some t1 ∧ s'.task? core bank = some t'
            ∧ bareTask t' q = bareTask (t1.setSeq q { t1.seq q with pend := (t1.seq q).pend.map (fun p =>
              if p.id = x.id ∧ p.due = x.due then { p with writes := p.writes ++ ws, loads := p.loads.eraseIdx x.piece } else p) }) q))
    ∧ (∀ n st, u.stores[n]? = some st → storeReady s core t q n = true → (recordFirst s core t q = false ∨ overdue s t.part = true) →
      ∃ s' t', exec (.storePerformed core q n) s = .next s' ∧ s'.task? core bank = some t' ∧ (t'.seq q).stores = u.stores.eraseIdx n
        ∧ (∀ (bs : List Byte) (c off : Nat), st.upd = none → st.bytes = bs.map some → st.place = .spad c off →
            (∀ a, getByte s'.hbm a = getByte s.hbm a)
              ∧ ∀ k a, getByte (s'.core k).spad a = if k = c ∧ off ≤ a ∧ a < off + bs.length then bs.getD (a - off) 0 else getByte (s.core k).spad a)
        ∧ (∀ (bs : List Byte) (pa : Nat), st.upd = none → st.bytes = bs.map some → st.place = .hbm pa → s.poison = [] → s.errs = [] →
            (∀ k a, getByte (s'.core k).spad a = getByte (s.core k).spad a)
              ∧ ∀ a, getByte s'.hbm a = if pa ≤ a ∧ a < pa + bs.length then bs.getD (a - pa) 0 else getByte s.hbm a))
    ∧ (∀ n st, u.stores[n]? = some st → (s.mcc < st.since + st.lat ∨ (∃ m, m < n ∧ ∃ e, u.stores[m]? = some e ∧ (e.chain ≠ 0 ∧ e.chain = st.chain
        ∨ sameGranule e.place e.bytes.length st.place st.bytes.length = true))) → exec (.storePerformed core q n) s = .next s)

/-- R281, R282, R28, R301, R99, R262, R335, R249, R255, R46: the ends of timed waits, and the bounds that trap, on the lowest sequencer that meets one:
a target reached completes WAITT and ALIGN; a missed cycle, an access past its bound, the watchdog, a window that stays closed, a gap, a collective
without its members and an opcode without a row take their exceptions. FADDR of an access past its bound (log 80), and the ALIGN that FADDR of a missed tick
counts from (log 69), are the model's readings. -/
def Obligations.SequencerBounds : Prop := ∀ (s : State) (core : Nat) (q : SeqId), onTurn s core q = some (turnOf s core q) → alive s = true →
  let st := turnOf s core q
  let t := st.here
  let p := s.part t.part
  let bank := s.bankOf core
  let Ends (ev : Instr) (t2 : Task) (pc : BitVec 48) : Prop := ∃ t', exec ev s = .next (st.setTask core bank (some t'))
    ∧ bareTask t' .c = bareTask t2 .c ∧ t'.c.pc = pc ∧ t'.c.wait = none
  (∀ y o w, q = .c → fetchInstr st core .c t = .run (.waitt y o) → Resumes st (.waitt y o) y w →
      (t.c.reg o.sa.toNat + bVal t.c o.b).toNat ≤ s.gt →
      Ends (.waittTargetReached core) (withReg st t o.sd.toNat (BitVec.ofNat 64 s.gt)) (t.c.pc + 8))
    ∧ (∀ y o w, q = .c → fetchInstr st core .c t = .run (.align y o) → Resumes st (.align y o) y w → t.timed = false →
      (t.c.reg o.sa.toNat).toNat ≤ s.mcc - p.mcc0 → Ends (.alignRelease core) t (t.c.pc + 8))
    ∧ (∀ d, overdueAccess st core t q = none → nextDue st core q t = some d → d < s.mcc → firstToExpire s core q = true →
      TrapsEvent s (.schedMiss core q) core q .schedMiss (match curOp st with | .align g _ => g.toNat | _ => d - st.me.alignAt) 0)
    ∧ (∀ due head, overdueAccess st core t q = some (due, head) → firstToExpire s core q = true →
      ∃ (s1 : State) (t' : Task), exec (.schedMiss core q) s = takeTrap s1 core bank q.num .schedMiss (due - st.me.alignAt) 0 head.toNat
        ∧ s1.task? core bank = some t' ∧ bareTask t' q = bareTask t q ∧ SameMemory s s1 ∧ s1.parts = s.parts)
    ∧ (∀ head r, fetchNow st core q = (r, some (.run (.illegalOpcode core q head))) →
      exec (.illegalOpcode core q head) s = takeTrap r core bank q.num .illegalOpcode st.me.pc.toNat 0 st.me.pc.toNat
        ∧ ((∀ k : SeqId, (t.seq k).stores = []) → TrapsEvent s (.illegalOpcode core q head) core q .illegalOpcode st.me.pc.toNat 0))
    ∧ ∀ w, st.me.wait = some w → (∀ i, w.op ≠ .lq i) →
      (1 ≤ w.kind → w.kind ≤ 7 → p.csrVal 0x104 ≠ 0 → w.since + (p.csrVal 0x104).toNat ≤ s.mcc → boundWins st w = false → firstToExpire s core q = true →
          TrapsEvent s (.watchdogStall core q) core q .stall w.kind 0)
        ∧ (w.kind = 5 → inTx w.addr = true → w.sinceGt + (p.csrVal 0x101).toNat ≤ s.gt → firstToExpire s core q = true →
          (st.me.prog = none → TrapsEvent s (.leaseWaitExpiry core q) core q .leaseWait w.addr 0)
            ∧ (∀ r, st.me.prog = some r → ∃ (s1 : State) (t' : Task),
              exec (.leaseWaitExpiry core q) s = takeTrap s1 core bank q.num .leaseWait w.addr 0 st.me.pc.toNat ∧ s1.task? core bank = some t'
                ∧ SameMemory s s1 ∧ (t'.seq q).prog = some { r with sent := 0, outs := [] }))
        ∧ (∀ x, q = .c → w.kind = 4 → s.sorus.step? w.addr = some x → x.complete = false → x.openGt + s.sorus.dl.toNat + s.sorus.gap.toNat ≤ s.gt →
          TrapsEvent s (.sorusGapBound core) core .c .sorusGap w.addr (if x.notRet then 2 else 0))
        ∧ (∀ g, q = .c → core < 512 → w.op = .coll g → w.sinceGt + (p.csrVal 0x103).toNat ≤ s.gt →
          TrapsEvent s (.collOverrun core) core .c .collOverrun w.addr 0)

/-! ### Events of the fabric -/

/-- R222, R224 to R231, R233, R293, R355: one copy of a flit departs for the members whose routes share its first hop, by a port of the direction of R233 that
has a slot and is ready; a flit of another module begins to land or is refused, and lands granule by granule; an acknowledgement within ACKTMO
removes its flit and notes its failures, with each task that stored into it or with its saved image; silence counts as failure, a disabled module is dead in
every window. -/
def Obligations.FlitEvents : Prop := ∀ (s : State), alive s = true →
  (∀ set m port, port ∈ exitPorts s set m ↔ slotAt s set port = true ∧ ∃ a, a < 3 ∧ placeOn m a ≠ placeOn s.modNum a ∧ (∀ b, b < a → placeOn m b = placeOn s.modNum b)
      ∧ port / 4 = a ∧ (port / 2 % 2 = 0 ↔ 2 * ((placeOn m a + ringSize s a - placeOn s.modNum a) % ringSize s a) ≤ ringSize s a))
    ∧ (∀ f m port, s.flits.find? (fun g => g.id == f.id) = some f → f.copies.getLsbD m = true → (s.txWin f.win).recalled = 0 →
      (∀ g ∈ s.flits, g.id < f.id → g.win = f.win → g.core = f.core → g.copies.getLsbD m = false) →
      let w := s.txWin f.win
      let off := w.rxOff + f.block * 64
      let r := s.rxWin w.rx
      (port ∈ exitPorts s w.slotset (w.members.getD m 0) → s.ready.getLsbD (6 + port) = true → wheelOpen s 32 w.part = true → (w.loop ≠ 2 ∨ isRing s w.rx = false) →
        let js := (List.range w.members.length).filter (fun j => f.copies.getLsbD j && firstHop s (w.members.getD j 0) == firstHop s (w.members.getD m 0))
        let left : BitVec 64 := js.foldl (fun c j => c &&& ~~~ (memberBit j)) f.copies
        ∃ s', exec (.flitDeparture f.id ⟨m, port⟩) s = .next s' ∧ SameMemory s s'
          ∧ s'.out = s.out ++ [Msg.flit port (js.map (fun j => (w.members.getD j 0, Sparse.get 0 w.epochs j))) w.rx off f.mask f.data f.order]
          ∧ (∃ g ∈ s'.flits, g.id = f.id ∧ g.copies = left ∧ g.isOpen = false ∧ (g.departed = true ↔ g.copies = 0))
          ∧ s'.landings = s.landings ++ (if w.loop = 2 ∧ left = 0 ∧ r.state = 1 ∧ off + 64 ≤ r.size then
              [{ src := s.modNum, path := 1024 * f.win + f.core, rx := w.rx, part := r.part, ack := false, base := rxPlace r off 0, mask := f.mask, data := f.data, order := f.order, coll := none }] else []))
        ∧ ((port ∉ exitPorts s w.slotset (w.members.getD m 0) ∨ s.ready.getLsbD (6 + port) = false ∨ wheelOpen s 32 w.part = false) →
          exec (.flitDeparture f.id ⟨m, port⟩) s = .next s))
    ∧ (∀ f : InFlit, let r := s.rxWin f.rx
        let Takes : Prop := r.state = 1 ∧ rxAllows s r f.src = true ∧ r.epoch ≤ f.epoch ∧ f.src ∉ r.barred ∧ f.off + 64 ≤ r.size
        (¬ Takes → exec (.flitDelivery f) s = .next (s.say (.ack (ackPort s f.src) f.src false)))
          ∧ (Takes → isRing s f.rx = false → exec (.flitDelivery f) s = .next { s with landings := s.landings ++
              [{ src := f.src, path := f.path, rx := f.rx, part := r.part, ack := true, base := rxPlace r f.off 0, mask := f.mask, data := f.data, order := f.order, coll := none }] })
          ∧ (Takes → isRing s f.rx = true → exec (.flitDelivery f) s = .next (sayAck (ringFlit s f.off f.mask f.data f.src) f.src true)))
    ∧ (∀ n l g rest, s.landings[n]? = some l → (∀ m ∈ s.landings.take n, m.src = l.src → m.path ≠ l.path) → l.coll = none → l.order = g :: rest → g < 4 →
      s.poison = [] → s.errs = [] →
      ∃ s', turnLand n s = .next s'
        ∧ (∀ a, l.base = .hbm a → (∀ k, s'.core k = s.core k) ∧ ∀ x, getByte s'.hbm x = if a + 16 * g ≤ x ∧ x < a + 16 * g + 16 ∧ l.mask.getLsbD (x - a) = true
            then l.data.extractLsb' (8 * (x - a)) 8 else getByte s.hbm x)
        ∧ (∀ c a, l.base = .spad c a → s'.hbm = s.hbm ∧ ∀ k x, getByte (s'.core k).spad x = if k = c ∧ a + 16 * g ≤ x ∧ x < a + 16 * g + 16 ∧ l.mask.getLsbD (x - a) = true
            then l.data.extractLsb' (8 * (x - a)) 8 else getByte (s.core k).spad x)
        ∧ (rest = [] → s'.landings = s.landings.eraseIdx n ∧ s'.out = s.out ++ (if l.ack then [Msg.ack (ackPort s l.src) l.src true] else []))
        ∧ (rest ≠ [] → s'.landings = s.landings.set n { l with order := rest } ∧ s'.out = s.out))
    ∧ (∀ f bitmap, s.flits.find? (fun g => g.id == f.id) = some f → f.departed = true → f.id < s.nextFlit → f.core ≠ 512 →
        let w := s.txWin f.win
        let off := w.rxOff + f.block * 64
        let r := s.rxWin w.rx
        let failed := (bitmap &&& w.mask) ||| f.lost
        let bound := f.departGt + ((s.part w.part).csrVal 0x102).toNat
        let Acked (ev : Instr) : Prop := ∃ s', exec ev s = .next s' ∧ (∀ g ∈ s'.flits, g.id ≠ f.id)
            ∧ (∀ o ∈ f.owners, o.bank < 2 → ∀ t, s.task? f.core o.bank = some t → ∃ t', s'.task? f.core o.bank = some t'
              ∧ Sparse.get 0 t'.failw (f.win / 16) = Sparse.get 0 t.failw (f.win / 16) ||| failed)
            ∧ (s'.part w.part).saved = (s.part w.part).saved.map (fun x =>
              if x.core = f.core ∧ x.bank < 2 ∧ f.owners.any (fun o => o.bank == x.bank + 2) = true
              then { x with failw := Sparse.set 0 (f.win / 16) (Sparse.get 0 x.failw (f.win / 16) ||| failed) x.failw } else x)
            ∧ (w.loop = 1 → r.state = 1 → off + 64 ≤ r.size → isRing s w.rx = false →
              ({ src := s.modNum, path := 1024 * f.win + f.core, rx := w.rx, part := r.part, ack := false, base := rxPlace r off 0, mask := f.mask, data := f.data, order := f.order, coll := none } : Landing)
                ∈ s'.landings)
        (s.gt ≤ bound → Acked (.flitAckArrival f.id bitmap)) ∧ (bound < s.gt → exec (.flitAckArrival f.id bitmap) s = .next s)
          ∧ (bound ≤ s.gt → Acked (.ackTimeout f.id bitmap)))
    ∧ (∀ m, m < 512 → ∃ s', exec (.memberDisabled m) s = .next s' ∧ s'.disabled.getLsbD m = true
        ∧ ∀ e ∈ s.tx, ∀ i, e.2.members.idxOf? m = some i → i < 64 → (s'.txWin e.1).dead.getLsbD i = true)

/-- R97, R98, R219 to R222: the leases of a receive window at the target, and those of a transmit window at the source. What becomes of an answer that
comes after its WMAP is over, and of a request under a recall, are the model's readings (log 37); a source that has asked again under a recall
counts once as silent, by the model's reading (log 38). -/
def Obligations.LeaseEvents : Prop := ∀ (s : State) (rx tx src pos : Nat), alive s = true →
  let r := s.rxWin rx
  let w := s.txWin tx
  let once (l : List Nat) : List Nat := if src ∈ l then l else l ++ [src]
  (∀ need, src < 512 → rx < 1024 → r.state = 1 → rxAllows s r src = true → need ≤ r.size →
      let g := (s.setRx rx { r with leases := r.leases ++ [src] }).say (.leaseAnswer src true r.lbase.toNat r.epoch)
      (r.recallGt = 0 → exec (.leaseRequest src rx need) s = .next g)
        ∧ (r.recallGt ≠ 0 → exec (.leaseRequest src rx need) s = .next (g.say (.recall src rx))))
    ∧ (∀ need, src < 512 → rx < 1024 → (r.state ≠ 1 ∨ rxAllows s r src = false ∨ r.size < need) →
      exec (.leaseRequest src rx need) s = .next (s.say (.leaseAnswer src false 0 0)))
    ∧ (src ∈ r.leases → exec (.leaseReturn rx src) s = .next (s.setRx rx { r with leases := r.leases.erase src }))
    ∧ (src ∉ r.leases → src ∈ r.released → exec (.leaseReturn rx src) s = .next (s.setRx rx { r with released := r.released.erase src }))
    ∧ (src ∈ r.leases → r.recallGt ≠ 0 → r.recallGt - 1 + 10000 < s.gt → exec (.leaseReleaseArrival rx src) s = .next s)
    ∧ (src ∈ r.leases → r.recallGt ≠ 0 → s.gt ≤ r.recallGt - 1 + 10000 → exec (.leaseReleaseArrival rx src) s
        = .next (s.setRx rx { r with leases := r.leases.filter (fun m => m != src), released := r.released ++ r.leases.filter (fun m => m == src) }))
    ∧ (src ∈ r.leases → r.recallGt ≠ 0 → r.recallGt - 1 + 10000 ≤ s.gt → exec (.lrecallSilentSource rx src) s
        = .next (s.setRx rx { r with leases := r.leases.filter (fun m => m != src), silent := once r.silent, barred := once r.barred }))
    ∧ (∀ base epoch, w.asker ≠ 0 → pos < w.members.length → (w.granted ||| w.refused).getLsbD pos = false → (∀ x ∈ s.orphans, x.1 = tx → x.2.1 ≠ pos) →
      (s.gt ≤ w.askedGt + 10000 →
          exec (.leaseReply tx pos true base epoch) s = .next (s.setTx tx { w with granted := w.granted ||| memberBit pos, bases := Sparse.set 0 pos base w.bases, epochs := Sparse.set 0 pos epoch w.epochs })
            ∧ exec (.leaseReply tx pos false base epoch) s = .next (s.setTx tx { w with refused := w.refused ||| memberBit pos }))
        ∧ (w.askedGt + 10000 < s.gt → ∀ g, exec (.leaseReply tx pos g base epoch) s = .next s))
    ∧ (∀ base epoch m k, w.asker = 0 → s.orphans.find? (fun x => x.1 == tx && x.2.1 == pos) = some (tx, pos, m, k) →
      exec (.leaseReply tx pos true base epoch) s = .next ({ s with orphans := s.orphans.erase (tx, pos, m, k) }.say (.leaseReturn m k))
        ∧ exec (.leaseReply tx pos false base epoch) s = .next { s with orphans := s.orphans.erase (tx, pos, m, k) })
    ∧ (∀ m, w.mapped = true → pos < 64 → w.members[pos]? = some m → w.members.idxOf? m = some pos →
      ∃ s', exec (.leaseRecall tx pos) s = .next s' ∧ (s'.txWin tx).allowance = 0 ∧ s'.flits = s.flits ∧ SameMemory s s')
    ∧ (∀ m, w.members[pos]? = some m → underLease s tx pos = [(tx, pos)] → w.recalled.getLsbD pos = true → w.released.getLsbD pos = false →
      (∀ f ∈ s.flits, f.win = tx → sentTo f pos = false) →
      exec (.leaseRelease tx pos) s = .next ((s.setTx tx { w with released := w.released ||| memberBit pos }).say (.released m)))
    ∧ (∀ base epoch, w.mapped = true → w.released.getLsbD pos = true → underLease s tx pos = [(tx, pos)] →
      ∃ s', exec (.leaseRegrant tx pos base epoch) s = .next s' ∧ (s'.txWin tx).recalled = w.recalled &&& ~~~ (memberBit pos)
        ∧ Sparse.get 0 (s'.txWin tx).bases pos = base ∧ Sparse.get 0 (s'.txWin tx).epochs pos = epoch)
    ∧ (let core := (w.asker - 1) / 2
       let st := turnOf s core .c
       ∀ y o k, w.asker ≠ 0 → w.askedGt + 10000 ≤ s.gt → s.bankOf core = (w.asker - 1) % 2 → onTurn s core .c = some st →
        fetchInstr st core .c st.here = .run (.wmap y o) → Resumes st (.wmap y o) y k → k.op = .wmap tx → w.granted ≠ w.mask →
        exec (.wmapMemberTimeout tx) s = exec (.wmap y o) st ∧ ∃ s', exec (.wmapMemberTimeout tx) s = .next s' ∧ s'.txWin tx = TxWin.free)

/-- R240 to R247: a spore that passes R245's checks is in the ring and acknowledged, another one is counted in BAD (which
writes count as bad records: log 31, log 32, log 33); the sealer seals a
step that lacks nothing; every DL, counted from the opening of the step and then from its last round, gap recovery asks the next live member, or Milnos or the
host, which counts as having asked all of them (the model's readings: log 49), also where the seal alone is missing; requests and replies depart in slots of
the sorus windows by their route, are acknowledged as flits are, and what times out is sent again at a DL boundary of its step; a request is served, or
refused where no window takes it, a reply taken; SORFIRST clears the ring. -/
def Obligations.SorusEvents : Prop := ∀ (s : State) (k : SorStep), alive s = true → sorEn s = true →
  let x := s.sorus
  (∀ r : BitVec 256, ∀ o base, ringBase s = some base → x.step? (recStep r) = some k → recFlags r = 0 → recOrigin r = o → o < 512 →
      (recCheckOk r = false → ∃ s', exec (.sorusRecordArrival (slotOff (recStep r) o) r o) s = .next s' ∧ s'.sorus.bad = x.bad + 1 ∧ s'.hbm = s.hbm
          ∧ s'.out = s.out ++ [Msg.ack (ackPort s o) o true])
        ∧ (recCheckOk r = true → x.openable (recStep r) = true → k.mem.getLsbD o = true → ringRec s (slotOff (recStep r) o) = 0 →
          (∀ j ∈ x.steps, j.held = []) → s.poison = [] → s.errs = [] →
          ∃ s', exec (.sorusRecordArrival (slotOff (recStep r) o) r o) s = .next s' ∧ ringRec s' (slotOff (recStep r) o) = r
            ∧ s'.sorus.bad = x.bad ∧ s'.out = s.out ++ [Msg.ack (ackPort s o) o true]))
    ∧ (∀ n, x.step? n = some k → findSealer s k = some s.modNum → k.sealSent = false → missing s k = [] →
      exec (.sorusSeal n) s = .next (agentSend { s with sorus := x.mapStep k.step (fun j => { j with sealSent := true }) } (sealOff k.step) (sealOf k.step s.modNum 0)))
    ∧ (∀ n, x.step? n = some k → k.complete = false → (if k.recovering then k.recoverGt else k.openGt) + x.dl.toNat ≤ s.gt →
      let todo := (askOrder s k).filter (fun j => !k.asked.contains j)
      let Asks (out : List Msg) (asked : List Nat) (sent : List GapSend) : Prop :=
        ∃ s', exec (.sorusStepDeadline n) s = .next s' ∧ s'.out = s.out ++ out ∧ SameMemory s s' ∧ s'.sorus.gapSent = x.gapSent ++ sent
          ∧ ∃ k', s'.sorus.step? n = some k' ∧ k'.recovering = true ∧ k'.recoverGt = s.gt ∧ k'.asked = asked
      (∀ m l, hostRecovers s = false → todo = m :: l →
          Asks [] (k.asked ++ [m]) [{ id := s.nextFlit, dst := m, step := n, gone := false, gt := s.gt, late := 0, msg := .ask (gapRequest s k) }])
        ∧ (hostRecovers s = false → todo = [] → Asks [] k.asked [])
        ∧ (hostRecovers s = true → k.recovering = false → Asks [.hostRelay (gapRequest s k)] (askOrder s k) [])
        ∧ (hostRecovers s = true → k.recovering = true → Asks [] k.asked []))
    ∧ (∀ id port g w l, x.gapSent.find? (fun g => g.id == id) = some g → sorusWins s = w :: l →
      let open1 : Prop := g.gone = false ∧ wheelOpen s 32 (sorOwner s) = true ∧ port ∈ exitPorts s (s.txWin w).slotset g.dst ∧ s.ready.getLsbD (6 + port) = true
      (¬ open1 → turnGap id port s = .next s)
        ∧ (open1 → ∃ s', turnGap id port s = .next s' ∧ SameMemory s s'
          ∧ s'.out = s.out ++ [match g.msg with | .ask q => Msg.gapAsk port g.dst q | .answer a => Msg.gapAnswer port g.dst a]
          ∧ s'.sorus = { x with gapSent := x.gapSent.map (fun y => if y.id = id then { y with gone := true, gt := s.gt } else y) }))
    ∧ (∀ n, x.step? n = some k →
      -- its time-out and this moment are on two sides of a DL boundary of the step
      let due (g : GapSend) : Bool := decide (g.step = n ∧ g.late ≠ 0 ∧ (g.late - 1 - k.openGt) / max 1 x.dl.toNat < (s.gt - k.openGt) / max 1 x.dl.toNat)
      let again := x.gapSent.filter due
      (again = [] → exec (.gapRetransmit n) s = .next s)
        ∧ (again ≠ [] → ∃ s', exec (.gapRetransmit n) s = .next s' ∧ SameMemory s s'
          ∧ s'.sorus.gapSent = x.gapSent.filter (fun g => !due g) ++ again.mapIdx (fun i g => { g with id := s.nextFlit + i, gone := false, gt := s.gt, late := 0 })))
    ∧ (∀ id b g, s.flits.find? (fun f => f.id == id) = none → x.gapSent.find? (fun g => g.id == id) = some g →
      let waits : Prop := g.gone = true ∧ g.late = 0
      let bound := g.gt + ((s.part (sorOwner s)).csrVal 0x102).toNat
      (waits → s.gt ≤ bound → exec (.flitAckArrival id b) s = .next { s with sorus := { x with gapSent := x.gapSent.filter (fun g => g.id != id) } })
        ∧ (waits → bound ≤ s.gt →
          exec (.ackTimeout id b) s = .next { s with sorus := { x with gapSent := x.gapSent.map (fun g => if g.id = id then { g with late := s.gt + 1 } else g) } })
        ∧ ((¬ waits ∨ bound < s.gt) → exec (.flitAckArrival id b) s = .next s))
    ∧ (∀ (req : BitVec 1024) r, let n := bits req.toNat 0 32
        let m := bits req.toNat 32 16
        let s1 := sayAck (performAt s (rxPlace r (128 * m) 0) (leBytes 128 req.toNat)) m true
        let held := (members (req.extractLsb' 512 512)).filter (fun o => ringRec s1 (slotOff n o) != 0)
        reqWin s = some r → m < 512 →
        (x.gone n = true → exec (.gapRequestArrival req) s = .next (gapPost s1 n m (.answer (gapReply s n 0 3 0))))
          ∧ (x.gone n = false → x.step? n = some k → held = [] → exec (.gapRequestArrival req) s = .next (gapPost s1 n m (.answer (gapReply s n 0 2 0))))
          ∧ (x.gone n = false → x.step? n = some k → held ≠ [] → ∃ s', exec (.gapRequestArrival req) s = .next s' ∧ s'.hbm = s1.hbm ∧ s'.out = s1.out
            ∧ s'.sorus.gapSent = x.gapSent ++ held.mapIdx (fun i o =>
                let a := gapReply s n o (if i + 1 = held.length then 2 else 0) (ringRec s1 (slotOff n o))
                { id := s.nextFlit + i, dst := m, step := n, gone := false, gt := s.gt, late := 0, msg := .answer a })))
    ∧ (∀ req : BitVec 1024, reqWin s = none → bits req.toNat 32 16 < 512 →
      exec (.gapRequestArrival req) s = .next (s.say (.ack (ackPort s (bits req.toNat 32 16)) (bits req.toNat 32 16) false)))
    ∧ (∀ rep : BitVec 512, let n := bits rep.toNat 256 32
        (rep.getLsbD 320 = false → (rep.extractLsb' 0 256 : BitVec 256) ≠ 0 → bits rep.toNat 288 16 < 512 →
          exec (.gapReplyArrival rep) s = .next (sayAck (ringArrive s (slotOff n (bits rep.toNat 288 16)) (rep.extractLsb' 0 256) none) (bits rep.toNat 304 16 % 512) true))
        ∧ (rep.getLsbD 320 = true → x.step? n = some k → ∃ s' k', exec (.gapReplyArrival rep) s = .next s' ∧ s'.sorus.step? n = some k' ∧ k'.notRet = true ∧ SameMemory s s'))
    ∧ (∀ v : BitVec 64, ∃ s', exec (.sorfirstWrite v) s = .next s'
      ∧ s'.sorus = { x with first := v.setWidth 32, last := v.setWidth 32 - 1, steps := [], spored := [] }
      ∧ ∀ base, ringBase s = some base → ∀ a, getByte s'.hbm a = if base ≤ a ∧ a < base + 0x4020000 then 0 else getByte s.hbm a)

/-- R253 to R257, R293: a packet passes, is refused, or lands: its operation on the landing block granule by granule, then it is counted and acknowledged or
goes on, the acknowledgement by the reverse route; a packet of an instance departs in a slot of port ROUTE[0]; acknowledgements and finish counts are counted;
a COLL without a core issues its instance, or holds; its time-out, and the one of COLLW.
The generation that a packet means and when finish counts go out are the model's readings (log 41, log 42). -/
def Obligations.CollectiveEvents : Prop := ∀ (s : State) (part : Nat), alive s = true →
  (∀ p : CollPacket,
      let r := s.rxWin p.lwin
      let off := p.loff + p.gen % 2 * p.lhalf + 64 * p.block
      let op := (p.ops.extractLsb' 0 4).toNat
      let Takes : Prop := r.state = 1 ∧ rxAllows s r p.src = true ∧ off + 64 ≤ r.size
      (op = 1 → p.hops ≠ 0 → exec (.collPacketArrival p) s
          = .next (s.say (.packet (p.route.extractLsb' 0 4).toNat { p with hops := p.hops - 1, ops := p.ops >>> 4, route := p.route >>> 4, back := p.back <<< 4 ||| (p.route.extractLsb' 0 4).setWidth 32 })))
        ∧ ((op = 0 ∨ 8 ≤ op ∨ (op ≠ 1 ∧ ¬ Takes)) → exec (.collPacketArrival p) s = .next s)
        ∧ (2 ≤ op → op ≤ 7 → Takes → isRing s p.lwin = false → exec (.collPacketArrival p) s = .next { s with landings := s.landings ++
            [{ src := p.src, path := 2 ^ 21 + p.cid, rx := p.lwin, part := r.part, ack := false, base := rxPlace r off 0, mask := BitVec.allOnes 64, data := p.data,
               order := [0, 1, 2, 3], coll := some p }] }))
    ∧ (∀ n l p g rest a, s.landings[n]? = some l → (∀ m ∈ s.landings.take n, ¬ (m.src = l.src ∧ m.path = l.path) ∧ ¬ (m.coll.isSome = true ∧ m.base = l.base)) →
      l.coll = some p → l.order = g :: rest → g < 4 → l.base = .hbm a → s.poison = [] → s.errs = [] →
      let op := (p.ops.extractLsb' 0 4).toNat
      let word (k : Nat) : Nat :=
        let old := partNat s (a + 4 * k) 4
        let new := bits l.data.toNat (32 * k) 32
        if op = 2 then new else if op = 3 ∨ op = 4 then (addRne fp32 old new).1 else if op = 5 then (old + new) % 2 ^ 32 else fMinMax fp32 (decide (op = 6)) old new
      ∃ s' data, turnLand n s = .next s' ∧ (∀ k, s'.core k = s.core k)
        ∧ (∀ x, ¬ (a + 16 * g ≤ x ∧ x < a + 16 * g + 16) → getByte s'.hbm x = getByte s.hbm x)
        ∧ (∀ i, i < 4 → partNat s' (a + 4 * (4 * g + i)) 4 = word (4 * g + i))
        ∧ (∀ k, k < 16 → bits data 0 512 = data ∧ bits data (32 * k) 32 = if op = 4 ∧ k / 4 = g then word k else bits l.data.toNat (32 * k) 32)
        ∧ (rest ≠ [] → s'.landings = s.landings.set n { l with order := rest, data := BitVec.ofNat 512 data } ∧ s'.out = s.out ∧ s'.parts = s.parts)
        ∧ (rest = [] → s'.landings = s.landings.eraseIdx n
          ∧ s'.out.getLast? = some (if p.hops = 0 then .packetAck ((p.back.extractLsb' 0 4) ^^^ 2).toNat (p.back >>> 4) p.src p.cid p.gen
              else .packet (p.route.extractLsb' 0 4).toNat
                { p with hops := p.hops - 1, ops := p.ops >>> 4, route := p.route >>> 4, back := p.back <<< 4 ||| (p.route.extractLsb' 0 4).setWidth 32, data := BitVec.ofNat 512 data })
          ∧ ∀ c, (s.part l.part).collCid? p.cid = some c → ∃ c', (s'.part l.part).coll? c.addr = some c'
            ∧ Sparse.get 0 c'.applied (c.genOf p.gen) = Sparse.get 0 c.applied (c.genOf p.gen) + 1))
    ∧ (∀ n x port, (s.part part).collSends[n]? = some x → (∀ y ∈ (s.part part).collSends.take n, y.addr ≠ x.addr) → wheelOpen s 32 part = true →
      port = cPort x.desc 0 → slotAt s (cSlots x.desc) port = true → s.ready.getLsbD (6 + port) = true →
      ∃ s', turnPacket part n port s = .next s' ∧ SameMemory s s' ∧ s'.out = s.out ++ [Msg.packet port (sendPacket s x x.next)]
        ∧ (s'.part part).collSends = if x.next + 1 < cBlocks x.desc then (s.part part).collSends.set n { x with next := x.next + 1 } else (s.part part).collSends.eraseIdx n)
    ∧ (∀ cid gen c, (s.part part).collCid? cid = some c → c.genOf gen < c.issued → Sparse.get 0 c.acked (c.genOf gen) < cBlocks c.desc →
      ∃ s' c', exec (.collPacketAck part cid gen) s = .next s' ∧ (s'.part part).coll? c.addr = some c'
        ∧ Sparse.get 0 c'.acked (c.genOf gen) = Sparse.get 0 c.acked (c.genOf gen) + 1)
    ∧ (∀ cid c member count i, (s.part part).collCid? cid = some c → c.mlist.idxOf? member = some i →
      ∃ s' c', exec (.collFinishCount part cid member count) s = .next s' ∧ (s'.part part).coll? c.addr = some c'
        ∧ Sparse.get 0 c'.fin i = max count (Sparse.get 0 c.fin i))
    ∧ (∀ n x t c pick, (s.part part).collPend[n]? = some x → x.late = none → (∀ y ∈ (s.part part).collPend.take n, y.late = none → y.addr ≠ x.addr) →
      s.task? x.core x.bank = some t → (s.part part).coll? x.addr = some c →
      (membersReady s c c.issued = false → turnColl part n pick s = .next { s with pick := none })
        ∧ ∀ r, membersReady s c c.issued = true → readAs (pendReader part n) x.core t Ranges.ownHbm 64 (cBlocks c.desc) (cSrc c.desc) { s with pick := pick } = .ok r →
          ∃ s' c', turnColl part n pick s = .next s' ∧ SameMemory r.1 s' ∧ (s'.part part).coll? x.addr = some c' ∧ c'.issued = c.issued + 1 ∧ c'.desc = c.desc
            ∧ (s'.part part).collPend = (r.1.part part).collPend.eraseIdx n
            ∧ (s'.part part).collSends = (r.1.part part).collSends ++ [{ addr := x.addr, desc := c.desc, gen := c.issued, next := 0, bytes := r.2 }])
    ∧ (∀ n x j, (s.part part).collPend.findIdx? (fun x => x.late.isNone) = some n → (s.part part).collPend[n]? = some x → x.sinceGt + ((s.part part).csrVal 0x103).toNat ≤ s.gt → freeSlot (s.part part) = some j →
      s.populated (tqBase s (s.part part) + 128 * j) 128 = true →
      ∃ s', exec (.collOverrun (512 + part)) s = .next s' ∧ (s'.part part).collPend = (s.part part).collPend.eraseIdx n ∧ s'.out = s.out ++ [Msg.interrupt part j]
        ∧ (∃ e, (s'.part part).tq = (s.part part).tq ++ [e] ∧ e.slot = j ∧ e.noTask = true)
        ∧ (Sparse.get Barrier.reset (s'.part part).bars x.bar).arm ≠ some x.addr
        ∧ ∀ b, b ≠ x.bar → Sparse.get Barrier.reset (s'.part part).bars b = Sparse.get Barrier.reset (s.part part).bars b)
    ∧ (∀ n x j, (s.part part).collPend.findIdx? (fun x => x.late.isSome) = some n → (s.part part).collPend[n]? = some x → freeSlot (s.part part) = some j → lateBelow s part 512 = false →
      s.populated (tqBase s (s.part part) + 128 * j) 128 = true →
      ∃ s', exec (.lateTrapRecord (512 + part) 0) s = .next s' ∧ (s'.part part).collPend = (s.part part).collPend.eraseIdx n
        ∧ s'.out = s.out ++ [Msg.interrupt part j] ∧ (Sparse.get Barrier.reset (s'.part part).bars x.bar).arm ≠ some x.addr)
    ∧ (∀ core y o k c, let st := turnOf s core .c
        let t := st.here
        let g := c.issued - 1
        let missing := (cExpect c.desc - Sparse.get 0 c.applied g) + (cBlocks c.desc - Sparse.get 0 c.acked g)
        onTurn s core .c = some st → (s.part t.part).coll? (addrC t.c o) = some c → c.done < c.issued → missing ≠ 0 →
        c.issuedGt + ((s.part t.part).csrVal 0x103).toNat ≤ s.gt →
        let t2 := withReg st t o.sd.toNat (BitVec.ofNat 64 (1 + 2 ^ 32 * missing))
        (fetchInstr st core .c t = .run (.collw y o) → Resumes st (.collw y o) y k →
            ∃ t', exec (.collwTimeout core) s = .next (st.setTask core (s.bankOf core) (some t')) ∧ bareTask t' .c = bareTask t2 .c ∧ t'.c.pc = t.c.pc + 8)
          ∧ (fetchInstr st core .c t = .run (.collwRetire y o) → Resumes st (.collwRetire y o) y k →
            ∃ s' t', exec (.collwTimeout core) s = .next s' ∧ s'.task? core (s.bankOf core) = some t' ∧ bareTask t' .c = bareTask t2 .c ∧ t'.c.pc = t.c.pc + 8
              ∧ (s'.part t.part).coll? (addrC t.c o) = none))

/-! ### Events from outside -/

/-- R86, R93 to R95, R234, R236 to R238, R344, R356: what changes GT and its lock, refresh, errors that come to be, a read that corrects or poisons a line, and the patrol scrubber.
R7, R15, R320, R346, R347, R349, R350: the host's reads and writes of memory and of BAR0, drive DMA, the writes of registers, keys. That the module number and the
shape of the domain are set before a partition exists (log 81), that the pending slew goes with the lock (log 45), that symbols in error are counted by line
(log 23), and that the host gets the bytes of a line that cannot be corrected (log 83), are the model's readings. -/
def Obligations.TimeAndHostEvents : Prop :=
  (∀ (s : State), alive s = true →
    let d (line : Nat) : Nat := line * 64 / 2 ^ 37
    let stat (line : Nat) : Word := Sparse.get 1 s.eccstat (d line)
    (s.timedisc = false →
        (∀ corr, exec (.timingMessage corr) s = .next { s with slew := s.slew + corr })
          ∧ (∀ jump, s.lockedOnce = false → exec (.timelockReady jump) s = .next { s with timelock := true, lockedOnce := true, gt := (s.gt + jump) % 2 ^ 64 })
          ∧ (∀ jump, s.lockedOnce = true → exec (.timelockReady jump) s = .next { s with timelock := true })
          ∧ exec .timelockLost s = .next { s with timelock := false, slew := 0 })
      ∧ (s.timedisc = true → exec .gtadjSetLock s = .next { s with timelock := true, lockedOnce := true }
        ∧ exec .gtadjClearLock s = .next { s with timelock := false }
        ∧ ∀ adj : BitVec 32, exec (.gtadjCorrection adj) s = .next { s with slew := s.slew + adj.toInt })
      ∧ (∀ stack, exec (.hbmRefresh stack) s = .next s)
      ∧ (∀ line, exec (.patrolScrub line .clean) s = .next s)
      ∧ (∀ line, s.populated (64 * line) 64 = true → Sparse.get 0 s.errs line % 4 = 1 →
        (∃ s', exec (.patrolScrub line (.correctable false)) s = .next s' ∧ SameMemory s s' ∧ s'.poison = s.poison ∧ Sparse.get 0 s'.errs line = 0
            ∧ Sparse.get 1 s'.eccstat (d line) = stat line ||| 2)
          ∧ (∃ s', exec (.patrolScrub line (.correctable true)) s = .next s' ∧ SameMemory s s' ∧ s'.poison = s.poison ∧ s'.errs = s.errs))
      ∧ (∀ line, s.populated (64 * line) 64 = true → (Sparse.get 0 s.errs line % 4 = 2 ∨ Sparse.get 0 s.poison line ≠ 0) →
        ∃ s', exec (.patrolScrub line .uncorrectable) s = .next s' ∧ SameMemory s s' ∧ Sparse.get 0 s'.poison line ≠ 0
          ∧ s'.out = s.out ++ [Msg.mgmtInterrupt 2] ∧ Sparse.get 1 s'.eccstat (d line) = ((stat line ||| 4) &&& ~~~ (0x1FFFFFFFFC0 : Word)) ||| BitVec.ofNat 64 (64 * line))
      ∧ (∀ line n, s.populated (64 * line) 64 = true → n ≠ 0 → Sparse.get 0 s.poison line = 0 →
        turnLineUpset line n s = .next { s with errs := Sparse.set 0 line (min 2 (Sparse.get 0 s.errs line % 4 + n)) s.errs })
      ∧ (∀ a n line, Sparse.get 0 s.errs line % 4 = 1 → line * 64 < a + n → a < line * 64 + 64 → (correctAt s (.hbm a) n).hbm = s.hbm
        ∧ (Sparse.get 1 (correctAt s (.hbm a) n).eccstat (d line)).getLsbD 1 = true)
      ∧ (∀ port, port < 12 → turnFecDiscard port s = .next { s with portDrop := Sparse.set 0 port (Sparse.get 0 s.portDrop port + 1) s.portDrop })
      ∧ (∀ core k, core < 512 → 8 * k < 0x800000 → ∃ s', turnWordUpset (.spad core k) s = .next s' ∧ k ∈ (s'.core core).spadBad ∧ SameMemory s s')
      ∧ (∀ core bank r k t, r < 1024 → k < 32 → s.task? core bank = some t → .v r k ∉ t.bad →
        turnWordUpset (.v core bank r k) s = .next (s.setTask core bank (some { t with bad := t.bad ++ [.v r k] })))
      ∧ (∀ core bank i t, i < t.fq.length → s.task? core bank = some t → .fq i ∉ t.bad →
        turnWordUpset (.fq core bank i) s = .next (s.setTask core bank (some { t with bad := t.bad ++ [.fq i] })))
      ∧ (∀ core bank a b k flip t, a < 4 → b < 2 → k < 16384 → s.task? core bank = some t → ∃ s' t', turnWordUpset (.acc core bank a b k flip) s = .next s'
        ∧ s'.task? core bank = some t' ∧ (t'.accBank a b).check = { t.accBank a b with elems := (t'.accBank a b).elems }.check
        ∧ (Sparse.get ⟨0, 0⟩ (t'.accBank a b).elems k).v = (Sparse.get ⟨0, 0⟩ (t.accBank a b).elems k).v ^^^ flip))
    ∧ (∀ (s : State), alive s = true →
    (∀ off len, hostUp s = true → hostRefused s off len = true → exec (.bar2Read off len) s = .next (s.say (.hostRead false [])))
      ∧ (∀ off len, hostUp s = true → hostRefused s off len = false → ∃ s', exec (.bar2Read off len) s = .next s' ∧ SameMemory s s'
        ∧ s'.out = s.out ++ [Msg.hostRead true (getBytes s.hbm off len)]
        ∧ ∀ line, line * 64 < off + len → off < line * 64 + 64 → let d := line * 64 / 2 ^ 37
          (Sparse.get 0 s.errs line % 4 = 1 → Sparse.get 0 s'.errs line = 0 ∧ (Sparse.get 1 s'.eccstat d).getLsbD 1 = true)
            ∧ (Sparse.get 0 s.errs line % 4 = 2 → Sparse.get 0 s'.poison line = 15 ∧ (Sparse.get 1 s'.eccstat d).getLsbD 2 = true))
      ∧ (∀ off bs, hostUp s = true → hostRefused s off bs.length = true → exec (.bar2Write off bs) s = .next { s with hostdrop := s.hostdrop + 1 })
      ∧ (∀ off bs, s.poison = [] → s.errs = [] →
        let Writes (ev : Instr) : Prop := ∃ s', exec ev s = .next s' ∧ s'.cores = s.cores
          ∧ ∀ a, getByte s'.hbm a = if off ≤ a ∧ a < off + bs.length then bs.getD (a - off) 0 else getByte s.hbm a
        (hostUp s = true → hostRefused s off bs.length = false → Writes (.bar2Write off bs))
          ∧ (s.populated off bs.length = true → Writes (.driveDma off bs)))
      ∧ (∀ off bs, s.populated off bs.length = false → exec (.driveDma off bs) s = .fault (.absentMemory off))
      ∧ (hostUp s = true → ∀ v : BitVec 256, let w : Word := v.setWidth 64
        exec (.registerWrite (.bar0 0x18) v) s = .next { s with hostdrop := s.hostdrop &&& ~~~ w }
          ∧ (∀ i, i < 8 → exec (.registerWrite (.bar0 (0x100 + 8 * i)) v) s = .next { s with hostbox := Sparse.set 0 i w s.hostbox })
          ∧ exec (.registerWrite (.bar0 0x140) v) s = mailCommand true s
          ∧ (∀ first, first < 64 → exec (.registerWrite (.bar0 (0x10000 + 0x100 * first)) v) s = exec (.lqtailWrite first (w.setWidth 32)) s)
          ∧ (exec (.registerWrite (.bar0 0x10) v) s = .next (if (s.bootstat.extractLsb' 0 4).toNat = 1 then
              { s with bootstat := (w &&& ~~~ (0xFFFF : Word)) ||| (s.bootstat &&& 0xFFFF) } else s))
          ∧ exec (.registerWrite (.bar0 0) v) s = .next s ∧ exec (.registerWrite (.bar0 8) v) s = .next s)
      ∧ (hostUp s = true → let Reads (off : Nat) (w : Word) : Prop := turnBar0Read off s = .next (s.say (.hostRead true (leBytes 8 w.toNat)))
        Reads 0 (readyView s) ∧ Reads 8 s.ready1 ∧ Reads 0x10 s.bootstat ∧ Reads 0x18 s.hostdrop ∧ (∀ i, i < 8 → Reads (0x100 + 8 * i) (Sparse.get 0 s.hostbox i))
          ∧ (∀ first, first < 64 → Reads (0x10008 + 0x100 * first) (s.part first).lqstat) ∧ Reads 0x140 0)
      ∧ (∀ v : BitVec 256, exec (.registerWrite .mbdoor v) s = mailCommand false s
        ∧ exec (.registerWrite .hostDrop v) s = .next { s with hostdrop := s.hostdrop &&& ~~~ (v.setWidth 64) })
      ∧ (∀ host, (mailRuns s.mailbox = true ∨ mailRuns s.hostbox = true) → mailCommand host s = .next s)
      ∧ (mailRuns s.mailbox = false → mailRuns s.hostbox = false → ∀ host,
        let op (k : Nat) : Nat := (Sparse.get 0 (if host then s.hostbox else s.mailbox) k).toNat
        ∀ c i, op 0 % 256 = c → (c, i) ∈ [(1, Instr.regpart (op 1) (op 2) (op 3) host), (2, .regtq (op 1) (op 2) host), (3, .cut (op 1) (op 2) host),
            (4, .readbank (op 1) (op 2) (op 3) host), (5, .endlaunch (op 1) host), (6, .submit (op 1) (op 2) host)] → mailCommand host s = exec i s)
      ∧ (∀ i v, i < 8 → exec (.registerWrite (.mailbox i) v) s = .next { s with mailbox := Sparse.set 0 i (v.setWidth 64) s.mailbox })
      ∧ (∀ v : BitVec 256, let w : Word := v.setWidth 64
        ((∀ e ∈ s.parts, e.2.present = false) →
            (w.toNat < 512 → exec (.registerWrite .moduleNumber v) s = .next { s with modNum := w.toNat })
              ∧ ((∀ k, k ∈ [0, 4, 8] → 1 ≤ bits w.toNat k 4 ∧ bits w.toNat k 4 ≤ 8) → w.toNat < 2 ^ 12 → exec (.registerWrite .domainShape v) s = .next { s with domshape := w }))
          ∧ ((∃ e ∈ s.parts, e.2.present = true) → exec (.registerWrite .moduleNumber v) s = .next s ∧ exec (.registerWrite .domainShape v) s = .next s))
      ∧ (∀ wheel pos v, wheel < 33 → pos < 64 → exec (.registerWrite (.slotWheel wheel pos) v) s
          = .next { s with wheels := Sparse.set 0 (wheel * 64 + pos) (if wheel < 16 ∧ 62 ≤ pos then v.setWidth 8 &&& 0x3F else v.setWidth 8 &&& 0xBF) s.wheels })
      ∧ (∀ set v, set < 64 → exec (.registerWrite (.slotOwner set) v) s = .next { s with slotOwner := Sparse.set 0 set (v.setWidth 8 &&& 0xBF) s.slotOwner })
      ∧ (∀ set port k v, set < 64 → port < 12 → k < 4 →
        exec (.registerWrite (.slotMask set port k) v) s = .next { s with slotMask := Sparse.set 0 ((set * 12 + port) * 4 + k) (v.setWidth 64) s.slotMask })
      ∧ (∀ core num v, core < 512 → 0x140 ≤ num.toNat → num.toNat ≤ 0x14F → exec (.registerWrite (.coreCsr core num) v) s
          = .next (s.setCore core { s.core core with wheel := Sparse.set 0 (num.toNat - 0x140) (v.setWidth 64) (s.core core).wheel }))
      ∧ (∀ core bank entry v t, core < 512 → bank < 2 → entry < 32 → s.task? core bank = some t → t.hold ≠ .none →
        exec (.registerWrite (.extent core bank entry) v) s
          = .next (s.setTask core bank (some { t with extents := Sparse.set Extent.reset entry (extentOf v) t.extents })))
      ∧ (∀ core bank entry v t, bank < 2 → s.task? core bank = some t → t.hold = .none → exec (.registerWrite (.extent core bank entry) v) s = .next s)
      ∧ (∀ core bank entry v e x, core < 512 → bank < 2 → entry < 32 → e ∈ s.parts → x ∈ e.2.saved → x.core = core → x.bank = bank →
        ∃ s' e' x', exec (.registerWrite (.extent core (bank + 2) entry) v) s = .next s' ∧ e' ∈ s'.parts ∧ e'.1 = e.1 ∧ x' ∈ e'.2.saved
          ∧ x' = { x with extents := Sparse.set Extent.reset entry (extentOf v) x.extents } ∧ s'.cores = s.cores)
      ∧ (∀ stream key, hostUp s = true → exec (.spdmMessage stream key) s = .next { s with ide := Sparse.set 0 stream key s.ide }))

/-- R351 to R355, R357 to R359: reset, boot and its measurements, the attestation report, functions that become ready, supplies, islands and heat. That GT and READY are 0, that no
memory byte is listed and that no partition or window is left after a loss of state are the model's choices (log 4, log 5, log 48), and so is that a reset under
supplies keeps the module number and the shape of the domain, which a loss of power loses (log 48); the order and the widths of the attestation report are
the model's readings (log 47). -/
def Obligations.BootAndSupplies : Prop := ∀ (s : State), alive s = true →
  let Lost (ev : Instr) (on trip keeps : Bool) : Prop := ∃ s', exec ev s = .next s' ∧ s'.hbm = [] ∧ s'.cores = [] ∧ s'.parts = [] ∧ s'.ready = 0 ∧ s'.ready1 = 0
    ∧ s'.modNum = (if keeps then s.modNum else State.reset.modNum) ∧ s'.domshape = (if keeps then s.domshape else State.reset.domshape)
    ∧ s'.gt = 0 ∧ s'.tx = [] ∧ s'.rx = [] ∧ s'.flits = [] ∧ s'.sorus = Sorus.reset ∧ s'.pwrok = on ∧ s'.thermtrip = trip
  (∀ image ok, Lost (.moduleReset true image ok) s.pwrok s.thermtrip true)
    ∧ (∀ image ok s', exec (.moduleReset true image ok) s = .next s' → s'.bootstat = 1 ∧ s'.bootsrc = true)
    ∧ (∀ image, ∃ s', exec (.moduleReset false image false) s = .next s' ∧ s'.bootstat = 0x10F)
    ∧ (∀ addr image ok, (s.bootstat.extractLsb' 0 4).toNat = 1 →
      (ok = false → ∃ s', exec (.bootHostBuffer addr image ok) s = .next s' ∧ s'.bootstat.extractLsb' 0 16 = 0x10F#16 ∧ s'.out = s.out)
        ∧ (ok = true → Config.headerGood image = false →
          ∃ s', exec (.bootHostBuffer addr image ok) s = .next s' ∧ s'.bootstat.extractLsb' 0 16 = 0x40F#16 ∧ s'.out = s.out ∧ s'.meas = s.meas)
        ∧ (ok = true → Config.headerGood image = true → Config.sm2Verifies image = true → Config.imageVersion image < Config.rollbackVersion →
          ∃ s', exec (.bootHostBuffer addr image ok) s = .next s' ∧ s'.bootstat.extractLsb' 0 16 = 0x30F#16 ∧ s'.out = s.out ∧ s'.meas = s.meas)
        ∧ (ok = true → Config.headerGood image = true → Config.sm2Verifies image = true → Config.rollbackVersion ≤ Config.imageVersion image →
          ∃ s', exec (.bootHostBuffer addr image ok) s = .next s' ∧ s'.bootstat.extractLsb' 0 16 = 3#16 ∧ s'.out = s.out ++ [Msg.bootJump]
            ∧ Sparse.get 0 s'.meas 0 = sm3Word (leBytes 32 (Sparse.get 0 s.meas 0).toNat ++ sm3 (Config.imageBody image)))
        ∧ (ok = true → Config.headerGood image = true → Config.sm2Verifies image = false →
          ∃ s', exec (.bootHostBuffer addr image ok) s = .next s' ∧ s'.bootstat.extractLsb' 0 16 = 0x20F#16 ∧ s'.out = s.out ∧ s'.meas = s.meas))
    ∧ (∀ i v, 1 ≤ i → i ≤ 7 → exec (.registerWrite (.measure i) v) s
      = .next { s with meas := Sparse.set 0 i (sm3Word (leBytes 32 (Sparse.get 0 s.meas i).toNat ++ leBytes 32 v.toNat)) s.meas })
    ∧ (∀ nonce, s.ready.getLsbD 5 = true → ∃ bs, exec (.attestationReport nonce) s = .next (s.say (.report bs (Config.sm2Sign bs)))
      ∧ bs = leBytes 32 nonce.toNat ++ (List.range 8).flatMap (fun i => leBytes 32 (Sparse.get 0 s.meas i).toNat) ++ leBytes 8 Config.rollbackVersion
        ++ (s.parts.filter (fun e => e.2.present)).flatMap (fun e => leBytes 32 e.2.chainhd.toNat) ++ leBytes 8 s.modNum)
    ∧ (∀ rail, 1 ≤ rail → rail ≤ 5 → Lost (.railLoss rail) false s.thermtrip false)
    ∧ (∀ die, die < 18 → Lost (.thermtrip die) s.pwrok true false)
    ∧ (∀ (s1 : State) cycles ns, s1.thermtrip = true → runTurn (.clock cycles ns) s1 = .next s1)
    ∧ exec .pwrok s = .next s
    ∧ (∀ s1 : State, s1.pwrok = false → exec .pwrok s1 = .next { s1 with rails := [], pwrok := true, thermtrip := false })
    ∧ (∀ island f, island < 32 → islandTimed s island = false → exec (.islandFrequencyChange island f) s = .next { s with island := Sparse.set 940 island f s.island })
    ∧ (∀ island f, islandTimed s island = true → exec (.islandFrequencyChange island f) s = .next s)
    ∧ (∀ island v, island < 32 → islandTimed s island = false →
      exec (.registerWrite (.islandVoltage island) v) s = .next { s with volt := Sparse.set 0 island ((v.setWidth 64 : Word).toNat) s.volt })
    ∧ (∀ island v, islandTimed s island = true → exec (.registerWrite (.islandVoltage island) v) s = .next s)
    ∧ (∀ die f, die < 18 → ∃ s', exec (.thermalThrottle die f) s = .next s' ∧ s'.out = s.out ++ [Msg.mgmtInterrupt 3] ∧ SameMemory s s'
      ∧ (die < 16 → islandTimed s (2 * die) = false → f < Sparse.get 940 s.island (2 * die) → Sparse.get 940 s'.island (2 * die) = f))
    ∧ (∀ p, p < 12 → exec (.functionReady (.port p)) s = .next { s with ready := s.ready ||| BitVec.ofNat 64 (2 ^ (6 + p)) })
    ∧ (∀ d, d < 16 → exec (.functionReady (.stack d)) s = .next { s with ready := s.ready ||| BitVec.ofNat 64 (2 ^ (18 + d)) })
    ∧ (∀ c, c < 64 → exec (.functionReady (.cluster c)) s = .next { s with ready1 := s.ready1 ||| BitVec.ofNat 64 (2 ^ c) })
    ∧ exec (.functionReady .host) s = .next { s with ready := s.ready ||| 2 }
    ∧ ((s.bootstat.extractLsb' 0 4).toNat = 3 → exec (.functionReady .mgmt) s = .next { s with ready := s.ready ||| 1 })

/-- R309 to R319, R203, R348, R350: the host's tail write, the taking of an entry, SUBMIT and ENDLAUNCH (of the lowest partition that has the launch: log 25); a launch is
prepared, starts its task on a core with the values of its descriptor, the digest units read its ranges in their positions, and its record becomes final in the
ring with the chain. That a full queue answers 6 before the descriptor is checked, and that SUBMIT of one in memory that is not populated answers 1, are
the model's choices (log 88). -/
def Obligations.LaunchEvents : Prop := ∀ (s : State) (part : Nat) (l : Launch), alive s = true → (s.part part).present = true →
  let p := s.part part
  let d := l.desc
  let head := blk s part 12 4
  let len := blk s part 8 4
  let tail := blk s part 16 4
  (∀ tail : BitVec 32, len < (tail.toNat + 2 ^ 32 - head) % 2 ^ 32 →
      ∃ s', exec (.lqtailWrite part tail) s = .next s' ∧ SameMemory s s' ∧ (s'.part part).launches = p.launches
        ∧ bits (s'.part part).lqstat.toNat 0 8 = 6 ∧ bits (s'.part part).lqstat.toNat 48 16 = (bits p.lqstat.toNat 48 16 + 1) % 2 ^ 16)
    ∧ (∀ tail : BitVec 32, (tail.toNat + 2 ^ 32 - head) % 2 ^ 32 ≤ len → exec (.lqtailWrite part tail) s = .next (takeQueue (setBlk s part 16 4 tail.toNat) part))
    ∧ (lqCount s part = 0 ∨ cpFree p = false → takeQueue s part = s)
    ∧ (∀ k, lqCount s part = k + 1 → cpFree p = true → p.lqOwn = [] →
      let slot := head % max 1 len
      let r := submitDesc (setBlk s part 12 4 (head + 1)) part (BitVec.ofNat 2048 (partNat s (blk s part 0 8 + 256 * slot) 256)) (some 0) false false 0
      takeQueue s part = takeEntries k (if r.2.getLsbD 63 then noteRefusal r.1 part slot (r.2.toNat % 256) else r.1) part)
    ∧ (∀ desc, mailRuns s.mailbox = false → mailRuns s.hostbox = false →
      ∃ s', exec (.submit part desc true) s = .next s' ∧ Sparse.get 0 s'.hostbox 0 = BitVec.ofNat 64 (6 + 256 * 4) ∧ s'.mailbox = s.mailbox ∧ s'.parts = s.parts)
    ∧ (∀ desc, mailRuns s.mailbox = false → mailRuns s.hostbox = false →
      let Refuses (code : Nat) : Prop := ∃ s', exec (.submit part desc false) s = .next s' ∧ Sparse.get 0 s'.mailbox 0 = 6
        ∧ Sparse.get 0 s'.mailbox 3 = BitVec.ofNat 64 (2 ^ 63 + code) ∧ s'.parts = s.parts
      let a := blk s part 0 8 + 256 * (tail % max 1 len)
      (s.populated desc 256 = false → Refuses 1) ∧ (s.populated desc 256 = true → len ≤ lqCount s part → Refuses 6)
        ∧ (s.populated desc 256 = true → lqCount s part = 0 → 0 < len → cpFree p = true → p.lqOwn = [] → s.poison = [] → s.errs = [] →
          (p.block + 128 ≤ a ∨ a + 256 ≤ p.block) →
          let r := submitDesc s part (BitVec.ofNat 2048 (partNat s desc 256)) (some 0) false true 0
          ∃ s', exec (.submit part desc false) s = .next s' ∧ Sparse.get 0 s'.mailbox 0 = 6 ∧ Sparse.get 0 s'.mailbox 3 = r.2
            ∧ (s'.part part).launches = (r.1.part part).launches ∧ blk s' part 16 4 = (tail + 1) % 2 ^ 32 ∧ blk s' part 12 4 = (head + 1) % 2 ^ 32))
    ∧ (p.launches.find? (fun m => m.stage == .accepted) = some l → p.launch? l.id = some l → (dCount d = 0 ∨ p.resv.length < 64) →
      let hit : Bool := decide (dCount d ≠ 0) && overlaps p l
      (hit = true → dOverlap d ≠ 2) →
      ∃ s' l', exec (.launchPrepare part) s = .next s' ∧ (s'.part part).launch? l.id = some l' ∧ l'.slot = blk s part 52 4
        ∧ (l'.stage = .prepared ∨ (l'.stage = .over ∧ l'.status ≠ 0)) ∧ l'.desc = d ∧ l'.ovlp = (hit && decide (dOverlap d = 1)))
    ∧ (∀ core b, p.launch? l.id = some l → freeBank (s.core core) = some b → p.stopped = false → core ∈ coresOf part p →
      core ∉ l.coresStarted → gate p l = true → displacedFirst p core l = false →
      let rank := core - 8 * part
      let cores := 8 * 2 ^ p.size
      let Entry (u : Seq) (o k : Nat) : Prop := u.regs = [] ∧ u.pc = BitVec.ofNat 48 (dF d o 8)
        ∧ u.stream = if dF d o 8 = 0 then .ended else if o ≠ 0 ∧ (dTimed d = true ∨ (dF d 68 4).testBit k = true) then .held else .running
      ∃ s' t l', exec (.launchStart part l.id core) s = .next s' ∧ s'.task? core b = some t ∧ SameMemory s s'
        ∧ t.part = part ∧ t.launch = l.id ∧ t.rank = rank ∧ t.prio = dPrio d ∧ t.priv = dPriv d ∧ t.timed = dTimed d ∧ t.hold = .none
        ∧ Entry t.c 0 0 ∧ Entry t.t 8 7 ∧ Entry t.v 16 8 ∧ Entry t.m 24 9
        ∧ t.paramb = BitVec.ofNat 64 (dF d 32 8) ∧ t.key = BitVec.ofNat 64 (dF d 40 8) ∧ t.sbase = BitVec.ofNat 64 (dF d 64 4) ∧ t.cbase = l.cbase ∧ t.extents = l.extents
        ∧ t.tfirst = BitVec.ofNat 32 (rank * dTiles d / cores) ∧ t.tend = BitVec.ofNat 32 ((rank + 1) * dTiles d / cores)
        ∧ (∀ i, i < 16 → Sparse.get 0 t.opbase i = if dNpg d i = 0 then 0 else BitVec.ofNat 64 (Config.hbmBase + dPage d i * 4096))
        ∧ t.vreg = [] ∧ t.acc = [] ∧ t.tok = []
        ∧ (s'.part part).launch? l.id = some l' ∧ l'.stage = .started ∧ l'.coresStarted = l.coresStarted ++ [core])
    ∧ (p.launches.find? (fun m => m.stage != .final) = some l → p.launch? l.id = some l → l.stage = .over → l.toRead = [] → signs p l = false → s.poison = [] → s.errs = [] →
      ∃ s' l' bs, exec (.launchRecordFinal part) s = .next s' ∧ (s'.part part).launch? l.id = some l' ∧ l'.stage = .final ∧ bs.length = 128
        ∧ getBytes s'.hbm (recordAddr s part l) 128 = bs
        ∧ bs.take 16 = leBytes 8 (l.id % 2 ^ 48) ++ leBytes 8 (part + 64 * p.size)
        ∧ (bs.drop 16).take 8 = leBytes 8 (l.status + 2 ^ 8 * bits (dF d 68 4) 0 2 + 2 ^ 10 * dPrio d + (if l.ovlp then 2 ^ 12 else 0) + (if l.keychg then 2 ^ 13 else 0)
            + (if l.child then 2 ^ 14 else 0) + (if l.preempted then 2 ^ 16 else 0))
        ∧ (bs.drop 24).take 24 = leBytes 8 (dF d 40 8) ++ leBytes 8 l.cbase.toNat ++ leBytes 8 (dCount d)
        ∧ (l.dccStart ≠ 0 → l.coresStarted ≠ [] → (bs.drop 48).take 16 = leBytes 8 (l.dccStart - 1) ++ leBytes 8 l.dccEnd.toNat)
        ∧ (bs.drop 64).take 32 = leBytes 32 (l.digest.getD 0).toNat ∧ bs.drop 96 = leBytes 32 p.prev.toNat
        ∧ (s'.part part).prev = sm3Word bs ∧ (s'.part part).chainhd = if (p.csrVal 0x108).getLsbD 5 then p.chainhd else sm3Word bs)
    ∧ (p.launches.find? (fun m => m.stage != .final) = some l → l.toRead ≠ [] → exec (.launchRecordFinal part) s = .next s)
    ∧ (∀ range, p.launch? l.id = some l → range ∈ l.toRead → wheelOpen s (16 + range % 16) part = true →
      ∃ s', turnDigest part l.id range s = .next s' ∧ SameMemory s s' ∧ (s'.part part).launch? l.id = some { l with toRead := l.toRead.filter (fun k => k != range) }
        ∧ ∀ e line, e ∈ l.extents → e.2.valid = true → e.2.range = range / 16 → e.2.pbase ≤ 64 * line → 64 * line < e.2.pbase + (e.2.npages + 1) * 4096 →
          64 * line / 2 ^ 37 = range % 16 → Sparse.get 0 s.errs line % 4 = 2 → Sparse.get 0 s'.poison line = 15)
    ∧ (∀ range, p.launch? l.id = some l → (range ∉ l.toRead ∨ wheelOpen s (16 + range % 16) part = false) → turnDigest part l.id range s = .next s)
    ∧ (l.coresStarted ≠ [] → (l.close s part).stage = .over ∧ (l.close s part).digest = some (launchDigest s l))
    ∧ (∀ host, mailRuns s.mailbox = false → mailRuns s.hostbox = false →
      s.parts.find? (fun e => e.2.present && (match e.2.launch? l.id with | some m => !m.over | none => false)) = some (part, p) →
      (permitted p host = false → ∃ s', exec (.endlaunch l.id host) s = .next s' ∧ s'.parts = s.parts
          ∧ Sparse.get 0 (if host then s'.hostbox else s'.mailbox) 0 = BitVec.ofNat 64 (5 + 256 * 4))
        ∧ (permitted p host = true →
          ∃ s' l', exec (.endlaunch l.id host) s = .next s' ∧ (s'.part part).launch? l.id = some l' ∧ l'.stage = .over ∧ l'.status = 8
            ∧ ∀ n ∈ coresOf part p, ∀ b, b = 0 ∨ b = 1 → ∀ t, s'.task? n b = some t → t.part = part → t.launch ≠ l.id))

/-- R323, R328, R330, R337, R339 to R341, R350: urgent pre-emption, an unanswered record, a record that waited, answers, CUT and READBANK; stated for tasks
with no store on its way, with what happens while flits stay or the task completes what it has begun; and where the image of a bank holds what. That a cut
waits for what it completes first, with 0xFF until then (log 17, log 55), what is kept beside an image (log 55), and the statuses of CUT and READBANK for a
task that has stopped, or has not (log 58), are the model's readings. -/
def Obligations.TrapEvents : Prop :=
  (∀ (s : State) (a : Nat) (t : Task),
    let ps := imagePieces t
    let words (l : List Word) : List Byte := l.flatMap (fun w => leBytes 8 w.toNat)
    let us := [t.c, t.t, t.v, t.m]
    (((s.poison = [] ∧ s.errs = []) ∨ a % 64 = 0) → ∀ x, getByte (writeImage s a t).hbm (a + x)
          = match ps.reverse.find? (fun p => decide (p.1 ≤ x ∧ x < p.1 + p.2.length)) with
            | some p => p.2.getD (x - p.1) 0
            | none => if x < 0x1E1240 then 0 else getByte s.hbm (a + x))
      ∧ (∀ x, x < a → getByte (writeImage s a t).hbm x = getByte s.hbm x)
      ∧ (∀ line, a ≤ 64 * line → 64 * line + 64 ≤ a + 0x1E1240 → Sparse.get 0 (writeImage s a t).poison line = 0 ∧ Sparse.get 0 (writeImage s a t).errs line = 0)
      ∧ (∀ e ∈ t.c.regs, (8 * e.1, leBytes 8 e.2.toNat) ∈ ps) ∧ (∀ e ∈ t.t.regs, (0x200 + 8 * e.1, leBytes 8 e.2.toNat) ∈ ps)
      ∧ (∀ e ∈ t.v.regs, (0x300 + 8 * e.1, leBytes 8 e.2.toNat) ∈ ps) ∧ (∀ e ∈ t.m.regs, (0x400 + 8 * e.1, leBytes 8 e.2.toNat) ∈ ps)
      ∧ (∀ e ∈ t.bm, (0x500 + 128 * e.1, leBytes 128 e.2.toNat) ∈ ps) ∧ (0x900, List.replicate 32 (0xFF : Byte)) ∈ ps ∧ (∀ e ∈ t.preg, (0x900 + 32 * e.1, leBytes 32 e.2.toNat) ∈ ps)
      ∧ (0xB00, words t.pqT) ∈ ps ∧ (0xC00, words t.pqV) ∈ ps ∧ (0xD00, words t.pqM) ∈ ps ∧ (0xE00, words t.fq) ∈ ps
      ∧ (0xF00, words (us.map (fun u => u.pc.setWidth 64))) ∈ ps ∧ (0xF20, words (us.map (·.seqno))) ∈ ps
      ∧ (0xF60, tokenPairs.map (fun p => BitVec.ofNat 8 (Sparse.get 0 t.tok (tokKey p.1 p.2)))) ∈ ps
      ∧ (0xF72, [t.pqT.length, t.pqV.length, t.pqM.length, t.fq.length].map (BitVec.ofNat 8)) ∈ ps
      ∧ (0xF76, us.map (fun u => match u.stream with | .running => (0 : Byte) | .held => 1 | .ended => 2)) ∈ ps ∧ (0xF7A, [BitVec.ofNat 8 t.heldV]) ∈ ps
      ∧ (0xF80, words [t.key, t.rfstat, t.vl, t.vcsr, t.vrb]) ∈ ps ∧ (∀ e ∈ t.eps, (0xFA8 + 4 * e.1, leBytes 4 e.2.toNat) ∈ ps)
      ∧ (0xFC8, leBytes 4 (t.scType.toNat * 256 + t.scOp.toNat)) ∈ ps ∧ (∀ e ∈ t.failw, (0x1000 + 8 * e.1, leBytes 8 e.2.toNat) ∈ ps)
      ∧ (∀ e ∈ t.phases, (0x1200 + 4 * e.1, leBytes 4 e.2.toNat) ∈ ps) ∧ (∀ e ∈ t.wfmt, (0x1700 + e.1, [e.2]) ∈ ps)
      ∧ (∀ p, t.m.prog = some p → (0xF50, words [p.fmt, if p.began then p.key else t.key]) ∈ ps ∧ (0xF40, (iters t.t ++ [p.i0, p.i1, p.i2, p.i3]).flatMap (leBytes 2)) ∈ ps
          ∧ (0x1598, words [p.baseD, p.baseA, p.baseB]) ∈ ps ∧ (0x15B0, leBytes 128 p.map.toNat) ∈ ps ∧ (∀ e ∈ p.unitary, (0x1300 + 8 * e.1, leBytes 8 e.2.toNat) ∈ ps))
      ∧ (∀ p, t.t.prog = some p → (0x1580, words [p.baseD, p.baseA, p.baseB]) ∈ ps ∧ (0x1500, leBytes 128 p.map.toNat) ∈ ps)
      ∧ (0xF7B, [BitVec.ofNat 8 ((if t.t.prog.isSome then 1 else 0) + (if t.m.prog.isSome then 2 else 0))]) ∈ ps
      ∧ (∀ e ∈ t.kreg, (0x2000 + 4 * e.1, leBytes 4 e.2.toNat) ∈ ps) ∧ (∀ e ∈ t.vreg, (0x3000 + 256 * e.1, leBytes 256 e.2.toNat) ∈ ps)
      ∧ (0x43000, (if t.w8 then 1 else 0) :: leBytes 3 t.wlast.toNat) ∈ ps ∧ (∀ e ∈ t.w, (0x43040 + 2 * e.1, leBytes 2 e.2.toNat) ∈ ps)
      ∧ (∀ k b e, k < 4 → b < 2 → e ∈ (t.accBank k b).elems → (0x53040 + (2 * k + b) * 203840 + 12 * e.1, leBytes 12 e.2.v.toNat) ∈ ps))
  ∧ (∀ (s : State) (core bank dst : Nat), alive s = true → mailRuns s.mailbox = false → mailRuns s.hostbox = false → (2 ≤ bank ∨ s.task? core bank = none) →
    (∃ s', exec (.cut core bank false) s = .next s' ∧ Sparse.get 0 s'.mailbox 0 = BitVec.ofNat 64 (3 + 256 * 3) ∧ s'.cores = s.cores)
      ∧ (∃ s', exec (.readbank core bank dst false) s = .next s' ∧ Sparse.get 0 s'.mailbox 0 = BitVec.ofNat 64 (4 + 256 * 3) ∧ s'.cores = s.cores ∧ s'.hbm = s.hbm))
  ∧ ∀ (s : State) (core bank : Nat) (t : Task), alive s = true → bank < 2 → s.task? core bank = some t →
    (mailRuns s.mailbox = false → mailRuns s.hostbox = false → t.hold = .none → (t.late ≠ none ∨ mayCut s core bank t = false) →
      ∃ s', exec (.cut core bank false) s = .next s' ∧ Sparse.get 0 s'.mailbox 0 = BitVec.ofNat 64 (3 + 256 * 0xFF) ∧ s'.cores = s.cores ∧ s'.parts = s.parts)
    ∧ (∀ r, t.late = some r → t.cutting = true → t.hold = .none →
      (core < 512 → trapHeld s core bank t r.seq r.cause = true → exec (.lateTrapRecord core bank) s = .next s)
        ∧ (core < 512 → trapHeld s core bank t r.seq r.cause = false →
          exec (.lateTrapRecord core bank) s = trapNow s core bank r.seq r.cause r.faddr.toNat r.flags.toNat r.fpc.toNat))
    ∧ ((∀ q : SeqId, (t.seq q).stores = []) → s.flits = [] → core < 512 → t.cutting = false → mayCut s core bank t = true →
      let p := s.part t.part
      let save := saveAddr s t.part core bank
      let cut := (cutTask s core bank).1
      let Saves (ev : Instr) (s0 : State) (slot : Option Nat) : Prop := ∃ s' x k, exec ev s = .next s' ∧ s'.task? core bank = none ∧ s0.task? core bank = some k
        ∧ (s'.part t.part).saved = p.saved ++ [x] ∧ x.launch = t.launch ∧ x.rank = t.rank ∧ x.core = core ∧ x.bank = bank ∧ x.slot = slot ∧ x.answered = false
        ∧ x.extents = t.extents ∧ x.regions = [k.c.lastRegion, k.t.lastRegion, k.v.lastRegion, k.m.lastRegion] ∧ x.atRegion = k.atRegion ∧ x.owed = k.owed ∧ x.wait = k.c.wait
      -- the cut does not complete the last END
      let lives : Prop := ∀ k, cut.task? core bank = some k → allEnded k = false
      let apart (j : Nat) : Prop := p.tqBlock + 56 ≤ tqBase s p + 128 * j ∨ tqBase s p + 128 * j + 128 ≤ p.tqBlock
      let quiet : Prop := mailRuns s.mailbox = false ∧ mailRuns s.hostbox = false
      (t.hold = .none → lives → boundOver s core bank t 0 = true → s.populated save imageEnd = true → Saves (.preboundExpiry core bank) cut none)
        ∧ (∀ j x, t.hold = .record j → p.tq.find? (fun e => e.slot == j) = some x → x.cls = 0 → boundOver s core bank t x.gt = true → s.populated save imageEnd = true →
          Saves (.unansweredRecordExpiry core bank) s (some j))
        ∧ (∀ r j, t.late = some r → freeSlot p = some j → t.hold = .none → lateBelow s t.part core = false → lives → s.populated (tqBase s p + 128 * j) 128 = true →
          (r.cause ≠ .preempt → ∃ s' t', exec (.lateTrapRecord core bank) s = .next s' ∧ s'.task? core bank = some t' ∧ t'.hold = .record j ∧ t'.late = none
              ∧ s'.out.getLast? = some (.interrupt t.part j))
            ∧ (r.cause = .preempt → s.populated save imageEnd = true → s.poison = [] → s.errs = [] → apart j → Saves (.lateTrapRecord core bank) cut (some j)))
        ∧ (∀ r, t.late = some r → lateBelow s t.part core = true → exec (.lateTrapRecord core bank) s = .next s)
        ∧ (∀ j x, p.present = true → t.hold = .record j → j < 256 → p.tq.find? (fun e => e.slot == j) = some x → x.core = core → x.bank = bank → x.noTask = false →
          (∀ v ∈ p.saved, v.slot ≠ some j) → s.poison = [] → s.errs = [] → allEnded t = false →
          (let a := tqBase s p + 128 * j + 5
           p.tqBlock + 8 ≤ a ∨ a < p.tqBlock) →
          (x.cls ≠ 1 → p.stopped = false → ∃ s' t', exec (.answerResume t.part j) s = .next s' ∧ s'.task? core bank = some t' ∧ t'.hold = .none ∧ t'.trapId = none
              ∧ s'.bankOf core = bank ∧ ∀ e ∈ (s'.part t.part).tq, e.slot ≠ j)
            ∧ (x.cls = 1 → ∃ s', exec (.answerResume t.part j) s = .next s' ∧ s'.task? core bank = none)
            ∧ (∃ s', exec (.answerEnd t.part j) s = .next s' ∧ s'.task? core bank = none ∧ ∀ e ∈ (s'.part t.part).tq, e.slot ≠ j))
        ∧ (∀ j, quiet → t.hold = .none → t.late = none → lateBelow s t.part 512 = false → lives → freeSlot p = some j → s.populated (tqBase s p + 128 * j) 128 = true →
          s.populated save imageEnd = true → s.poison = [] → s.errs = [] → apart j →
          Saves (.cut core bank false) cut (some j) ∧ ∀ s', exec (.cut core bank false) s = .next s' → Sparse.get 0 s'.mailbox 0 = 3)
        ∧ (quiet → t.hold ≠ .none → ∃ s', exec (.cut core bank false) s = .next s' ∧ Sparse.get 0 s'.mailbox 0 = BitVec.ofNat 64 (3 + 256 * 3) ∧ s'.cores = s.cores)
        ∧ (∀ dst, quiet → (t.hold ≠ .none ∨ s.bankOf core ≠ bank) → s.populated dst imageEnd = true → ∃ s', exec (.readbank core bank dst false) s = .next s' ∧ s'.cores = s.cores
          ∧ Sparse.get 0 s'.mailbox 0 = 4 ∧ s'.hbm = (writeImage s dst t).hbm)
        ∧ (∀ dst, quiet → t.hold = .none → s.bankOf core = bank → ∃ s', exec (.readbank core bank dst false) s = .next s' ∧ s'.cores = s.cores ∧ s'.hbm = s.hbm
          ∧ Sparse.get 0 s'.mailbox 0 = BitVec.ofNat 64 (4 + 256 * 3)))

/-- R16, R126, R215, R280, R284, R305, R327, R338, R342, R350: partitions are created and destroyed, blocks are registered, and a
displaced task comes back, from its image or after its YIELD. -/
def Obligations.PartitionEvents : Prop := ∀ (s : State) (first : Nat), alive s = true →
  let p := s.part first
  let quiet : Prop := mailRuns s.mailbox = false ∧ mailRuns s.hostbox = false
  (∀ size addr, quiet → p.present = false → regpartStatus s first size addr false = 0 →
      ∃ s', exec (.regpart first size addr false) s = .next s' ∧ Sparse.get 0 s'.mailbox 0 = 1 ∧ (s'.part first).present = true ∧ (s'.part first).size = size
        ∧ (s'.part first).block = addr ∧ (s'.part first).mcc0 % 1024 = 0 ∧ s.mcc ≤ (s'.part first).mcc0 ∧ (s'.part first).mcc0 < s.mcc + 1024
        ∧ (s'.part first).cursor = 0 ∧ (s'.part first).tq = [] ∧ (∀ n, 8 * first ≤ n → n < 8 * first + 8 * 2 ^ size → s'.core n = Core.reset) ∧ s'.hbm = s.hbm)
    ∧ (∀ size addr c, quiet → regpartStatus s first size addr false = c → c ≠ 0 → ∃ s', exec (.regpart first size addr false) s = .next s'
      ∧ Sparse.get 0 s'.mailbox 0 = BitVec.ofNat 64 (1 + 256 * c) ∧ s'.parts = s.parts ∧ s'.cores = s.cores)
    ∧ (∀ addr, quiet → p.present = true → idle p = true → tqBlockOk s addr = true →
      ∃ s', exec (.regtq first addr false) s = .next s' ∧ Sparse.get 0 s'.mailbox 0 = 2 ∧ (s'.part first) = { p with tqBlock := addr })
    ∧ (p.present = true → ∃ s', exec (.partitionDestroy first) s = .next s' ∧ s'.part first = Partition.absent
      ∧ (∀ n, 8 * first ≤ n → n < 8 * first + 8 * 2 ^ p.size → s'.core n = Core.reset)
      ∧ (∀ w, s'.txWin w ≠ TxWin.free → (s'.txWin w).part ≠ first ∧ s'.txWin w = s.txWin w)
      ∧ (∀ e ∈ s'.rx, e.2.part ≠ first) ∧ ∀ f ∈ s'.flits, f ∈ s.flits ∨ f.core = 512)
    ∧ (∀ core bank l, s.parts.find? (fun e => e.2.present && (coresOf e.1 e.2).contains core) = some (first, p) → bank < 2 → s.task? core bank = none →
      p.stopped = false → (∀ m ∈ p.launches, gate p m = true → core ∈ m.coresStarted) →
      (∀ x, p.yielded = [] → p.saved = [x] → x.core = core → x.slot = none → p.launch? x.launch = some l → s.poison = [] → s.errs = [] →
          let a := saveAddr s first core x.bank
          imageBad s a = none → partNat s (a + 0xF76) 1 = 0 →
          ∃ s' t, exec (.taskRestore core bank) s = .next s' ∧ s'.task? core bank = some t ∧ (s'.part first).saved = [] ∧ SameMemory s s'
            ∧ t.launch = l.id ∧ t.rank = x.rank ∧ t.hold = .none ∧ t.extents = x.extents ∧ t.replay = true ∧ t.atRegion = x.atRegion
            ∧ (x.regions.length = 4 → [t.c, t.t, t.v, t.m].map (·.lastRegion) = x.regions)
            ∧ t.c.pc = BitVec.ofNat 48 (partNat s (a + 0xF00) 8) ∧ t.key = BitVec.ofNat 64 (partNat s (a + 0xF80) 8)
            ∧ ∀ r, 0 < r → r < 64 → t.c.reg r = BitVec.ofNat 64 (partNat s (a + 8 * r) 8))
        ∧ (∀ y a b c e, p.saved = [] → p.yielded = [y] → p.launch? y.launch = some l → y.pcs = [a, b, c, e] → y.streams.length = 4 → y.seqno.length = 4 → y.regions.length = 4 →
          ∃ s' t, exec (.taskRestore core bank) s = .next s' ∧ s'.task? core bank = some t ∧ (s'.part first).yielded = [] ∧ SameMemory s s'
            ∧ t.launch = l.id ∧ t.rank = y.rank ∧ t.tok = y.tok ∧ t.key = y.key ∧ t.c.pc = a ∧ t.t.pc = b ∧ t.v.pc = c ∧ t.m.pc = e
            ∧ [t.c, t.t, t.v, t.m].map (·.stream) = y.streams ∧ [t.c, t.t, t.v, t.m].map (·.lastRegion) = y.regions ∧ (y.sd ≠ 0 → t.c.reg y.sd = 1)
            ∧ ∀ i v, y.vals[i]? = some v → y.sa + i ≠ 0 → y.sa + i ≠ y.sd → t.c.reg (y.sa + i) = v))

/-! ### The machine -/

/-- R25, R39, R293: with the turn of a sequencer next, its instruction is fetched, granule by granule; with all of it there and decoded to an instruction, a
step is exec of that instruction in the state that the fetch leaves, which has read nothing but the granules; a fault of the fetch is taken. With a record in
progress it is exec of its next single issue; the turn of an event is exec of the event, and every other turn its own operation.
The agenda, from which the turns come, is the model's choice, as are the free turns after it (log 2). -/
def Obligations.StepRunsDecoded : Prop :=
  (∀ (s : State) (turn : Turn) (rest : List Turn), s.agenda = turn :: rest →
    let s0 := { s with agenda := rest }
    (∀ core q, turn = .seq core q → onTurn s0 core q = some (turnOf s0 core q) →
        let s1 := turnOf s0 core q
        let t := s1.here
        let bank := s.bankOf core
        (s1.me.prog.isSome = true → step s = exec (.recordSingleIssue core q) s1)
          ∧ (∀ r i, s1.me.prog = none → fetchNow s1 core q = (r, some (.run i)) → step s = exec i r)
          ∧ (∀ r c faddr flags, s1.me.prog = none → fetchNow s1 core q = (r, some (.trap c faddr flags)) → step s = takeTrap r core bank q.num c faddr flags s1.me.pc.toNat)
          ∧ (s1.me.prog = none → s.pick = none → s1.me.stores = [] → s1.me.pend = [] → s.errs = [] →
            ∀ (h : Parcel) (ps : List Parcel) (ls : List Nat) (i : Instr),
            (∀ k w, (h :: ps)[k]? = some w → fetchParcel s1 core q t ((s1.me.pc.toNat + 4 * k) % 2 ^ 48) = .ok w
              ∧ (isTimed t s1.me = false → ∀ p, checkAccess s1 core t Ranges.hbmOnly .fetch ((s1.me.pc.toNat + 4 * k) % 2 ^ 48) 4 4 = .ok p → WheelMet s1 t.part p)) →
            opcLens q (hOpc h).toNat = some ls → (hLen h).toNat ∈ ls → ps.length = extraParcels (hLen h) →
            ((opcPrivileged q (hOpc h).toNat = true ∨ csrwPrivileged q (hOpc h).toNat ps = true) → t.priv = true) →
            decode q (h :: ps) = .ok i →
            ∃ r, step s = exec i r ∧ (r = s1 ∨ ∃ e, r = s1.setTask core bank (some (t.setSeq q { t.seq q with early := e })))))
      ∧ (∀ i, turn = .event i → isEvent i = true → step s = exec i s0)
      ∧ (∀ cycles ns, turn = .clock cycles ns → step s = .next (clockTick s0 cycles ns)) ∧ (∀ n, turn = .land n → step s = turnLand n s0)
      ∧ (∀ core q n t, turn = .early core q n → s.task? core (s.bankOf core) = some t →
        (isTimed t (t.seq q) = true → step s = .next s0)
          ∧ (∀ x, isTimed t (t.seq q) = false → runSeq core q { s0 with pick := some n } = .next x → step s = .next { x with pick := none }))
      ∧ (∀ part n port, turn = .packet part n port → step s = turnPacket part n port s0)
      ∧ (∀ part n pick, turn = .coll part n pick → step s = turnColl part n pick s0) ∧ (∀ id port, turn = .gap id port → step s = turnGap id port s0)
      ∧ (∀ part id range, turn = .digest part id range → step s = turnDigest part id range s0) ∧ (∀ core busy, turn = .port core busy → step s = turnPort core busy s0)
      ∧ (∀ line n, turn = .lineUpset line n → step s = turnLineUpset line n s0) ∧ (∀ w, turn = .wordUpset w → step s = turnWordUpset w s0)
      ∧ (∀ port, turn = .fecDiscard port → step s = turnFecDiscard port s0) ∧ (∀ off, turn = .bar0Read off → step s = turnBar0Read off s0))
    ∧ ∀ s : State, s.agenda = [] → step s = runTurn (Config.freeTurn s.moves) { s with moves := s.moves + 1 }

/-- The worked encodings of the chapters: words of every space, as the spec writes them out, decode to the instructions that they stand
for. -/
def Obligations.DecodesSpecWords : Prop :=
  decode .c [0x40000304#32, 0x08000000#32] = .ok (.add 0 ⟨3, 1, .reg 2⟩)
    ∧ decode .c [0x400A0305#32, 0x00000064#32] = .ok (.add 0x28 ⟨3, 1, .simm 100⟩)
    ∧ decode .c [0x85800502#32, 0x89ABCDEF#32, 0x01234567#32] = .ok (.li 0 ⟨5, 0, .imm64 0x0123456789ABCDEF⟩)
    ∧ decode .c [0x49000711#32, 0xFFFFFFF4#32] = .ok (.bne 0 ⟨7, 4, .simm (-12)⟩)
    ∧ decode .c [0x46800313#32, 0x000000C8#32] = .ok (.bext 0 ⟨3, 4, .zimm 0xC8⟩)
    ∧ decode .c [0x57400023#32, 0x00000005#32] = .ok (.csrw 0 ⟨0, 8, .zimm 5⟩)
    ∧ decode .c [0x58C10A19#32, 0x00000000#32] = .ok (.sorw 4 ⟨10, 6, .simm 0⟩)
    ∧ decode .v [0x40C00808#32, 0x0240A040#32] = .ok (.vfma 0 ⟨2, 8, 9, 0, 1, 0, .reg 10⟩)
    ∧ decode .v [0x40C00008#32, 0x024FC001#32] = .ok (.vfma 0 ⟨0, 8, 9, 0, 0, 0, .imm20 0x3F000⟩)
    ∧ decode .v [0x80C00008#32, 0x02400040#32, 0x3E2AAAAB#32] = .ok (.vfma 0 ⟨0, 8, 9, 0, 1, 0, .lit 0x3E2AAAAB⟩)
    ∧ decode .v [0x52800008#32, 0x1800000A#32] = .ok (.vlds 0 (.two ⟨0, 8, 3, 0, 0, 5⟩))
    ∧ decode .v [0x5600000C#32, 0x10C05022#32] = .ok (.vz 0 (.two ⟨0, 12, 2, 3, 5, 0, 0, true, 1⟩))
    ∧ decode .t [0x42400000#32, 0x00000502#32] = .ok (.sccfg 0 ⟨0, 0, 0, 0x502⟩)
    ∧ decode .t [0x42C00060#32, 0x000100A5#32] = .ok (.tagx 0 ⟨0, 6, 0, 0x100A5⟩)
    ∧ decode .m [0x42400001#32, 0x00000007#32] = .ok (.avset 0 ⟨0, 0, 1, 7⟩)
    ∧ decode .m [0x42C00002#32, 0x3A800000#32] = .ok (.epsset 0 ⟨0, 0, 2, 0x3A800000⟩)

/-- Decode and encode agree: an instruction of a space whose fields are legal is read back from its parcels, with every operand at every
value that its encoding admits (R22 to R46). -/
def Obligations.EncodeDecodeRoundTrip : Prop := ∀ (q : SeqId) (i : Instr), inSpace q i = true → i.WellFormed → decode q (encode i) = .ok i

/-- Decoding is exact: what decodes to an instruction begins with that instruction's own parcels, so no two words of a space stand for
one instruction and no bit of an encoding is ignored; the instruction belongs to the space (R22 to R46). -/
def Obligations.DecodeIsExact : Prop := ∀ (q : SeqId) (ps : List Parcel) (i : Instr), decode q ps = .ok i →
  inSpace q i = true ∧ ps.take (encode i).length = encode i

/-- Every step keeps every memory of the module in its canonical form: HBM and each scratchpad. The form is the
model's choice: a list of bytes by rising address in which a byte that is 0 is not listed (log 5). -/
def Obligations.StepKeepsMemoryCanonical : Prop := ∀ (s s' : State), MemoryCanonical s → step s = .next s' → MemoryCanonical s'

/-- What reset leaves, where the spec gives it (R87, R95, R117, R243, R290, R352, R355): MCC, READY, BOOTSTAT, ECCSTAT, the tags and wheels,
the sorus CSRs, and the values of a partition's bounds. That every window is free, that no bank holds a task, that no partition exists and that
no memory byte is listed is the model's choice for the state it starts from (log 4, log 5). -/
def Obligations.ResetState : Prop :=
  MemoryCanonical State.reset ∧ State.reset.mcc = 0 ∧ State.reset.ready = 0 ∧ State.reset.bootstat = 0
    ∧ (∀ d, Sparse.get 1 State.reset.eccstat d = 1)
    ∧ (∀ n k, Sparse.get 0 (State.reset.core n).tags k = 0 ∧ Sparse.get 0 (State.reset.core n).wheel k = 0)
    ∧ (∀ n b, State.reset.task? n b = none) ∧ (∀ p, (State.reset.part p).present = false)
    ∧ State.reset.errs = [] ∧ State.reset.flits = [] ∧ State.reset.landings = [] ∧ (∀ w, State.reset.txWin w = TxWin.free ∧ State.reset.rxWin w = RxWin.free)
    ∧ State.reset.sorus.cfg = 0 ∧ State.reset.sorus.first = 0 ∧ State.reset.sorus.eff = 0 ∧ State.reset.sorus.mem = 0
    ∧ State.reset.sorus.dl = 20000 ∧ State.reset.sorus.gap = 1000000 ∧ State.reset.sorus.bad = 0
    ∧ State.reset.sorus.last = State.reset.sorus.first - 1
    ∧ Partition.absent.csrVal 0x101 = 50000 ∧ Partition.absent.csrVal 0x102 = 10000 ∧ Partition.absent.csrVal 0x103 = 100000
    ∧ Partition.absent.csrVal 0x104 = 0x01000000 ∧ Partition.absent.csrVal 0x105 = 200000
end

