-- ==== Sys2Proof/Laws/Sparse.lean ====
section
/-! SUPPORT. Sparse storage: what a write leaves to be read, and that every write keeps the canonical form. -/

namespace Sys2Proof.Machine

/-- A key reads as the first entry that names it. -/
theorem Sparse.get_eq_find {α : Type} (d : α) (k : Nat) (m : List (Nat × α)) :
    Sparse.get d m k = ((m.find? (fun p => p.1 == k)).map (·.2)).getD d := by
  induction m with
  | nil => rfl
  | cons p t ih => cases h : (p.1 == k) <;> simp_all [Sparse.get, List.find?_cons]

/-- A new entry stands between the entries that are not above its key and the others. -/
theorem Sparse.insert_eq {α : Type} (k : Nat) (v : α) (m : List (Nat × α)) :
    Sparse.insert k v m = m.takeWhile (fun p => decide (p.1 ≤ k)) ++ (k, v) :: m.dropWhile (fun p => decide (p.1 ≤ k)) := by
  induction m with
  | nil => rfl
  | cons p t ih =>
    by_cases h : k < p.1
    · simp [Sparse.insert, h, Nat.not_le.mpr h]
    · simp [Sparse.insert, h, Nat.not_lt.mp h, ih]

/-- Entries are kept or dropped by their key. -/
theorem Sparse.get_filter {α : Type} (d : α) (f : Nat → Bool) (m : List (Nat × α)) (k : Nat) :
    Sparse.get d (m.filter (fun p => f p.1)) k = if f k = true then Sparse.get d m k else d := by
  have h : (fun p : Nat × α => decide (f p.1 = true ∧ (p.1 == k) = true)) = fun p => f k && (p.1 == k) := by
    funext p
    cases h : (p.1 == k)
    · simp
    · simp [beq_iff_eq.mp h]
  rw [Sparse.get_eq_find, Sparse.get_eq_find, List.find?_filter, h]
  cases f k
  · have : m.find? (fun _ => false) = none := List.find?_eq_none.mpr (fun _ _ => Bool.false_ne_true)
    simp [this]
  · simp

theorem Sparse.get_erase {α : Type} (d : α) (k j : Nat) (m : List (Nat × α)) :
    Sparse.get d (Sparse.erase k m) j = if j = k then d else Sparse.get d m j := by
  rw [Sparse.erase, Sparse.get_filter d (fun a => a != k)]
  by_cases h : j = k <;> simp [h]

theorem Sparse.get_insert {α : Type} (d v : α) (k j : Nat) (m : List (Nat × α)) (h : ∀ p ∈ m, p.1 ≠ k) :
    Sparse.get d (Sparse.insert k v m) j = if j = k then v else Sparse.get d m j := by
  have hs := List.takeWhile_append_dropWhile (p := fun p : Nat × α => decide (p.1 ≤ k)) (l := m)
  have hb := fun p hp => h p (hs ▸ List.mem_append_left _ hp)
  rw [Sparse.insert_eq]
  conv_rhs => rw [← hs]
  generalize m.takeWhile (fun p => decide (p.1 ≤ k)) = lo at hb ⊢
  simp only [Sparse.get_eq_find, List.find?_append, List.find?_cons]
  by_cases e : j = k
  · subst e
    have : lo.find? (fun p => p.1 == j) = none := List.find?_eq_none.mpr (fun p hp => by simpa using hb p hp)
    simp [this]
  · simp [e, beq_false_of_ne (Ne.symm e)]

theorem Sparse.not_mem_erase {α : Type} (k : Nat) (m : List (Nat × α)) : ∀ p ∈ Sparse.erase k m, p.1 ≠ k := by
  intro p hp
  simpa using (List.mem_filter.mp hp).2

/-- A read after a write: the value at the key written, and every other key as before. -/
theorem Sparse.get_set {α : Type} [DecidableEq α] (d v : α) (k j : Nat) (m : List (Nat × α)) :
    Sparse.get d (Sparse.set d k v m) j = if j = k then v else Sparse.get d m j := by
  unfold Sparse.set
  split
  · next h => rw [Sparse.get_erase]; split <;> simp [*]
  · rw [Sparse.get_insert _ _ _ _ _ (Sparse.not_mem_erase k m), Sparse.get_erase]
    split <;> simp [*]

@[simp] theorem Sparse.get_set_same {α : Type} [DecidableEq α] (d v : α) (k : Nat) (m : List (Nat × α)) :
    Sparse.get d (Sparse.set d k v m) k = v := by simp [Sparse.get_set]

theorem Sparse.get_set_other {α : Type} [DecidableEq α] (d v : α) (k j : Nat) (m : List (Nat × α)) (h : j ≠ k) :
    Sparse.get d (Sparse.set d k v m) j = Sparse.get d m j := by simp [Sparse.get_set, h]

theorem Sparse.erase_erase {α : Type} (k : Nat) (m : List (Nat × α)) : Sparse.erase k (Sparse.erase k m) = Sparse.erase k m := by
  simp [Sparse.erase, List.filter_filter]

theorem Sparse.erase_insert {α : Type} (k : Nat) (v : α) (m : List (Nat × α)) :
    Sparse.erase k (Sparse.insert k v m) = Sparse.erase k m := by
  induction m with
  | nil => simp [Sparse.insert, Sparse.erase]
  | cons p t ih =>
    obtain ⟨a, w⟩ := p
    simp only [Sparse.erase] at ih ⊢
    unfold Sparse.insert
    split
    · simp
    · simp [List.filter_cons, ih]

/-- A second write of a key replaces the first. -/
@[simp] theorem Sparse.set_set {α : Type} [DecidableEq α] (d v w : α) (k : Nat) (m : List (Nat × α)) :
    Sparse.set d k v (Sparse.set d k w m) = Sparse.set d k v m := by
  have h : Sparse.erase k (Sparse.set d k w m) = Sparse.erase k m := by
    unfold Sparse.set
    split <;> simp [Sparse.erase_erase, Sparse.erase_insert]
  unfold Sparse.set at h ⊢
  simp only [h]

/-! ### The canonical form -/

/-- The canonical form in terms of the list: keys rising, no entry that reads as an unlisted key does. -/
theorem Sparse.wf_iff {α : Type} [DecidableEq α] (d : α) (m : List (Nat × α)) :
    Sparse.wf d m = true ↔ m.Pairwise (fun p q => p.1 < q.1) ∧ ∀ p ∈ m, p.2 ≠ d := by
  have hc : ∀ m : List (Nat × α), Sparse.wf d m = true ↔ m.IsChain (fun p q => p.1 < q.1) ∧ ∀ p ∈ m, p.2 ≠ d := by
    intro m
    induction m with
    | nil => simp [Sparse.wf]
    | cons p t ih => cases t <;> simp_all [Sparse.wf, and_assoc, and_left_comm]
  haveI : IsTrans (Nat × α) (fun p q => p.1 < q.1) := ⟨fun _ _ _ => Nat.lt_trans⟩
  rw [hc, List.isChain_iff_pairwise]

theorem Sparse.wf_filter {α : Type} [DecidableEq α] (d : α) (f : Nat × α → Bool) (m : List (Nat × α)) (h : Sparse.wf d m = true) :
    Sparse.wf d (m.filter f) = true := by
  rw [Sparse.wf_iff] at h ⊢
  exact ⟨h.1.filter f, fun p hp => h.2 p (List.mem_filter.mp hp).1⟩

theorem Sparse.wf_insert {α : Type} [DecidableEq α] (d v : α) (k : Nat) (m : List (Nat × α)) (hv : v ≠ d) (hk : ∀ p ∈ m, p.1 ≠ k)
    (h : Sparse.wf d m = true) : Sparse.wf d (Sparse.insert k v m) = true := by
  obtain ⟨hp, hd⟩ := (Sparse.wf_iff d m).mp h
  have hs := List.takeWhile_append_dropWhile (p := fun p : Nat × α => decide (p.1 ≤ k)) (l := m)
  have hlo : ∀ p ∈ m.takeWhile (fun p => decide (p.1 ≤ k)), p.1 < k := fun p hp =>
    Nat.lt_of_le_of_ne (by simpa using List.mem_takeWhile_imp hp) (hk p (hs ▸ List.mem_append_left _ hp))
  have hhd : ∀ p ∈ (m.dropWhile (fun p => decide (p.1 ≤ k))).head?, k < p.1 := fun p hp => by
    have := List.head?_dropWhile_not (fun p : Nat × α => decide (p.1 ≤ k)) m
    rw [Option.mem_def.mp hp] at this
    simpa using this
  rw [Sparse.insert_eq, Sparse.wf_iff]
  rw [← hs] at hp hd
  generalize m.takeWhile (fun p => decide (p.1 ≤ k)) = lo at hlo hp hd ⊢
  generalize m.dropWhile (fun p => decide (p.1 ≤ k)) = hi at hhd hp hd ⊢
  obtain ⟨h1, h2, h3⟩ := List.pairwise_append.mp hp
  have hhi : ∀ p ∈ hi, k < p.1 := by
    cases hi with
    | nil => simp
    | cons q t =>
      have hq : k < q.1 := hhd q (by simp)
      exact List.forall_mem_cons.mpr ⟨hq, fun p hp => hq.trans ((List.pairwise_cons.mp h2).1 p hp)⟩
  refine ⟨List.pairwise_append.mpr ⟨h1, List.pairwise_cons.mpr ⟨hhi, h2⟩, fun p hp => List.forall_mem_cons.mpr ⟨hlo p hp, h3 p hp⟩⟩, ?_⟩
  simp only [List.mem_append, List.mem_cons]
  rintro p (hp | rfl | hp)
  · exact hd p (List.mem_append_left _ hp)
  · exact hv
  · exact hd p (List.mem_append_right _ hp)

/-- A write keeps the canonical form. -/
theorem Sparse.wf_set {α : Type} [DecidableEq α] (d v : α) (k : Nat) (m : List (Nat × α)) (h : Sparse.wf d m = true) :
    Sparse.wf d (Sparse.set d k v m) = true := by
  unfold Sparse.set
  split
  · exact Sparse.wf_filter d _ m h
  · next hv => exact Sparse.wf_insert d v k _ hv (Sparse.not_mem_erase k m) (Sparse.wf_filter d _ m h)

end Sys2Proof.Machine
end

