-- ==== Sys2Proof/Laws/State.lean ====
section
/-! SUPPORT. What each field of State, Core and Task is after each update: every lemma holds by computation. -/

namespace Sys2Proof.Machine

@[simp] theorem State.setCore_cur (s : State) (n : Nat) (c : Core) : (s.setCore n c).cur = s.cur := rfl
@[simp] theorem State.setCore_pick (s : State) (n : Nat) (c : Core) : (s.setCore n c).pick = s.pick := rfl
@[simp] theorem State.setCore_agenda (s : State) (n : Nat) (c : Core) : (s.setCore n c).agenda = s.agenda := rfl
@[simp] theorem State.setCore_moves (s : State) (n : Nat) (c : Core) : (s.setCore n c).moves = s.moves := rfl
@[simp] theorem State.setCore_mcc (s : State) (n : Nat) (c : Core) : (s.setCore n c).mcc = s.mcc := rfl
@[simp] theorem State.setCore_gt (s : State) (n : Nat) (c : Core) : (s.setCore n c).gt = s.gt := rfl
@[simp] theorem State.setCore_slew (s : State) (n : Nat) (c : Core) : (s.setCore n c).slew = s.slew := rfl
@[simp] theorem State.setCore_timelock (s : State) (n : Nat) (c : Core) : (s.setCore n c).timelock = s.timelock := rfl
@[simp] theorem State.setCore_lockedOnce (s : State) (n : Nat) (c : Core) : (s.setCore n c).lockedOnce = s.lockedOnce := rfl
@[simp] theorem State.setCore_hbm (s : State) (n : Nat) (c : Core) : (s.setCore n c).hbm = s.hbm := rfl
@[simp] theorem State.setCore_poison (s : State) (n : Nat) (c : Core) : (s.setCore n c).poison = s.poison := rfl
@[simp] theorem State.setCore_errs (s : State) (n : Nat) (c : Core) : (s.setCore n c).errs = s.errs := rfl
@[simp] theorem State.setCore_ports (s : State) (n : Nat) (c : Core) : (s.setCore n c).ports = s.ports := rfl
@[simp] theorem State.setCore_served (s : State) (n : Nat) (c : Core) : (s.setCore n c).served = s.served := rfl
@[simp] theorem State.setCore_stkcap (s : State) (n : Nat) (c : Core) : (s.setCore n c).stkcap = s.stkcap := rfl
@[simp] theorem State.setCore_eccstat (s : State) (n : Nat) (c : Core) : (s.setCore n c).eccstat = s.eccstat := rfl
@[simp] theorem State.setCore_modNum (s : State) (n : Nat) (c : Core) : (s.setCore n c).modNum = s.modNum := rfl
@[simp] theorem State.setCore_disabled (s : State) (n : Nat) (c : Core) : (s.setCore n c).disabled = s.disabled := rfl
@[simp] theorem State.setCore_domshape (s : State) (n : Nat) (c : Core) : (s.setCore n c).domshape = s.domshape := rfl
@[simp] theorem State.setCore_ready (s : State) (n : Nat) (c : Core) : (s.setCore n c).ready = s.ready := rfl
@[simp] theorem State.setCore_ready1 (s : State) (n : Nat) (c : Core) : (s.setCore n c).ready1 = s.ready1 := rfl
@[simp] theorem State.setCore_bootstat (s : State) (n : Nat) (c : Core) : (s.setCore n c).bootstat = s.bootstat := rfl
@[simp] theorem State.setCore_bootsrc (s : State) (n : Nat) (c : Core) : (s.setCore n c).bootsrc = s.bootsrc := rfl
@[simp] theorem State.setCore_timedisc (s : State) (n : Nat) (c : Core) : (s.setCore n c).timedisc = s.timedisc := rfl
@[simp] theorem State.setCore_hostdrop (s : State) (n : Nat) (c : Core) : (s.setCore n c).hostdrop = s.hostdrop := rfl
@[simp] theorem State.setCore_mailbox (s : State) (n : Nat) (c : Core) : (s.setCore n c).mailbox = s.mailbox := rfl
@[simp] theorem State.setCore_hostbox (s : State) (n : Nat) (c : Core) : (s.setCore n c).hostbox = s.hostbox := rfl
@[simp] theorem State.setCore_portDrop (s : State) (n : Nat) (c : Core) : (s.setCore n c).portDrop = s.portDrop := rfl
@[simp] theorem State.setCore_wheels (s : State) (n : Nat) (c : Core) : (s.setCore n c).wheels = s.wheels := rfl
@[simp] theorem State.setCore_slotOwner (s : State) (n : Nat) (c : Core) : (s.setCore n c).slotOwner = s.slotOwner := rfl
@[simp] theorem State.setCore_slotMask (s : State) (n : Nat) (c : Core) : (s.setCore n c).slotMask = s.slotMask := rfl
@[simp] theorem State.setCore_lastServed (s : State) (n : Nat) (c : Core) : (s.setCore n c).lastServed = s.lastServed := rfl
@[simp] theorem State.setCore_servedAt (s : State) (n : Nat) (c : Core) : (s.setCore n c).servedAt = s.servedAt := rfl
@[simp] theorem State.setCore_tx (s : State) (n : Nat) (c : Core) : (s.setCore n c).tx = s.tx := rfl
@[simp] theorem State.setCore_rx (s : State) (n : Nat) (c : Core) : (s.setCore n c).rx = s.rx := rfl
@[simp] theorem State.setCore_flits (s : State) (n : Nat) (c : Core) : (s.setCore n c).flits = s.flits := rfl
@[simp] theorem State.setCore_nextFlit (s : State) (n : Nat) (c : Core) : (s.setCore n c).nextFlit = s.nextFlit := rfl
@[simp] theorem State.setCore_landings (s : State) (n : Nat) (c : Core) : (s.setCore n c).landings = s.landings := rfl
@[simp] theorem State.setCore_orphans (s : State) (n : Nat) (c : Core) : (s.setCore n c).orphans = s.orphans := rfl
@[simp] theorem State.setCore_sorus (s : State) (n : Nat) (c : Core) : (s.setCore n c).sorus = s.sorus := rfl
@[simp] theorem State.setCore_meas (s : State) (n : Nat) (c : Core) : (s.setCore n c).meas = s.meas := rfl
@[simp] theorem State.setCore_island (s : State) (n : Nat) (c : Core) : (s.setCore n c).island = s.island := rfl
@[simp] theorem State.setCore_volt (s : State) (n : Nat) (c : Core) : (s.setCore n c).volt = s.volt := rfl
@[simp] theorem State.setCore_rails (s : State) (n : Nat) (c : Core) : (s.setCore n c).rails = s.rails := rfl
@[simp] theorem State.setCore_pwrok (s : State) (n : Nat) (c : Core) : (s.setCore n c).pwrok = s.pwrok := rfl
@[simp] theorem State.setCore_thermtrip (s : State) (n : Nat) (c : Core) : (s.setCore n c).thermtrip = s.thermtrip := rfl
@[simp] theorem State.setCore_ide (s : State) (n : Nat) (c : Core) : (s.setCore n c).ide = s.ide := rfl
@[simp] theorem State.setCore_parts (s : State) (n : Nat) (c : Core) : (s.setCore n c).parts = s.parts := rfl
@[simp] theorem State.setCore_out (s : State) (n : Nat) (c : Core) : (s.setCore n c).out = s.out := rfl

@[simp] theorem State.setPart_cur (s : State) (n : Nat) (p : Partition) : (s.setPart n p).cur = s.cur := rfl
@[simp] theorem State.setPart_pick (s : State) (n : Nat) (p : Partition) : (s.setPart n p).pick = s.pick := rfl
@[simp] theorem State.setPart_agenda (s : State) (n : Nat) (p : Partition) : (s.setPart n p).agenda = s.agenda := rfl
@[simp] theorem State.setPart_moves (s : State) (n : Nat) (p : Partition) : (s.setPart n p).moves = s.moves := rfl
@[simp] theorem State.setPart_mcc (s : State) (n : Nat) (p : Partition) : (s.setPart n p).mcc = s.mcc := rfl
@[simp] theorem State.setPart_gt (s : State) (n : Nat) (p : Partition) : (s.setPart n p).gt = s.gt := rfl
@[simp] theorem State.setPart_slew (s : State) (n : Nat) (p : Partition) : (s.setPart n p).slew = s.slew := rfl
@[simp] theorem State.setPart_timelock (s : State) (n : Nat) (p : Partition) : (s.setPart n p).timelock = s.timelock := rfl
@[simp] theorem State.setPart_lockedOnce (s : State) (n : Nat) (p : Partition) : (s.setPart n p).lockedOnce = s.lockedOnce := rfl
@[simp] theorem State.setPart_hbm (s : State) (n : Nat) (p : Partition) : (s.setPart n p).hbm = s.hbm := rfl
@[simp] theorem State.setPart_poison (s : State) (n : Nat) (p : Partition) : (s.setPart n p).poison = s.poison := rfl
@[simp] theorem State.setPart_errs (s : State) (n : Nat) (p : Partition) : (s.setPart n p).errs = s.errs := rfl
@[simp] theorem State.setPart_ports (s : State) (n : Nat) (p : Partition) : (s.setPart n p).ports = s.ports := rfl
@[simp] theorem State.setPart_served (s : State) (n : Nat) (p : Partition) : (s.setPart n p).served = s.served := rfl
@[simp] theorem State.setPart_stkcap (s : State) (n : Nat) (p : Partition) : (s.setPart n p).stkcap = s.stkcap := rfl
@[simp] theorem State.setPart_eccstat (s : State) (n : Nat) (p : Partition) : (s.setPart n p).eccstat = s.eccstat := rfl
@[simp] theorem State.setPart_modNum (s : State) (n : Nat) (p : Partition) : (s.setPart n p).modNum = s.modNum := rfl
@[simp] theorem State.setPart_disabled (s : State) (n : Nat) (p : Partition) : (s.setPart n p).disabled = s.disabled := rfl
@[simp] theorem State.setPart_domshape (s : State) (n : Nat) (p : Partition) : (s.setPart n p).domshape = s.domshape := rfl
@[simp] theorem State.setPart_ready (s : State) (n : Nat) (p : Partition) : (s.setPart n p).ready = s.ready := rfl
@[simp] theorem State.setPart_ready1 (s : State) (n : Nat) (p : Partition) : (s.setPart n p).ready1 = s.ready1 := rfl
@[simp] theorem State.setPart_bootstat (s : State) (n : Nat) (p : Partition) : (s.setPart n p).bootstat = s.bootstat := rfl
@[simp] theorem State.setPart_bootsrc (s : State) (n : Nat) (p : Partition) : (s.setPart n p).bootsrc = s.bootsrc := rfl
@[simp] theorem State.setPart_timedisc (s : State) (n : Nat) (p : Partition) : (s.setPart n p).timedisc = s.timedisc := rfl
@[simp] theorem State.setPart_hostdrop (s : State) (n : Nat) (p : Partition) : (s.setPart n p).hostdrop = s.hostdrop := rfl
@[simp] theorem State.setPart_mailbox (s : State) (n : Nat) (p : Partition) : (s.setPart n p).mailbox = s.mailbox := rfl
@[simp] theorem State.setPart_hostbox (s : State) (n : Nat) (p : Partition) : (s.setPart n p).hostbox = s.hostbox := rfl
@[simp] theorem State.setPart_portDrop (s : State) (n : Nat) (p : Partition) : (s.setPart n p).portDrop = s.portDrop := rfl
@[simp] theorem State.setPart_wheels (s : State) (n : Nat) (p : Partition) : (s.setPart n p).wheels = s.wheels := rfl
@[simp] theorem State.setPart_slotOwner (s : State) (n : Nat) (p : Partition) : (s.setPart n p).slotOwner = s.slotOwner := rfl
@[simp] theorem State.setPart_slotMask (s : State) (n : Nat) (p : Partition) : (s.setPart n p).slotMask = s.slotMask := rfl
@[simp] theorem State.setPart_lastServed (s : State) (n : Nat) (p : Partition) : (s.setPart n p).lastServed = s.lastServed := rfl
@[simp] theorem State.setPart_servedAt (s : State) (n : Nat) (p : Partition) : (s.setPart n p).servedAt = s.servedAt := rfl
@[simp] theorem State.setPart_tx (s : State) (n : Nat) (p : Partition) : (s.setPart n p).tx = s.tx := rfl
@[simp] theorem State.setPart_rx (s : State) (n : Nat) (p : Partition) : (s.setPart n p).rx = s.rx := rfl
@[simp] theorem State.setPart_flits (s : State) (n : Nat) (p : Partition) : (s.setPart n p).flits = s.flits := rfl
@[simp] theorem State.setPart_nextFlit (s : State) (n : Nat) (p : Partition) : (s.setPart n p).nextFlit = s.nextFlit := rfl
@[simp] theorem State.setPart_landings (s : State) (n : Nat) (p : Partition) : (s.setPart n p).landings = s.landings := rfl
@[simp] theorem State.setPart_orphans (s : State) (n : Nat) (p : Partition) : (s.setPart n p).orphans = s.orphans := rfl
@[simp] theorem State.setPart_sorus (s : State) (n : Nat) (p : Partition) : (s.setPart n p).sorus = s.sorus := rfl
@[simp] theorem State.setPart_meas (s : State) (n : Nat) (p : Partition) : (s.setPart n p).meas = s.meas := rfl
@[simp] theorem State.setPart_island (s : State) (n : Nat) (p : Partition) : (s.setPart n p).island = s.island := rfl
@[simp] theorem State.setPart_volt (s : State) (n : Nat) (p : Partition) : (s.setPart n p).volt = s.volt := rfl
@[simp] theorem State.setPart_rails (s : State) (n : Nat) (p : Partition) : (s.setPart n p).rails = s.rails := rfl
@[simp] theorem State.setPart_pwrok (s : State) (n : Nat) (p : Partition) : (s.setPart n p).pwrok = s.pwrok := rfl
@[simp] theorem State.setPart_thermtrip (s : State) (n : Nat) (p : Partition) : (s.setPart n p).thermtrip = s.thermtrip := rfl
@[simp] theorem State.setPart_ide (s : State) (n : Nat) (p : Partition) : (s.setPart n p).ide = s.ide := rfl
@[simp] theorem State.setPart_cores (s : State) (n : Nat) (p : Partition) : (s.setPart n p).cores = s.cores := rfl
@[simp] theorem State.setPart_out (s : State) (n : Nat) (p : Partition) : (s.setPart n p).out = s.out := rfl

@[simp] theorem State.setTask_cur (s : State) (n b : Nat) (t : Option Task) : (s.setTask n b t).cur = s.cur := rfl
@[simp] theorem State.setTask_pick (s : State) (n b : Nat) (t : Option Task) : (s.setTask n b t).pick = s.pick := rfl
@[simp] theorem State.setTask_agenda (s : State) (n b : Nat) (t : Option Task) : (s.setTask n b t).agenda = s.agenda := rfl
@[simp] theorem State.setTask_moves (s : State) (n b : Nat) (t : Option Task) : (s.setTask n b t).moves = s.moves := rfl
@[simp] theorem State.setTask_mcc (s : State) (n b : Nat) (t : Option Task) : (s.setTask n b t).mcc = s.mcc := rfl
@[simp] theorem State.setTask_gt (s : State) (n b : Nat) (t : Option Task) : (s.setTask n b t).gt = s.gt := rfl
@[simp] theorem State.setTask_slew (s : State) (n b : Nat) (t : Option Task) : (s.setTask n b t).slew = s.slew := rfl
@[simp] theorem State.setTask_timelock (s : State) (n b : Nat) (t : Option Task) : (s.setTask n b t).timelock = s.timelock := rfl
@[simp] theorem State.setTask_lockedOnce (s : State) (n b : Nat) (t : Option Task) : (s.setTask n b t).lockedOnce = s.lockedOnce := rfl
@[simp] theorem State.setTask_hbm (s : State) (n b : Nat) (t : Option Task) : (s.setTask n b t).hbm = s.hbm := rfl
@[simp] theorem State.setTask_poison (s : State) (n b : Nat) (t : Option Task) : (s.setTask n b t).poison = s.poison := rfl
@[simp] theorem State.setTask_errs (s : State) (n b : Nat) (t : Option Task) : (s.setTask n b t).errs = s.errs := rfl
@[simp] theorem State.setTask_ports (s : State) (n b : Nat) (t : Option Task) : (s.setTask n b t).ports = s.ports := rfl
@[simp] theorem State.setTask_served (s : State) (n b : Nat) (t : Option Task) : (s.setTask n b t).served = s.served := rfl
@[simp] theorem State.setTask_stkcap (s : State) (n b : Nat) (t : Option Task) : (s.setTask n b t).stkcap = s.stkcap := rfl
@[simp] theorem State.setTask_eccstat (s : State) (n b : Nat) (t : Option Task) : (s.setTask n b t).eccstat = s.eccstat := rfl
@[simp] theorem State.setTask_modNum (s : State) (n b : Nat) (t : Option Task) : (s.setTask n b t).modNum = s.modNum := rfl
@[simp] theorem State.setTask_disabled (s : State) (n b : Nat) (t : Option Task) : (s.setTask n b t).disabled = s.disabled := rfl
@[simp] theorem State.setTask_domshape (s : State) (n b : Nat) (t : Option Task) : (s.setTask n b t).domshape = s.domshape := rfl
@[simp] theorem State.setTask_ready (s : State) (n b : Nat) (t : Option Task) : (s.setTask n b t).ready = s.ready := rfl
@[simp] theorem State.setTask_ready1 (s : State) (n b : Nat) (t : Option Task) : (s.setTask n b t).ready1 = s.ready1 := rfl
@[simp] theorem State.setTask_bootstat (s : State) (n b : Nat) (t : Option Task) : (s.setTask n b t).bootstat = s.bootstat := rfl
@[simp] theorem State.setTask_bootsrc (s : State) (n b : Nat) (t : Option Task) : (s.setTask n b t).bootsrc = s.bootsrc := rfl
@[simp] theorem State.setTask_timedisc (s : State) (n b : Nat) (t : Option Task) : (s.setTask n b t).timedisc = s.timedisc := rfl
@[simp] theorem State.setTask_hostdrop (s : State) (n b : Nat) (t : Option Task) : (s.setTask n b t).hostdrop = s.hostdrop := rfl
@[simp] theorem State.setTask_mailbox (s : State) (n b : Nat) (t : Option Task) : (s.setTask n b t).mailbox = s.mailbox := rfl
@[simp] theorem State.setTask_hostbox (s : State) (n b : Nat) (t : Option Task) : (s.setTask n b t).hostbox = s.hostbox := rfl
@[simp] theorem State.setTask_portDrop (s : State) (n b : Nat) (t : Option Task) : (s.setTask n b t).portDrop = s.portDrop := rfl
@[simp] theorem State.setTask_wheels (s : State) (n b : Nat) (t : Option Task) : (s.setTask n b t).wheels = s.wheels := rfl
@[simp] theorem State.setTask_slotOwner (s : State) (n b : Nat) (t : Option Task) : (s.setTask n b t).slotOwner = s.slotOwner := rfl
@[simp] theorem State.setTask_slotMask (s : State) (n b : Nat) (t : Option Task) : (s.setTask n b t).slotMask = s.slotMask := rfl
@[simp] theorem State.setTask_lastServed (s : State) (n b : Nat) (t : Option Task) : (s.setTask n b t).lastServed = s.lastServed := rfl
@[simp] theorem State.setTask_servedAt (s : State) (n b : Nat) (t : Option Task) : (s.setTask n b t).servedAt = s.servedAt := rfl
@[simp] theorem State.setTask_tx (s : State) (n b : Nat) (t : Option Task) : (s.setTask n b t).tx = s.tx := rfl
@[simp] theorem State.setTask_rx (s : State) (n b : Nat) (t : Option Task) : (s.setTask n b t).rx = s.rx := rfl
@[simp] theorem State.setTask_flits (s : State) (n b : Nat) (t : Option Task) : (s.setTask n b t).flits = s.flits := rfl
@[simp] theorem State.setTask_nextFlit (s : State) (n b : Nat) (t : Option Task) : (s.setTask n b t).nextFlit = s.nextFlit := rfl
@[simp] theorem State.setTask_landings (s : State) (n b : Nat) (t : Option Task) : (s.setTask n b t).landings = s.landings := rfl
@[simp] theorem State.setTask_orphans (s : State) (n b : Nat) (t : Option Task) : (s.setTask n b t).orphans = s.orphans := rfl
@[simp] theorem State.setTask_sorus (s : State) (n b : Nat) (t : Option Task) : (s.setTask n b t).sorus = s.sorus := rfl
@[simp] theorem State.setTask_meas (s : State) (n b : Nat) (t : Option Task) : (s.setTask n b t).meas = s.meas := rfl
@[simp] theorem State.setTask_island (s : State) (n b : Nat) (t : Option Task) : (s.setTask n b t).island = s.island := rfl
@[simp] theorem State.setTask_volt (s : State) (n b : Nat) (t : Option Task) : (s.setTask n b t).volt = s.volt := rfl
@[simp] theorem State.setTask_rails (s : State) (n b : Nat) (t : Option Task) : (s.setTask n b t).rails = s.rails := rfl
@[simp] theorem State.setTask_pwrok (s : State) (n b : Nat) (t : Option Task) : (s.setTask n b t).pwrok = s.pwrok := rfl
@[simp] theorem State.setTask_thermtrip (s : State) (n b : Nat) (t : Option Task) : (s.setTask n b t).thermtrip = s.thermtrip := rfl
@[simp] theorem State.setTask_ide (s : State) (n b : Nat) (t : Option Task) : (s.setTask n b t).ide = s.ide := rfl
@[simp] theorem State.setTask_parts (s : State) (n b : Nat) (t : Option Task) : (s.setTask n b t).parts = s.parts := rfl
@[simp] theorem State.setTask_out (s : State) (n b : Nat) (t : Option Task) : (s.setTask n b t).out = s.out := rfl

@[simp] theorem State.setHere_cur (s : State) (t : Task) : (s.setHere t).cur = s.cur := rfl
@[simp] theorem State.setHere_pick (s : State) (t : Task) : (s.setHere t).pick = s.pick := rfl
@[simp] theorem State.setHere_agenda (s : State) (t : Task) : (s.setHere t).agenda = s.agenda := rfl
@[simp] theorem State.setHere_moves (s : State) (t : Task) : (s.setHere t).moves = s.moves := rfl
@[simp] theorem State.setHere_mcc (s : State) (t : Task) : (s.setHere t).mcc = s.mcc := rfl
@[simp] theorem State.setHere_gt (s : State) (t : Task) : (s.setHere t).gt = s.gt := rfl
@[simp] theorem State.setHere_slew (s : State) (t : Task) : (s.setHere t).slew = s.slew := rfl
@[simp] theorem State.setHere_timelock (s : State) (t : Task) : (s.setHere t).timelock = s.timelock := rfl
@[simp] theorem State.setHere_lockedOnce (s : State) (t : Task) : (s.setHere t).lockedOnce = s.lockedOnce := rfl
@[simp] theorem State.setHere_hbm (s : State) (t : Task) : (s.setHere t).hbm = s.hbm := rfl
@[simp] theorem State.setHere_poison (s : State) (t : Task) : (s.setHere t).poison = s.poison := rfl
@[simp] theorem State.setHere_errs (s : State) (t : Task) : (s.setHere t).errs = s.errs := rfl
@[simp] theorem State.setHere_ports (s : State) (t : Task) : (s.setHere t).ports = s.ports := rfl
@[simp] theorem State.setHere_served (s : State) (t : Task) : (s.setHere t).served = s.served := rfl
@[simp] theorem State.setHere_stkcap (s : State) (t : Task) : (s.setHere t).stkcap = s.stkcap := rfl
@[simp] theorem State.setHere_eccstat (s : State) (t : Task) : (s.setHere t).eccstat = s.eccstat := rfl
@[simp] theorem State.setHere_modNum (s : State) (t : Task) : (s.setHere t).modNum = s.modNum := rfl
@[simp] theorem State.setHere_disabled (s : State) (t : Task) : (s.setHere t).disabled = s.disabled := rfl
@[simp] theorem State.setHere_domshape (s : State) (t : Task) : (s.setHere t).domshape = s.domshape := rfl
@[simp] theorem State.setHere_ready (s : State) (t : Task) : (s.setHere t).ready = s.ready := rfl
@[simp] theorem State.setHere_ready1 (s : State) (t : Task) : (s.setHere t).ready1 = s.ready1 := rfl
@[simp] theorem State.setHere_bootstat (s : State) (t : Task) : (s.setHere t).bootstat = s.bootstat := rfl
@[simp] theorem State.setHere_bootsrc (s : State) (t : Task) : (s.setHere t).bootsrc = s.bootsrc := rfl
@[simp] theorem State.setHere_timedisc (s : State) (t : Task) : (s.setHere t).timedisc = s.timedisc := rfl
@[simp] theorem State.setHere_hostdrop (s : State) (t : Task) : (s.setHere t).hostdrop = s.hostdrop := rfl
@[simp] theorem State.setHere_mailbox (s : State) (t : Task) : (s.setHere t).mailbox = s.mailbox := rfl
@[simp] theorem State.setHere_hostbox (s : State) (t : Task) : (s.setHere t).hostbox = s.hostbox := rfl
@[simp] theorem State.setHere_portDrop (s : State) (t : Task) : (s.setHere t).portDrop = s.portDrop := rfl
@[simp] theorem State.setHere_wheels (s : State) (t : Task) : (s.setHere t).wheels = s.wheels := rfl
@[simp] theorem State.setHere_slotOwner (s : State) (t : Task) : (s.setHere t).slotOwner = s.slotOwner := rfl
@[simp] theorem State.setHere_slotMask (s : State) (t : Task) : (s.setHere t).slotMask = s.slotMask := rfl
@[simp] theorem State.setHere_lastServed (s : State) (t : Task) : (s.setHere t).lastServed = s.lastServed := rfl
@[simp] theorem State.setHere_servedAt (s : State) (t : Task) : (s.setHere t).servedAt = s.servedAt := rfl
@[simp] theorem State.setHere_tx (s : State) (t : Task) : (s.setHere t).tx = s.tx := rfl
@[simp] theorem State.setHere_rx (s : State) (t : Task) : (s.setHere t).rx = s.rx := rfl
@[simp] theorem State.setHere_flits (s : State) (t : Task) : (s.setHere t).flits = s.flits := rfl
@[simp] theorem State.setHere_nextFlit (s : State) (t : Task) : (s.setHere t).nextFlit = s.nextFlit := rfl
@[simp] theorem State.setHere_landings (s : State) (t : Task) : (s.setHere t).landings = s.landings := rfl
@[simp] theorem State.setHere_orphans (s : State) (t : Task) : (s.setHere t).orphans = s.orphans := rfl
@[simp] theorem State.setHere_sorus (s : State) (t : Task) : (s.setHere t).sorus = s.sorus := rfl
@[simp] theorem State.setHere_meas (s : State) (t : Task) : (s.setHere t).meas = s.meas := rfl
@[simp] theorem State.setHere_island (s : State) (t : Task) : (s.setHere t).island = s.island := rfl
@[simp] theorem State.setHere_volt (s : State) (t : Task) : (s.setHere t).volt = s.volt := rfl
@[simp] theorem State.setHere_rails (s : State) (t : Task) : (s.setHere t).rails = s.rails := rfl
@[simp] theorem State.setHere_pwrok (s : State) (t : Task) : (s.setHere t).pwrok = s.pwrok := rfl
@[simp] theorem State.setHere_thermtrip (s : State) (t : Task) : (s.setHere t).thermtrip = s.thermtrip := rfl
@[simp] theorem State.setHere_ide (s : State) (t : Task) : (s.setHere t).ide = s.ide := rfl
@[simp] theorem State.setHere_parts (s : State) (t : Task) : (s.setHere t).parts = s.parts := rfl
@[simp] theorem State.setHere_out (s : State) (t : Task) : (s.setHere t).out = s.out := rfl

@[simp] theorem State.setMe_cur (s : State) (u : Seq) : (s.setMe u).cur = s.cur := rfl
@[simp] theorem State.setMe_pick (s : State) (u : Seq) : (s.setMe u).pick = s.pick := rfl
@[simp] theorem State.setMe_agenda (s : State) (u : Seq) : (s.setMe u).agenda = s.agenda := rfl
@[simp] theorem State.setMe_moves (s : State) (u : Seq) : (s.setMe u).moves = s.moves := rfl
@[simp] theorem State.setMe_mcc (s : State) (u : Seq) : (s.setMe u).mcc = s.mcc := rfl
@[simp] theorem State.setMe_gt (s : State) (u : Seq) : (s.setMe u).gt = s.gt := rfl
@[simp] theorem State.setMe_slew (s : State) (u : Seq) : (s.setMe u).slew = s.slew := rfl
@[simp] theorem State.setMe_timelock (s : State) (u : Seq) : (s.setMe u).timelock = s.timelock := rfl
@[simp] theorem State.setMe_lockedOnce (s : State) (u : Seq) : (s.setMe u).lockedOnce = s.lockedOnce := rfl
@[simp] theorem State.setMe_hbm (s : State) (u : Seq) : (s.setMe u).hbm = s.hbm := rfl
@[simp] theorem State.setMe_poison (s : State) (u : Seq) : (s.setMe u).poison = s.poison := rfl
@[simp] theorem State.setMe_errs (s : State) (u : Seq) : (s.setMe u).errs = s.errs := rfl
@[simp] theorem State.setMe_ports (s : State) (u : Seq) : (s.setMe u).ports = s.ports := rfl
@[simp] theorem State.setMe_served (s : State) (u : Seq) : (s.setMe u).served = s.served := rfl
@[simp] theorem State.setMe_stkcap (s : State) (u : Seq) : (s.setMe u).stkcap = s.stkcap := rfl
@[simp] theorem State.setMe_eccstat (s : State) (u : Seq) : (s.setMe u).eccstat = s.eccstat := rfl
@[simp] theorem State.setMe_modNum (s : State) (u : Seq) : (s.setMe u).modNum = s.modNum := rfl
@[simp] theorem State.setMe_disabled (s : State) (u : Seq) : (s.setMe u).disabled = s.disabled := rfl
@[simp] theorem State.setMe_domshape (s : State) (u : Seq) : (s.setMe u).domshape = s.domshape := rfl
@[simp] theorem State.setMe_ready (s : State) (u : Seq) : (s.setMe u).ready = s.ready := rfl
@[simp] theorem State.setMe_ready1 (s : State) (u : Seq) : (s.setMe u).ready1 = s.ready1 := rfl
@[simp] theorem State.setMe_bootstat (s : State) (u : Seq) : (s.setMe u).bootstat = s.bootstat := rfl
@[simp] theorem State.setMe_bootsrc (s : State) (u : Seq) : (s.setMe u).bootsrc = s.bootsrc := rfl
@[simp] theorem State.setMe_timedisc (s : State) (u : Seq) : (s.setMe u).timedisc = s.timedisc := rfl
@[simp] theorem State.setMe_hostdrop (s : State) (u : Seq) : (s.setMe u).hostdrop = s.hostdrop := rfl
@[simp] theorem State.setMe_mailbox (s : State) (u : Seq) : (s.setMe u).mailbox = s.mailbox := rfl
@[simp] theorem State.setMe_hostbox (s : State) (u : Seq) : (s.setMe u).hostbox = s.hostbox := rfl
@[simp] theorem State.setMe_portDrop (s : State) (u : Seq) : (s.setMe u).portDrop = s.portDrop := rfl
@[simp] theorem State.setMe_wheels (s : State) (u : Seq) : (s.setMe u).wheels = s.wheels := rfl
@[simp] theorem State.setMe_slotOwner (s : State) (u : Seq) : (s.setMe u).slotOwner = s.slotOwner := rfl
@[simp] theorem State.setMe_slotMask (s : State) (u : Seq) : (s.setMe u).slotMask = s.slotMask := rfl
@[simp] theorem State.setMe_lastServed (s : State) (u : Seq) : (s.setMe u).lastServed = s.lastServed := rfl
@[simp] theorem State.setMe_servedAt (s : State) (u : Seq) : (s.setMe u).servedAt = s.servedAt := rfl
@[simp] theorem State.setMe_tx (s : State) (u : Seq) : (s.setMe u).tx = s.tx := rfl
@[simp] theorem State.setMe_rx (s : State) (u : Seq) : (s.setMe u).rx = s.rx := rfl
@[simp] theorem State.setMe_flits (s : State) (u : Seq) : (s.setMe u).flits = s.flits := rfl
@[simp] theorem State.setMe_nextFlit (s : State) (u : Seq) : (s.setMe u).nextFlit = s.nextFlit := rfl
@[simp] theorem State.setMe_landings (s : State) (u : Seq) : (s.setMe u).landings = s.landings := rfl
@[simp] theorem State.setMe_orphans (s : State) (u : Seq) : (s.setMe u).orphans = s.orphans := rfl
@[simp] theorem State.setMe_sorus (s : State) (u : Seq) : (s.setMe u).sorus = s.sorus := rfl
@[simp] theorem State.setMe_meas (s : State) (u : Seq) : (s.setMe u).meas = s.meas := rfl
@[simp] theorem State.setMe_island (s : State) (u : Seq) : (s.setMe u).island = s.island := rfl
@[simp] theorem State.setMe_volt (s : State) (u : Seq) : (s.setMe u).volt = s.volt := rfl
@[simp] theorem State.setMe_rails (s : State) (u : Seq) : (s.setMe u).rails = s.rails := rfl
@[simp] theorem State.setMe_pwrok (s : State) (u : Seq) : (s.setMe u).pwrok = s.pwrok := rfl
@[simp] theorem State.setMe_thermtrip (s : State) (u : Seq) : (s.setMe u).thermtrip = s.thermtrip := rfl
@[simp] theorem State.setMe_ide (s : State) (u : Seq) : (s.setMe u).ide = s.ide := rfl
@[simp] theorem State.setMe_parts (s : State) (u : Seq) : (s.setMe u).parts = s.parts := rfl
@[simp] theorem State.setMe_out (s : State) (u : Seq) : (s.setMe u).out = s.out := rfl

@[simp] theorem State.setTx_cur (s : State) (n : Nat) (w : TxWin) : (s.setTx n w).cur = s.cur := rfl
@[simp] theorem State.setTx_pick (s : State) (n : Nat) (w : TxWin) : (s.setTx n w).pick = s.pick := rfl
@[simp] theorem State.setTx_agenda (s : State) (n : Nat) (w : TxWin) : (s.setTx n w).agenda = s.agenda := rfl
@[simp] theorem State.setTx_moves (s : State) (n : Nat) (w : TxWin) : (s.setTx n w).moves = s.moves := rfl
@[simp] theorem State.setTx_mcc (s : State) (n : Nat) (w : TxWin) : (s.setTx n w).mcc = s.mcc := rfl
@[simp] theorem State.setTx_gt (s : State) (n : Nat) (w : TxWin) : (s.setTx n w).gt = s.gt := rfl
@[simp] theorem State.setTx_slew (s : State) (n : Nat) (w : TxWin) : (s.setTx n w).slew = s.slew := rfl
@[simp] theorem State.setTx_timelock (s : State) (n : Nat) (w : TxWin) : (s.setTx n w).timelock = s.timelock := rfl
@[simp] theorem State.setTx_lockedOnce (s : State) (n : Nat) (w : TxWin) : (s.setTx n w).lockedOnce = s.lockedOnce := rfl
@[simp] theorem State.setTx_hbm (s : State) (n : Nat) (w : TxWin) : (s.setTx n w).hbm = s.hbm := rfl
@[simp] theorem State.setTx_poison (s : State) (n : Nat) (w : TxWin) : (s.setTx n w).poison = s.poison := rfl
@[simp] theorem State.setTx_errs (s : State) (n : Nat) (w : TxWin) : (s.setTx n w).errs = s.errs := rfl
@[simp] theorem State.setTx_ports (s : State) (n : Nat) (w : TxWin) : (s.setTx n w).ports = s.ports := rfl
@[simp] theorem State.setTx_served (s : State) (n : Nat) (w : TxWin) : (s.setTx n w).served = s.served := rfl
@[simp] theorem State.setTx_stkcap (s : State) (n : Nat) (w : TxWin) : (s.setTx n w).stkcap = s.stkcap := rfl
@[simp] theorem State.setTx_eccstat (s : State) (n : Nat) (w : TxWin) : (s.setTx n w).eccstat = s.eccstat := rfl
@[simp] theorem State.setTx_modNum (s : State) (n : Nat) (w : TxWin) : (s.setTx n w).modNum = s.modNum := rfl
@[simp] theorem State.setTx_disabled (s : State) (n : Nat) (w : TxWin) : (s.setTx n w).disabled = s.disabled := rfl
@[simp] theorem State.setTx_domshape (s : State) (n : Nat) (w : TxWin) : (s.setTx n w).domshape = s.domshape := rfl
@[simp] theorem State.setTx_ready (s : State) (n : Nat) (w : TxWin) : (s.setTx n w).ready = s.ready := rfl
@[simp] theorem State.setTx_ready1 (s : State) (n : Nat) (w : TxWin) : (s.setTx n w).ready1 = s.ready1 := rfl
@[simp] theorem State.setTx_bootstat (s : State) (n : Nat) (w : TxWin) : (s.setTx n w).bootstat = s.bootstat := rfl
@[simp] theorem State.setTx_bootsrc (s : State) (n : Nat) (w : TxWin) : (s.setTx n w).bootsrc = s.bootsrc := rfl
@[simp] theorem State.setTx_timedisc (s : State) (n : Nat) (w : TxWin) : (s.setTx n w).timedisc = s.timedisc := rfl
@[simp] theorem State.setTx_hostdrop (s : State) (n : Nat) (w : TxWin) : (s.setTx n w).hostdrop = s.hostdrop := rfl
@[simp] theorem State.setTx_mailbox (s : State) (n : Nat) (w : TxWin) : (s.setTx n w).mailbox = s.mailbox := rfl
@[simp] theorem State.setTx_hostbox (s : State) (n : Nat) (w : TxWin) : (s.setTx n w).hostbox = s.hostbox := rfl
@[simp] theorem State.setTx_portDrop (s : State) (n : Nat) (w : TxWin) : (s.setTx n w).portDrop = s.portDrop := rfl
@[simp] theorem State.setTx_wheels (s : State) (n : Nat) (w : TxWin) : (s.setTx n w).wheels = s.wheels := rfl
@[simp] theorem State.setTx_slotOwner (s : State) (n : Nat) (w : TxWin) : (s.setTx n w).slotOwner = s.slotOwner := rfl
@[simp] theorem State.setTx_slotMask (s : State) (n : Nat) (w : TxWin) : (s.setTx n w).slotMask = s.slotMask := rfl
@[simp] theorem State.setTx_lastServed (s : State) (n : Nat) (w : TxWin) : (s.setTx n w).lastServed = s.lastServed := rfl
@[simp] theorem State.setTx_servedAt (s : State) (n : Nat) (w : TxWin) : (s.setTx n w).servedAt = s.servedAt := rfl
@[simp] theorem State.setTx_rx (s : State) (n : Nat) (w : TxWin) : (s.setTx n w).rx = s.rx := rfl
@[simp] theorem State.setTx_flits (s : State) (n : Nat) (w : TxWin) : (s.setTx n w).flits = s.flits := rfl
@[simp] theorem State.setTx_nextFlit (s : State) (n : Nat) (w : TxWin) : (s.setTx n w).nextFlit = s.nextFlit := rfl
@[simp] theorem State.setTx_landings (s : State) (n : Nat) (w : TxWin) : (s.setTx n w).landings = s.landings := rfl
@[simp] theorem State.setTx_orphans (s : State) (n : Nat) (w : TxWin) : (s.setTx n w).orphans = s.orphans := rfl
@[simp] theorem State.setTx_sorus (s : State) (n : Nat) (w : TxWin) : (s.setTx n w).sorus = s.sorus := rfl
@[simp] theorem State.setTx_meas (s : State) (n : Nat) (w : TxWin) : (s.setTx n w).meas = s.meas := rfl
@[simp] theorem State.setTx_island (s : State) (n : Nat) (w : TxWin) : (s.setTx n w).island = s.island := rfl
@[simp] theorem State.setTx_volt (s : State) (n : Nat) (w : TxWin) : (s.setTx n w).volt = s.volt := rfl
@[simp] theorem State.setTx_rails (s : State) (n : Nat) (w : TxWin) : (s.setTx n w).rails = s.rails := rfl
@[simp] theorem State.setTx_pwrok (s : State) (n : Nat) (w : TxWin) : (s.setTx n w).pwrok = s.pwrok := rfl
@[simp] theorem State.setTx_thermtrip (s : State) (n : Nat) (w : TxWin) : (s.setTx n w).thermtrip = s.thermtrip := rfl
@[simp] theorem State.setTx_ide (s : State) (n : Nat) (w : TxWin) : (s.setTx n w).ide = s.ide := rfl
@[simp] theorem State.setTx_cores (s : State) (n : Nat) (w : TxWin) : (s.setTx n w).cores = s.cores := rfl
@[simp] theorem State.setTx_parts (s : State) (n : Nat) (w : TxWin) : (s.setTx n w).parts = s.parts := rfl
@[simp] theorem State.setTx_out (s : State) (n : Nat) (w : TxWin) : (s.setTx n w).out = s.out := rfl

@[simp] theorem State.setRx_cur (s : State) (n : Nat) (w : RxWin) : (s.setRx n w).cur = s.cur := rfl
@[simp] theorem State.setRx_pick (s : State) (n : Nat) (w : RxWin) : (s.setRx n w).pick = s.pick := rfl
@[simp] theorem State.setRx_agenda (s : State) (n : Nat) (w : RxWin) : (s.setRx n w).agenda = s.agenda := rfl
@[simp] theorem State.setRx_moves (s : State) (n : Nat) (w : RxWin) : (s.setRx n w).moves = s.moves := rfl
@[simp] theorem State.setRx_mcc (s : State) (n : Nat) (w : RxWin) : (s.setRx n w).mcc = s.mcc := rfl
@[simp] theorem State.setRx_gt (s : State) (n : Nat) (w : RxWin) : (s.setRx n w).gt = s.gt := rfl
@[simp] theorem State.setRx_slew (s : State) (n : Nat) (w : RxWin) : (s.setRx n w).slew = s.slew := rfl
@[simp] theorem State.setRx_timelock (s : State) (n : Nat) (w : RxWin) : (s.setRx n w).timelock = s.timelock := rfl
@[simp] theorem State.setRx_lockedOnce (s : State) (n : Nat) (w : RxWin) : (s.setRx n w).lockedOnce = s.lockedOnce := rfl
@[simp] theorem State.setRx_hbm (s : State) (n : Nat) (w : RxWin) : (s.setRx n w).hbm = s.hbm := rfl
@[simp] theorem State.setRx_poison (s : State) (n : Nat) (w : RxWin) : (s.setRx n w).poison = s.poison := rfl
@[simp] theorem State.setRx_errs (s : State) (n : Nat) (w : RxWin) : (s.setRx n w).errs = s.errs := rfl
@[simp] theorem State.setRx_ports (s : State) (n : Nat) (w : RxWin) : (s.setRx n w).ports = s.ports := rfl
@[simp] theorem State.setRx_served (s : State) (n : Nat) (w : RxWin) : (s.setRx n w).served = s.served := rfl
@[simp] theorem State.setRx_stkcap (s : State) (n : Nat) (w : RxWin) : (s.setRx n w).stkcap = s.stkcap := rfl
@[simp] theorem State.setRx_eccstat (s : State) (n : Nat) (w : RxWin) : (s.setRx n w).eccstat = s.eccstat := rfl
@[simp] theorem State.setRx_modNum (s : State) (n : Nat) (w : RxWin) : (s.setRx n w).modNum = s.modNum := rfl
@[simp] theorem State.setRx_disabled (s : State) (n : Nat) (w : RxWin) : (s.setRx n w).disabled = s.disabled := rfl
@[simp] theorem State.setRx_domshape (s : State) (n : Nat) (w : RxWin) : (s.setRx n w).domshape = s.domshape := rfl
@[simp] theorem State.setRx_ready (s : State) (n : Nat) (w : RxWin) : (s.setRx n w).ready = s.ready := rfl
@[simp] theorem State.setRx_ready1 (s : State) (n : Nat) (w : RxWin) : (s.setRx n w).ready1 = s.ready1 := rfl
@[simp] theorem State.setRx_bootstat (s : State) (n : Nat) (w : RxWin) : (s.setRx n w).bootstat = s.bootstat := rfl
@[simp] theorem State.setRx_bootsrc (s : State) (n : Nat) (w : RxWin) : (s.setRx n w).bootsrc = s.bootsrc := rfl
@[simp] theorem State.setRx_timedisc (s : State) (n : Nat) (w : RxWin) : (s.setRx n w).timedisc = s.timedisc := rfl
@[simp] theorem State.setRx_hostdrop (s : State) (n : Nat) (w : RxWin) : (s.setRx n w).hostdrop = s.hostdrop := rfl
@[simp] theorem State.setRx_mailbox (s : State) (n : Nat) (w : RxWin) : (s.setRx n w).mailbox = s.mailbox := rfl
@[simp] theorem State.setRx_hostbox (s : State) (n : Nat) (w : RxWin) : (s.setRx n w).hostbox = s.hostbox := rfl
@[simp] theorem State.setRx_portDrop (s : State) (n : Nat) (w : RxWin) : (s.setRx n w).portDrop = s.portDrop := rfl
@[simp] theorem State.setRx_wheels (s : State) (n : Nat) (w : RxWin) : (s.setRx n w).wheels = s.wheels := rfl
@[simp] theorem State.setRx_slotOwner (s : State) (n : Nat) (w : RxWin) : (s.setRx n w).slotOwner = s.slotOwner := rfl
@[simp] theorem State.setRx_slotMask (s : State) (n : Nat) (w : RxWin) : (s.setRx n w).slotMask = s.slotMask := rfl
@[simp] theorem State.setRx_lastServed (s : State) (n : Nat) (w : RxWin) : (s.setRx n w).lastServed = s.lastServed := rfl
@[simp] theorem State.setRx_servedAt (s : State) (n : Nat) (w : RxWin) : (s.setRx n w).servedAt = s.servedAt := rfl
@[simp] theorem State.setRx_tx (s : State) (n : Nat) (w : RxWin) : (s.setRx n w).tx = s.tx := rfl
@[simp] theorem State.setRx_flits (s : State) (n : Nat) (w : RxWin) : (s.setRx n w).flits = s.flits := rfl
@[simp] theorem State.setRx_nextFlit (s : State) (n : Nat) (w : RxWin) : (s.setRx n w).nextFlit = s.nextFlit := rfl
@[simp] theorem State.setRx_landings (s : State) (n : Nat) (w : RxWin) : (s.setRx n w).landings = s.landings := rfl
@[simp] theorem State.setRx_orphans (s : State) (n : Nat) (w : RxWin) : (s.setRx n w).orphans = s.orphans := rfl
@[simp] theorem State.setRx_sorus (s : State) (n : Nat) (w : RxWin) : (s.setRx n w).sorus = s.sorus := rfl
@[simp] theorem State.setRx_meas (s : State) (n : Nat) (w : RxWin) : (s.setRx n w).meas = s.meas := rfl
@[simp] theorem State.setRx_island (s : State) (n : Nat) (w : RxWin) : (s.setRx n w).island = s.island := rfl
@[simp] theorem State.setRx_volt (s : State) (n : Nat) (w : RxWin) : (s.setRx n w).volt = s.volt := rfl
@[simp] theorem State.setRx_rails (s : State) (n : Nat) (w : RxWin) : (s.setRx n w).rails = s.rails := rfl
@[simp] theorem State.setRx_pwrok (s : State) (n : Nat) (w : RxWin) : (s.setRx n w).pwrok = s.pwrok := rfl
@[simp] theorem State.setRx_thermtrip (s : State) (n : Nat) (w : RxWin) : (s.setRx n w).thermtrip = s.thermtrip := rfl
@[simp] theorem State.setRx_ide (s : State) (n : Nat) (w : RxWin) : (s.setRx n w).ide = s.ide := rfl
@[simp] theorem State.setRx_cores (s : State) (n : Nat) (w : RxWin) : (s.setRx n w).cores = s.cores := rfl
@[simp] theorem State.setRx_parts (s : State) (n : Nat) (w : RxWin) : (s.setRx n w).parts = s.parts := rfl
@[simp] theorem State.setRx_out (s : State) (n : Nat) (w : RxWin) : (s.setRx n w).out = s.out := rfl

@[simp] theorem State.say_cur (s : State) (m : Msg) : (s.say m).cur = s.cur := rfl
@[simp] theorem State.say_pick (s : State) (m : Msg) : (s.say m).pick = s.pick := rfl
@[simp] theorem State.say_agenda (s : State) (m : Msg) : (s.say m).agenda = s.agenda := rfl
@[simp] theorem State.say_moves (s : State) (m : Msg) : (s.say m).moves = s.moves := rfl
@[simp] theorem State.say_mcc (s : State) (m : Msg) : (s.say m).mcc = s.mcc := rfl
@[simp] theorem State.say_gt (s : State) (m : Msg) : (s.say m).gt = s.gt := rfl
@[simp] theorem State.say_slew (s : State) (m : Msg) : (s.say m).slew = s.slew := rfl
@[simp] theorem State.say_timelock (s : State) (m : Msg) : (s.say m).timelock = s.timelock := rfl
@[simp] theorem State.say_lockedOnce (s : State) (m : Msg) : (s.say m).lockedOnce = s.lockedOnce := rfl
@[simp] theorem State.say_hbm (s : State) (m : Msg) : (s.say m).hbm = s.hbm := rfl
@[simp] theorem State.say_poison (s : State) (m : Msg) : (s.say m).poison = s.poison := rfl
@[simp] theorem State.say_errs (s : State) (m : Msg) : (s.say m).errs = s.errs := rfl
@[simp] theorem State.say_ports (s : State) (m : Msg) : (s.say m).ports = s.ports := rfl
@[simp] theorem State.say_served (s : State) (m : Msg) : (s.say m).served = s.served := rfl
@[simp] theorem State.say_stkcap (s : State) (m : Msg) : (s.say m).stkcap = s.stkcap := rfl
@[simp] theorem State.say_eccstat (s : State) (m : Msg) : (s.say m).eccstat = s.eccstat := rfl
@[simp] theorem State.say_modNum (s : State) (m : Msg) : (s.say m).modNum = s.modNum := rfl
@[simp] theorem State.say_disabled (s : State) (m : Msg) : (s.say m).disabled = s.disabled := rfl
@[simp] theorem State.say_domshape (s : State) (m : Msg) : (s.say m).domshape = s.domshape := rfl
@[simp] theorem State.say_ready (s : State) (m : Msg) : (s.say m).ready = s.ready := rfl
@[simp] theorem State.say_ready1 (s : State) (m : Msg) : (s.say m).ready1 = s.ready1 := rfl
@[simp] theorem State.say_bootstat (s : State) (m : Msg) : (s.say m).bootstat = s.bootstat := rfl
@[simp] theorem State.say_bootsrc (s : State) (m : Msg) : (s.say m).bootsrc = s.bootsrc := rfl
@[simp] theorem State.say_timedisc (s : State) (m : Msg) : (s.say m).timedisc = s.timedisc := rfl
@[simp] theorem State.say_hostdrop (s : State) (m : Msg) : (s.say m).hostdrop = s.hostdrop := rfl
@[simp] theorem State.say_mailbox (s : State) (m : Msg) : (s.say m).mailbox = s.mailbox := rfl
@[simp] theorem State.say_hostbox (s : State) (m : Msg) : (s.say m).hostbox = s.hostbox := rfl
@[simp] theorem State.say_portDrop (s : State) (m : Msg) : (s.say m).portDrop = s.portDrop := rfl
@[simp] theorem State.say_wheels (s : State) (m : Msg) : (s.say m).wheels = s.wheels := rfl
@[simp] theorem State.say_slotOwner (s : State) (m : Msg) : (s.say m).slotOwner = s.slotOwner := rfl
@[simp] theorem State.say_slotMask (s : State) (m : Msg) : (s.say m).slotMask = s.slotMask := rfl
@[simp] theorem State.say_lastServed (s : State) (m : Msg) : (s.say m).lastServed = s.lastServed := rfl
@[simp] theorem State.say_servedAt (s : State) (m : Msg) : (s.say m).servedAt = s.servedAt := rfl
@[simp] theorem State.say_tx (s : State) (m : Msg) : (s.say m).tx = s.tx := rfl
@[simp] theorem State.say_rx (s : State) (m : Msg) : (s.say m).rx = s.rx := rfl
@[simp] theorem State.say_flits (s : State) (m : Msg) : (s.say m).flits = s.flits := rfl
@[simp] theorem State.say_nextFlit (s : State) (m : Msg) : (s.say m).nextFlit = s.nextFlit := rfl
@[simp] theorem State.say_landings (s : State) (m : Msg) : (s.say m).landings = s.landings := rfl
@[simp] theorem State.say_orphans (s : State) (m : Msg) : (s.say m).orphans = s.orphans := rfl
@[simp] theorem State.say_sorus (s : State) (m : Msg) : (s.say m).sorus = s.sorus := rfl
@[simp] theorem State.say_meas (s : State) (m : Msg) : (s.say m).meas = s.meas := rfl
@[simp] theorem State.say_island (s : State) (m : Msg) : (s.say m).island = s.island := rfl
@[simp] theorem State.say_volt (s : State) (m : Msg) : (s.say m).volt = s.volt := rfl
@[simp] theorem State.say_rails (s : State) (m : Msg) : (s.say m).rails = s.rails := rfl
@[simp] theorem State.say_pwrok (s : State) (m : Msg) : (s.say m).pwrok = s.pwrok := rfl
@[simp] theorem State.say_thermtrip (s : State) (m : Msg) : (s.say m).thermtrip = s.thermtrip := rfl
@[simp] theorem State.say_ide (s : State) (m : Msg) : (s.say m).ide = s.ide := rfl
@[simp] theorem State.say_cores (s : State) (m : Msg) : (s.say m).cores = s.cores := rfl
@[simp] theorem State.say_parts (s : State) (m : Msg) : (s.say m).parts = s.parts := rfl

@[simp] theorem Core.setTask_spad (c : Core) (b : Nat) (t : Option Task) : (c.setTask b t).spad = c.spad := by unfold Core.setTask; split <;> rfl
@[simp] theorem Core.setTask_spadBad (c : Core) (b : Nat) (t : Option Task) : (c.setTask b t).spadBad = c.spadBad := by unfold Core.setTask; split <;> rfl
@[simp] theorem Core.setTask_tags (c : Core) (b : Nat) (t : Option Task) : (c.setTask b t).tags = c.tags := by unfold Core.setTask; split <;> rfl
@[simp] theorem Core.setTask_bank (c : Core) (b : Nat) (t : Option Task) : (c.setTask b t).bank = c.bank := by unfold Core.setTask; split <;> rfl
@[simp] theorem Core.setTask_wheel (c : Core) (b : Nat) (t : Option Task) : (c.setTask b t).wheel = c.wheel := by unfold Core.setTask; split <;> rfl

@[simp] theorem Task.setSeq_part (t : Task) (q : SeqId) (u : Seq) : (t.setSeq q u).part = t.part := by cases q <;> rfl
@[simp] theorem Task.setSeq_launch (t : Task) (q : SeqId) (u : Seq) : (t.setSeq q u).launch = t.launch := by cases q <;> rfl
@[simp] theorem Task.setSeq_rank (t : Task) (q : SeqId) (u : Seq) : (t.setSeq q u).rank = t.rank := by cases q <;> rfl
@[simp] theorem Task.setSeq_prio (t : Task) (q : SeqId) (u : Seq) : (t.setSeq q u).prio = t.prio := by cases q <;> rfl
@[simp] theorem Task.setSeq_priv (t : Task) (q : SeqId) (u : Seq) : (t.setSeq q u).priv = t.priv := by cases q <;> rfl
@[simp] theorem Task.setSeq_timed (t : Task) (q : SeqId) (u : Seq) : (t.setSeq q u).timed = t.timed := by cases q <;> rfl
@[simp] theorem Task.setSeq_hold (t : Task) (q : SeqId) (u : Seq) : (t.setSeq q u).hold = t.hold := by cases q <;> rfl
@[simp] theorem Task.setSeq_late (t : Task) (q : SeqId) (u : Seq) : (t.setSeq q u).late = t.late := by cases q <;> rfl
@[simp] theorem Task.setSeq_cutting (t : Task) (q : SeqId) (u : Seq) : (t.setSeq q u).cutting = t.cutting := by cases q <;> rfl
@[simp] theorem Task.setSeq_trapId (t : Task) (q : SeqId) (u : Seq) : (t.setSeq q u).trapId = t.trapId := by cases q <;> rfl
@[simp] theorem Task.setSeq_tok (t : Task) (q : SeqId) (u : Seq) : (t.setSeq q u).tok = t.tok := by cases q <;> rfl
@[simp] theorem Task.setSeq_resv (t : Task) (q : SeqId) (u : Seq) : (t.setSeq q u).resv = t.resv := by cases q <;> rfl
@[simp] theorem Task.setSeq_psig (t : Task) (q : SeqId) (u : Seq) : (t.setSeq q u).psig = t.psig := by cases q <;> rfl
@[simp] theorem Task.setSeq_pqT (t : Task) (q : SeqId) (u : Seq) : (t.setSeq q u).pqT = t.pqT := by cases q <;> rfl
@[simp] theorem Task.setSeq_pqV (t : Task) (q : SeqId) (u : Seq) : (t.setSeq q u).pqV = t.pqV := by cases q <;> rfl
@[simp] theorem Task.setSeq_pqM (t : Task) (q : SeqId) (u : Seq) : (t.setSeq q u).pqM = t.pqM := by cases q <;> rfl
@[simp] theorem Task.setSeq_heldV (t : Task) (q : SeqId) (u : Seq) : (t.setSeq q u).heldV = t.heldV := by cases q <;> rfl
@[simp] theorem Task.setSeq_heldTaken (t : Task) (q : SeqId) (u : Seq) : (t.setSeq q u).heldTaken = t.heldTaken := by cases q <;> rfl
@[simp] theorem Task.setSeq_fq (t : Task) (q : SeqId) (u : Seq) : (t.setSeq q u).fq = t.fq := by cases q <;> rfl
@[simp] theorem Task.setSeq_key (t : Task) (q : SeqId) (u : Seq) : (t.setSeq q u).key = t.key := by cases q <;> rfl
@[simp] theorem Task.setSeq_cbase (t : Task) (q : SeqId) (u : Seq) : (t.setSeq q u).cbase = t.cbase := by cases q <;> rfl
@[simp] theorem Task.setSeq_sbase (t : Task) (q : SeqId) (u : Seq) : (t.setSeq q u).sbase = t.sbase := by cases q <;> rfl
@[simp] theorem Task.setSeq_rfstat (t : Task) (q : SeqId) (u : Seq) : (t.setSeq q u).rfstat = t.rfstat := by cases q <;> rfl
@[simp] theorem Task.setSeq_tfirst (t : Task) (q : SeqId) (u : Seq) : (t.setSeq q u).tfirst = t.tfirst := by cases q <;> rfl
@[simp] theorem Task.setSeq_tend (t : Task) (q : SeqId) (u : Seq) : (t.setSeq q u).tend = t.tend := by cases q <;> rfl
@[simp] theorem Task.setSeq_paramb (t : Task) (q : SeqId) (u : Seq) : (t.setSeq q u).paramb = t.paramb := by cases q <;> rfl
@[simp] theorem Task.setSeq_opbase (t : Task) (q : SeqId) (u : Seq) : (t.setSeq q u).opbase = t.opbase := by cases q <;> rfl
@[simp] theorem Task.setSeq_failw (t : Task) (q : SeqId) (u : Seq) : (t.setSeq q u).failw = t.failw := by cases q <;> rfl
@[simp] theorem Task.setSeq_phases (t : Task) (q : SeqId) (u : Seq) : (t.setSeq q u).phases = t.phases := by cases q <;> rfl
@[simp] theorem Task.setSeq_extents (t : Task) (q : SeqId) (u : Seq) : (t.setSeq q u).extents = t.extents := by cases q <;> rfl
@[simp] theorem Task.setSeq_vreg (t : Task) (q : SeqId) (u : Seq) : (t.setSeq q u).vreg = t.vreg := by cases q <;> rfl
@[simp] theorem Task.setSeq_preg (t : Task) (q : SeqId) (u : Seq) : (t.setSeq q u).preg = t.preg := by cases q <;> rfl
@[simp] theorem Task.setSeq_kreg (t : Task) (q : SeqId) (u : Seq) : (t.setSeq q u).kreg = t.kreg := by cases q <;> rfl
@[simp] theorem Task.setSeq_vl (t : Task) (q : SeqId) (u : Seq) : (t.setSeq q u).vl = t.vl := by cases q <;> rfl
@[simp] theorem Task.setSeq_vcsr (t : Task) (q : SeqId) (u : Seq) : (t.setSeq q u).vcsr = t.vcsr := by cases q <;> rfl
@[simp] theorem Task.setSeq_vrb (t : Task) (q : SeqId) (u : Seq) : (t.setSeq q u).vrb = t.vrb := by cases q <;> rfl
@[simp] theorem Task.setSeq_acc (t : Task) (q : SeqId) (u : Seq) : (t.setSeq q u).acc = t.acc := by cases q <;> rfl
@[simp] theorem Task.setSeq_version (t : Task) (q : SeqId) (u : Seq) : (t.setSeq q u).version = t.version := by cases q <;> rfl
@[simp] theorem Task.setSeq_w (t : Task) (q : SeqId) (u : Seq) : (t.setSeq q u).w = t.w := by cases q <;> rfl
@[simp] theorem Task.setSeq_wfmt (t : Task) (q : SeqId) (u : Seq) : (t.setSeq q u).wfmt = t.wfmt := by cases q <;> rfl
@[simp] theorem Task.setSeq_w8 (t : Task) (q : SeqId) (u : Seq) : (t.setSeq q u).w8 = t.w8 := by cases q <;> rfl
@[simp] theorem Task.setSeq_wlast (t : Task) (q : SeqId) (u : Seq) : (t.setSeq q u).wlast = t.wlast := by cases q <;> rfl
@[simp] theorem Task.setSeq_eps (t : Task) (q : SeqId) (u : Seq) : (t.setSeq q u).eps = t.eps := by cases q <;> rfl
@[simp] theorem Task.setSeq_bm (t : Task) (q : SeqId) (u : Seq) : (t.setSeq q u).bm = t.bm := by cases q <;> rfl
@[simp] theorem Task.setSeq_scType (t : Task) (q : SeqId) (u : Seq) : (t.setSeq q u).scType = t.scType := by cases q <;> rfl
@[simp] theorem Task.setSeq_scOp (t : Task) (q : SeqId) (u : Seq) : (t.setSeq q u).scOp = t.scOp := by cases q <;> rfl
@[simp] theorem Task.setSeq_taken (t : Task) (q : SeqId) (u : Seq) : (t.setSeq q u).taken = t.taken := by cases q <;> rfl
@[simp] theorem Task.setSeq_sent (t : Task) (q : SeqId) (u : Seq) : (t.setSeq q u).sent = t.sent := by cases q <;> rfl
@[simp] theorem Task.setSeq_replay (t : Task) (q : SeqId) (u : Seq) : (t.setSeq q u).replay = t.replay := by cases q <;> rfl
@[simp] theorem Task.setSeq_atRegion (t : Task) (q : SeqId) (u : Seq) : (t.setSeq q u).atRegion = t.atRegion := by cases q <;> rfl
@[simp] theorem Task.setSeq_credit (t : Task) (q : SeqId) (u : Seq) : (t.setSeq q u).credit = t.credit := by cases q <;> rfl
@[simp] theorem Task.setSeq_mute (t : Task) (q : SeqId) (u : Seq) : (t.setSeq q u).mute = t.mute := by cases q <;> rfl
@[simp] theorem Task.setSeq_owed (t : Task) (q : SeqId) (u : Seq) : (t.setSeq q u).owed = t.owed := by cases q <;> rfl
@[simp] theorem Task.setSeq_regVl (t : Task) (q : SeqId) (u : Seq) : (t.setSeq q u).regVl = t.regVl := by cases q <;> rfl
@[simp] theorem Task.setSeq_regVrb (t : Task) (q : SeqId) (u : Seq) : (t.setSeq q u).regVrb = t.regVrb := by cases q <;> rfl
@[simp] theorem Task.setSeq_regVcsr (t : Task) (q : SeqId) (u : Seq) : (t.setSeq q u).regVcsr = t.regVcsr := by cases q <;> rfl
@[simp] theorem Task.setSeq_firstIssue (t : Task) (q : SeqId) (u : Seq) : (t.setSeq q u).firstIssue = t.firstIssue := by cases q <;> rfl
@[simp] theorem Task.setSeq_bad (t : Task) (q : SeqId) (u : Seq) : (t.setSeq q u).bad = t.bad := by cases q <;> rfl

@[simp] theorem Seq.setReg_stream (u : Seq) (r : Nat) (v : Word) : (u.setReg r v).stream = u.stream := by unfold Seq.setReg; split <;> rfl
@[simp] theorem Seq.setReg_pc (u : Seq) (r : Nat) (v : Word) : (u.setReg r v).pc = u.pc := by unfold Seq.setReg; split <;> rfl
@[simp] theorem Seq.setReg_tick (u : Seq) (r : Nat) (v : Word) : (u.setReg r v).tick = u.tick := by unfold Seq.setReg; split <;> rfl
@[simp] theorem Seq.setReg_seqno (u : Seq) (r : Nat) (v : Word) : (u.setReg r v).seqno = u.seqno := by unfold Seq.setReg; split <;> rfl
@[simp] theorem Seq.setReg_lastRegion (u : Seq) (r : Nat) (v : Word) : (u.setReg r v).lastRegion = u.lastRegion := by unfold Seq.setReg; split <;> rfl
@[simp] theorem Seq.setReg_regionNo (u : Seq) (r : Nat) (v : Word) : (u.setReg r v).regionNo = u.regionNo := by unfold Seq.setReg; split <;> rfl
@[simp] theorem Seq.setReg_wait (u : Seq) (r : Nat) (v : Word) : (u.setReg r v).wait = u.wait := by unfold Seq.setReg; split <;> rfl
@[simp] theorem Seq.setReg_prog (u : Seq) (r : Nat) (v : Word) : (u.setReg r v).prog = u.prog := by unfold Seq.setReg; split <;> rfl
@[simp] theorem Seq.setReg_pend (u : Seq) (r : Nat) (v : Word) : (u.setReg r v).pend = u.pend := by unfold Seq.setReg; split <;> rfl
@[simp] theorem Seq.setReg_flights (u : Seq) (r : Nat) (v : Word) : (u.setReg r v).flights = u.flights := by unfold Seq.setReg; split <;> rfl
@[simp] theorem Seq.setReg_stores (u : Seq) (r : Nat) (v : Word) : (u.setReg r v).stores = u.stores := by unfold Seq.setReg; split <;> rfl
@[simp] theorem Seq.setReg_nextId (u : Seq) (r : Nat) (v : Word) : (u.setReg r v).nextId = u.nextId := by unfold Seq.setReg; split <;> rfl
@[simp] theorem Seq.setReg_timed (u : Seq) (r : Nat) (v : Word) : (u.setReg r v).timed = u.timed := by unfold Seq.setReg; split <;> rfl
@[simp] theorem Seq.setReg_lastIssue (u : Seq) (r : Nat) (v : Word) : (u.setReg r v).lastIssue = u.lastIssue := by unfold Seq.setReg; split <;> rfl
@[simp] theorem Seq.setReg_nextFree (u : Seq) (r : Nat) (v : Word) : (u.setReg r v).nextFree = u.nextFree := by unfold Seq.setReg; split <;> rfl
@[simp] theorem Seq.setReg_armed (u : Seq) (r : Nat) (v : Word) : (u.setReg r v).armed = u.armed := by unfold Seq.setReg; split <;> rfl
@[simp] theorem Seq.setReg_alignAt (u : Seq) (r : Nat) (v : Word) : (u.setReg r v).alignAt = u.alignAt := by unfold Seq.setReg; split <;> rfl
@[simp] theorem Seq.setReg_tickAt (u : Seq) (r : Nat) (v : Word) : (u.setReg r v).tickAt = u.tickAt := by unfold Seq.setReg; split <;> rfl
@[simp] theorem Seq.setReg_head (u : Seq) (r : Nat) (v : Word) : (u.setReg r v).head = u.head := by unfold Seq.setReg; split <;> rfl
@[simp] theorem Seq.setReg_early (u : Seq) (r : Nat) (v : Word) : (u.setReg r v).early = u.early := by unfold Seq.setReg; split <;> rfl

end Sys2Proof.Machine
end

