-- ==== Sys2Proof/Laws/Access.lean ====
section
/-! SUPPORT. Reading a core, a task, a sequencer or a register back after it has been written. -/

namespace Sys2Proof.Machine

theorem State.core_setCore (s : State) (n m : Nat) (c : Core) : (s.setCore n c).core m = if m = n then c else s.core m := by
  simp [State.core, State.setCore, Sparse.get_set]

@[simp] theorem State.core_setCore_same (s : State) (n : Nat) (c : Core) : (s.setCore n c).core n = c := by
  simp [State.core_setCore]

@[simp] theorem State.setCore_setCore (s : State) (n : Nat) (c d : Core) : (s.setCore n d).setCore n c = s.setCore n c := by
  simp [State.setCore]

theorem State.part_setPart (s : State) (n m : Nat) (p : Partition) : (s.setPart n p).part m = if m = n then p else s.part m := by
  simp [State.part, State.setPart, Sparse.get_set]

@[simp] theorem State.part_setPart_same (s : State) (n : Nat) (p : Partition) : (s.setPart n p).part n = p := by
  simp [State.part_setPart]

@[simp] theorem State.setPart_setPart (s : State) (n : Nat) (p r : Partition) : (s.setPart n r).setPart n p = s.setPart n p := by
  simp [State.setPart]

@[simp] theorem Core.setTask_setTask (c : Core) (b : Nat) (t u : Option Task) : (c.setTask b u).setTask b t = c.setTask b t := by
  unfold Core.setTask; split <;> rfl

@[simp] theorem Core.task?_setTask (c : Core) (b : Nat) (t : Option Task) : (c.setTask b t).task? b = t := by
  unfold Core.setTask Core.task?; split <;> simp_all

@[simp] theorem State.setTask_setTask (s : State) (n b : Nat) (t u : Option Task) : (s.setTask n b u).setTask n b t = s.setTask n b t := by
  simp [State.setTask]

@[simp] theorem State.task?_setTask (s : State) (n b : Nat) (t : Option Task) : (s.setTask n b t).task? n b = t := by
  simp [State.setTask, State.task?]

@[simp] theorem State.bankOf_setTask (s : State) (n b m : Nat) (t : Option Task) : (s.setTask n b t).bankOf m = s.bankOf m := by
  simp only [State.bankOf, State.setTask, State.core_setCore]
  split <;> simp [*]

@[simp] theorem State.spad_setTask (s : State) (n b m : Nat) (t : Option Task) : ((s.setTask n b t).core m).spad = (s.core m).spad := by
  simp only [State.setTask, State.core_setCore]
  split <;> simp [*]

@[simp] theorem State.spadBad_setTask (s : State) (n b m : Nat) (t : Option Task) :
    ((s.setTask n b t).core m).spadBad = (s.core m).spadBad := by
  simp only [State.setTask, State.core_setCore]
  split <;> simp [*]

@[simp] theorem State.tags_setTask (s : State) (n b m : Nat) (t : Option Task) : ((s.setTask n b t).core m).tags = (s.core m).tags := by
  simp only [State.setTask, State.core_setCore]
  split <;> simp [*]

@[simp] theorem State.wheel_setTask (s : State) (n b m : Nat) (t : Option Task) : ((s.setTask n b t).core m).wheel = (s.core m).wheel := by
  simp only [State.setTask, State.core_setCore]
  split <;> simp [*]

@[simp] theorem State.part_setTask (s : State) (n b m : Nat) (t : Option Task) : (s.setTask n b t).part m = s.part m := rfl
@[simp] theorem State.part_setHere (s : State) (t : Task) (m : Nat) : (s.setHere t).part m = s.part m := rfl
@[simp] theorem State.dcc_setHere (s : State) (t : Task) (m : Nat) : (s.setHere t).dcc m = s.dcc m := rfl

@[simp] theorem Task.seq_setSeq (t : Task) (q : SeqId) (u : Seq) : (t.setSeq q u).seq q = u := by cases q <;> rfl
@[simp] theorem Task.setSeq_setSeq (t : Task) (q : SeqId) (u v : Seq) : (t.setSeq q v).setSeq q u = t.setSeq q u := by cases q <;> rfl
@[simp] theorem Task.setSeq_seq (t : Task) (q : SeqId) : t.setSeq q (t.seq q) = t := by cases q <;> rfl
theorem Task.seq_setSeq_other (t : Task) (q r : SeqId) (u : Seq) (h : r ≠ q) : (t.setSeq q u).seq r = t.seq r := by
  cases q <;> cases r <;> first | rfl | exact absurd rfl h

theorem State.setHere_eq (s : State) (t : Task) : s.setHere t = s.setTask s.cur.core (s.bankOf s.cur.core) (some t) := rfl

@[simp] theorem State.bankOf_setHere (s : State) (t : Task) (m : Nat) : (s.setHere t).bankOf m = s.bankOf m := by
  simp [State.setHere_eq]

@[simp] theorem State.here_setHere (s : State) (t : Task) : (s.setHere t).here = t := by
  simp [State.here, State.setHere_eq]

@[simp] theorem State.setHere_setHere (s : State) (t u : Task) : (s.setHere u).setHere t = s.setHere t := by
  simp [State.setHere_eq]

@[simp] theorem State.task?_setHere (s : State) (t : Task) : (s.setHere t).task? s.cur.core (s.bankOf s.cur.core) = some t := by
  simp [State.setHere_eq]

@[simp] theorem State.spad_setHere (s : State) (t : Task) (m : Nat) : ((s.setHere t).core m).spad = (s.core m).spad := by
  simp [State.setHere_eq]

@[simp] theorem State.spadBad_setHere (s : State) (t : Task) (m : Nat) : ((s.setHere t).core m).spadBad = (s.core m).spadBad := by
  simp [State.setHere_eq]

@[simp] theorem State.tags_setHere (s : State) (t : Task) (m : Nat) : ((s.setHere t).core m).tags = (s.core m).tags := by
  simp [State.setHere_eq]

@[simp] theorem State.wheel_setHere (s : State) (t : Task) (m : Nat) : ((s.setHere t).core m).wheel = (s.core m).wheel := by
  simp [State.setHere_eq]

@[simp] theorem State.me_setHere (s : State) (t : Task) : (s.setHere t).me = t.seq s.cur.q := by simp [State.me]

theorem State.setMe_eq (s : State) (u : Seq) : s.setMe u = s.setHere (s.here.setSeq s.cur.q u) := rfl

@[simp] theorem State.me_setMe (s : State) (u : Seq) : (s.setMe u).me = u := by simp [State.setMe_eq]
@[simp] theorem State.here_setMe (s : State) (u : Seq) : (s.setMe u).here = s.here.setSeq s.cur.q u := by simp [State.setMe_eq]
@[simp] theorem State.setMe_setMe (s : State) (u v : Seq) : (s.setMe v).setMe u = s.setMe u := by simp [State.setMe_eq]
@[simp] theorem State.bankOf_setMe (s : State) (u : Seq) (m : Nat) : (s.setMe u).bankOf m = s.bankOf m := by simp [State.setMe_eq]

/-- A register write that changes one sequencer of a task put in place. -/
@[simp] theorem State.setMe_setHere (s : State) (t : Task) (u : Seq) : (s.setHere t).setMe u = s.setHere (t.setSeq s.cur.q u) := by
  simp [State.setMe_eq]

@[simp] theorem State.setReg_setHere (s : State) (t : Task) (r : Nat) (v : Word) :
    (s.setHere t).setReg r v = s.setHere (t.setSeq s.cur.q ((t.seq s.cur.q).setReg r v)) := by
  simp [State.setReg]

@[simp] theorem State.reg_setHere (s : State) (t : Task) (r : Nat) : (s.setHere t).reg r = (t.seq s.cur.q).reg r := by
  simp [State.reg]

/-- Register 0 reads 0 whatever is written; every other register reads what was written last. -/
theorem Seq.reg_setReg (u : Seq) (r k : Nat) (v : Word) :
    (u.setReg r v).reg k = if k = r ∧ r ≠ 0 then v else u.reg k := by
  unfold Seq.reg Seq.setReg
  by_cases hk : k = 0
  · subst hk; by_cases hr : r = 0 <;> simp [hr, eq_comm]
  · by_cases hr : r = 0
    · simp [hr, hk]
    · simp [hr, hk, Sparse.get_set]

@[simp] theorem State.setHere_setPart (s : State) (n : Nat) (p : Partition) (t : Task) :
    (s.setPart n p).setHere t = (s.setHere t).setPart n p := rfl

@[simp] theorem State.here_setPart (s : State) (n : Nat) (p : Partition) : (s.setPart n p).here = s.here := rfl
@[simp] theorem State.me_setPart (s : State) (n : Nat) (p : Partition) : (s.setPart n p).me = s.me := rfl
@[simp] theorem State.bankOf_setPart (s : State) (n : Nat) (p : Partition) (k : Nat) : (s.setPart n p).bankOf k = s.bankOf k := rfl
@[simp] theorem State.core_setPart (s : State) (n : Nat) (p : Partition) (k : Nat) : (s.setPart n p).core k = s.core k := rfl
@[simp] theorem State.task?_setPart (s : State) (n : Nat) (p : Partition) (k j : Nat) : (s.setPart n p).task? k j = s.task? k j := rfl
@[simp] theorem State.here_setTx (s : State) (n : Nat) (w : TxWin) : (s.setTx n w).here = s.here := rfl
@[simp] theorem State.me_setTx (s : State) (n : Nat) (w : TxWin) : (s.setTx n w).me = s.me := rfl
@[simp] theorem State.bankOf_setTx (s : State) (n : Nat) (w : TxWin) (k : Nat) : (s.setTx n w).bankOf k = s.bankOf k := rfl
@[simp] theorem State.core_setTx (s : State) (n : Nat) (w : TxWin) (k : Nat) : (s.setTx n w).core k = s.core k := rfl
@[simp] theorem State.task?_setTx (s : State) (n : Nat) (w : TxWin) (k j : Nat) : (s.setTx n w).task? k j = s.task? k j := rfl
@[simp] theorem State.here_setRx (s : State) (n : Nat) (w : RxWin) : (s.setRx n w).here = s.here := rfl
@[simp] theorem State.me_setRx (s : State) (n : Nat) (w : RxWin) : (s.setRx n w).me = s.me := rfl
@[simp] theorem State.bankOf_setRx (s : State) (n : Nat) (w : RxWin) (k : Nat) : (s.setRx n w).bankOf k = s.bankOf k := rfl
@[simp] theorem State.core_setRx (s : State) (n : Nat) (w : RxWin) (k : Nat) : (s.setRx n w).core k = s.core k := rfl
@[simp] theorem State.task?_setRx (s : State) (n : Nat) (w : RxWin) (k j : Nat) : (s.setRx n w).task? k j = s.task? k j := rfl
@[simp] theorem State.here_say (s : State) (m : Msg) : (s.say m).here = s.here := rfl
@[simp] theorem State.me_say (s : State) (m : Msg) : (s.say m).me = s.me := rfl
@[simp] theorem State.bankOf_say (s : State) (m : Msg) (k : Nat) : (s.say m).bankOf k = s.bankOf k := rfl
@[simp] theorem State.core_say (s : State) (m : Msg) (k : Nat) : (s.say m).core k = s.core k := rfl
@[simp] theorem State.task?_say (s : State) (m : Msg) (k j : Nat) : (s.say m).task? k j = s.task? k j := rfl

end Sys2Proof.Machine
end

