-- ==== Sys2Proof/Laws/Dispatch.lean ====
section
/-! SUPPORT. Each arm of exec as an equation. -/

namespace Sys2Proof.Machine

open Sys2Proof

theorem exec_add (y o) (s : State) : exec (.add y o) s = execAdd y o s := rfl
theorem exec_sub (y o) (s : State) : exec (.sub y o) s = execSub y o s := rfl
theorem exec_and (y o) (s : State) : exec (.and y o) s = execAnd y o s := rfl
theorem exec_or (y o) (s : State) : exec (.or y o) s = execOr y o s := rfl
theorem exec_xor (y o) (s : State) : exec (.xor y o) s = execXor y o s := rfl
theorem exec_sll (y o) (s : State) : exec (.sll y o) s = execSll y o s := rfl
theorem exec_srl (y o) (s : State) : exec (.srl y o) s = execSrl y o s := rfl
theorem exec_sra (y o) (s : State) : exec (.sra y o) s = execSra y o s := rfl
theorem exec_mul (y o) (s : State) : exec (.mul y o) s = execMul y o s := rfl
theorem exec_mulh (y o) (s : State) : exec (.mulh y o) s = execMulh y o s := rfl
theorem exec_mulhu (y o) (s : State) : exec (.mulhu y o) s = execMulhu y o s := rfl
theorem exec_div (y o) (s : State) : exec (.div y o) s = execDiv y o s := rfl
theorem exec_divu (y o) (s : State) : exec (.divu y o) s = execDivu y o s := rfl
theorem exec_rem (y o) (s : State) : exec (.rem y o) s = execRem y o s := rfl
theorem exec_remu (y o) (s : State) : exec (.remu y o) s = execRemu y o s := rfl
theorem exec_min (y o) (s : State) : exec (.min y o) s = execMin y o s := rfl
theorem exec_max (y o) (s : State) : exec (.max y o) s = execMax y o s := rfl
theorem exec_minu (y o) (s : State) : exec (.minu y o) s = execMinu y o s := rfl
theorem exec_maxu (y o) (s : State) : exec (.maxu y o) s = execMaxu y o s := rfl
theorem exec_slt (y o) (s : State) : exec (.slt y o) s = execSlt y o s := rfl
theorem exec_sltu (y o) (s : State) : exec (.sltu y o) s = execSltu y o s := rfl
theorem exec_seq (y o) (s : State) : exec (.seq y o) s = execSeq y o s := rfl
theorem exec_li (y o) (s : State) : exec (.li y o) s = execLi y o s := rfl
theorem exec_clz (y o) (s : State) : exec (.clz y o) s = execClz y o s := rfl
theorem exec_popc (y o) (s : State) : exec (.popc y o) s = execPopc y o s := rfl
theorem exec_rotl (y o) (s : State) : exec (.rotl y o) s = execRotl y o s := rfl
theorem exec_bext (y o) (s : State) : exec (.bext y o) s = execBext y o s := rfl
theorem exec_bins (y o) (s : State) : exec (.bins y o) s = execBins y o s := rfl
theorem exec_j (y o) (s : State) : exec (.j y o) s = execJ y o s := rfl
theorem exec_jal (y o) (s : State) : exec (.jal y o) s = execJal y o s := rfl
theorem exec_jr (y o) (s : State) : exec (.jr y o) s = execJr y o s := rfl
theorem exec_beq (y o) (s : State) : exec (.beq y o) s = execBeq y o s := rfl
theorem exec_bne (y o) (s : State) : exec (.bne y o) s = execBne y o s := rfl
theorem exec_blt (y o) (s : State) : exec (.blt y o) s = execBlt y o s := rfl
theorem exec_bge (y o) (s : State) : exec (.bge y o) s = execBge y o s := rfl
theorem exec_bltu (y o) (s : State) : exec (.bltu y o) s = execBltu y o s := rfl
theorem exec_bgeu (y o) (s : State) : exec (.bgeu y o) s = execBgeu y o s := rfl
theorem exec_bbs (y o) (s : State) : exec (.bbs y o) s = execBbs y o s := rfl
theorem exec_ldb (y o) (s : State) : exec (.ldb y o) s = execLdb y o s := rfl
theorem exec_ldh (y o) (s : State) : exec (.ldh y o) s = execLdh y o s := rfl
theorem exec_ldw (y o) (s : State) : exec (.ldw y o) s = execLdw y o s := rfl
theorem exec_ldd (y o) (s : State) : exec (.ldd y o) s = execLdd y o s := rfl
theorem exec_ldbu (y o) (s : State) : exec (.ldbu y o) s = execLdbu y o s := rfl
theorem exec_ldhu (y o) (s : State) : exec (.ldhu y o) s = execLdhu y o s := rfl
theorem exec_ldwu (y o) (s : State) : exec (.ldwu y o) s = execLdwu y o s := rfl
theorem exec_stb (y o) (s : State) : exec (.stb y o) s = execStb y o s := rfl
theorem exec_sth (y o) (s : State) : exec (.sth y o) s = execSth y o s := rfl
theorem exec_stw (y o) (s : State) : exec (.stw y o) s = execStw y o s := rfl
theorem exec_std (y o) (s : State) : exec (.std y o) s = execStd y o s := rfl
theorem exec_ldsc (y o) (s : State) : exec (.ldsc y o) s = execLdsc y o s := rfl
theorem exec_stsc (y o) (s : State) : exec (.stsc y o) s = execStsc y o s := rfl
theorem exec_start (y m v t) (s : State) : exec (.start y m v t) s = execStart y m v t s := rfl
theorem exec_param (y o) (s : State) : exec (.param y o) s = execParam y o s := rfl
theorem exec_fmtq (y o) (s : State) : exec (.fmtq y o) s = execFmtq y o s := rfl
theorem exec_sig (y e n) (s : State) : exec (.sig y e n) s = execSig y e n s := rfl
theorem exec_wait (y e n) (s : State) : exec (.wait y e n) s = execWait y e n s := rfl
theorem exec_semadd (y o) (s : State) : exec (.semadd y o) s = execSemadd y o s := rfl
theorem exec_semwait (y o) (s : State) : exec (.semwait y o) s = execSemwait y o s := rfl
theorem exec_semset (y o) (s : State) : exec (.semset y o) s = execSemset y o s := rfl
theorem exec_arrive (y n) (s : State) : exec (.arrive y n) s = execArrive y n s := rfl
theorem exec_bwait (y n) (s : State) : exec (.bwait y n) s = execBwait y n s := rfl
theorem exec_barm (y o) (s : State) : exec (.barm y o) s = execBarm y o s := rfl
theorem exec_binit (y o) (s : State) : exec (.binit y o) s = execBinit y o s := rfl
theorem exec_qfence (y q) (s : State) : exec (.qfence y q) s = execQfence y q s := rfl
theorem exec_fence (y scope) (s : State) : exec (.fence y scope) s = execFence y scope s := rfl
theorem exec_rfence (y o) (s : State) : exec (.rfence y o) s = execRfence y o s := rfl
theorem exec_waitt (y o) (s : State) : exec (.waitt y o) s = execWaitt y o s := rfl
theorem exec_rdcc (y o) (s : State) : exec (.rdcc y o) s = execRdcc y o s := rfl
theorem exec_rdgt (y o) (s : State) : exec (.rdgt y o) s = execRdgt y o s := rfl
theorem exec_align (y o) (s : State) : exec (.align y o) s = execAlign y o s := rfl
theorem exec_launch (y o) (s : State) : exec (.launch y o) s = execLaunch y o s := rfl
theorem exec_child (y o) (s : State) : exec (.child y o) s = execChild y o s := rfl
theorem exec_yield (y o) (s : State) : exec (.yield y o) s = execYield y o s := rfl
theorem exec_trap (y code) (s : State) : exec (.trap y code) s = execTrap y code s := rfl
theorem exec_csrr (y o) (s : State) : exec (.csrr y o) s = execCsrr y o s := rfl
theorem exec_csrw (y o) (s : State) : exec (.csrw y o) s = execCsrw y o s := rfl
theorem exec_setkey (y o) (s : State) : exec (.setkey y o) s = execSetkey y o s := rfl
theorem exec_halt (y) (s : State) : exec (.halt y) s = execHalt y s := rfl
theorem exec_coll (y o) (s : State) : exec (.coll y o) s = execColl y o s := rfl
theorem exec_collw (y o) (s : State) : exec (.collw y o) s = execCollw y o s := rfl
theorem exec_collwRetire (y o) (s : State) : exec (.collwRetire y o) s = execCollwRetire y o s := rfl
theorem exec_spore (y o) (s : State) : exec (.spore y o) s = execSpore y o s := rfl
theorem exec_sorw (y o) (s : State) : exec (.sorw y o) s = execSorw y o s := rfl
theorem exec_a2a (y o) (s : State) : exec (.a2a y o) s = execA2a y o s := rfl
theorem exec_wmap (y o) (s : State) : exec (.wmap y o) s = execWmap y o s := rfl
theorem exec_wunmap (y o) (s : State) : exec (.wunmap y o) s = execWunmap y o s := rfl
theorem exec_lrecall (y o) (s : State) : exec (.lrecall y o) s = execLrecall y o s := rfl
theorem exec_nop (y) (s : State) : exec (.nop y) s = execNop y s := rfl
theorem exec_idle (y n) (s : State) : exec (.idle y n) s = execIdle y n s := rfl
theorem exec_region (y) (s : State) : exec (.region y) s = execRegion y s := rfl
theorem exec_endStream (y) (s : State) : exec (.endStream y) s = execEndStream y s := rfl
theorem exec_jmp (y off) (s : State) : exec (.jmp y off) s = execJmp y off s := rfl
theorem exec_bnzd (y r off) (s : State) : exec (.bnzd y r off) s = execBnzd y r off s := rfl
theorem exec_pop (y xd) (s : State) : exec (.pop y xd) s = execPop y xd s := rfl
theorem exec_xadd (y o) (s : State) : exec (.xadd y o) s = execXadd y o s := rfl
theorem exec_vadd (y o) (s : State) : exec (.vadd y o) s = execVadd y o s := rfl
theorem exec_vsub (y o) (s : State) : exec (.vsub y o) s = execVsub y o s := rfl
theorem exec_vmul (y o) (s : State) : exec (.vmul y o) s = execVmul y o s := rfl
theorem exec_vfma (y o) (s : State) : exec (.vfma y o) s = execVfma y o s := rfl
theorem exec_vfms (y o) (s : State) : exec (.vfms y o) s = execVfms y o s := rfl
theorem exec_vdiv (y o) (s : State) : exec (.vdiv y o) s = execVdiv y o s := rfl
theorem exec_vmin (y o) (s : State) : exec (.vmin y o) s = execVmin y o s := rfl
theorem exec_vmax (y o) (s : State) : exec (.vmax y o) s = execVmax y o s := rfl
theorem exec_vabs (y o) (s : State) : exec (.vabs y o) s = execVabs y o s := rfl
theorem exec_vneg (y o) (s : State) : exec (.vneg y o) s = execVneg y o s := rfl
theorem exec_vsqrt (y o) (s : State) : exec (.vsqrt y o) s = execVsqrt y o s := rfl
theorem exec_vrcp (y o) (s : State) : exec (.vrcp y o) s = execVrcp y o s := rfl
theorem exec_vrsq (y o) (s : State) : exec (.vrsq y o) s = execVrsq y o s := rfl
theorem exec_vexp2 (y o) (s : State) : exec (.vexp2 y o) s = execVexp2 y o s := rfl
theorem exec_vlog2 (y o) (s : State) : exec (.vlog2 y o) s = execVlog2 y o s := rfl
theorem exec_vmov (y o) (s : State) : exec (.vmov y o) s = execVmov y o s := rfl
theorem exec_viadd (y o) (s : State) : exec (.viadd y o) s = execViadd y o s := rfl
theorem exec_visub (y o) (s : State) : exec (.visub y o) s = execVisub y o s := rfl
theorem exec_vimul (y o) (s : State) : exec (.vimul y o) s = execVimul y o s := rfl
theorem exec_vand (y o) (s : State) : exec (.vand y o) s = execVand y o s := rfl
theorem exec_vor (y o) (s : State) : exec (.vor y o) s = execVor y o s := rfl
theorem exec_vxor (y o) (s : State) : exec (.vxor y o) s = execVxor y o s := rfl
theorem exec_vshl (y o) (s : State) : exec (.vshl y o) s = execVshl y o s := rfl
theorem exec_vshr (y o) (s : State) : exec (.vshr y o) s = execVshr y o s := rfl
theorem exec_vsra (y o) (s : State) : exec (.vsra y o) s = execVsra y o s := rfl
theorem exec_vimin (y o) (s : State) : exec (.vimin y o) s = execVimin y o s := rfl
theorem exec_vimax (y o) (s : State) : exec (.vimax y o) s = execVimax y o s := rfl
theorem exec_vcmp (y o) (s : State) : exec (.vcmp y o) s = execVcmp y o s := rfl
theorem exec_vsel (y o) (s : State) : exec (.vsel y o) s = execVsel y o s := rfl
theorem exec_pand (y pd pa pb) (s : State) : exec (.pand y pd pa pb) s = execPand y pd pa pb s := rfl
theorem exec_por (y pd pa pb) (s : State) : exec (.por y pd pa pb) s = execPor y pd pa pb s := rfl
theorem exec_pxor (y pd pa pb) (s : State) : exec (.pxor y pd pa pb) s = execPxor y pd pa pb s := rfl
theorem exec_pnot (y pd pa) (s : State) : exec (.pnot y pd pa) s = execPnot y pd pa s := rfl
theorem exec_pset (y pd v) (s : State) : exec (.pset y pd v) s = execPset y pd v s := rfl
theorem exec_pcnt (y xd pa) (s : State) : exec (.pcnt y xd pa) s = execPcnt y xd pa s := rfl
theorem exec_vcvt (y o) (s : State) : exec (.vcvt y o) s = execVcvt y o s := rfl
theorem exec_vqnt (y o) (s : State) : exec (.vqnt y o) s = execVqnt y o s := rfl
theorem exec_vdqnt (y o) (s : State) : exec (.vdqnt y o) s = execVdqnt y o s := rfl
theorem exec_vsrnd (y o) (s : State) : exec (.vsrnd y o) s = execVsrnd y o s := rfl
theorem exec_vrsum (y o) (s : State) : exec (.vrsum y o) s = execVrsum y o s := rfl
theorem exec_vrmax (y o) (s : State) : exec (.vrmax y o) s = execVrmax y o s := rfl
theorem exec_vrmin (y o) (s : State) : exec (.vrmin y o) s = execVrmin y o s := rfl
theorem exec_vdot (y o) (s : State) : exec (.vdot y o) s = execVdot y o s := rfl
theorem exec_vperm (y o) (s : State) : exec (.vperm y o) s = execVperm y o s := rfl
theorem exec_vslide (y o) (s : State) : exec (.vslide y o) s = execVslide y o s := rfl
theorem exec_vbcast (y o) (s : State) : exec (.vbcast y o) s = execVbcast y o s := rfl
theorem exec_vzip (y o) (s : State) : exec (.vzip y o) s = execVzip y o s := rfl
theorem exec_vunzip (y o) (s : State) : exec (.vunzip y o) s = execVunzip y o s := rfl
theorem exec_vld (y f) (s : State) : exec (.vld y f) s = execVld y f s := rfl
theorem exec_vst (y f) (s : State) : exec (.vst y f) s = execVst y f s := rfl
theorem exec_vlds (y f) (s : State) : exec (.vlds y f) s = execVlds y f s := rfl
theorem exec_vsts (y f) (s : State) : exec (.vsts y f) s = execVsts y f s := rfl
theorem exec_vgath (y f) (s : State) : exec (.vgath y f) s = execVgath y f s := rfl
theorem exec_vscat (y f) (s : State) : exec (.vscat y f) s = execVscat y f s := rfl
theorem exec_kld (y o) (s : State) : exec (.kld y o) s = execKld y o s := rfl
theorem exec_vsetvl (y n) (s : State) : exec (.vsetvl y n) s = execVsetvl y n s := rfl
theorem exec_vsetvlReg (y xd xa xb opx) (s : State) : exec (.vsetvlReg y xd xa xb opx) s = execVsetvlReg y xd xa xb opx s := rfl
theorem exec_loopv (y xc off) (s : State) : exec (.loopv y xc off) s = execLoopv y xc off s := rfl
theorem exec_rotset (y n) (s : State) : exec (.rotset y n) s = execRotset y n s := rfl
theorem exec_vz (y f) (s : State) : exec (.vz y f) s = execVz y f s := rfl
theorem exec_vzacc (y f) (s : State) : exec (.vzacc y f) s = execVzacc y f s := rfl
theorem exec_vunif (y f) (s : State) : exec (.vunif y f) s = execVunif y f s := rfl
theorem exec_vcat (y o) (s : State) : exec (.vcat y o) s = execVcat y o s := rfl
theorem exec_vdrop (y f) (s : State) : exec (.vdrop y f) s = execVdrop y f s := rfl
theorem exec_ldx (y r) (s : State) : exec (.ldx y r) s = execLdx y r s := rfl
theorem exec_stx (y r) (s : State) : exec (.stx y r) s = execStx y r s := rfl
theorem exec_cpx (y r) (s : State) : exec (.cpx y r) s = execCpx y r s := rfl
theorem exec_mcx (y r) (s : State) : exec (.mcx y r) s = execMcx y r s := rfl
theorem exec_gthx (y r) (s : State) : exec (.gthx y r) s = execGthx y r s := rfl
theorem exec_sctx (y r) (s : State) : exec (.sctx y r) s = execSctx y r s := rfl
theorem exec_bmx (y r) (s : State) : exec (.bmx y r) s = execBmx y r s := rfl
theorem exec_bmld (y o) (s : State) : exec (.bmld y o) s = execBmld y o s := rfl
theorem exec_scacc (y r) (s : State) : exec (.scacc y r) s = execScacc y r s := rfl
theorem exec_sccfg (y o) (s : State) : exec (.sccfg y o) s = execSccfg y o s := rfl
theorem exec_zfx (y r) (s : State) : exec (.zfx y r) s = execZfx y r s := rfl
theorem exec_tagx (y o) (s : State) : exec (.tagx y o) s = execTagx y o s := rfl
theorem exec_wld (y r) (s : State) : exec (.wld y r) s = execWld y r s := rfl
theorem exec_mma (y r) (s : State) : exec (.mma y r) s = execMma y r s := rfl
theorem exec_gate (y r) (s : State) : exec (.gate y r) s = execGate y r s := rfl
theorem exec_adrn (y r) (s : State) : exec (.adrn y r) s = execAdrn y r s := rfl
theorem exec_aswap (y acc) (s : State) : exec (.aswap y acc) s = execAswap y acc s := rfl
theorem exec_azero (y bank acc) (s : State) : exec (.azero y bank acc) s = execAzero y bank acc s := rfl
theorem exec_achk (y bank acc) (s : State) : exec (.achk y bank acc) s = execAchk y bank acc s := rfl
theorem exec_asave (y r) (s : State) : exec (.asave y r) s = execAsave y r s := rfl
theorem exec_aload (y r) (s : State) : exec (.aload y r) s = execAload y r s := rfl
theorem exec_avset (y o) (s : State) : exec (.avset y o) s = execAvset y o s := rfl
theorem exec_fdrop (y n) (s : State) : exec (.fdrop y n) s = execFdrop y n s := rfl
theorem exec_epsset (y o) (s : State) : exec (.epsset y o) s = execEpsset y o s := rfl
theorem exec_recordSingleIssue (core q) (s : State) : exec (.recordSingleIssue core q) s = execRecordSingleIssue core q s := rfl
theorem exec_engineResultWrite (core q id) (s : State) : exec (.engineResultWrite core q id) s = execEngineResultWrite core q id s := rfl
theorem exec_loadDataArrival (core q load) (s : State) : exec (.loadDataArrival core q load) s = execLoadDataArrival core q load s := rfl
theorem exec_storePerformed (core q n) (s : State) : exec (.storePerformed core q n) s = execStorePerformed core q n s := rfl
theorem exec_waittTargetReached (core) (s : State) : exec (.waittTargetReached core) s = execWaittTargetReached core s := rfl
theorem exec_alignRelease (core) (s : State) : exec (.alignRelease core) s = execAlignRelease core s := rfl
theorem exec_schedMiss (core q) (s : State) : exec (.schedMiss core q) s = execSchedMiss core q s := rfl
theorem exec_watchdogStall (core q) (s : State) : exec (.watchdogStall core q) s = execWatchdogStall core q s := rfl
theorem exec_leaseWaitExpiry (core q) (s : State) : exec (.leaseWaitExpiry core q) s = execLeaseWaitExpiry core q s := rfl
theorem exec_illegalOpcode (core q head) (s : State) : exec (.illegalOpcode core q head) s = execIllegalOpcode core q head s := rfl
theorem exec_flitDeparture (flit copy) (s : State) : exec (.flitDeparture flit copy) s = execFlitDeparture flit copy s := rfl
theorem exec_flitDelivery (f) (s : State) : exec (.flitDelivery f) s = execFlitDelivery f s := rfl
theorem exec_flitAckArrival (flit bitmap) (s : State) : exec (.flitAckArrival flit bitmap) s = execFlitAckArrival flit bitmap s := rfl
theorem exec_ackTimeout (flit missing) (s : State) : exec (.ackTimeout flit missing) s = execAckTimeout flit missing s := rfl
theorem exec_memberDisabled (m) (s : State) : exec (.memberDisabled m) s = execMemberDisabled m s := rfl
theorem exec_leaseRequest (src rx need) (s : State) : exec (.leaseRequest src rx need) s = execLeaseRequest src rx need s := rfl
theorem exec_leaseReply (tx pos granted base epoch) (s : State) : exec (.leaseReply tx pos granted base epoch) s = execLeaseReply tx pos granted base epoch s := rfl
theorem exec_wmapMemberTimeout (tx) (s : State) : exec (.wmapMemberTimeout tx) s = execWmapMemberTimeout tx s := rfl
theorem exec_leaseRecall (tx pos) (s : State) : exec (.leaseRecall tx pos) s = execLeaseRecall tx pos s := rfl
theorem exec_leaseRelease (tx pos) (s : State) : exec (.leaseRelease tx pos) s = execLeaseRelease tx pos s := rfl
theorem exec_leaseReleaseArrival (rx src) (s : State) : exec (.leaseReleaseArrival rx src) s = execLeaseReleaseArrival rx src s := rfl
theorem exec_lrecallSilentSource (rx src) (s : State) : exec (.lrecallSilentSource rx src) s = execLrecallSilentSource rx src s := rfl
theorem exec_leaseRegrant (tx pos base epoch) (s : State) : exec (.leaseRegrant tx pos base epoch) s = execLeaseRegrant tx pos base epoch s := rfl
theorem exec_leaseReturn (rx src) (s : State) : exec (.leaseReturn rx src) s = execLeaseReturn rx src s := rfl
theorem exec_sorusRecordArrival (off record sender) (s : State) : exec (.sorusRecordArrival off record sender) s = execSorusRecordArrival off record sender s := rfl
theorem exec_sorusSeal (step) (s : State) : exec (.sorusSeal step) s = execSorusSeal step s := rfl
theorem exec_sorusStepDeadline (step) (s : State) : exec (.sorusStepDeadline step) s = execSorusStepDeadline step s := rfl
theorem exec_gapRetransmit (step) (s : State) : exec (.gapRetransmit step) s = execGapRetransmit step s := rfl
theorem exec_gapRequestArrival (req) (s : State) : exec (.gapRequestArrival req) s = execGapRequestArrival req s := rfl
theorem exec_gapReplyArrival (rep) (s : State) : exec (.gapReplyArrival rep) s = execGapReplyArrival rep s := rfl
theorem exec_sorusGapBound (core) (s : State) : exec (.sorusGapBound core) s = execSorusGapBound core s := rfl
theorem exec_sorfirstWrite (v) (s : State) : exec (.sorfirstWrite v) s = execSorfirstWrite v s := rfl
theorem exec_collPacketArrival (p) (s : State) : exec (.collPacketArrival p) s = execCollPacketArrival p s := rfl
theorem exec_collPacketAck (part cid gen) (s : State) : exec (.collPacketAck part cid gen) s = execCollPacketAck part cid gen s := rfl
theorem exec_collFinishCount (part cid member count) (s : State) : exec (.collFinishCount part cid member count) s = execCollFinishCount part cid member count s := rfl
theorem exec_collOverrun (core) (s : State) : exec (.collOverrun core) s = execCollOverrun core s := rfl
theorem exec_collwTimeout (core) (s : State) : exec (.collwTimeout core) s = execCollwTimeout core s := rfl
theorem exec_timingMessage (corr) (s : State) : exec (.timingMessage corr) s = execTimingMessage corr s := rfl
theorem exec_timelockReady (jump) (s : State) : exec (.timelockReady jump) s = execTimelockReady jump s := rfl
theorem exec_timelockLost (s : State) : exec (.timelockLost) s = execTimelockLost s := rfl
theorem exec_hbmRefresh (stack) (s : State) : exec (.hbmRefresh stack) s = execHbmRefresh stack s := rfl
theorem exec_patrolScrub (line find) (s : State) : exec (.patrolScrub line find) s = execPatrolScrub line find s := rfl
theorem exec_gtadjSetLock (s : State) : exec (.gtadjSetLock) s = execGtadjSetLock s := rfl
theorem exec_gtadjClearLock (s : State) : exec (.gtadjClearLock) s = execGtadjClearLock s := rfl
theorem exec_gtadjCorrection (adj) (s : State) : exec (.gtadjCorrection adj) s = execGtadjCorrection adj s := rfl
theorem exec_launchPrepare (part) (s : State) : exec (.launchPrepare part) s = execLaunchPrepare part s := rfl
theorem exec_launchStart (part id core) (s : State) : exec (.launchStart part id core) s = execLaunchStart part id core s := rfl
theorem exec_launchRecordFinal (part) (s : State) : exec (.launchRecordFinal part) s = execLaunchRecordFinal part s := rfl
theorem exec_lqtailWrite (first tail) (s : State) : exec (.lqtailWrite first tail) s = execLqtailWrite first tail s := rfl
theorem exec_submit (first desc host) (s : State) : exec (.submit first desc host) s = execSubmit first desc host s := rfl
theorem exec_endlaunch (id host) (s : State) : exec (.endlaunch id host) s = execEndlaunch id host s := rfl
theorem exec_preboundExpiry (core bank) (s : State) : exec (.preboundExpiry core bank) s = execPreboundExpiry core bank s := rfl
theorem exec_unansweredRecordExpiry (core bank) (s : State) : exec (.unansweredRecordExpiry core bank) s = execUnansweredRecordExpiry core bank s := rfl
theorem exec_taskRestore (core bank) (s : State) : exec (.taskRestore core bank) s = execTaskRestore core bank s := rfl
theorem exec_lateTrapRecord (core bank) (s : State) : exec (.lateTrapRecord core bank) s = execLateTrapRecord core bank s := rfl
theorem exec_answerResume (part slot) (s : State) : exec (.answerResume part slot) s = execAnswerResume part slot s := rfl
theorem exec_answerEnd (part slot) (s : State) : exec (.answerEnd part slot) s = execAnswerEnd part slot s := rfl
theorem exec_cut (core bank host) (s : State) : exec (.cut core bank host) s = execCut core bank host s := rfl
theorem exec_readbank (core bank dst host) (s : State) : exec (.readbank core bank dst host) s = execReadbank core bank dst host s := rfl
theorem exec_regpart (first size addr host) (s : State) : exec (.regpart first size addr host) s = execRegpart first size addr host s := rfl
theorem exec_regtq (first addr host) (s : State) : exec (.regtq first addr host) s = execRegtq first addr host s := rfl
theorem exec_partitionDestroy (first) (s : State) : exec (.partitionDestroy first) s = execPartitionDestroy first s := rfl
theorem exec_bar2Read (off len) (s : State) : exec (.bar2Read off len) s = execBar2Read off len s := rfl
theorem exec_bar2Write (off bytes) (s : State) : exec (.bar2Write off bytes) s = execBar2Write off bytes s := rfl
theorem exec_registerWrite (r v) (s : State) : exec (.registerWrite r v) s = execRegisterWrite r v s := rfl
theorem exec_attestationReport (nonce) (s : State) : exec (.attestationReport nonce) s = execAttestationReport nonce s := rfl
theorem exec_moduleReset (hostBoot image readOk) (s : State) : exec (.moduleReset hostBoot image readOk) s = execModuleReset hostBoot image readOk s := rfl
theorem exec_bootHostBuffer (addr image readOk) (s : State) : exec (.bootHostBuffer addr image readOk) s = execBootHostBuffer addr image readOk s := rfl
theorem exec_pwrok (s : State) : exec (.pwrok) s = execPwrok s := rfl
theorem exec_railLoss (rail) (s : State) : exec (.railLoss rail) s = execRailLoss rail s := rfl
theorem exec_thermalThrottle (die f) (s : State) : exec (.thermalThrottle die f) s = execThermalThrottle die f s := rfl
theorem exec_thermtrip (die) (s : State) : exec (.thermtrip die) s = execThermtrip die s := rfl
theorem exec_islandFrequencyChange (island f) (s : State) : exec (.islandFrequencyChange island f) s = execIslandFrequencyChange island f s := rfl
theorem exec_functionReady (f) (s : State) : exec (.functionReady f) s = execFunctionReady f s := rfl
theorem exec_driveDma (addr bytes) (s : State) : exec (.driveDma addr bytes) s = execDriveDma addr bytes s := rfl
theorem exec_spdmMessage (stream key) (s : State) : exec (.spdmMessage stream key) s = execSpdmMessage stream key s := rfl

end Sys2Proof.Machine
end

