-- ==== Sys2Proof/Laws/Issue.lean ====
section
/-! SUPPORT. What the issue of an instruction does once it is ready, and what its completion leaves. -/

namespace Sys2Proof.Machine

/-- Only token counts, and the note of the first issue, differ. -/
def TokensOnly (t t' : Task) : Prop :=
  t' = { t with tok := t'.tok, resv := t'.resv, psig := t'.psig, taken := t'.taken, sent := t'.sent, credit := t'.credit,
                mute := t'.mute, owed := t'.owed, firstIssue := t'.firstIssue }

theorem TokensOnly.refl (t : Task) : TokensOnly t t := rfl

theorem TokensOnly.trans {t u v : Task} (h : TokensOnly t u) (k : TokensOnly u v) : TokensOnly t v := by
  unfold TokensOnly at h k ⊢; rw [h] at k; exact k

theorem TokensOnly.fold {α : Type} (f : Task → α → Task) (h : ∀ t a, TokensOnly t (f t a)) (l : List α) (t : Task) :
    TokensOnly t (l.foldl f t) :=
  List.foldlRecOn (motive := TokensOnly t) l f (.refl t) (fun _ hx a _ => hx.trans (h _ a))

theorem TokensOnly.seq {t t' : Task} (h : TokensOnly t t') (q : SeqId) : t'.seq q = t.seq q := by
  rw [h]; cases q <;> rfl

theorem TokensOnly.setSeq {t t' : Task} (h : TokensOnly t t') (q : SeqId) (u : Seq) : TokensOnly (t.setSeq q u) (t'.setSeq q u) := by
  unfold TokensOnly at *; cases q <;> (rw [h]; rfl)

theorem TokensOnly.bare {t t' : Task} (h : TokensOnly t t') (q : SeqId) : bareTask t' q = bareTask t q := by
  rw [h]; cases q <;> rfl

theorem takeTokens_only (t : Task) (q : SeqId) (y : Syn) (id : Nat) : TokensOnly t (takeTokens t q y id).1 := by
  unfold takeTokens
  refine .trans (.trans (.trans ?_ (.fold _ ?_ _ _)) (.fold _ ?_ _ _)) (.fold _ ?_ _ _)
  · split
    · exact .trans (.fold _ (by intro _ _; rfl) _ _) (.fold _ (by intro _ _; rfl) _ _)
    · exact .fold _ (by intro _ _; rfl) _ _
  all_goals intro _ _; rfl

theorem noteFirst_only (s : State) (t : Task) : TokensOnly t (noteFirst s t) := by
  unfold noteFirst; split <;> rfl

theorem endResv_only (t : Task) (q : SeqId) (m : BitVec 4) : TokensOnly t (endResv t q m) :=
  .fold _ (by intro _ _; rfl) _ _

theorem finishFlight_only (t : Task) (q : SeqId) (f : Flight) : TokensOnly t (finishFlight t q f) := by
  refine .trans (endResv_only t q f.took) (.fold _ (fun _ _ => ?_) _ _)
  dsimp only
  split <;> rfl

theorem dropFlight_only (t : Task) (q : SeqId) (f : Flight) : TokensOnly t (dropFlight t q f) :=
  .trans (endResv_only t q f.took) (.fold _ (by intro _ _; rfl) _ _)

theorem returnTokens_only (t : Task) (q : SeqId) (w : Wait) : TokensOnly t (returnTokens t q w) := by
  unfold returnTokens
  refine .trans (.trans (.trans ?_ (.fold _ ?_ _ _)) (.fold _ ?_ _ _)) (.fold _ ?_ _ _)
  · split
    · exact .trans (.fold _ (by intro _ _; rfl) _ _) (.fold _ (by intro _ _; rfl) _ _)
    · exact .fold _ (by intro _ _; rfl) _ _
  all_goals intro _ _; rfl

theorem returnOwed_only (t : Task) : TokensOnly t (returnOwed t) := by
  refine .fold _ (fun t _ => ?_) _ _
  dsimp only
  split <;> rfl

/-- An instruction that is ready runs its body in the state that its issue leaves. -/
theorem run_ok {s : State} {i : Instr} {y : Syn} {t : Task} (h : Ready s i y t) (ticks : Nat) (body : State → Res) :
    run i y ticks body s = finish s.me.pc (body (entered s t y (encode i).length ticks)) := by
  have hp : (instrPrivileged i && !s.here.priv) = false := by
    cases hi : instrPrivileged i
    · rfl
    · simp [h.mode hi]
  have ht : (!s.here.timed && !(tokensReady t s.cur.q (waitMask y) && roomReady t s.cur.q (sigMask y))) = false := by
    cases hb : s.here.timed
    · obtain ⟨a, b⟩ := h.tokens hb; simp [a, b]
    · rfl
  simp only [run, issue, h.turn, h.space, hp, h.fields, h.syn, h.fresh, h.cycle, h.due, ht]
  simp

/-- The executing task as `entered` leaves it: the tokens are taken, the bookkeeping of its sequencer has moved on. -/
theorem entered_eq (s : State) (t : Task) (y : Syn) (len ticks : Nat) :
    ∃ k w n, TokensOnly t k ∧ entered s t y len ticks = s.setHere (k.setSeq s.cur.q
      { t.seq s.cur.q with
        pc := s.me.pc + BitVec.ofNat 48 (4 * len), wait := some w, nextId := (t.seq s.cur.q).nextId + 1, tick := issueTick s + ticks,
        seqno := if ticks = 0 then (t.seq s.cur.q).seqno else (t.seq s.cur.q).seqno + 1, lastIssue := n, nextFree := s.mcc + ticks,
        armed := false, tickAt := s.mcc + ticks, head := s.me.pc })
      ∧ w.id = s.me.nextId ∧ w.issued = true ∧ w.op = .none ∧ w.sent = 0 := by
  have h := takeTokens_only t s.cur.q (if s.here.timed then 0 else y) s.me.nextId
  have hs := h.seq s.cur.q
  refine ⟨_, { (takeTokens t s.cur.q (if s.here.timed then 0 else y) s.me.nextId).2 with
      since := s.mcc, sinceGt := s.gt, ticks := ticks },
    if ticks = 0 then s.mcc - 1 else s.mcc, h, ?_, ?_⟩
  · unfold entered
    dsimp only
    rw [hs]
  · simp [takeTokens]

theorem present_setHere (s : State) (t : Task) : present (s.setHere t) = true := by
  simp [present]

/-- Completed instructions send their tokens; nothing else of the task changes but the list of what is in flight. -/
theorem settle_eq (s : State) (core bank : Nat) (q : SeqId) (t : Task) (h : s.task? core bank = some t) :
    ∃ t' fl, settle s core bank q = s.setTask core bank (some t') ∧ TokensOnly (t.setSeq q { t.seq q with flights := fl }) t' := by
  have hk : ∀ (fl a b : List Flight), TokensOnly (t.setSeq q { t.seq q with flights := fl })
      (returnOwed (b.foldl (fun t f => finishFlight t q f) (a.foldl (fun t f => endResv t q f.took) (t.setSeq q { t.seq q with flights := fl })))) :=
    fun fl a b => by
      generalize t.setSeq q { t.seq q with flights := fl } = x
      have h1 := TokensOnly.fold (fun t (f : Flight) => endResv t q f.took) (fun t f => endResv_only t q f.took) a x
      generalize a.foldl (fun t (f : Flight) => endResv t q f.took) x = z at h1 ⊢
      have h2 := TokensOnly.fold (fun t f => finishFlight t q f) (fun t f => finishFlight_only t q f) b z
      generalize b.foldl (fun t f => finishFlight t q f) z = v at h2 ⊢
      exact (h1.trans h2).trans (returnOwed_only v)
  unfold settle
  simp only [h]
  exact ⟨_, _, rfl, hk _ _ _⟩

theorem allEnded_running (t : Task) (q : SeqId) (h : (t.seq q).stream = .running) : allEnded t = false := by
  cases q <;> simp only [Task.seq] at h <;> simp [allEnded, h]

/-- Of a sequencer whose instruction has waited only the cycle of its last tick may differ. -/
theorem waited_eq (u : Seq) (w : Wait) (cycle : Nat) : ∃ n, u.waited w cycle = { u with lastIssue := n } := by
  unfold Seq.waited
  split
  · exact ⟨u.lastIssue, rfl⟩
  · exact ⟨_, rfl⟩

/-- The instruction leaves its waiting phase. -/
theorem closeWait_eq (s : State) (t : Task) (hw : (t.seq s.cur.q).wait.isSome = true) :
    ∃ n fl, closeWait (s.setHere t) = s.setHere (t.setSeq s.cur.q
      { t.seq s.cur.q with wait := none, early := [], lastIssue := n, flights := fl }) := by
  obtain ⟨w, hw⟩ := Option.isSome_iff_exists.mp hw
  obtain ⟨n, hn⟩ := waited_eq (t.seq s.cur.q) w s.mcc
  refine ⟨n, (t.seq s.cur.q).flights ++ [{ id := w.id, sig := w.sig, took := w.took, region := (t.seq s.cur.q).regionNo }], ?_⟩
  simp [closeWait, hw, hn]

/-- Completion: the instruction leaves its waiting phase, and what has completed sends its tokens. -/
theorem completed_eq (s : State) (t : Task) (hr : (t.seq s.cur.q).stream = .running) (hw : (t.seq s.cur.q).wait.isSome = true) :
    ∃ t' fl n, completed (s.setHere t) = s.setHere t'
      ∧ TokensOnly (t.setSeq s.cur.q { t.seq s.cur.q with wait := none, early := [], lastIssue := n, flights := fl }) t' := by
  obtain ⟨n, f0, hc⟩ := closeWait_eq s t hw
  unfold completed settleMe
  simp only [hc, State.setHere_cur, State.bankOf_setHere]
  obtain ⟨t', fl, h1, h2⟩ := settle_eq _ s.cur.core (s.bankOf s.cur.core) s.cur.q _ (State.task?_setHere s (t.setSeq s.cur.q
      { t.seq s.cur.q with wait := none, early := [], lastIssue := n, flights := f0 }))
  refine ⟨t', fl, n, ?_, ?_⟩
  · rw [h1]
    have hn : allEnded t' = false := by
      refine allEnded_running t' s.cur.q ?_
      rw [h2.seq]; simp [hr]
    simp only [State.setHere_eq, State.setTask_setTask]
    unfold endIfOver
    simp [hn]
  · simpa using h2

/-- An issue is noted where the launch's record has none yet. -/
theorem issued_eq (s : State) (t : Task) : ∃ t', issued (s.setHere t) = s.setHere t' ∧ TokensOnly t t' := by
  unfold issued
  split
  · split
    · exact ⟨t, rfl, .refl t⟩
    · exact ⟨noteFirst (s.setHere t) t, by simp, noteFirst_only _ t⟩
  · exact ⟨t, rfl, .refl t⟩

/-- What a body that ends at once leaves: the completed instruction. -/
theorem finish_ok (s : State) (head : BitVec 48) (t : Task) (hr : (t.seq s.cur.q).stream = .running)
    (hw : (t.seq s.cur.q).wait.isSome = true) :
    ∃ t' fl n, finish head (.ok (s.setHere t)) = .next (s.setHere t')
      ∧ TokensOnly (t.setSeq s.cur.q { t.seq s.cur.q with wait := none, early := [], lastIssue := n, flights := fl }) t' := by
  obtain ⟨k, hk, ho⟩ := issued_eq s t
  have hs := ho.seq s.cur.q
  obtain ⟨t', fl, n, h1, h2⟩ := completed_eq s k (by rw [hs]; exact hr) (by rw [hs]; exact hw)
  refine ⟨t', fl, n, ?_, (ho.setSeq _ _).trans (hs ▸ h2)⟩
  unfold finish
  simp only [present_setHere, hk, h1, if_true]

end Sys2Proof.Machine
end

