-- ==== Sys2Proof/Laws/Effect.lean ====
section
/-! SUPPORT. The results that are due before an issue, and the completed instruction in the terms of the statements. -/

namespace Sys2Proof

open Sys2Proof.Machine

/-- Only registers that results of `q` can name differ, and which of them hold a word in error. -/
def RegsOnly (q : SeqId) (t t' : Task) : Prop :=
  t' = { t with vreg := t'.vreg, preg := t'.preg, kreg := t'.kreg, vl := t'.vl, vcsr := t'.vcsr, vrb := t'.vrb, bm := t'.bm,
                bad := t'.bad }.setSeq q
    { t.seq q with regs := (t'.seq q).regs }

theorem RegsOnly.refl (q : SeqId) (t : Task) : RegsOnly q t t := by unfold RegsOnly; cases q <;> rfl

theorem RegsOnly.trans {q : SeqId} {t u v : Task} (h : RegsOnly q t u) (k : RegsOnly q u v) : RegsOnly q t v := by
  unfold RegsOnly at h k ⊢; rw [h] at k; cases q <;> exact k

theorem RegsOnly.fold {α : Type} (q : SeqId) (f : Task → α → Task) (h : ∀ t a, RegsOnly q t (f t a)) (l : List α) (t : Task) :
    RegsOnly q t (l.foldl f t) :=
  List.foldlRecOn (motive := RegsOnly q t) l f (.refl q t) (fun _ hx a _ => hx.trans (h _ a))

theorem applyWrite_only (q : SeqId) (t : Task) (w : Write) : RegsOnly q t (applyWrite q t w) := by
  unfold RegsOnly applyWrite
  cases w with
  | v r m val => dsimp only [healed]; split <;> (try split) <;> cases q <;> rfl
  | k i val => dsimp only [healed]; split <;> cases q <;> rfl
  | p r m val => dsimp only; split <;> cases q <;> rfl
  | x r val => dsimp only; unfold Seq.setReg; split <;> cases q <;> rfl
  | xinc r => dsimp only; unfold Seq.setReg; split <;> cases q <;> rfl
  | _ => cases q <;> rfl

theorem applyTick_only (q : SeqId) (t : Task) (ps : List Pend) : RegsOnly q t (applyTick q t ps) := by
  refine (RegsOnly.fold q (fun t (p : Pend) => p.writes.foldl (applyWrite q) t)
    (fun t p => RegsOnly.fold q _ (fun t w => applyWrite_only q t w) _ _) ps t).trans ?_
  unfold RegsOnly applyTick
  cases q <;> rfl

theorem applyAll_only (q : SeqId) (n : Nat) (t : Task) (ps : List Pend) : RegsOnly q t (applyAll q n t ps) := by
  induction n generalizing t ps with
  | zero => exact .refl q t
  | succ n ih =>
    unfold applyAll
    split
    · exact .refl q t
    · exact (applyTick_only q t _).trans (ih _ _)

/-- Writing the results that are due changes registers, and takes those results from the list of what is on its way. -/
theorem dueWrites_only {t t' : Task} {q : SeqId} {T : Nat} (h : dueWrites t q T = some t') :
    RegsOnly q (t.setSeq q { t.seq q with pend := (t.seq q).pend.filter (fun p => T < p.due) }) t' := by
  unfold dueWrites at h
  dsimp only at h
  split at h
  · cases h
  · obtain rfl := Option.some.inj h
    exact applyAll_only _ _ _ _

/-- With nothing on its way, the task is as it was. -/
theorem dueWrites_nil (t : Task) (q : SeqId) (T : Nat) (h : (t.seq q).pend = []) : dueWrites t q T = some t := by
  unfold dueWrites
  have : t.setSeq q { t.seq q with pend := [] } = t := by
    conv_rhs => rw [← Task.setSeq_seq t q]
    congr 1
    cases hu : t.seq q
    simp_all
  simp [h, applyAll, this]

section due
variable {s : State} {i : Instr} {y : Syn} {t : Task}

theorem Ready.running (h : Ready s i y t) : s.me.stream = .running := by
  have := h.turn
  simp only [mayIssue, Bool.and_eq_true, beq_iff_eq] at this
  exact this.1.1.2

theorem Ready.noProg (h : Ready s i y t) : s.me.prog = none := by
  have := h.turn
  simp only [mayIssue, Bool.and_eq_true, beq_iff_eq] at this
  simpa using this.1.2

theorem Ready.here? (h : Ready s i y t) : s.task? s.cur.core (s.bankOf s.cur.core) = some s.here := by
  have := h.turn
  simp only [mayIssue, Bool.and_eq_true, beq_iff_eq] at this
  obtain ⟨x, hx⟩ := Option.isSome_iff_exists.mp this.1.1.1.1.2
  simp [State.here, hx]

theorem Ready.seq_eq (h : Ready s i y t) :
    t.seq s.cur.q = { s.me with regs := (t.seq s.cur.q).regs, pend := s.me.pend.filter (fun p => issueTick s < p.due) } := by
  have := dueWrites_only h.due
  rw [this]
  simp [State.me]

end due

/-- A completed instruction in the terms of `Effect`. -/
theorem effect_of {s : State} {i : Instr} {y : Syn} {t : Task} (h : Ready s i y t) {ticks : Nat} {body : State → Res}
    (hx : exec i s = run i y ticks body s) {s0 : State} {t1 t2 : Task} {pc : BitVec 48}
    (hb : body (entered s t y (encode i).length ticks) = .ok (s0.setHere t1))
    (hc : s0.cur = s.cur) (hk : s0.bankOf s.cur.core = s.bankOf s.cur.core)
    (hr : (t1.seq s.cur.q).stream = .running) (hw : (t1.seq s.cur.q).wait.isSome = true)
    (ht : bareTask t1 s.cur.q = bareTask t2 s.cur.q) (hp : (t1.seq s.cur.q).pc = pc)
    (hi : (t1.seq s.cur.q).tick = issueTick s + ticks) (hn : (t1.seq s.cur.q).seqno = (t2.seq s.cur.q).seqno + 1) :
    Effect s i y s0 t2 pc ticks := by
  obtain ⟨t', fl, _, h1, h2⟩ := finish_ok s0 s.me.pc t1 (by rw [hc]; exact hr) (by rw [hc]; exact hw)
  rw [hc] at h2
  have hs := h2.seq s.cur.q
  rw [Task.seq_setSeq] at hs
  refine ⟨t', ?_, ?_, ?_, ?_, ?_, ?_⟩
  · rw [hx, run_ok h, hb, h1, State.setHere_eq, hc, hk]
  · rw [h2.bare, ← ht]; cases s.cur.q <;> rfl
  · rw [hs]; exact hp
  · rw [hs]; exact hi
  · rw [hs]; exact hn
  · rw [hs]

/-- The registers of the executing sequencer as a body reads them. -/
theorem reg_entered {s : State} (t : Task) (y : Syn) (len ticks r : Nat) : (entered s t y len ticks).reg r = (t.seq s.cur.q).reg r := by
  obtain ⟨k, w, n, -, he, -⟩ := entered_eq s t y len ticks
  rw [he]
  simp [Seq.reg]

/-- An instruction that writes one register of its sequencer, and the PC. -/
theorem effect_setReg {s : State} {i : Instr} {y : Syn} {t : Task} (h : Ready s i y t) {ticks : Nat} (hz : ticks ≠ 0)
    {body : State → Res} (hx : exec i s = run i y ticks body s) {r : Nat} {v : Word}
    (hb : body (entered s t y (encode i).length ticks) = .ok ((entered s t y (encode i).length ticks).setReg r v)) :
    Effect s i y s (withReg s t r v) (nextPc s i) ticks := by
  obtain ⟨k, w, n, hk, he, -⟩ := entered_eq s t y (encode i).length ticks
  rw [he, State.setReg_setHere] at hb
  have hst : (t.seq s.cur.q).stream = .running := by rw [h.seq_eq]; exact h.running
  refine effect_of h hx (by rw [he]; exact hb) rfl rfl ?_ ?_ ?_ ?_ ?_ ?_
  · simp [hst]
  · simp
  · unfold TokensOnly at hk
    rw [hk]
    unfold withReg Seq.setReg
    cases s.cur.q <;> dsimp only [Task.seq, Task.setSeq] <;> split <;> rfl
  · simp [nextPc]
  · simp
  · simp [withReg, hz]

/-- The operands of C as a body reads them. -/
theorem cbVal_entered {s : State} (t : Task) (y : Syn) (len ticks : Nat) (b : CB) :
    cbVal (entered s t y len ticks) b = bVal (t.seq s.cur.q) b := by
  cases b <;> simp [cbVal, bVal, reg_entered]

theorem srcA_entered {s : State} (t : Task) (y : Syn) (len ticks : Nat) (o : COp) :
    srcA (entered s t y len ticks) o = (t.seq s.cur.q).reg o.sa.toNat := reg_entered t y len ticks _

theorem srcD_entered {s : State} (t : Task) (y : Syn) (len ticks : Nat) (o : COp) :
    srcD (entered s t y len ticks) o = (t.seq s.cur.q).reg o.sd.toNat := reg_entered t y len ticks _

theorem opVal_entered {s : State} (t : Task) (y : Syn) (len ticks : Nat) (o : COp) :
    opVal (entered s t y len ticks) o = (t.seq s.cur.q).reg o.sa.toNat + bVal (t.seq s.cur.q) o.b := by
  simp [opVal, srcA_entered, cbVal_entered]

theorem opAddr_entered {s : State} (t : Task) (y : Syn) (len ticks : Nat) (o : COp) :
    opAddr (entered s t y len ticks) o = addrC (t.seq s.cur.q) o := by
  simp [opAddr, addrC, opVal_entered]

/-- The head parcel's address as a body sees it. -/
theorem headPc_entered {s : State} (t : Task) (y : Syn) (i : Instr) (ticks : Nat) :
    headPc (entered s t y (encode i).length ticks) i = s.me.pc := by
  obtain ⟨k, w, n, -, he, -⟩ := entered_eq s t y (encode i).length ticks
  rw [he]
  simp [headPc]

/-- An instruction that changes the PC, after it may have written one register. -/
theorem effect_setPc {s : State} {i : Instr} {y : Syn} {t : Task} (h : Ready s i y t) {ticks : Nat} (hz : ticks ≠ 0)
    {body : State → Res} (hx : exec i s = run i y ticks body s) {r : Nat} {v : Word} {pc : BitVec 48}
    (hb : body (entered s t y (encode i).length ticks) = .ok (setPc ((entered s t y (encode i).length ticks).setReg r v) pc)) :
    Effect s i y s (withReg s t r v) pc ticks := by
  obtain ⟨k, w, n, hk, he, -⟩ := entered_eq s t y (encode i).length ticks
  rw [he, State.setReg_setHere] at hb
  have hst : (t.seq s.cur.q).stream = .running := by rw [h.seq_eq]; exact h.running
  simp only [setPc, State.setMe_setHere] at hb
  refine effect_of h hx (by rw [he]; exact hb) rfl rfl ?_ ?_ ?_ ?_ ?_ ?_
  · simp [hst]
  · simp
  · unfold TokensOnly at hk
    rw [hk]
    unfold withReg Seq.setReg
    simp only [State.me_setHere, State.setHere_cur]
    cases s.cur.q <;> dsimp only [Task.seq, Task.setSeq] <;> split <;> rfl
  · simp
  · simp
  · simp [withReg, hz]

/-- An instruction without an effect on registers. -/
theorem effect_none {s : State} {i : Instr} {y : Syn} {t : Task} (h : Ready s i y t) {ticks : Nat} (hz : ticks ≠ 0)
    {body : State → Res} (hx : exec i s = run i y ticks body s)
    (hb : body (entered s t y (encode i).length ticks) = .ok (entered s t y (encode i).length ticks)) :
    Effect s i y s t (nextPc s i) ticks := by
  obtain ⟨k, w, n, -, he, -⟩ := entered_eq s t y (encode i).length ticks
  have hr : (entered s t y (encode i).length ticks).setReg 0 0 = entered s t y (encode i).length ticks := by
    rw [he, State.setReg_setHere]; simp [Seq.setReg]
  simpa [withReg, Seq.setReg] using effect_setReg h hz hx (r := 0) (v := 0) (by rw [hb, hr])

/-- A jump without another effect. -/
theorem effect_jump {s : State} {i : Instr} {y : Syn} {t : Task} (h : Ready s i y t) {ticks : Nat} (hz : ticks ≠ 0)
    {body : State → Res} (hx : exec i s = run i y ticks body s) {pc : BitVec 48}
    (hb : body (entered s t y (encode i).length ticks) = .ok (setPc (entered s t y (encode i).length ticks) pc)) :
    Effect s i y s t pc ticks := by
  obtain ⟨k, w, n, -, he, -⟩ := entered_eq s t y (encode i).length ticks
  have hr : (entered s t y (encode i).length ticks).setReg 0 0 = entered s t y (encode i).length ticks := by
    rw [he, State.setReg_setHere]; simp [Seq.setReg]
  simpa [withReg, Seq.setReg] using effect_setPc h hz hx (r := 0) (v := 0) (by rw [hb, hr])

/-- An instruction that is undone: its sequencer leaves the waiting phase, and nothing but bookkeeping and tokens differs. -/
theorem undoWait_bare (t : Task) (q : SeqId) (b : Bool) :
    bareTask (undoWait t q b) q = bareTask t q ∧ ((undoWait t q b).seq q).pc = (t.seq q).pc
      ∧ ((undoWait t q b).seq q).wait = none := by
  unfold undoWait
  dsimp only
  split
  · next h => exact ⟨rfl, rfl, h⟩
  · next w h =>
    have hk : TokensOnly t (if w.issued = true then returnTokens t q w else t) := by
      split
      · exact returnTokens_only t q w
      · exact .refl t
    refine ⟨?_, ?_, by simp⟩
    · generalize (if w.issued = true then returnTokens t q w else t) = k at hk
      unfold TokensOnly at hk
      rw [hk]
      cases q <;> rfl
    · simp [hk.seq]

/-- An instruction that has issued and begun nothing has no effect to keep, and no entry of a queue to leave. -/
theorem hasBegun_fresh (s : State) (t : Task) (w : Wait) (hw : (t.seq s.cur.q).wait = some w) (ho : w.op = .none) (hs : w.sent = 0) :
    hasBegun (s.setHere t) = false := by
  unfold hasBegun
  rw [State.me_setHere, State.here_setHere, hw, State.setHere_cur]
  cases hq : s.cur.q <;> rw [hq] at hw <;> simp [begunResult, staysBegun, ho, hs, show t.c = t.seq .c from rfl, hw]

theorem dropLaunch_fresh (s : State) (core bank : Nat) (t : Task) (w : Wait) (hw : t.c.wait = some w) (ho : w.op = .none) :
    dropLaunch s core bank t = s := by
  unfold dropLaunch; simp [hw, ho]

/-- A trap undoes an instruction that has begun nothing, and is taken with the PC back at its head parcel. -/
theorem trapUndone_fresh (s : State) (t : Task) (head : BitVec 48) (c : Cause) (faddr flags : Nat) (w : Wait)
    (hw : (t.seq s.cur.q).wait = some w) (ho : w.op = .none) (hs : w.sent = 0) :
    trapUndone (s.setHere t) head c faddr flags =
      let k := undoWait t s.cur.q (trapCounts t s.cur.q)
      trapHere (s.setHere (k.setSeq s.cur.q { k.seq s.cur.q with pc := head })) c faddr flags := by
  have hd : (if (s.cur.q == SeqId.c) = true then dropLaunch (s.setHere t) s.cur.core (s.bankOf s.cur.core) t else s.setHere t)
      = s.setHere t := by
    split
    · next h =>
      have hq : s.cur.q = .c := by simpa using h
      rw [hq] at hw
      exact dropLaunch_fresh _ _ _ _ w hw ho
    · rfl
  have ha : asksOutside (t.seq s.cur.q) = false := by simp [asksOutside, hw, ho]
  unfold trapUndone
  simp only [hasBegun_fresh s t w hw ho hs, State.setHere_cur, State.bankOf_setHere, State.here_setHere, Bool.false_eq_true, if_false, hd, ha,
    Bool.and_false, State.setHere_setHere, State.me_setHere, State.setMe_setHere]

/-- A trap of the executing sequencer, whose task is given. -/
theorem trapHere_setHere (s : State) (t : Task) (pc : BitVec 48) (c : Cause) (faddr flags : Nat) (hp : (t.seq s.cur.q).pc = pc) :
    trapHere (s.setHere t) c faddr flags
      = takeTrap (s.setTask s.cur.core (s.bankOf s.cur.core) (some t)) s.cur.core (s.bankOf s.cur.core) s.cur.q.num c faddr flags pc.toNat := by
  unfold trapHere
  rw [State.me_setHere, hp, State.bankOf_setHere, State.setHere_cur, State.setHere_eq]

/-- A trap of a body, in the terms of `TrapsPrecisely`. -/
theorem trap_of {s : State} {i : Instr} {y : Syn} {t : Task} (h : Ready s i y t) {ticks : Nat} {body : State → Res}
    (hx : exec i s = run i y ticks body s) {c : Cause} {faddr : Nat}
    (hb : body (entered s t y (encode i).length ticks) = .trap c faddr 0 (entered s t y (encode i).length ticks)) :
    TrapsPrecisely s i t c faddr := by
  obtain ⟨k, w, n, hk, he, -, -, ho, hs⟩ := entered_eq s t y (encode i).length ticks
  generalize hv : ({ t.seq s.cur.q with
        pc := s.me.pc + BitVec.ofNat 48 (4 * (encode i).length), wait := some w, nextId := (t.seq s.cur.q).nextId + 1, tick := issueTick s + ticks,
        seqno := if ticks = 0 then (t.seq s.cur.q).seqno else (t.seq s.cur.q).seqno + 1, lastIssue := n, nextFree := s.mcc + ticks,
        armed := false, tickAt := s.mcc + ticks, head := s.me.pc } : Seq) = v at he
  rw [he] at hb
  have hwv : ((k.setSeq s.cur.q v).seq s.cur.q).wait = some w := by rw [Task.seq_setSeq, ← hv]
  have hf : exec i s = trapUndone (s.setHere (k.setSeq s.cur.q v)) s.me.pc c faddr 0 := by rw [hx, run_ok h, he, hb]; rfl
  rw [trapUndone_fresh s _ s.me.pc c faddr 0 w hwv ho hs] at hf
  obtain ⟨h1, h2, h3⟩ := undoWait_bare (k.setSeq s.cur.q v) s.cur.q (trapCounts (k.setSeq s.cur.q v) s.cur.q)
  generalize undoWait (k.setSeq s.cur.q v) s.cur.q (trapCounts (k.setSeq s.cur.q v) s.cur.q) = z at h1 h2 h3 hf
  refine ⟨z.setSeq s.cur.q { z.seq s.cur.q with pc := s.me.pc }, ?_, ?_, by simp, by simp [h3]⟩
  · exact hf.trans (trapHere_setHere s _ s.me.pc c faddr 0 (by simp))
  · have hp : ∀ (v : Task) (q : SeqId) (pc : BitVec 48), bareTask (v.setSeq q { v.seq q with pc := pc }) q = bareTask v q := by
      intro v q pc; cases q <;> rfl
    rw [hp, h1]
    unfold TokensOnly at hk
    rw [hk, ← hv]
    cases s.cur.q <;> rfl

end Sys2Proof
end

