-- ==== Sys2Proof/Laws/Encode.lean ====
section
/-! SUPPORT. The encoder and the decoder, form by form: what the decoder reads from the parcels that the encoder writes. -/

namespace Sys2Proof

/-! ### The head parcel -/

theorem headOf_extract (l : BitVec 2) (o y : BitVec 8) (f : BitVec 14) (i n : Nat) (h : i + n ≤ 14) :
    (headOf l o y f).extractLsb' i n = f.extractLsb' i n := by
  unfold headOf
  apply BitVec.eq_of_getLsbD_eq
  intro j hj
  simp only [BitVec.getLsbD_extractLsb', BitVec.getLsbD_append, hj, decide_true, Bool.true_and]
  rw [if_pos (by omega)]

theorem headOf_bit (l : BitVec 2) (o y : BitVec 8) (f : BitVec 14) (i : Nat) (h : i < 14) : (headOf l o y f).getLsbD i = f.getLsbD i := by
  unfold headOf
  simp only [BitVec.getLsbD_append]
  rw [if_pos (by omega)]

@[simp] theorem hF0_headOf (l : BitVec 2) (o y : BitVec 8) (f : BitVec 14) : hF0 (headOf l o y f) = f := by
  unfold hF0
  rw [headOf_extract _ _ _ _ _ _ (by omega)]
  simp

@[simp] theorem hSyn_headOf (l : BitVec 2) (o y : BitVec 8) (f : BitVec 14) : hSyn (headOf l o y f) = y := by
  unfold hSyn headOf
  apply BitVec.eq_of_getLsbD_eq
  intro j hj
  simp only [BitVec.getLsbD_extractLsb', BitVec.getLsbD_append, hj, decide_true, Bool.true_and]
  rw [if_neg (by omega), if_pos (by omega), show 14 + j - 14 = j by omega]

@[simp] theorem hOpc_headOf (l : BitVec 2) (o y : BitVec 8) (f : BitVec 14) : hOpc (headOf l o y f) = o := by
  unfold hOpc headOf
  apply BitVec.eq_of_getLsbD_eq
  intro j hj
  simp only [BitVec.getLsbD_extractLsb', BitVec.getLsbD_append, hj, decide_true, Bool.true_and]
  rw [if_neg (by omega), if_neg (by omega), if_pos (by omega), show 22 + j - 14 - 8 = j by omega]

@[simp] theorem hLen_headOf (l : BitVec 2) (o y : BitVec 8) (f : BitVec 14) : hLen (headOf l o y f) = l := by
  unfold hLen headOf
  apply BitVec.eq_of_getLsbD_eq
  intro j hj
  simp only [BitVec.getLsbD_extractLsb', BitVec.getLsbD_append, hj, decide_true, Bool.true_and]
  rw [if_neg (by omega), if_neg (by omega), if_neg (by omega), show 30 + j - 14 - 8 - 8 = j by omega]

/-- The decoder on a head and its parcels, where opcode, length and form agree. -/
theorem decode_form {q : SeqId} {h : Parcel} {rest : List Parcel} {i : Instr} (ls : List Nat) (hl : opcLens q (hOpc h).toNat = some ls)
    (hm : (hLen h).toNat ∈ ls) (hr : rest.length = extraParcels (hLen h)) (hd : decodeForm q h rest = some i) : decode q (h :: rest) = .ok i := by
  have hm' : ls.contains (hLen h).toNat = true := by simpa using hm
  simp only [decode, hl, hm', if_true, hr, lt_irrefl, if_false]
  rw [← hr, List.take_length, hd]

/-! ### The fields that a concatenation holds -/


theorem fields_c (sd : BitVec 6) (sa : BitVec 6) (k : BitVec 2) : let x : BitVec 14 := sd ++ sa ++ k
    x.extractLsb' 8 6 = sd ∧ x.extractLsb' 2 6 = sa ∧ x.extractLsb' 0 2 = k := by
  intro x
  refine ⟨?_, ?_, ?_⟩
  all_goals
    apply BitVec.eq_of_getLsbD_eq
    intro j hj
    simp only [x, BitVec.getLsbD_extractLsb', BitVec.getLsbD_append, hj, decide_true, Bool.true_and]
    repeat' split
    all_goals first | omega | (congr 1; omega) | simp

theorem fields_creg (sb : BitVec 6) : let x : BitVec 32 := sb ++ 0#26
    x.extractLsb' 26 6 = sb ∧ x.extractLsb' 0 26 = 0#26 := by
  intro x
  refine ⟨?_, ?_⟩
  all_goals
    apply BitVec.eq_of_getLsbD_eq
    intro j hj
    simp only [x, BitVec.getLsbD_extractLsb', BitVec.getLsbD_append, hj, decide_true, Bool.true_and]
    repeat' split
    all_goals first | omega | (congr 1; omega) | simp

theorem fields_e2 (xd : BitVec 5) (xa : BitVec 5) (sub : BitVec 4) : let x : BitVec 14 := xd ++ xa ++ sub
    x.extractLsb' 9 5 = xd ∧ x.extractLsb' 4 5 = xa ∧ x.extractLsb' 0 4 = sub := by
  intro x
  refine ⟨?_, ?_, ?_⟩
  all_goals
    apply BitVec.eq_of_getLsbD_eq
    intro j hj
    simp only [x, BitVec.getLsbD_extractLsb', BitVec.getLsbD_append, hj, decide_true, Bool.true_and]
    repeat' split
    all_goals first | omega | (congr 1; omega) | simp

theorem fields_v (pred : BitVec 4) (vd : BitVec 10) : let x : BitVec 14 := pred ++ vd
    x.extractLsb' 10 4 = pred ∧ x.extractLsb' 0 10 = vd := by
  intro x
  refine ⟨?_, ?_⟩
  all_goals
    apply BitVec.eq_of_getLsbD_eq
    intro j hj
    simp only [x, BitVec.getLsbD_extractLsb', BitVec.getLsbD_append, hj, decide_true, Bool.true_and]
    repeat' split
    all_goals first | omega | (congr 1; omega) | simp

theorem fields_v2r (va : BitVec 10) (vb : BitVec 10) (ty : BitVec 4) (rm : BitVec 2) (kb : BitVec 1) (opx : BitVec 4) : let x : BitVec 32 := va ++ vb ++ ty ++ rm ++ kb ++ opx ++ 0#1
    x.extractLsb' 22 10 = va ∧ x.extractLsb' 12 10 = vb ∧ x.extractLsb' 8 4 = ty ∧ x.extractLsb' 6 2 = rm ∧ x.extractLsb' 5 1 = kb ∧ x.extractLsb' 1 4 = opx ∧ x.extractLsb' 0 1 = 0#1 := by
  intro x
  refine ⟨?_, ?_, ?_, ?_, ?_, ?_, ?_⟩
  all_goals
    apply BitVec.eq_of_getLsbD_eq
    intro j hj
    simp only [x, BitVec.getLsbD_extractLsb', BitVec.getLsbD_append, hj, decide_true, Bool.true_and]
    repeat' split
    all_goals first | omega | (congr 1; omega) | simp

theorem fields_v2i (va : BitVec 10) (v : BitVec 20) (b1 : BitVec 1) (b0 : BitVec 1) : let x : BitVec 32 := va ++ v ++ b1 ++ b0
    x.extractLsb' 22 10 = va ∧ x.extractLsb' 2 20 = v ∧ x.extractLsb' 1 1 = b1 ∧ x.extractLsb' 0 1 = b0 := by
  intro x
  refine ⟨?_, ?_, ?_, ?_⟩
  all_goals
    apply BitVec.eq_of_getLsbD_eq
    intro j hj
    simp only [x, BitVec.getLsbD_extractLsb', BitVec.getLsbD_append, hj, decide_true, Bool.true_and]
    repeat' split
    all_goals first | omega | (congr 1; omega) | simp

theorem fields_vmem (xa : BitVec 5) (vb : BitVec 10) (ty : BitVec 4) (opx : BitVec 4) : let x : BitVec 32 := xa ++ 0#5 ++ vb ++ ty ++ 0#3 ++ opx ++ 0#1
    x.extractLsb' 27 5 = xa ∧ x.extractLsb' 22 5 = 0#5 ∧ x.extractLsb' 12 10 = vb ∧ x.extractLsb' 8 4 = ty ∧ x.extractLsb' 5 3 = 0#3 ∧ x.extractLsb' 1 4 = opx ∧ x.extractLsb' 0 1 = 0#1 := by
  intro x
  refine ⟨?_, ?_, ?_, ?_, ?_, ?_, ?_⟩
  all_goals
    apply BitVec.eq_of_getLsbD_eq
    intro j hj
    simp only [x, BitVec.getLsbD_extractLsb', BitVec.getLsbD_append, hj, decide_true, Bool.true_and]
    repeat' split
    all_goals first | omega | (congr 1; omega) | simp

theorem fields_vrnd (xk : BitVec 5) (xs : BitVec 5) (vb : BitVec 10) (ty : BitVec 4) (rm : BitVec 2) (kb : BitVec 1) (opx : BitVec 4) : let x : BitVec 32 := xk ++ xs ++ vb ++ ty ++ rm ++ kb ++ opx ++ 0#1
    x.extractLsb' 27 5 = xk ∧ x.extractLsb' 22 5 = xs ∧ x.extractLsb' 12 10 = vb ∧ x.extractLsb' 8 4 = ty ∧ x.extractLsb' 6 2 = rm ∧ x.extractLsb' 5 1 = kb ∧ x.extractLsb' 1 4 = opx ∧ x.extractLsb' 0 1 = 0#1 := by
  intro x
  refine ⟨?_, ?_, ?_, ?_, ?_, ?_, ?_, ?_⟩
  all_goals
    apply BitVec.eq_of_getLsbD_eq
    intro j hj
    simp only [x, BitVec.getLsbD_extractLsb', BitVec.getLsbD_append, hj, decide_true, Bool.true_and]
    repeat' split
    all_goals first | omega | (congr 1; omega) | simp

theorem fields_pair (hi : BitVec 16) (lo : BitVec 16) : let x : BitVec 32 := hi ++ lo
    x.extractLsb' 16 16 = hi ∧ x.extractLsb' 0 16 = lo := by
  intro x
  refine ⟨?_, ?_⟩
  all_goals
    apply BitVec.eq_of_getLsbD_eq
    intro j hj
    simp only [x, BitVec.getLsbD_extractLsb', BitVec.getLsbD_append, hj, decide_true, Bool.true_and]
    repeat' split
    all_goals first | omega | (congr 1; omega) | simp

theorem fields_mod (b5 : BitVec 1) (b4 : BitVec 1) (b3 : BitVec 1) (b2 : BitVec 1) (b1 : BitVec 1) (b0 : BitVec 1) (sel : BitVec 3) (opm : BitVec 5) : let x : BitVec 14 := b5 ++ b4 ++ b3 ++ b2 ++ b1 ++ b0 ++ sel ++ opm
    x.extractLsb' 13 1 = b5 ∧ x.extractLsb' 12 1 = b4 ∧ x.extractLsb' 11 1 = b3 ∧ x.extractLsb' 10 1 = b2 ∧ x.extractLsb' 9 1 = b1 ∧ x.extractLsb' 8 1 = b0 ∧ x.extractLsb' 5 3 = sel ∧ x.extractLsb' 0 5 = opm := by
  intro x
  refine ⟨?_, ?_, ?_, ?_, ?_, ?_, ?_, ?_⟩
  all_goals
    apply BitVec.eq_of_getLsbD_eq
    intro j hj
    simp only [x, BitVec.getLsbD_extractLsb', BitVec.getLsbD_append, hj, decide_true, Bool.true_and]
    repeat' split
    all_goals first | omega | (congr 1; omega) | simp

theorem fields_words (hi : BitVec 32) (lo : BitVec 32) : let x : BitVec 64 := hi ++ lo
    x.extractLsb' 32 32 = hi ∧ x.extractLsb' 0 32 = lo := by
  intro x
  refine ⟨?_, ?_⟩
  all_goals
    apply BitVec.eq_of_getLsbD_eq
    intro j hj
    simp only [x, BitVec.getLsbD_extractLsb', BitVec.getLsbD_append, hj, decide_true, Bool.true_and]
    repeat' split
    all_goals first | omega | (congr 1; omega) | simp

/-! ### The forms -/

/-- What a form's encoder writes is read back by its parser: head, rest, opcode, SYN, operands and length. -/
def FormOf {α : Type} (ps : List Parcel) (opc : BitVec 8) (y : Syn) (parse : Parcel → List Parcel → Option α) (o : α) (len : Nat) : Prop :=
  ∃ h rest, ps = h :: rest ∧ hOpc h = opc ∧ hSyn h = y ∧ parse h rest = some o ∧ rest.length = extraParcels (hLen h) ∧ (hLen h).toNat = len

/-- From a form to the decoder. -/
theorem FormOf.decode {α : Type} {ps : List Parcel} {opc : BitVec 8} {y : Syn} {parse : Parcel → List Parcel → Option α} {o : α} {len : Nat}
    (hf : FormOf ps opc y parse o len) (q : SeqId) (ls : List Nat) (mk : Syn → α → Instr) (hl : opcLens q opc.toNat = some ls) (hm : len ∈ ls)
    (hd : ∀ h rest, hOpc h = opc → decodeForm q h rest = (parse h rest).map (mk (hSyn h))) : decode q ps = .ok (mk y o) := by
  obtain ⟨h, rest, rfl, ho, hy, hp, hr, hn⟩ := hf
  exact decode_form ls (ho ▸ hl) (hn ▸ hm) hr (by rw [hd h rest ho, hp, hy]; rfl)

/-- The length of an instruction with operand B. -/
def CB.len : CB → Nat
  | .imm64 _ => 2
  | _ => 1

theorem encCOp_form (opc : BitVec 8) (y : Syn) (o : COp) : FormOf (encCOp opc y o) opc y parseCOp o o.b.len := by
  obtain ⟨sd, sa, b⟩ := o
  cases b with
  | reg sb =>
    refine ⟨_, _, rfl, by simp, by simp, ?_, by simp [extraParcels], by simp [CB.len]⟩
    obtain ⟨h1, h2, h3⟩ := fields_c sd sa 0#2
    obtain ⟨g1, g2⟩ := fields_creg sb
    simp only [parseCOp]
    rw [headOf_extract _ _ _ _ _ _ (by omega), headOf_extract _ _ _ _ _ _ (by omega), headOf_extract _ _ _ _ _ _ (by omega), h1, h2, h3]
    show (if ((sb ++ 0#26 : BitVec 32).extractLsb' 0 26 == 0) = true then some (⟨sd, sa, .reg ((sb ++ 0#26 : BitVec 32).extractLsb' 26 6)⟩ : COp) else none) = _
    rw [g1, g2]
    rfl
  | simm v =>
    refine ⟨_, _, rfl, by simp, by simp, ?_, by simp [extraParcels], by simp [CB.len]⟩
    obtain ⟨h1, h2, h3⟩ := fields_c sd sa 1#2
    simp only [parseCOp]
    rw [headOf_extract _ _ _ _ _ _ (by omega), headOf_extract _ _ _ _ _ _ (by omega), headOf_extract _ _ _ _ _ _ (by omega), h1, h2, h3]
    rfl
  | zimm v =>
    refine ⟨_, _, rfl, by simp, by simp, ?_, by simp [extraParcels], by simp [CB.len]⟩
    obtain ⟨h1, h2, h3⟩ := fields_c sd sa 3#2
    simp only [parseCOp]
    rw [headOf_extract _ _ _ _ _ _ (by omega), headOf_extract _ _ _ _ _ _ (by omega), headOf_extract _ _ _ _ _ _ (by omega), h1, h2, h3]
    rfl
  | imm64 v =>
    refine ⟨_, _, rfl, by simp, by simp, ?_, by simp [extraParcels], by simp [CB.len]⟩
    obtain ⟨h1, h2, h3⟩ := fields_c sd sa 2#2
    have hv : v.extractLsb' 32 32 ++ v.extractLsb' 0 32 = v := by
      apply BitVec.eq_of_getLsbD_eq
      intro j hj
      simp only [BitVec.getLsbD_append, BitVec.getLsbD_extractLsb']
      split
      · simp_all
      · have : 32 + (j - 32) = j := by omega
        simp [this]; omega
    simp only [parseCOp]
    rw [headOf_extract _ _ _ _ _ _ (by omega), headOf_extract _ _ _ _ _ _ (by omega), headOf_extract _ _ _ _ _ _ (by omega), h1, h2, h3]
    show some (⟨sd, sa, .imm64 (v.extractLsb' 32 32 ++ v.extractLsb' 0 32)⟩ : COp) = _
    rw [hv]

theorem encE2_form (opc : BitVec 8) (y : Syn) (o : E2) : FormOf (encE2 opc y o) opc y parseE2 o 1 := by
  refine ⟨_, _, rfl, by simp, by simp, ?_, by simp [extraParcels], by simp⟩
  obtain ⟨h1, h2, h3⟩ := fields_e2 o.xd o.xa o.sub
  simp only [parseE2]
  rw [headOf_extract _ _ _ _ _ _ (by omega), headOf_extract _ _ _ _ _ _ (by omega), headOf_extract _ _ _ _ _ _ (by omega), h1, h2, h3]

theorem bit_of_extract {n : Nat} (x : BitVec n) (i : Nat) (b : BitVec 1) (h : x.extractLsb' i 1 = b) : x.getLsbD i = b.getLsbD 0 := by
  subst h; simp [BitVec.getLsbD_extractLsb']

/-- The length of a vector instruction. -/
def VSrc.len : VSrc → Nat
  | .lit _ => 2
  | _ => 1

theorem encVOp_form (opc : BitVec 8) (y : Syn) (o : VOp) (hi : ∀ v, o.b = .imm20 v → o.ty = 0 ∧ o.rm = 0 ∧ o.opx = 0) :
    FormOf (encVOp opc y o) opc y parseVOp o o.b.len := by
  obtain ⟨pred, vd, va, ty, rm, opx, b⟩ := o
  obtain ⟨h1, h2⟩ := fields_v pred vd
  cases b with
  | reg vb =>
    refine ⟨_, _, rfl, by simp, by simp, ?_, by simp [extraParcels], by simp [VSrc.len]⟩
    obtain ⟨g1, g2, g3, g4, g5, g6, g7⟩ := fields_v2r va vb ty rm 0#1 opx
    have k5 := bit_of_extract _ _ _ g5
    have k7 := bit_of_extract _ _ _ g7
    simp only [parseVOp]
    rw [headOf_extract _ _ _ _ _ _ (by omega), headOf_extract _ _ _ _ _ _ (by omega), h1, h2, g1, g2, g3, g4, g6, k5, k7]
    rfl
  | kbank kb =>
    refine ⟨_, _, rfl, by simp, by simp, ?_, by simp [extraParcels], by simp [VSrc.len]⟩
    obtain ⟨g1, g2, g3, g4, g5, g6, g7⟩ := fields_v2r va kb ty rm 1#1 opx
    have k5 := bit_of_extract _ _ _ g5
    have k7 := bit_of_extract _ _ _ g7
    simp only [parseVOp]
    rw [headOf_extract _ _ _ _ _ _ (by omega), headOf_extract _ _ _ _ _ _ (by omega), h1, h2, g1, g2, g3, g4, g6, k5, k7]
    rfl
  | imm20 v =>
    obtain ⟨rfl, rfl, rfl⟩ := hi v rfl
    refine ⟨_, _, rfl, by simp, by simp, ?_, by simp [extraParcels], by simp [VSrc.len]⟩
    obtain ⟨g1, g2, g3, g4⟩ := fields_v2i va v 0#1 1#1
    have k3 := bit_of_extract _ _ _ g3
    have k4 := bit_of_extract _ _ _ g4
    simp only [parseVOp]
    rw [headOf_extract _ _ _ _ _ _ (by omega), headOf_extract _ _ _ _ _ _ (by omega), h1, h2, g1, g2, k3, k4]
    rfl
  | lit w =>
    refine ⟨_, _, rfl, by simp, by simp, ?_, by simp [extraParcels], by simp [VSrc.len]⟩
    obtain ⟨g1, g2, g3, g4, g5, g6, g7⟩ := fields_v2r va 0#10 ty rm 0#1 opx
    have k5 := bit_of_extract _ _ _ g5
    have k7 := bit_of_extract _ _ _ g7
    simp only [parseVOp]
    rw [headOf_extract _ _ _ _ _ _ (by omega), headOf_extract _ _ _ _ _ _ (by omega), h1, h2, g1, g2, g3, g4, g6, k5, k7]
    rfl

theorem encVMem_form (opc : BitVec 8) (y : Syn) (o : VMemOp) : FormOf (encVMem opc y o) opc y parseVMem o 1 := by
  refine ⟨_, _, rfl, by simp, by simp, ?_, by simp [extraParcels], by simp⟩
  obtain ⟨h1, h2⟩ := fields_v o.pred o.vd
  obtain ⟨g1, g2, g3, g4, g5, g6, g7⟩ := fields_vmem o.xa o.vb o.ty o.opx
  have k7 := bit_of_extract _ _ _ g7
  have z5 : ∀ i, i < 3 → (o.xa ++ 0#5 ++ o.vb ++ o.ty ++ 0#3 ++ o.opx ++ 0#1).getLsbD (5 + i) = false := by
    intro i hi
    have := congrArg (fun x => x.getLsbD i) g5
    simpa [BitVec.getLsbD_extractLsb', hi] using this
  have k5 := z5 0 (by omega)
  have k6 : (o.xa ++ 0#5 ++ o.vb ++ o.ty ++ 0#3 ++ o.opx ++ 0#1).extractLsb' 6 2 = 0#2 := by
    apply BitVec.eq_of_getLsbD_eq
    intro j hj
    have := z5 (1 + j) (by omega)
    simp only [BitVec.getLsbD_extractLsb', hj, decide_true, Bool.true_and]
    rw [show 6 + j = 5 + (1 + j) by omega, this]; simp
  simp only [parseVMem]
  rw [headOf_extract _ _ _ _ _ _ (by omega), headOf_extract _ _ _ _ _ _ (by omega), h1, h2, g1, g2, g3, g4, g6, k5, k6, k7]
  rfl

theorem encVRnd_form (opc : BitVec 8) (y : Syn) (o : VRndOp) : FormOf (encVRnd opc y o) opc y parseVRnd o 1 := by
  refine ⟨_, _, rfl, by simp, by simp, ?_, by simp [extraParcels], by simp⟩
  obtain ⟨h1, h2⟩ := fields_v o.pred o.vd
  obtain ⟨g1, g2, g3, g4, g5, g6, g7, g8⟩ := fields_vrnd o.xk o.xs o.vb o.ty o.rm (BitVec.ofBool o.kb) o.opx
  have k6 := bit_of_extract _ _ _ g6
  have k8 := bit_of_extract _ _ _ g8
  simp only [parseVRnd]
  rw [headOf_extract _ _ _ _ _ _ (by omega), headOf_extract _ _ _ _ _ _ (by omega), h1, h2, g1, g2, g3, g4, g5, g7, k6, k8]
  simp

theorem encRec_form (opc : BitVec 8) (y : Syn) (r : Rec) : FormOf (encRec opc y r) opc y parseRec r 3 := by
  refine ⟨_, _, rfl, by simp, by simp, ?_, by simp [extraParcels], by simp⟩
  obtain ⟨h5, h4, h3, h2, h1, h0, hs, ho⟩ := fields_mod (BitVec.ofBool r.d.br) (BitVec.ofBool r.a.br) (BitVec.ofBool r.b.br) (BitVec.ofBool r.d.bm)
    (BitVec.ofBool r.a.bm) (BitVec.ofBool r.b.bm) r.bmsel r.opm
  have k5 := bit_of_extract _ _ _ h5
  have k4 := bit_of_extract _ _ _ h4
  have k3 := bit_of_extract _ _ _ h3
  have k2 := bit_of_extract _ _ _ h2
  have k1 := bit_of_extract _ _ _ h1
  have k0 := bit_of_extract _ _ _ h0
  have p (hi lo : BitVec 16) := fields_pair hi lo
  simp only [parseRec, recOperandOf, recMod]
  rw [headOf_extract _ _ _ _ _ _ (by omega), headOf_extract _ _ _ _ _ _ (by omega), headOf_bit _ _ _ _ _ (by omega), headOf_bit _ _ _ _ _ (by omega),
    headOf_bit _ _ _ _ _ (by omega), headOf_bit _ _ _ _ _ (by omega), headOf_bit _ _ _ _ _ (by omega), headOf_bit _ _ _ _ _ (by omega), hs, ho,
    k5, k4, k3, k2, k1, k0]
  simp [p]

/-- The length of a vector memory form. -/
def VMemForm.len : VMemForm → Nat
  | .record _ => 3
  | .two _ => 1

theorem encVMemForm_form (opc : BitVec 8) (y : Syn) (f : VMemForm) : FormOf (encVMemForm opc y f) opc y parseVMemForm f f.len := by
  cases f with
  | two o =>
    obtain ⟨h, rest, e, ho, hy, hp, hr, hn⟩ := encVMem_form opc y o
    refine ⟨h, rest, e, ho, hy, ?_, hr, hn⟩
    have : (hLen h == 3) = false := by
      rw [beq_eq_false_iff_ne]; intro k; rw [k] at hn; simp at hn
    simp only [parseVMemForm, this, hp]; rfl
  | record r =>
    obtain ⟨h, rest, e, ho, hy, hp, hr, hn⟩ := encRec_form opc y r
    refine ⟨h, rest, e, ho, hy, ?_, hr, hn⟩
    have : hLen h = 3 := BitVec.eq_of_toNat_eq hn
    simp [parseVMemForm, this, hp]

/-- The length of a draw. -/
def VRndForm.len : VRndForm → Nat
  | .record _ => 3
  | .two _ => 1

theorem encVRndForm_form (opc : BitVec 8) (y : Syn) (f : VRndForm) : FormOf (encVRndForm opc y f) opc y parseVRndForm f f.len := by
  cases f with
  | two o =>
    obtain ⟨h, rest, e, ho, hy, hp, hr, hn⟩ := encVRnd_form opc y o
    refine ⟨h, rest, e, ho, hy, ?_, hr, hn⟩
    have : (hLen h == 3) = false := by
      rw [beq_eq_false_iff_ne]; intro k; rw [k] at hn; simp at hn
    simp only [parseVRndForm, this, hp]; rfl
  | record r =>
    obtain ⟨h, rest, e, ho, hy, hp, hr, hn⟩ := encRec_form opc y r
    refine ⟨h, rest, e, ho, hy, ?_, hr, hn⟩
    have : hLen h = 3 := BitVec.eq_of_toNat_eq hn
    simp [parseVRndForm, this, hp]

end Sys2Proof
end

