-- ==== Sys2Proof/Laws/Memory.lean ====
section
/-! SUPPORT. Memory: every operation on it keeps the canonical form, a byte reads as it was written, and a write leaves
every other byte alone. -/

namespace Sys2Proof.Machine

/-! ### One list of cells -/

theorem Memory.wf_putByte (m : List Host.Cell) (a : Nat) (b : Byte) (h : Memory.wf m = true) : Memory.wf (putByte m a b) = true :=
  Sparse.wf_set 0 b a m h

theorem Memory.wf_putBytes (bs : List Byte) (m : List Host.Cell) (a : Nat) (h : Memory.wf m = true) : Memory.wf (putBytes m a bs) = true := by
  induction bs generalizing m a with
  | nil => exact h
  | cons b bs ih => exact ih _ _ (Memory.wf_putByte m a b h)

theorem Memory.wf_clearBytes (m : List Host.Cell) (a n : Nat) (h : Memory.wf m = true) : Memory.wf (clearBytes m a n) = true :=
  Sparse.wf_filter 0 _ m h

theorem getByte_putByte (m : List Host.Cell) (a k : Nat) (b : Byte) : getByte (putByte m a b) k = if k = a then b else getByte m k :=
  Sparse.get_set 0 b a k m

/-- A byte after a store: the byte stored where the address is in the range, else the one before. -/
theorem getByte_putBytes (bs : List Byte) (m : List Host.Cell) (a k : Nat) :
    getByte (putBytes m a bs) k = if a ≤ k ∧ k < a + bs.length then bs.getD (k - a) 0 else getByte m k := by
  induction bs generalizing m a with
  | nil => rw [if_neg (by simp only [List.length_nil]; omega)]; rfl
  | cons b bs ih =>
    simp only [putBytes, ih, getByte_putByte, List.length_cons]
    by_cases h : k = a
    · subst h; simp
    · by_cases h2 : a + 1 ≤ k ∧ k < a + 1 + bs.length
      · have : k - a = (k - (a + 1)) + 1 := by omega
        rw [if_pos h2, if_pos (by omega), this]; simp
      · rw [if_neg h2, if_neg h, if_neg (by omega)]

theorem getBytes_length (m : List Host.Cell) (a n : Nat) : (getBytes m a n).length = n := by
  induction n generalizing a with
  | zero => rfl
  | succ n ih => simp [getBytes, ih]

/-- Two memories that agree on a range give the same bytes of it. -/
theorem getBytes_congr (m m' : List Host.Cell) (a n : Nat) (h : ∀ k, a ≤ k → k < a + n → getByte m k = getByte m' k) :
    getBytes m a n = getBytes m' a n := by
  induction n generalizing a with
  | zero => rfl
  | succ n ih => simp only [getBytes]; rw [h a (by omega) (by omega), ih (a + 1) (fun k _ _ => h k (by omega) (by omega))]

/-- Read after write. -/
theorem getBytes_putBytes_same (bs : List Byte) (m : List Host.Cell) (a : Nat) : getBytes (putBytes m a bs) a bs.length = bs := by
  induction bs generalizing m a with
  | nil => rfl
  | cons b bs ih =>
    simp only [putBytes, List.length_cons, getBytes]
    rw [getByte_putBytes, if_neg (by omega), getByte_putByte, if_pos rfl, ih]

/-- A read of a range that a write does not touch. -/
theorem getBytes_putBytes_apart (bs : List Byte) (m : List Host.Cell) (a k n : Nat) (h : k + n ≤ a ∨ a + bs.length ≤ k) :
    getBytes (putBytes m a bs) k n = getBytes m k n :=
  getBytes_congr _ _ _ _ (fun j _ _ => by rw [getByte_putBytes, if_neg (by omega)])

theorem getByte_clearBytes (m : List Host.Cell) (a n k : Nat) : getByte (clearBytes m a n) k = if a ≤ k ∧ k < a + n then 0 else getByte m k := by
  have := Sparse.get_filter (0 : Byte) (fun j => !(decide (a ≤ j) && decide (j < a + n))) m k
  unfold getByte clearBytes
  rw [this]
  by_cases h : a ≤ k ∧ k < a + n
  · simp [h]
  · rw [if_neg h, if_pos]; simp; omega

end Sys2Proof.Machine

namespace Sys2Proof

open Sys2Proof.Machine

/-! ### The canonical form of a state -/

/-- A state with the same HBM and the same scratchpads. -/
theorem MemoryCanonical.of_same {s s' : State} (h : MemoryCanonical s) (hh : s'.hbm = s.hbm) (hc : ∀ n, (s'.core n).spad = (s.core n).spad) :
    MemoryCanonical s' := ⟨hh ▸ h.1, fun n => hc n ▸ h.2 n⟩

theorem MemoryCanonical.reset : MemoryCanonical State.reset := ⟨rfl, fun _ => rfl⟩

theorem MemoryCanonical.setCore {s : State} (h : MemoryCanonical s) (n : Nat) (c : Core) (hc : Memory.wf c.spad = true) : MemoryCanonical (s.setCore n c) :=
  ⟨h.1, fun m => by rw [State.core_setCore]; split
                    · exact hc
                    · exact h.2 m⟩

theorem MemoryCanonical.setTask {s : State} (h : MemoryCanonical s) (n b : Nat) (t : Option Task) : MemoryCanonical (s.setTask n b t) :=
  h.of_same rfl (fun m => State.spad_setTask s n b m t)

theorem MemoryCanonical.setHere {s : State} (h : MemoryCanonical s) (t : Task) : MemoryCanonical (s.setHere t) := h.setTask _ _ _
theorem MemoryCanonical.setMe {s : State} (h : MemoryCanonical s) (u : Seq) : MemoryCanonical (s.setMe u) := h.setHere _
theorem MemoryCanonical.setReg {s : State} (h : MemoryCanonical s) (r : Nat) (v : Word) : MemoryCanonical (s.setReg r v) := h.setMe _
theorem MemoryCanonical.setPart {s : State} (h : MemoryCanonical s) (n : Nat) (p : Partition) : MemoryCanonical (s.setPart n p) := h.of_same rfl (fun _ => rfl)
theorem MemoryCanonical.setTx {s : State} (h : MemoryCanonical s) (n : Nat) (w : TxWin) : MemoryCanonical (s.setTx n w) := h.of_same rfl (fun _ => rfl)
theorem MemoryCanonical.setRx {s : State} (h : MemoryCanonical s) (n : Nat) (w : RxWin) : MemoryCanonical (s.setRx n w) := h.of_same rfl (fun _ => rfl)
theorem MemoryCanonical.say {s : State} (h : MemoryCanonical s) (m : Msg) : MemoryCanonical (s.say m) := h.of_same rfl (fun _ => rfl)
theorem MemoryCanonical.mapFlits {s : State} (h : MemoryCanonical s) (p : Flit → Bool) (g : Flit → Flit) : MemoryCanonical (s.mapFlits p g) :=
  h.of_same rfl (fun _ => rfl)

theorem MemoryCanonical.withHbm {s : State} (h : MemoryCanonical s) (m : List Host.Cell) (hm : Memory.wf m = true) : MemoryCanonical { s with hbm := m } :=
  ⟨hm, h.2⟩

/-- What keeps the form at each step of a fold keeps it over the fold. -/
theorem MemoryCanonical.fold {α : Type} (f : State → α → State) (hf : ∀ s a, MemoryCanonical s → MemoryCanonical (f s a)) (l : List α) (s : State)
    (h : MemoryCanonical s) : MemoryCanonical (l.foldl f s) :=
  List.foldlRecOn (motive := MemoryCanonical) l f h (fun _ hs a _ => hf _ a hs)

theorem MemoryCanonical.noteEcc {s : State} (h : MemoryCanonical s) (line : Nat) (b : Bool) (k : Nat) : MemoryCanonical (noteEcc s line b k) :=
  h.of_same rfl (fun _ => rfl)

theorem MemoryCanonical.poisonLine {s : State} (h : MemoryCanonical s) (line : Nat) : MemoryCanonical (poisonLine s line) :=
  h.of_same rfl (fun _ => rfl)

theorem MemoryCanonical.correctLine {s : State} (h : MemoryCanonical s) (line : Nat) : MemoryCanonical (correctLine s line) :=
  h.of_same rfl (fun _ => rfl)

theorem MemoryCanonical.findErrors {s : State} (h : MemoryCanonical s) (a n : Nat) : MemoryCanonical (findErrors s a n) :=
  MemoryCanonical.fold _ (fun _ _ h => by split; exacts [h.correctLine _, h.poisonLine _]) _ _ h

theorem MemoryCanonical.cleanLines {s : State} (h : MemoryCanonical s) (a n : Nat) : MemoryCanonical (cleanLines s a n) := h.of_same rfl (fun _ => rfl)

theorem MemoryCanonical.storeLine {s : State} (h : MemoryCanonical s) (a : Nat) (bs : List Byte) (whole : Bool) :
    MemoryCanonical (storeLine s a bs whole) := by
  unfold Machine.storeLine
  split
  · exact ⟨Memory.wf_putBytes bs _ a h.1, h.2⟩
  · split
    · exact ⟨Memory.wf_putBytes bs _ a h.1, h.2⟩
    · dsimp only
      split
      · exact (h.findErrors _ _).noteEcc ..
      · exact (h.findErrors _ _).withHbm _ (Memory.wf_putBytes bs _ a (h.findErrors _ _).1)

theorem MemoryCanonical.storeHbm (whole : Bool) (n : Nat) {s : State} (h : MemoryCanonical s) (a : Nat) (bs : List Byte) :
    MemoryCanonical (storeHbm whole n s a bs) := by
  induction n generalizing s a bs with
  | zero => exact h
  | succ n ih =>
    unfold Machine.storeHbm
    split
    · exact h
    · exact ih (h.storeLine _ _ _) _ _

theorem MemoryCanonical.storeSpad {s : State} (h : MemoryCanonical s) (c off : Nat) (bs : List Byte) : MemoryCanonical (storeSpad s c off bs) :=
  h.setCore _ _ (Memory.wf_putBytes bs _ off (h.2 c))

theorem MemoryCanonical.performPiece {s : State} (h : MemoryCanonical s) (p : Place) (bs : List Byte) (whole : Bool) :
    MemoryCanonical (performPiece s p bs whole) := by
  unfold Machine.performPiece
  split
  · exact h.storeSpad ..
  · exact h.storeHbm ..
  · exact h

theorem MemoryCanonical.performAt {s : State} (h : MemoryCanonical s) (p : Place) (bs : List Byte) : MemoryCanonical (performAt s p bs) :=
  h.performPiece p bs false

theorem MemoryCanonical.performNamed {s : State} (h : MemoryCanonical s) (p : Place) (bs : List (Option Byte)) (whole : Bool) :
    MemoryCanonical (performNamed s p bs whole) :=
  MemoryCanonical.fold _ (fun _ _ h => h.performPiece _ _ _) _ _ h

theorem MemoryCanonical.performStore {s : State} (h : MemoryCanonical s) (st : PStore) : MemoryCanonical (performStore s st) := by
  unfold Machine.performStore
  split
  · exact h.performNamed _ _ _
  · exact h.performAt _ _

theorem MemoryCanonical.performStores {s : State} (h : MemoryCanonical s) (l : List PStore) : MemoryCanonical (performStores s l) :=
  MemoryCanonical.fold _ (fun _ _ h => h.performStore _) _ _ h

theorem MemoryCanonical.partStore {s : State} (h : MemoryCanonical s) (a : Nat) (bs : List Byte) : MemoryCanonical (partStore s a bs) := h.performAt _ _

theorem MemoryCanonical.landGranule {s : State} (h : MemoryCanonical s) (base : Place) (mask : BitVec 64) (data : BitVec 512) (g : Nat) :
    MemoryCanonical (landGranule s base mask data g) := h.performNamed _ _ _

theorem MemoryCanonical.serveWheel {s : State} (h : MemoryCanonical s) (w part : Nat) : MemoryCanonical (serveWheel s w part) := by
  unfold Machine.serveWheel
  split
  · exact h
  · exact h.of_same rfl (fun _ => rfl)

theorem MemoryCanonical.served {s : State} (h : MemoryCanonical s) (part : Nat) (p : Place) : MemoryCanonical (served s part p) := by
  unfold Machine.served
  split
  · exact h.serveWheel _ _
  · dsimp only
    split
    · exact h
    · exact h.of_same rfl (fun _ => rfl)
  · exact h

theorem MemoryCanonical.correctAt {s : State} (h : MemoryCanonical s) (p : Place) (n : Nat) : MemoryCanonical (correctAt s p n) := by
  unfold Machine.correctAt
  split
  · exact MemoryCanonical.fold _ (fun _ line h => h.correctLine line) _ _ h
  · exact h

/-- A read makes the sequencer's own stores to the granules first, and corrects what it finds. -/
theorem MemoryCanonical.drainAt {s : State} (h : MemoryCanonical s) (core bank : Nat) (q : SeqId) (id : Nat) (p : Place) (n : Nat) :
    MemoryCanonical (drainAt s core bank q id p n) := by
  unfold Machine.drainAt
  split
  · exact h
  · dsimp only
    split
    · exact (h.performStores _).correctAt _ _
    · exact ((h.performStores _).setTask _ _ _).correctAt _ _

theorem MemoryCanonical.readBytes {s : State} (h : MemoryCanonical s) (p : Place) (n : Nat) : MemoryCanonical (readBytes s p n).1 :=
  h.drainAt _ _ _ _ _ _

theorem MemoryCanonical.readNow {s : State} (h : MemoryCanonical s) (p : Place) (n : Nat) : MemoryCanonical (readNow s p n).1 :=
  (h.served _ _).readBytes _ _

theorem MemoryCanonical.ringWrite {s : State} (h : MemoryCanonical s) (off : Nat) (r : BitVec 256) : MemoryCanonical (ringWrite s off r) := by
  unfold Machine.ringWrite
  split
  · exact h.partStore _ _
  · exact h

theorem MemoryCanonical.clearHbm {s : State} (h : MemoryCanonical s) (a n : Nat) : MemoryCanonical (clearHbm s a n) :=
  ⟨Memory.wf_clearBytes _ _ _ h.1, h.2⟩

theorem Memory.wf_pieces (l : List Piece) (a : Nat) (m : List Host.Cell) (h : Memory.wf m = true) :
    Memory.wf (l.foldl (fun m p => putBytes m (a + p.1) p.2) m) = true :=
  List.foldlRecOn (motive := fun m => Memory.wf m = true) l _ h (fun _ hm _ _ => Memory.wf_putBytes _ _ _ hm)

theorem MemoryCanonical.writeImage {s : State} (h : MemoryCanonical s) (a : Nat) (t : Task) : MemoryCanonical (writeImage s a t) := by
  unfold Machine.writeImage
  have he := MemoryCanonical.fold (fun s l => Machine.findErrors s (64 * l) 64) (fun _ l h => h.findErrors _ _)
    ([a / 64, (a + imageEnd - 1) / 64].filter (fun l => !lineIn a imageEnd l)).dedup s h
  refine MemoryCanonical.fold _ (fun _ _ h => h.noteEcc ..) _ _ (MemoryCanonical.cleanLines (he.withHbm _ ?_) _ _)
  exact List.foldlRecOn (motive := fun m => Memory.wf m = true) _ _ (Memory.wf_pieces _ a _ (Memory.wf_clearBytes _ _ _ he.1))
    (fun _ hm _ _ => Memory.wf_putBytes _ _ _ hm)

/-! ### Bytes after a store of the shared operations -/

/-- Without a poisoned line, or symbols in error, a store into a line of HBM is the bytes. -/
theorem storeLine_bytes (s : State) (a : Nat) (bs : List Byte) (whole : Bool) (hp : s.poison = []) (he : s.errs = []) :
    storeLine s a bs whole = { s with hbm := putBytes s.hbm a bs } := by
  have hf : Machine.findErrors s (64 * (a / 64)) 64 = s := by unfold Machine.findErrors; rw [he]; rfl
  unfold Machine.storeLine
  cases s
  cases hp
  cases he
  split
  · rfl
  · split
    · simp [Sparse.get, Sparse.set, Sparse.erase, poisonLeft, errLeft, errKind]
    · simp only [hf]; rfl

/-- Without a poisoned line, or symbols in error, a store into HBM is the bytes. -/
theorem storeHbm_bytes (whole : Bool) (n : Nat) (s : State) (a : Nat) (bs : List Byte) (hp : s.poison = []) (he : s.errs = [])
    (hn : a % 64 + bs.length ≤ 64 * n) : storeHbm whole n s a bs = { s with hbm := putBytes s.hbm a bs } := by
  induction n generalizing s a bs with
  | zero =>
    have : bs = [] := List.eq_nil_of_length_eq_zero (by omega)
    subst this; rfl
  | succ n ih =>
    unfold Machine.storeHbm
    split
    · rfl
    · rename_i hne
      have hl : Machine.storeLine s a (bs.take (64 - a % 64)) whole = { s with hbm := putBytes s.hbm a (bs.take (64 - a % 64)) } :=
        storeLine_bytes s a _ _ hp he
      have hb : bs.length ≠ 0 := fun h => hne (List.eq_nil_of_length_eq_zero h)
      dsimp only
      rw [hl]
      by_cases hlen : bs.length ≤ 64 - a % 64
      · have hd : bs.drop (64 - a % 64) = [] := List.drop_eq_nil_of_le hlen
        have ht : bs.take (64 - a % 64) = bs := List.take_of_length_le hlen
        rw [hd, ht]
        cases n <;> rfl
      · rw [ih _ _ _ (by exact hp) (by exact he) (by simp; omega)]
        have hcat : ∀ (l1 l2 : List Byte) (m : List Host.Cell) (k : Nat), putBytes (putBytes m k l1) (k + l1.length) l2 = putBytes m k (l1 ++ l2) := by
          intro l1
          induction l1 with
          | nil => intros; rfl
          | cons b l1 ih1 => intro l2 m k; simp only [putBytes, List.length_cons, List.cons_append]; rw [← ih1, Nat.add_right_comm]; rfl
        have := hcat (bs.take (64 - a % 64)) (bs.drop (64 - a % 64)) s.hbm a
        rw [List.take_append_drop, List.length_take, min_eq_left (by omega)] at this
        rw [this]

/-- A store at a place of HBM. -/
theorem performAt_hbm (s : State) (a : Nat) (bs : List Byte) (hp : s.poison = []) (he : s.errs = []) : performAt s (.hbm a) bs = { s with hbm := putBytes s.hbm a bs } :=
  storeHbm_bytes _ _ s a bs hp he (by omega)

theorem partStore_bytes (s : State) (a : Nat) (bs : List Byte) (hp : s.poison = []) (he : s.errs = []) : partStore s a bs = { s with hbm := putBytes s.hbm a bs } :=
  performAt_hbm s a bs hp he

/-- A store at a place of a scratchpad: the bytes of that scratchpad, and no other memory. -/
theorem performAt_spad (s : State) (c off : Nat) (bs : List Byte) :
    (performAt s (.spad c off) bs).hbm = s.hbm ∧ ∀ n k, getByte ((performAt s (.spad c off) bs).core n).spad k
      = if n = c ∧ off ≤ k ∧ k < off + bs.length then bs.getD (k - off) 0 else getByte (s.core n).spad k := by
  refine ⟨rfl, fun n k => ?_⟩
  change getByte ((storeSpad s c off bs).core n).spad k = _
  unfold storeSpad
  dsimp only
  rw [State.core_setCore]
  by_cases h : n = c
  · subst h; simp only [if_true, true_and]; exact getByte_putBytes bs _ off k
  · simp [h]

/-- Bytes that are all named are one run. -/
theorem byteRuns_all (bs : List Byte) (k : Nat) (cur : List Byte) (h : cur ≠ [] ∨ bs ≠ []) :
    byteRuns k cur (bs.map some) = [(k - cur.length, cur ++ bs)] := by
  induction bs generalizing k cur with
  | nil =>
    have hc : cur ≠ [] := by simpa using h
    simp [byteRuns, hc]
  | cons b bs ih =>
    simp only [List.map_cons, byteRuns]
    rw [ih (k + 1) (cur ++ [b]) (Or.inl (by simp))]
    simp

theorem performNamed_all (s : State) (p : Place) (bs : List Byte) (whole : Bool) (h : bs ≠ []) :
    performNamed s p (bs.map some) whole = performPiece s p bs whole := by
  unfold Machine.performNamed
  rw [byteRuns_all bs 0 [] (Or.inr h)]
  cases p <;> rfl

end Sys2Proof
end

