-- ==== Sys2Proof/Laws/PerInstr.lean ====
section
/-! SUPPORT. The round trip of the encoding, constructor by constructor. -/

namespace Sys2Proof.Laws.RoundTrip

set_option Elab.async false

/-- The decoder of each space that holds `i` reads a well-formed `i` from its own parcels. -/
def Statement (i : Instr) : Prop := ∀ q : SeqId, inSpace q i = true → fieldsOk i = true → decode q (encode i) = .ok i

theorem headOf_get (l : BitVec 2) (o y : BitVec 8) (f : BitVec 14) (i : Nat) (h : i < 14) : (headOf l o y f)[i] = f[i] :=
  headOf_bit l o y f i h

theorem get_of_extract {n : Nat} (x : BitVec n) (i : Nat) (h : i < n) (b : BitVec 1) (e : x.extractLsb' i 1 = b) : x[i] = b[0] :=
  bit_of_extract x i b e

theorem only {q : SeqId} {p : SeqId} (h : (q == p) = true) : q = p := by simpa using h

theorem vop_imm {o : VOp} {tys : List Nat} {i20 lit rounds one : Bool} {opx : Nat → Bool} (h : vopShape o tys i20 lit rounds one opx = true) :
    ∀ v, o.b = .imm20 v → o.ty = 0 ∧ o.rm = 0 ∧ o.opx = 0 := by
  intro v hv
  simp only [vopShape, hv, Bool.and_eq_true, beq_iff_eq] at h
  exact ⟨h.1.1.1.1.2, h.1.1.1.2, h.1.1.2⟩

theorem vop_lit {o : VOp} {tys : List Nat} {i20 rounds one : Bool} {opx : Nat → Bool} (h : vopShape o tys i20 false rounds one opx = true) :
    o.b.len = 1 := by
  cases hb : o.b <;> simp_all [vopShape, VSrc.len]

theorem vop_v2r {o : VOp} (h : o.b.isV2R = true) : (∀ v, o.b = .imm20 v → o.ty = 0 ∧ o.rm = 0 ∧ o.opx = 0) ∧ o.b.len = 1 := by
  cases hb : o.b <;> simp_all [VSrc.isV2R, VSrc.len]

theorem vop_len (b : VSrc) : b.len ∈ [1, 2] := by cases b <;> simp [VSrc.len]
theorem cop_len (b : CB) : b.len ∈ [1, 2] := by cases b <;> simp [CB.len]
theorem vmem_len (f : VMemForm) : f.len ∈ [1, 3] := by cases f <;> simp [VMemForm.len]
theorem vrnd_len (f : VRndForm) : f.len ∈ [1, 3] := by cases f <;> simp [VRndForm.len]

theorem cop_simm {b : CB} (h : b.isSimm = true) : b.len ∈ [1] := by cases b <;> simp_all [CB.isSimm, CB.len]
theorem cop_zimm {b : CB} (h : b.isZimm = true) : b.len ∈ [1] := by cases b <;> simp_all [CB.isZimm, CB.len]
theorem cop_zimmAnd {b : CB} {p : BitVec 32 → Bool} (h : b.zimmAnd p = true) : b.len ∈ [1] := by cases b <;> simp_all [CB.zimmAnd, CB.len]
theorem cop_reg0 {b : CB} (h : b.isReg0 = true) : b.len ∈ [1] := by cases b <;> simp_all [CB.isReg0, CB.len]
theorem cop_no64 {b : CB} (h : b.isImm64 = false) : b.len ∈ [1] := by cases b <;> simp_all [CB.isImm64, CB.len]

theorem add (y : Syn) (o : COp) : Statement (.add y o) := by
  intro q hq hf
  obtain rfl := only hq
  exact (encCOp_form 0x00 y o).decode .c [1, 2] .add rfl (cop_len _) (fun h rest e => by unfold decodeForm; rw [e]; rfl)

theorem sub (y : Syn) (o : COp) : Statement (.sub y o) := by
  intro q hq hf
  obtain rfl := only hq
  exact (encCOp_form 0x01 y o).decode .c [1, 2] .sub rfl (cop_len _) (fun h rest e => by unfold decodeForm; rw [e]; rfl)

theorem and (y : Syn) (o : COp) : Statement (.and y o) := by
  intro q hq hf
  obtain rfl := only hq
  exact (encCOp_form 0x02 y o).decode .c [1, 2] .and rfl (cop_len _) (fun h rest e => by unfold decodeForm; rw [e]; rfl)

theorem or (y : Syn) (o : COp) : Statement (.or y o) := by
  intro q hq hf
  obtain rfl := only hq
  exact (encCOp_form 0x03 y o).decode .c [1, 2] .or rfl (cop_len _) (fun h rest e => by unfold decodeForm; rw [e]; rfl)

theorem xor (y : Syn) (o : COp) : Statement (.xor y o) := by
  intro q hq hf
  obtain rfl := only hq
  exact (encCOp_form 0x04 y o).decode .c [1, 2] .xor rfl (cop_len _) (fun h rest e => by unfold decodeForm; rw [e]; rfl)

theorem sll (y : Syn) (o : COp) : Statement (.sll y o) := by
  intro q hq hf
  obtain rfl := only hq
  exact (encCOp_form 0x05 y o).decode .c [1, 2] .sll rfl (cop_len _) (fun h rest e => by unfold decodeForm; rw [e]; rfl)

theorem srl (y : Syn) (o : COp) : Statement (.srl y o) := by
  intro q hq hf
  obtain rfl := only hq
  exact (encCOp_form 0x06 y o).decode .c [1, 2] .srl rfl (cop_len _) (fun h rest e => by unfold decodeForm; rw [e]; rfl)

theorem sra (y : Syn) (o : COp) : Statement (.sra y o) := by
  intro q hq hf
  obtain rfl := only hq
  exact (encCOp_form 0x07 y o).decode .c [1, 2] .sra rfl (cop_len _) (fun h rest e => by unfold decodeForm; rw [e]; rfl)

theorem mul (y : Syn) (o : COp) : Statement (.mul y o) := by
  intro q hq hf
  obtain rfl := only hq
  exact (encCOp_form 0x08 y o).decode .c [1, 2] .mul rfl (cop_len _) (fun h rest e => by unfold decodeForm; rw [e]; rfl)

theorem mulh (y : Syn) (o : COp) : Statement (.mulh y o) := by
  intro q hq hf
  obtain rfl := only hq
  exact (encCOp_form 0x09 y o).decode .c [1, 2] .mulh rfl (cop_len _) (fun h rest e => by unfold decodeForm; rw [e]; rfl)

theorem mulhu (y : Syn) (o : COp) : Statement (.mulhu y o) := by
  intro q hq hf
  obtain rfl := only hq
  exact (encCOp_form 0x0A y o).decode .c [1, 2] .mulhu rfl (cop_len _) (fun h rest e => by unfold decodeForm; rw [e]; rfl)

theorem div (y : Syn) (o : COp) : Statement (.div y o) := by
  intro q hq hf
  obtain rfl := only hq
  exact (encCOp_form 0x0B y o).decode .c [1, 2] .div rfl (cop_len _) (fun h rest e => by unfold decodeForm; rw [e]; rfl)

theorem divu (y : Syn) (o : COp) : Statement (.divu y o) := by
  intro q hq hf
  obtain rfl := only hq
  exact (encCOp_form 0x0C y o).decode .c [1, 2] .divu rfl (cop_len _) (fun h rest e => by unfold decodeForm; rw [e]; rfl)

theorem rem (y : Syn) (o : COp) : Statement (.rem y o) := by
  intro q hq hf
  obtain rfl := only hq
  exact (encCOp_form 0x0D y o).decode .c [1, 2] .rem rfl (cop_len _) (fun h rest e => by unfold decodeForm; rw [e]; rfl)

theorem remu (y : Syn) (o : COp) : Statement (.remu y o) := by
  intro q hq hf
  obtain rfl := only hq
  exact (encCOp_form 0x0E y o).decode .c [1, 2] .remu rfl (cop_len _) (fun h rest e => by unfold decodeForm; rw [e]; rfl)

theorem min (y : Syn) (o : COp) : Statement (.min y o) := by
  intro q hq hf
  obtain rfl := only hq
  exact (encCOp_form 0x0F y o).decode .c [1, 2] .min rfl (cop_len _) (fun h rest e => by unfold decodeForm; rw [e]; rfl)

theorem max (y : Syn) (o : COp) : Statement (.max y o) := by
  intro q hq hf
  obtain rfl := only hq
  exact (encCOp_form 0x10 y o).decode .c [1, 2] .max rfl (cop_len _) (fun h rest e => by unfold decodeForm; rw [e]; rfl)

theorem minu (y : Syn) (o : COp) : Statement (.minu y o) := by
  intro q hq hf
  obtain rfl := only hq
  exact (encCOp_form 0x11 y o).decode .c [1, 2] .minu rfl (cop_len _) (fun h rest e => by unfold decodeForm; rw [e]; rfl)

theorem maxu (y : Syn) (o : COp) : Statement (.maxu y o) := by
  intro q hq hf
  obtain rfl := only hq
  exact (encCOp_form 0x12 y o).decode .c [1, 2] .maxu rfl (cop_len _) (fun h rest e => by unfold decodeForm; rw [e]; rfl)

theorem slt (y : Syn) (o : COp) : Statement (.slt y o) := by
  intro q hq hf
  obtain rfl := only hq
  exact (encCOp_form 0x13 y o).decode .c [1, 2] .slt rfl (cop_len _) (fun h rest e => by unfold decodeForm; rw [e]; rfl)

theorem sltu (y : Syn) (o : COp) : Statement (.sltu y o) := by
  intro q hq hf
  obtain rfl := only hq
  exact (encCOp_form 0x14 y o).decode .c [1, 2] .sltu rfl (cop_len _) (fun h rest e => by unfold decodeForm; rw [e]; rfl)

theorem seq (y : Syn) (o : COp) : Statement (.seq y o) := by
  intro q hq hf
  obtain rfl := only hq
  exact (encCOp_form 0x15 y o).decode .c [1, 2] .seq rfl (cop_len _) (fun h rest e => by unfold decodeForm; rw [e]; rfl)

theorem li (y : Syn) (o : COp) : Statement (.li y o) := by
  intro q hq hf
  obtain rfl := only hq
  exact (encCOp_form 0x16 y o).decode .c [1, 2] .li rfl (cop_len _) (fun h rest e => by unfold decodeForm; rw [e]; rfl)

theorem clz (y : Syn) (o : COp) : Statement (.clz y o) := by
  intro q hq hf
  obtain rfl := only hq
  exact (encCOp_form 0x17 y o).decode .c [1] .clz rfl (cop_reg0 (b := o.b) (hf)) (fun h rest e => by unfold decodeForm; rw [e]; rfl)

theorem popc (y : Syn) (o : COp) : Statement (.popc y o) := by
  intro q hq hf
  obtain rfl := only hq
  exact (encCOp_form 0x18 y o).decode .c [1] .popc rfl (cop_reg0 (b := o.b) (hf)) (fun h rest e => by unfold decodeForm; rw [e]; rfl)

theorem rotl (y : Syn) (o : COp) : Statement (.rotl y o) := by
  intro q hq hf
  obtain rfl := only hq
  exact (encCOp_form 0x19 y o).decode .c [1, 2] .rotl rfl (cop_len _) (fun h rest e => by unfold decodeForm; rw [e]; rfl)

theorem bext (y : Syn) (o : COp) : Statement (.bext y o) := by
  intro q hq hf
  obtain rfl := only hq
  exact (encCOp_form 0x1A y o).decode .c [1] .bext rfl (cop_zimmAnd (b := o.b) (hf)) (fun h rest e => by unfold decodeForm; rw [e]; rfl)

theorem bins (y : Syn) (o : COp) : Statement (.bins y o) := by
  intro q hq hf
  obtain rfl := only hq
  exact (encCOp_form 0x1B y o).decode .c [1] .bins rfl (cop_zimmAnd (b := o.b) (hf)) (fun h rest e => by unfold decodeForm; rw [e]; rfl)

theorem j (y : Syn) (o : COp) : Statement (.j y o) := by
  intro q hq hf
  obtain rfl := only hq
  exact (encCOp_form 0x20 y o).decode .c [1] .j rfl (cop_simm (b := o.b) (by have k := (show (o.b.isSimm && o.sd == 0 && o.sa == 0) = true from hf); simp only [Bool.and_eq_true, Bool.not_eq_true'] at k; tauto)) (fun h rest e => by unfold decodeForm; rw [e]; rfl)

theorem jal (y : Syn) (o : COp) : Statement (.jal y o) := by
  intro q hq hf
  obtain rfl := only hq
  exact (encCOp_form 0x21 y o).decode .c [1] .jal rfl (cop_simm (b := o.b) (by have k := (show (o.b.isSimm && o.sa == 0) = true from hf); simp only [Bool.and_eq_true, Bool.not_eq_true'] at k; tauto)) (fun h rest e => by unfold decodeForm; rw [e]; rfl)

theorem jr (y : Syn) (o : COp) : Statement (.jr y o) := by
  intro q hq hf
  obtain rfl := only hq
  exact (encCOp_form 0x22 y o).decode .c [1] .jr rfl (cop_simm (b := o.b) (hf)) (fun h rest e => by unfold decodeForm; rw [e]; rfl)

theorem beq (y : Syn) (o : COp) : Statement (.beq y o) := by
  intro q hq hf
  obtain rfl := only hq
  exact (encCOp_form 0x23 y o).decode .c [1] .beq rfl (cop_simm (b := o.b) (hf)) (fun h rest e => by unfold decodeForm; rw [e]; rfl)

theorem bne (y : Syn) (o : COp) : Statement (.bne y o) := by
  intro q hq hf
  obtain rfl := only hq
  exact (encCOp_form 0x24 y o).decode .c [1] .bne rfl (cop_simm (b := o.b) (hf)) (fun h rest e => by unfold decodeForm; rw [e]; rfl)

theorem blt (y : Syn) (o : COp) : Statement (.blt y o) := by
  intro q hq hf
  obtain rfl := only hq
  exact (encCOp_form 0x25 y o).decode .c [1] .blt rfl (cop_simm (b := o.b) (hf)) (fun h rest e => by unfold decodeForm; rw [e]; rfl)

theorem bge (y : Syn) (o : COp) : Statement (.bge y o) := by
  intro q hq hf
  obtain rfl := only hq
  exact (encCOp_form 0x26 y o).decode .c [1] .bge rfl (cop_simm (b := o.b) (hf)) (fun h rest e => by unfold decodeForm; rw [e]; rfl)

theorem bltu (y : Syn) (o : COp) : Statement (.bltu y o) := by
  intro q hq hf
  obtain rfl := only hq
  exact (encCOp_form 0x27 y o).decode .c [1] .bltu rfl (cop_simm (b := o.b) (hf)) (fun h rest e => by unfold decodeForm; rw [e]; rfl)

theorem bgeu (y : Syn) (o : COp) : Statement (.bgeu y o) := by
  intro q hq hf
  obtain rfl := only hq
  exact (encCOp_form 0x28 y o).decode .c [1] .bgeu rfl (cop_simm (b := o.b) (hf)) (fun h rest e => by unfold decodeForm; rw [e]; rfl)

theorem bbs (y : Syn) (o : COp) : Statement (.bbs y o) := by
  intro q hq hf
  obtain rfl := only hq
  exact (encCOp_form 0x29 y o).decode .c [1] .bbs rfl (cop_simm (b := o.b) (hf)) (fun h rest e => by unfold decodeForm; rw [e]; rfl)

theorem ldb (y : Syn) (o : COp) : Statement (.ldb y o) := by
  intro q hq hf
  obtain rfl := only hq
  exact (encCOp_form 0x30 y o).decode .c [1] .ldb rfl (cop_simm (b := o.b) (hf)) (fun h rest e => by unfold decodeForm; rw [e]; rfl)

theorem ldh (y : Syn) (o : COp) : Statement (.ldh y o) := by
  intro q hq hf
  obtain rfl := only hq
  exact (encCOp_form 0x31 y o).decode .c [1] .ldh rfl (cop_simm (b := o.b) (hf)) (fun h rest e => by unfold decodeForm; rw [e]; rfl)

theorem ldw (y : Syn) (o : COp) : Statement (.ldw y o) := by
  intro q hq hf
  obtain rfl := only hq
  exact (encCOp_form 0x32 y o).decode .c [1] .ldw rfl (cop_simm (b := o.b) (hf)) (fun h rest e => by unfold decodeForm; rw [e]; rfl)

theorem ldd (y : Syn) (o : COp) : Statement (.ldd y o) := by
  intro q hq hf
  obtain rfl := only hq
  exact (encCOp_form 0x33 y o).decode .c [1] .ldd rfl (cop_simm (b := o.b) (hf)) (fun h rest e => by unfold decodeForm; rw [e]; rfl)

theorem ldbu (y : Syn) (o : COp) : Statement (.ldbu y o) := by
  intro q hq hf
  obtain rfl := only hq
  exact (encCOp_form 0x34 y o).decode .c [1] .ldbu rfl (cop_simm (b := o.b) (hf)) (fun h rest e => by unfold decodeForm; rw [e]; rfl)

theorem ldhu (y : Syn) (o : COp) : Statement (.ldhu y o) := by
  intro q hq hf
  obtain rfl := only hq
  exact (encCOp_form 0x35 y o).decode .c [1] .ldhu rfl (cop_simm (b := o.b) (hf)) (fun h rest e => by unfold decodeForm; rw [e]; rfl)

theorem ldwu (y : Syn) (o : COp) : Statement (.ldwu y o) := by
  intro q hq hf
  obtain rfl := only hq
  exact (encCOp_form 0x36 y o).decode .c [1] .ldwu rfl (cop_simm (b := o.b) (hf)) (fun h rest e => by unfold decodeForm; rw [e]; rfl)

theorem stb (y : Syn) (o : COp) : Statement (.stb y o) := by
  intro q hq hf
  obtain rfl := only hq
  exact (encCOp_form 0x37 y o).decode .c [1] .stb rfl (cop_simm (b := o.b) (hf)) (fun h rest e => by unfold decodeForm; rw [e]; rfl)

theorem sth (y : Syn) (o : COp) : Statement (.sth y o) := by
  intro q hq hf
  obtain rfl := only hq
  exact (encCOp_form 0x38 y o).decode .c [1] .sth rfl (cop_simm (b := o.b) (hf)) (fun h rest e => by unfold decodeForm; rw [e]; rfl)

theorem stw (y : Syn) (o : COp) : Statement (.stw y o) := by
  intro q hq hf
  obtain rfl := only hq
  exact (encCOp_form 0x39 y o).decode .c [1] .stw rfl (cop_simm (b := o.b) (hf)) (fun h rest e => by unfold decodeForm; rw [e]; rfl)

theorem std (y : Syn) (o : COp) : Statement (.std y o) := by
  intro q hq hf
  obtain rfl := only hq
  exact (encCOp_form 0x3A y o).decode .c [1] .std rfl (cop_simm (b := o.b) (hf)) (fun h rest e => by unfold decodeForm; rw [e]; rfl)

theorem ldsc (y : Syn) (o : COp) : Statement (.ldsc y o) := by
  intro q hq hf
  obtain rfl := only hq
  exact (encCOp_form 0x3B y o).decode .c [1] .ldsc rfl (cop_simm (b := o.b) (hf)) (fun h rest e => by unfold decodeForm; rw [e]; rfl)

theorem stsc (y : Syn) (o : COp) : Statement (.stsc y o) := by
  intro q hq hf
  obtain rfl := only hq
  exact (encCOp_form 0x3C y o).decode .c [1] .stsc rfl (cop_simm (b := o.b) (hf)) (fun h rest e => by unfold decodeForm; rw [e]; rfl)

theorem param (y : Syn) (o : COp) : Statement (.param y o) := by
  intro q hq hf
  obtain rfl := only hq
  exact (encCOp_form 0x41 y o).decode .c [1] .param rfl (cop_no64 (b := o.b) (by have k := (show (!o.b.isImm64 && o.sd != 0 && o.sd.toNat < 4) = true from hf); simp only [Bool.and_eq_true, Bool.not_eq_true'] at k; tauto)) (fun h rest e => by unfold decodeForm; rw [e]; rfl)

theorem fmtq (y : Syn) (o : COp) : Statement (.fmtq y o) := by
  intro q hq hf
  obtain rfl := only hq
  exact (encCOp_form 0x42 y o).decode .c [1, 2] .fmtq rfl (cop_len _) (fun h rest e => by unfold decodeForm; rw [e]; rfl)

theorem semadd (y : Syn) (o : COp) : Statement (.semadd y o) := by
  intro q hq hf
  obtain rfl := only hq
  exact (encCOp_form 0x45 y o).decode .c [1] .semadd rfl (cop_no64 (b := o.b) (by have k := (show (!o.b.isImm64) = true from hf); simp only [Bool.and_eq_true, Bool.not_eq_true'] at k; tauto)) (fun h rest e => by unfold decodeForm; rw [e]; rfl)

theorem semwait (y : Syn) (o : COp) : Statement (.semwait y o) := by
  intro q hq hf
  obtain rfl := only hq
  exact (encCOp_form 0x46 y o).decode .c [1] .semwait rfl (cop_no64 (b := o.b) (by have k := (show (!o.b.isImm64) = true from hf); simp only [Bool.and_eq_true, Bool.not_eq_true'] at k; tauto)) (fun h rest e => by unfold decodeForm; rw [e]; rfl)

theorem semset (y : Syn) (o : COp) : Statement (.semset y o) := by
  intro q hq hf
  obtain rfl := only hq
  exact (encCOp_form 0x47 y o).decode .c [1] .semset rfl (cop_no64 (b := o.b) (by have k := (show (!o.b.isImm64) = true from hf); simp only [Bool.and_eq_true, Bool.not_eq_true'] at k; tauto)) (fun h rest e => by unfold decodeForm; rw [e]; rfl)

theorem barm (y : Syn) (o : COp) : Statement (.barm y o) := by
  intro q hq hf
  obtain rfl := only hq
  exact (encCOp_form 0x4A y o).decode .c [1] .barm rfl (cop_simm (b := o.b) (hf)) (fun h rest e => by unfold decodeForm; rw [e]; rfl)

theorem binit (y : Syn) (o : COp) : Statement (.binit y o) := by
  intro q hq hf
  obtain rfl := only hq
  exact (encCOp_form 0x4B y o).decode .c [1] .binit rfl (cop_no64 (b := o.b) (by have k := (show (!o.b.isImm64) = true from hf); simp only [Bool.and_eq_true, Bool.not_eq_true'] at k; tauto)) (fun h rest e => by unfold decodeForm; rw [e]; rfl)

theorem rfence (y : Syn) (o : COp) : Statement (.rfence y o) := by
  intro q hq hf
  obtain rfl := only hq
  exact (encCOp_form 0x4E y o).decode .c [1] .rfence rfl (by have k := (show (o.b.isReg0 || ((o.b.isSimm || o.b.isZimm) && o.sa == 0)) = true from hf); cases hb : o.b <;> simp_all [CB.len, CB.isReg0, CB.isSimm, CB.isZimm]) (fun h rest e => by unfold decodeForm; rw [e]; rfl)

theorem waitt (y : Syn) (o : COp) : Statement (.waitt y o) := by
  intro q hq hf
  obtain rfl := only hq
  exact (encCOp_form 0x50 y o).decode .c [1] .waitt rfl (cop_no64 (b := o.b) (by have k := (show (!o.b.isImm64) = true from hf); simp only [Bool.and_eq_true, Bool.not_eq_true'] at k; tauto)) (fun h rest e => by unfold decodeForm; rw [e]; rfl)

theorem rdcc (y : Syn) (o : COp) : Statement (.rdcc y o) := by
  intro q hq hf
  obtain rfl := only hq
  exact (encCOp_form 0x51 y o).decode .c [1] .rdcc rfl (cop_reg0 (b := o.b) (by have k := (show (o.b.isReg0 && o.sa == 0) = true from hf); simp only [Bool.and_eq_true, Bool.not_eq_true'] at k; tauto)) (fun h rest e => by unfold decodeForm; rw [e]; rfl)

theorem rdgt (y : Syn) (o : COp) : Statement (.rdgt y o) := by
  intro q hq hf
  obtain rfl := only hq
  exact (encCOp_form 0x52 y o).decode .c [1] .rdgt rfl (cop_reg0 (b := o.b) (by have k := (show (o.b.isReg0 && o.sa == 0) = true from hf); simp only [Bool.and_eq_true, Bool.not_eq_true'] at k; tauto)) (fun h rest e => by unfold decodeForm; rw [e]; rfl)

theorem align (y : Syn) (o : COp) : Statement (.align y o) := by
  intro q hq hf
  obtain rfl := only hq
  exact (encCOp_form 0x53 y o).decode .c [1] .align rfl (cop_zimmAnd (b := o.b) (by have k := (show (o.sd == 0 && o.b.zimmAnd (fun v => v.extractLsb' 5 27 == 0 && !v.getLsbD 0)) = true from hf); simp only [Bool.and_eq_true, Bool.not_eq_true'] at k; tauto)) (fun h rest e => by unfold decodeForm; rw [e]; rfl)

theorem launch (y : Syn) (o : COp) : Statement (.launch y o) := by
  intro q hq hf
  obtain rfl := only hq
  exact (encCOp_form 0x58 y o).decode .c [1] .launch rfl (cop_simm (b := o.b) (hf)) (fun h rest e => by unfold decodeForm; rw [e]; rfl)

theorem child (y : Syn) (o : COp) : Statement (.child y o) := by
  intro q hq hf
  obtain rfl := only hq
  exact (encCOp_form 0x59 y o).decode .c [1] .child rfl (cop_simm (b := o.b) (hf)) (fun h rest e => by unfold decodeForm; rw [e]; rfl)

theorem yield (y : Syn) (o : COp) : Statement (.yield y o) := by
  intro q hq hf
  obtain rfl := only hq
  exact (encCOp_form 0x5A y o).decode .c [1] .yield rfl (cop_zimmAnd (b := o.b) (hf)) (fun h rest e => by unfold decodeForm; rw [e]; rfl)

theorem csrr (y : Syn) (o : COp) : Statement (.csrr y o) := by
  intro q hq hf
  obtain rfl := only hq
  exact (encCOp_form 0x5C y o).decode .c [1] .csrr rfl (cop_zimmAnd (b := o.b) (by have k := (show (o.sa == 0 && o.b.zimmAnd (fun v => (v.toNat < 4096 : Bool) && csrAssigned v.toNat)) = true from hf); simp only [Bool.and_eq_true, Bool.not_eq_true'] at k; tauto)) (fun h rest e => by unfold decodeForm; rw [e]; rfl)

theorem csrw (y : Syn) (o : COp) : Statement (.csrw y o) := by
  intro q hq hf
  obtain rfl := only hq
  exact (encCOp_form 0x5D y o).decode .c [1] .csrw rfl (cop_zimmAnd (b := o.b) (hf)) (fun h rest e => by unfold decodeForm; rw [e]; rfl)

theorem setkey (y : Syn) (o : COp) : Statement (.setkey y o) := by
  intro q hq hf
  obtain rfl := only hq
  exact (encCOp_form 0x5E y o).decode .c [1] .setkey rfl (cop_reg0 (b := o.b) (hf)) (fun h rest e => by unfold decodeForm; rw [e]; rfl)

theorem coll (y : Syn) (o : COp) : Statement (.coll y o) := by
  intro q hq hf
  obtain rfl := only hq
  exact (encCOp_form 0x60 y o).decode .c [1] .coll rfl (cop_simm (b := o.b) (hf)) (fun h rest e => by unfold decodeForm; rw [e]; rfl)

theorem collw (y : Syn) (o : COp) : Statement (.collw y o) := by
  intro q hq hf
  obtain rfl := only hq
  have hb : o.b.isSimm = true := hf
  have hc : collwOf y o = .collw y o := by cases h : o.b <;> simp_all [collwOf, CB.isSimm]
  have k := (encCOp_form 0x61 y o).decode .c [1] collwOf rfl (cop_simm (b := o.b) (hf)) (fun h rest e => by unfold decodeForm; rw [e]; rfl)
  rw [hc] at k
  exact k

theorem collwRetire (y : Syn) (o : COp) : Statement (.collwRetire y o) := by
  intro q hq hf
  obtain rfl := only hq
  have hb : o.b.isZimm = true := hf
  have hc : collwOf y o = .collwRetire y o := by cases h : o.b <;> simp_all [collwOf, CB.isZimm]
  have k := (encCOp_form 0x61 y o).decode .c [1] collwOf rfl (cop_zimm (b := o.b) (hf)) (fun h rest e => by unfold decodeForm; rw [e]; rfl)
  rw [hc] at k
  exact k

theorem spore (y : Syn) (o : COp) : Statement (.spore y o) := by
  intro q hq hf
  obtain rfl := only hq
  exact (encCOp_form 0x62 y o).decode .c [1] .spore rfl (cop_simm (b := o.b) (hf)) (fun h rest e => by unfold decodeForm; rw [e]; rfl)

theorem sorw (y : Syn) (o : COp) : Statement (.sorw y o) := by
  intro q hq hf
  obtain rfl := only hq
  exact (encCOp_form 0x63 y o).decode .c [1] .sorw rfl (cop_simm (b := o.b) (hf)) (fun h rest e => by unfold decodeForm; rw [e]; rfl)

theorem a2a (y : Syn) (o : COp) : Statement (.a2a y o) := by
  intro q hq hf
  obtain rfl := only hq
  exact (encCOp_form 0x64 y o).decode .c [1] .a2a rfl (cop_simm (b := o.b) (hf)) (fun h rest e => by unfold decodeForm; rw [e]; rfl)

theorem wmap (y : Syn) (o : COp) : Statement (.wmap y o) := by
  intro q hq hf
  obtain rfl := only hq
  exact (encCOp_form 0x65 y o).decode .c [1] .wmap rfl (cop_simm (b := o.b) (hf)) (fun h rest e => by unfold decodeForm; rw [e]; rfl)

theorem wunmap (y : Syn) (o : COp) : Statement (.wunmap y o) := by
  intro q hq hf
  obtain rfl := only hq
  exact (encCOp_form 0x66 y o).decode .c [1] .wunmap rfl (cop_simm (b := o.b) (hf)) (fun h rest e => by unfold decodeForm; rw [e]; rfl)

theorem lrecall (y : Syn) (o : COp) : Statement (.lrecall y o) := by
  intro q hq hf
  obtain rfl := only hq
  exact (encCOp_form 0x67 y o).decode .c [1] .lrecall rfl (cop_simm (b := o.b) (hf)) (fun h rest e => by unfold decodeForm; rw [e]; rfl)

theorem xadd (y : Syn) (o : E2) : Statement (.xadd y o) := by
  intro q hq hf
  refine (encE2_form 0xE7 y o).decode q [1] .xadd ?_ (by simp) ?_
  · cases q with
    | c => exact absurd hq Bool.false_ne_true
    | t => rfl
    | v => rfl
    | m => rfl
  · intro h rest e; unfold decodeForm; rw [e]; rfl

theorem vadd (y : Syn) (o : VOp) : Statement (.vadd y o) := by
  intro q hq hf
  obtain rfl := only hq
  exact (encVOp_form 0x00 y o (vop_imm (show (vopShape o tyFloat true true true false (· == 0)) = true from hf))).decode .v [1, 2] .vadd rfl (vop_len _) (fun h rest e => by unfold decodeForm; rw [e]; rfl)

theorem vsub (y : Syn) (o : VOp) : Statement (.vsub y o) := by
  intro q hq hf
  obtain rfl := only hq
  exact (encVOp_form 0x01 y o (vop_imm (show (vopShape o tyFloat true true true false (· == 0)) = true from hf))).decode .v [1, 2] .vsub rfl (vop_len _) (fun h rest e => by unfold decodeForm; rw [e]; rfl)

theorem vmul (y : Syn) (o : VOp) : Statement (.vmul y o) := by
  intro q hq hf
  obtain rfl := only hq
  exact (encVOp_form 0x02 y o (vop_imm (show (vopShape o tyFloat true true true false (· == 0)) = true from hf))).decode .v [1, 2] .vmul rfl (vop_len _) (fun h rest e => by unfold decodeForm; rw [e]; rfl)

theorem vfma (y : Syn) (o : VOp) : Statement (.vfma y o) := by
  intro q hq hf
  obtain rfl := only hq
  exact (encVOp_form 0x03 y o (vop_imm (show (vopShape o tyFloat true true true false (· == 0)) = true from hf))).decode .v [1, 2] .vfma rfl (vop_len _) (fun h rest e => by unfold decodeForm; rw [e]; rfl)

theorem vfms (y : Syn) (o : VOp) : Statement (.vfms y o) := by
  intro q hq hf
  obtain rfl := only hq
  exact (encVOp_form 0x04 y o (vop_imm (show (vopShape o tyFloat true true true false (· == 0)) = true from hf))).decode .v [1, 2] .vfms rfl (vop_len _) (fun h rest e => by unfold decodeForm; rw [e]; rfl)

theorem vdiv (y : Syn) (o : VOp) : Statement (.vdiv y o) := by
  intro q hq hf
  obtain rfl := only hq
  exact (encVOp_form 0x05 y o (vop_imm (show (vopShape o tyFloat true true true false (· == 0)) = true from hf))).decode .v [1, 2] .vdiv rfl (vop_len _) (fun h rest e => by unfold decodeForm; rw [e]; rfl)

theorem vmin (y : Syn) (o : VOp) : Statement (.vmin y o) := by
  intro q hq hf
  obtain rfl := only hq
  exact (encVOp_form 0x06 y o (vop_imm (show (vopShape o tyFloat true true false false (· == 0)) = true from hf))).decode .v [1, 2] .vmin rfl (vop_len _) (fun h rest e => by unfold decodeForm; rw [e]; rfl)

theorem vmax (y : Syn) (o : VOp) : Statement (.vmax y o) := by
  intro q hq hf
  obtain rfl := only hq
  exact (encVOp_form 0x07 y o (vop_imm (show (vopShape o tyFloat true true false false (· == 0)) = true from hf))).decode .v [1, 2] .vmax rfl (vop_len _) (fun h rest e => by unfold decodeForm; rw [e]; rfl)

theorem vabs (y : Syn) (o : VOp) : Statement (.vabs y o) := by
  intro q hq hf
  obtain rfl := only hq
  exact (encVOp_form 0x08 y o (vop_imm (show (vopShape o tyFloat true true false true (· == 0)) = true from hf))).decode .v [1, 2] .vabs rfl (vop_len _) (fun h rest e => by unfold decodeForm; rw [e]; rfl)

theorem vneg (y : Syn) (o : VOp) : Statement (.vneg y o) := by
  intro q hq hf
  obtain rfl := only hq
  exact (encVOp_form 0x09 y o (vop_imm (show (vopShape o tyFloat true true false true (· == 0)) = true from hf))).decode .v [1, 2] .vneg rfl (vop_len _) (fun h rest e => by unfold decodeForm; rw [e]; rfl)

theorem vsqrt (y : Syn) (o : VOp) : Statement (.vsqrt y o) := by
  intro q hq hf
  obtain rfl := only hq
  exact (encVOp_form 0x0A y o (vop_imm (show (vopShape o tyFloat true true true true (· == 0)) = true from hf))).decode .v [1, 2] .vsqrt rfl (vop_len _) (fun h rest e => by unfold decodeForm; rw [e]; rfl)

theorem vrcp (y : Syn) (o : VOp) : Statement (.vrcp y o) := by
  intro q hq hf
  obtain rfl := only hq
  exact (encVOp_form 0x0B y o (vop_imm (show (vopShape o tyFloat true true true true (· == 0)) = true from hf))).decode .v [1, 2] .vrcp rfl (vop_len _) (fun h rest e => by unfold decodeForm; rw [e]; rfl)

theorem vrsq (y : Syn) (o : VOp) : Statement (.vrsq y o) := by
  intro q hq hf
  obtain rfl := only hq
  exact (encVOp_form 0x0C y o (vop_imm (show (vopShape o tyFloat true true true true (· == 0)) = true from hf))).decode .v [1, 2] .vrsq rfl (vop_len _) (fun h rest e => by unfold decodeForm; rw [e]; rfl)

theorem vexp2 (y : Syn) (o : VOp) : Statement (.vexp2 y o) := by
  intro q hq hf
  obtain rfl := only hq
  exact (encVOp_form 0x0D y o (vop_imm (show (vopShape o tyFloat true true true true (· == 0)) = true from hf))).decode .v [1, 2] .vexp2 rfl (vop_len _) (fun h rest e => by unfold decodeForm; rw [e]; rfl)

theorem vlog2 (y : Syn) (o : VOp) : Statement (.vlog2 y o) := by
  intro q hq hf
  obtain rfl := only hq
  exact (encVOp_form 0x0E y o (vop_imm (show (vopShape o tyFloat true true true true (· == 0)) = true from hf))).decode .v [1, 2] .vlog2 rfl (vop_len _) (fun h rest e => by unfold decodeForm; rw [e]; rfl)

theorem vmov (y : Syn) (o : VOp) : Statement (.vmov y o) := by
  intro q hq hf
  obtain rfl := only hq
  exact (encVOp_form 0x0F y o (vop_imm (show (vopShape o tyAll true true false true (· == 0)) = true from hf))).decode .v [1, 2] .vmov rfl (vop_len _) (fun h rest e => by unfold decodeForm; rw [e]; rfl)

theorem viadd (y : Syn) (o : VOp) : Statement (.viadd y o) := by
  intro q hq hf
  obtain rfl := only hq
  exact (encVOp_form 0x10 y o (vop_imm (show (vopShape o tyInt true true false false (· ≤ 1)) = true from hf))).decode .v [1, 2] .viadd rfl (vop_len _) (fun h rest e => by unfold decodeForm; rw [e]; rfl)

theorem visub (y : Syn) (o : VOp) : Statement (.visub y o) := by
  intro q hq hf
  obtain rfl := only hq
  exact (encVOp_form 0x11 y o (vop_imm (show (vopShape o tyInt true true false false (· ≤ 1)) = true from hf))).decode .v [1, 2] .visub rfl (vop_len _) (fun h rest e => by unfold decodeForm; rw [e]; rfl)

theorem vimul (y : Syn) (o : VOp) : Statement (.vimul y o) := by
  intro q hq hf
  obtain rfl := only hq
  exact (encVOp_form 0x12 y o (vop_imm (show (vopShape o tyInt true true false false (· ≤ 1)) = true from hf))).decode .v [1, 2] .vimul rfl (vop_len _) (fun h rest e => by unfold decodeForm; rw [e]; rfl)

theorem vand (y : Syn) (o : VOp) : Statement (.vand y o) := by
  intro q hq hf
  obtain rfl := only hq
  exact (encVOp_form 0x13 y o (vop_imm (show (vopShape o tyAll true true false false (· == 0)) = true from hf))).decode .v [1, 2] .vand rfl (vop_len _) (fun h rest e => by unfold decodeForm; rw [e]; rfl)

theorem vor (y : Syn) (o : VOp) : Statement (.vor y o) := by
  intro q hq hf
  obtain rfl := only hq
  exact (encVOp_form 0x14 y o (vop_imm (show (vopShape o tyAll true true false false (· == 0)) = true from hf))).decode .v [1, 2] .vor rfl (vop_len _) (fun h rest e => by unfold decodeForm; rw [e]; rfl)

theorem vxor (y : Syn) (o : VOp) : Statement (.vxor y o) := by
  intro q hq hf
  obtain rfl := only hq
  exact (encVOp_form 0x15 y o (vop_imm (show (vopShape o tyAll true true false false (· == 0)) = true from hf))).decode .v [1, 2] .vxor rfl (vop_len _) (fun h rest e => by unfold decodeForm; rw [e]; rfl)

theorem vshl (y : Syn) (o : VOp) : Statement (.vshl y o) := by
  intro q hq hf
  obtain rfl := only hq
  exact (encVOp_form 0x16 y o (vop_imm (show (vopShape o tyInt true true false false (· == 0)) = true from hf))).decode .v [1, 2] .vshl rfl (vop_len _) (fun h rest e => by unfold decodeForm; rw [e]; rfl)

theorem vshr (y : Syn) (o : VOp) : Statement (.vshr y o) := by
  intro q hq hf
  obtain rfl := only hq
  exact (encVOp_form 0x17 y o (vop_imm (show (vopShape o tyInt true true false false (· == 0)) = true from hf))).decode .v [1, 2] .vshr rfl (vop_len _) (fun h rest e => by unfold decodeForm; rw [e]; rfl)

theorem vsra (y : Syn) (o : VOp) : Statement (.vsra y o) := by
  intro q hq hf
  obtain rfl := only hq
  exact (encVOp_form 0x18 y o (vop_imm (show (vopShape o tyInt true true false false (· == 0)) = true from hf))).decode .v [1, 2] .vsra rfl (vop_len _) (fun h rest e => by unfold decodeForm; rw [e]; rfl)

theorem vimin (y : Syn) (o : VOp) : Statement (.vimin y o) := by
  intro q hq hf
  obtain rfl := only hq
  exact (encVOp_form 0x19 y o (vop_imm (show (vopShape o tyInt true true false false (· == 0)) = true from hf))).decode .v [1, 2] .vimin rfl (vop_len _) (fun h rest e => by unfold decodeForm; rw [e]; rfl)

theorem vimax (y : Syn) (o : VOp) : Statement (.vimax y o) := by
  intro q hq hf
  obtain rfl := only hq
  exact (encVOp_form 0x1A y o (vop_imm (show (vopShape o tyInt true true false false (· == 0)) = true from hf))).decode .v [1, 2] .vimax rfl (vop_len _) (fun h rest e => by unfold decodeForm; rw [e]; rfl)

theorem vcmp (y : Syn) (o : VOp) : Statement (.vcmp y o) := by
  intro q hq hf
  obtain rfl := only hq
  exact (encVOp_form 0x20 y o (vop_imm (by have k : vcmpOk o = true := hf; simp only [vcmpOk, Bool.and_eq_true] at k; exact k.1.1.1))).decode .v [1, 2] .vcmp rfl (vop_len _) (fun h rest e => by unfold decodeForm; rw [e]; rfl)

theorem vsel (y : Syn) (o : VOp) : Statement (.vsel y o) := by
  intro q hq hf
  obtain rfl := only hq
  have hv : o.b.isV2R = true := by have k := (show (o.b.isV2R && vopShape o tyAll false false false false (fun _ => true)) = true from hf); simp only [Bool.and_eq_true] at k; exact k.1
  exact (encVOp_form 0x21 y o ((vop_v2r hv).1)).decode .v [1] .vsel rfl (by rw [(vop_v2r hv).2]; simp) (fun h rest e => by unfold decodeForm; rw [e]; rfl)

theorem vcvt (y : Syn) (o : VOp) : Statement (.vcvt y o) := by
  intro q hq hf
  obtain rfl := only hq
  have hv : o.b.isV2R = true := by have k := (show (vcvtOk o) = true from hf); simp only [vcvtOk, Bool.and_eq_true] at k; tauto
  exact (encVOp_form 0x30 y o ((vop_v2r hv).1)).decode .v [1] .vcvt rfl (by rw [(vop_v2r hv).2]; simp) (fun h rest e => by unfold decodeForm; rw [e]; rfl)

theorem vqnt (y : Syn) (o : VOp) : Statement (.vqnt y o) := by
  intro q hq hf
  obtain rfl := only hq
  have hv : o.b.isV2R = true := by have k := (show (vqntOk o false) = true from hf); simp only [vqntOk, Bool.and_eq_true] at k; tauto
  exact (encVOp_form 0x31 y o ((vop_v2r hv).1)).decode .v [1] .vqnt rfl (by rw [(vop_v2r hv).2]; simp) (fun h rest e => by unfold decodeForm; rw [e]; rfl)

theorem vdqnt (y : Syn) (o : VOp) : Statement (.vdqnt y o) := by
  intro q hq hf
  obtain rfl := only hq
  have hv : o.b.isV2R = true := by have k := (show (vqntOk o true) = true from hf); simp only [vqntOk, Bool.and_eq_true] at k; tauto
  exact (encVOp_form 0x32 y o ((vop_v2r hv).1)).decode .v [1] .vdqnt rfl (by rw [(vop_v2r hv).2]; simp) (fun h rest e => by unfold decodeForm; rw [e]; rfl)

theorem vsrnd (y : Syn) (o : VOp) : Statement (.vsrnd y o) := by
  intro q hq hf
  obtain rfl := only hq
  have hv : o.b.isV2R = true := by have k := (show (o.b.isV2R && vopShape o [1, 2, 3, 4] false false true true (· == 0)) = true from hf); simp only [Bool.and_eq_true] at k; exact k.1
  exact (encVOp_form 0x33 y o ((vop_v2r hv).1)).decode .v [1] .vsrnd rfl (by rw [(vop_v2r hv).2]; simp) (fun h rest e => by unfold decodeForm; rw [e]; rfl)

theorem vrsum (y : Syn) (o : VOp) : Statement (.vrsum y o) := by
  intro q hq hf
  obtain rfl := only hq
  have hv : o.b.isV2R = true := by have k := (show (o.b.isV2R && vopShape o [0, 1, 2, 5, 9] false false false true (· == 0)) = true from hf); simp only [Bool.and_eq_true] at k; exact k.1
  exact (encVOp_form 0x38 y o ((vop_v2r hv).1)).decode .v [1] .vrsum rfl (by rw [(vop_v2r hv).2]; simp) (fun h rest e => by unfold decodeForm; rw [e]; rfl)

theorem vrmax (y : Syn) (o : VOp) : Statement (.vrmax y o) := by
  intro q hq hf
  obtain rfl := only hq
  have hv : o.b.isV2R = true := by have k := (show (o.b.isV2R && vopShape o [0, 1, 2, 5, 6, 7, 8, 9] false false false true (· == 0)) = true from hf); simp only [Bool.and_eq_true] at k; exact k.1
  exact (encVOp_form 0x39 y o ((vop_v2r hv).1)).decode .v [1] .vrmax rfl (by rw [(vop_v2r hv).2]; simp) (fun h rest e => by unfold decodeForm; rw [e]; rfl)

theorem vrmin (y : Syn) (o : VOp) : Statement (.vrmin y o) := by
  intro q hq hf
  obtain rfl := only hq
  have hv : o.b.isV2R = true := by have k := (show (o.b.isV2R && vopShape o [0, 1, 2, 5, 6, 7, 8, 9] false false false true (· == 0)) = true from hf); simp only [Bool.and_eq_true] at k; exact k.1
  exact (encVOp_form 0x3A y o ((vop_v2r hv).1)).decode .v [1] .vrmin rfl (by rw [(vop_v2r hv).2]; simp) (fun h rest e => by unfold decodeForm; rw [e]; rfl)

theorem vdot (y : Syn) (o : VOp) : Statement (.vdot y o) := by
  intro q hq hf
  obtain rfl := only hq
  have hv : o.b.isV2R = true := by have k := (show (o.b.isV2R && vopShape o tyFloat false false false false (· == 0)) = true from hf); simp only [Bool.and_eq_true] at k; exact k.1
  exact (encVOp_form 0x3B y o ((vop_v2r hv).1)).decode .v [1] .vdot rfl (by rw [(vop_v2r hv).2]; simp) (fun h rest e => by unfold decodeForm; rw [e]; rfl)

theorem vperm (y : Syn) (o : VOp) : Statement (.vperm y o) := by
  intro q hq hf
  obtain rfl := only hq
  have hv : o.b.isV2R = true := by have k := (show (vpermOk o (· == 0)) = true from hf); simp only [vpermOk, Bool.and_eq_true] at k; tauto
  exact (encVOp_form 0x40 y o ((vop_v2r hv).1)).decode .v [1] .vperm rfl (by rw [(vop_v2r hv).2]; simp) (fun h rest e => by unfold decodeForm; rw [e]; rfl)

theorem vslide (y : Syn) (o : VOp) : Statement (.vslide y o) := by
  intro q hq hf
  obtain rfl := only hq
  have hv : o.b.isV2R = true := by have k := (show (vslideOk o) = true from hf); cases hb : o.b <;> simp_all [vslideOk, vbcastOk, VSrc.isV2R]
  exact (encVOp_form 0x41 y o ((vop_v2r hv).1)).decode .v [1] .vslide rfl (by rw [(vop_v2r hv).2]; simp) (fun h rest e => by unfold decodeForm; rw [e]; rfl)

theorem vbcast (y : Syn) (o : VOp) : Statement (.vbcast y o) := by
  intro q hq hf
  obtain rfl := only hq
  have hv : o.b.isV2R = true := by have k := (show (vbcastOk o) = true from hf); cases hb : o.b <;> simp_all [vslideOk, vbcastOk, VSrc.isV2R]
  exact (encVOp_form 0x42 y o ((vop_v2r hv).1)).decode .v [1] .vbcast rfl (by rw [(vop_v2r hv).2]; simp) (fun h rest e => by unfold decodeForm; rw [e]; rfl)

theorem vzip (y : Syn) (o : VOp) : Statement (.vzip y o) := by
  intro q hq hf
  obtain rfl := only hq
  have hv : o.b.isV2R = true := by have k := (show (vpermOk o (· ≤ 1)) = true from hf); simp only [vpermOk, Bool.and_eq_true] at k; tauto
  exact (encVOp_form 0x43 y o ((vop_v2r hv).1)).decode .v [1] .vzip rfl (by rw [(vop_v2r hv).2]; simp) (fun h rest e => by unfold decodeForm; rw [e]; rfl)

theorem vunzip (y : Syn) (o : VOp) : Statement (.vunzip y o) := by
  intro q hq hf
  obtain rfl := only hq
  have hv : o.b.isV2R = true := by have k := (show (vpermOk o (· ≤ 1)) = true from hf); simp only [vpermOk, Bool.and_eq_true] at k; tauto
  exact (encVOp_form 0x44 y o ((vop_v2r hv).1)).decode .v [1] .vunzip rfl (by rw [(vop_v2r hv).2]; simp) (fun h rest e => by unfold decodeForm; rw [e]; rfl)

theorem vld (y : Syn) (f : VMemForm) : Statement (.vld y f) := by
  intro q hq hf
  obtain rfl := only hq
  exact (encVMemForm_form 0x48 y f).decode .v [1, 3] .vld rfl (vmem_len _) (fun h rest e => by unfold decodeForm; rw [e]; rfl)

theorem vst (y : Syn) (f : VMemForm) : Statement (.vst y f) := by
  intro q hq hf
  obtain rfl := only hq
  exact (encVMemForm_form 0x49 y f).decode .v [1, 3] .vst rfl (vmem_len _) (fun h rest e => by unfold decodeForm; rw [e]; rfl)

theorem vlds (y : Syn) (f : VMemForm) : Statement (.vlds y f) := by
  intro q hq hf
  obtain rfl := only hq
  exact (encVMemForm_form 0x4A y f).decode .v [1, 3] .vlds rfl (vmem_len _) (fun h rest e => by unfold decodeForm; rw [e]; rfl)

theorem vsts (y : Syn) (f : VMemForm) : Statement (.vsts y f) := by
  intro q hq hf
  obtain rfl := only hq
  exact (encVMemForm_form 0x4B y f).decode .v [1, 3] .vsts rfl (vmem_len _) (fun h rest e => by unfold decodeForm; rw [e]; rfl)

theorem vgath (y : Syn) (f : VMemForm) : Statement (.vgath y f) := by
  intro q hq hf
  obtain rfl := only hq
  exact (encVMemForm_form 0x4C y f).decode .v [1, 3] .vgath rfl (vmem_len _) (fun h rest e => by unfold decodeForm; rw [e]; rfl)

theorem vscat (y : Syn) (f : VMemForm) : Statement (.vscat y f) := by
  intro q hq hf
  obtain rfl := only hq
  exact (encVMemForm_form 0x4D y f).decode .v [1, 3] .vscat rfl (vmem_len _) (fun h rest e => by unfold decodeForm; rw [e]; rfl)

theorem kld (y : Syn) (o : VMemOp) : Statement (.kld y o) := by
  intro q hq hf
  obtain rfl := only hq
  exact (encVMem_form 0x4E y o).decode .v [1] .kld rfl (by simp) (fun h rest e => by unfold decodeForm; rw [e]; rfl)

theorem vz (y : Syn) (f : VRndForm) : Statement (.vz y f) := by
  intro q hq hf
  obtain rfl := only hq
  exact (encVRndForm_form 0x58 y f).decode .v [1, 3] .vz rfl (vrnd_len _) (fun h rest e => by unfold decodeForm; rw [e]; rfl)

theorem vzacc (y : Syn) (f : VRndForm) : Statement (.vzacc y f) := by
  intro q hq hf
  obtain rfl := only hq
  exact (encVRndForm_form 0x59 y f).decode .v [1, 3] .vzacc rfl (vrnd_len _) (fun h rest e => by unfold decodeForm; rw [e]; rfl)

theorem vunif (y : Syn) (f : VRndForm) : Statement (.vunif y f) := by
  intro q hq hf
  obtain rfl := only hq
  exact (encVRndForm_form 0x5A y f).decode .v [1, 3] .vunif rfl (vrnd_len _) (fun h rest e => by unfold decodeForm; rw [e]; rfl)

theorem vcat (y : Syn) (o : VRndOp) : Statement (.vcat y o) := by
  intro q hq hf
  obtain rfl := only hq
  exact (encVRnd_form 0x5B y o).decode .v [1] .vcat rfl (by simp) (fun h rest e => by unfold decodeForm; rw [e]; rfl)

theorem vdrop (y : Syn) (f : VRndForm) : Statement (.vdrop y f) := by
  intro q hq hf
  obtain rfl := only hq
  exact (encVRndForm_form 0x5C y f).decode .v [1, 3] .vdrop rfl (vrnd_len _) (fun h rest e => by unfold decodeForm; rw [e]; rfl)

theorem ldx (y : Syn) (r : Rec) : Statement (.ldx y r) := by
  intro q hq hf
  obtain rfl := only hq
  exact (encRec_form 0x00 y r).decode .t [3] .ldx rfl (by simp) (fun h rest e => by unfold decodeForm; rw [e]; rfl)

theorem stx (y : Syn) (r : Rec) : Statement (.stx y r) := by
  intro q hq hf
  obtain rfl := only hq
  exact (encRec_form 0x01 y r).decode .t [3] .stx rfl (by simp) (fun h rest e => by unfold decodeForm; rw [e]; rfl)

theorem cpx (y : Syn) (r : Rec) : Statement (.cpx y r) := by
  intro q hq hf
  obtain rfl := only hq
  exact (encRec_form 0x02 y r).decode .t [3] .cpx rfl (by simp) (fun h rest e => by unfold decodeForm; rw [e]; rfl)

theorem mcx (y : Syn) (r : Rec) : Statement (.mcx y r) := by
  intro q hq hf
  obtain rfl := only hq
  exact (encRec_form 0x03 y r).decode .t [3] .mcx rfl (by simp) (fun h rest e => by unfold decodeForm; rw [e]; rfl)

theorem gthx (y : Syn) (r : Rec) : Statement (.gthx y r) := by
  intro q hq hf
  obtain rfl := only hq
  exact (encRec_form 0x04 y r).decode .t [3] .gthx rfl (by simp) (fun h rest e => by unfold decodeForm; rw [e]; rfl)

theorem sctx (y : Syn) (r : Rec) : Statement (.sctx y r) := by
  intro q hq hf
  obtain rfl := only hq
  exact (encRec_form 0x05 y r).decode .t [3] .sctx rfl (by simp) (fun h rest e => by unfold decodeForm; rw [e]; rfl)

theorem bmx (y : Syn) (r : Rec) : Statement (.bmx y r) := by
  intro q hq hf
  obtain rfl := only hq
  exact (encRec_form 0x06 y r).decode .t [3] .bmx rfl (by simp) (fun h rest e => by unfold decodeForm; rw [e]; rfl)

theorem bmld (y : Syn) (o : E2) : Statement (.bmld y o) := by
  intro q hq hf
  obtain rfl := only hq
  exact (encE2_form 0x07 y o).decode .t [1] .bmld rfl (by simp) (fun h rest e => by unfold decodeForm; rw [e]; rfl)

theorem scacc (y : Syn) (r : Rec) : Statement (.scacc y r) := by
  intro q hq hf
  obtain rfl := only hq
  exact (encRec_form 0x08 y r).decode .t [3] .scacc rfl (by simp) (fun h rest e => by unfold decodeForm; rw [e]; rfl)

theorem sccfg (y : Syn) (o : E2) : Statement (.sccfg y o) := by
  intro q hq hf
  obtain rfl := only hq
  exact (encE2_form 0x09 y o).decode .t [1] .sccfg rfl (by simp) (fun h rest e => by unfold decodeForm; rw [e]; rfl)

theorem zfx (y : Syn) (r : Rec) : Statement (.zfx y r) := by
  intro q hq hf
  obtain rfl := only hq
  exact (encRec_form 0x0A y r).decode .t [3] .zfx rfl (by simp) (fun h rest e => by unfold decodeForm; rw [e]; rfl)

theorem tagx (y : Syn) (o : E2) : Statement (.tagx y o) := by
  intro q hq hf
  obtain rfl := only hq
  exact (encE2_form 0x0B y o).decode .t [1] .tagx rfl (by simp) (fun h rest e => by unfold decodeForm; rw [e]; rfl)

theorem wld (y : Syn) (r : Rec) : Statement (.wld y r) := by
  intro q hq hf
  obtain rfl := only hq
  exact (encRec_form 0x00 y r).decode .m [3] .wld rfl (by simp) (fun h rest e => by unfold decodeForm; rw [e]; rfl)

theorem mma (y : Syn) (r : Rec) : Statement (.mma y r) := by
  intro q hq hf
  obtain rfl := only hq
  exact (encRec_form 0x01 y r).decode .m [3] .mma rfl (by simp) (fun h rest e => by unfold decodeForm; rw [e]; rfl)

theorem gate (y : Syn) (r : Rec) : Statement (.gate y r) := by
  intro q hq hf
  obtain rfl := only hq
  exact (encRec_form 0x02 y r).decode .m [3] .gate rfl (by simp) (fun h rest e => by unfold decodeForm; rw [e]; rfl)

theorem adrn (y : Syn) (r : Rec) : Statement (.adrn y r) := by
  intro q hq hf
  obtain rfl := only hq
  exact (encRec_form 0x03 y r).decode .m [3] .adrn rfl (by simp) (fun h rest e => by unfold decodeForm; rw [e]; rfl)

theorem asave (y : Syn) (r : Rec) : Statement (.asave y r) := by
  intro q hq hf
  obtain rfl := only hq
  exact (encRec_form 0x07 y r).decode .m [3] .asave rfl (by simp) (fun h rest e => by unfold decodeForm; rw [e]; rfl)

theorem aload (y : Syn) (r : Rec) : Statement (.aload y r) := by
  intro q hq hf
  obtain rfl := only hq
  exact (encRec_form 0x08 y r).decode .m [3] .aload rfl (by simp) (fun h rest e => by unfold decodeForm; rw [e]; rfl)

theorem avset (y : Syn) (o : E2) : Statement (.avset y o) := by
  intro q hq hf
  obtain rfl := only hq
  exact (encE2_form 0x09 y o).decode .m [1] .avset rfl (by simp) (fun h rest e => by unfold decodeForm; rw [e]; rfl)

theorem epsset (y : Syn) (o : E2) : Statement (.epsset y o) := by
  intro q hq hf
  obtain rfl := only hq
  exact (encE2_form 0x0B y o).decode .m [1] .epsset rfl (by simp) (fun h rest e => by unfold decodeForm; rw [e]; rfl)

theorem recordSingleIssue (core : Nat) (q : SeqId) : Statement (.recordSingleIssue core q) := by
  exact fun _ h => absurd h Bool.false_ne_true

theorem engineResultWrite (core : Nat) (q : SeqId) (id : Nat) : Statement (.engineResultWrite core q id) := by
  exact fun _ h => absurd h Bool.false_ne_true

theorem loadDataArrival (core : Nat) (q : SeqId) (load : LoadAt) : Statement (.loadDataArrival core q load) := by
  exact fun _ h => absurd h Bool.false_ne_true

theorem storePerformed (core : Nat) (q : SeqId) (n : Nat) : Statement (.storePerformed core q n) := by
  exact fun _ h => absurd h Bool.false_ne_true

theorem waittTargetReached (core : Nat) : Statement (.waittTargetReached core) := by
  exact fun _ h => absurd h Bool.false_ne_true

theorem alignRelease (core : Nat) : Statement (.alignRelease core) := by
  exact fun _ h => absurd h Bool.false_ne_true

theorem schedMiss (core : Nat) (q : SeqId) : Statement (.schedMiss core q) := by
  exact fun _ h => absurd h Bool.false_ne_true

theorem watchdogStall (core : Nat) (q : SeqId) : Statement (.watchdogStall core q) := by
  exact fun _ h => absurd h Bool.false_ne_true

theorem leaseWaitExpiry (core : Nat) (q : SeqId) : Statement (.leaseWaitExpiry core q) := by
  exact fun _ h => absurd h Bool.false_ne_true

theorem illegalOpcode (core : Nat) (q : SeqId) (head : BitVec 32) : Statement (.illegalOpcode core q head) := by
  exact fun _ h => absurd h Bool.false_ne_true

theorem flitDeparture (flit : Nat) (copy : FlitExit) : Statement (.flitDeparture flit copy) := by
  exact fun _ h => absurd h Bool.false_ne_true

theorem flitDelivery (f : InFlit) : Statement (.flitDelivery f) := by
  exact fun _ h => absurd h Bool.false_ne_true

theorem flitAckArrival (flit : Nat) (bitmap : BitVec 64) : Statement (.flitAckArrival flit bitmap) := by
  exact fun _ h => absurd h Bool.false_ne_true

theorem ackTimeout (flit : Nat) (missing : BitVec 64) : Statement (.ackTimeout flit missing) := by
  exact fun _ h => absurd h Bool.false_ne_true

theorem memberDisabled (m : Nat) : Statement (.memberDisabled m) := by
  exact fun _ h => absurd h Bool.false_ne_true

theorem leaseRequest (src : Nat) (rx : Nat) (need : Nat) : Statement (.leaseRequest src rx need) := by
  exact fun _ h => absurd h Bool.false_ne_true

theorem leaseReply (tx : Nat) (pos : Nat) (granted : Bool) (base : Nat) (epoch : Nat) : Statement (.leaseReply tx pos granted base epoch) := by
  exact fun _ h => absurd h Bool.false_ne_true

theorem wmapMemberTimeout (tx : Nat) : Statement (.wmapMemberTimeout tx) := by
  exact fun _ h => absurd h Bool.false_ne_true

theorem leaseRecall (tx : Nat) (pos : Nat) : Statement (.leaseRecall tx pos) := by
  exact fun _ h => absurd h Bool.false_ne_true

theorem leaseRelease (tx : Nat) (pos : Nat) : Statement (.leaseRelease tx pos) := by
  exact fun _ h => absurd h Bool.false_ne_true

theorem leaseReleaseArrival (rx : Nat) (src : Nat) : Statement (.leaseReleaseArrival rx src) := by
  exact fun _ h => absurd h Bool.false_ne_true

theorem lrecallSilentSource (rx : Nat) (src : Nat) : Statement (.lrecallSilentSource rx src) := by
  exact fun _ h => absurd h Bool.false_ne_true

theorem leaseRegrant (tx : Nat) (pos : Nat) (base : Nat) (epoch : Nat) : Statement (.leaseRegrant tx pos base epoch) := by
  exact fun _ h => absurd h Bool.false_ne_true

theorem leaseReturn (rx : Nat) (src : Nat) : Statement (.leaseReturn rx src) := by
  exact fun _ h => absurd h Bool.false_ne_true

theorem sorusRecordArrival (off : Nat) (record : BitVec 256) (sender : Nat) : Statement (.sorusRecordArrival off record sender) := by
  exact fun _ h => absurd h Bool.false_ne_true

theorem sorusSeal (step : Nat) : Statement (.sorusSeal step) := by
  exact fun _ h => absurd h Bool.false_ne_true

theorem sorusStepDeadline (step : Nat) : Statement (.sorusStepDeadline step) := by
  exact fun _ h => absurd h Bool.false_ne_true

theorem gapRetransmit (step : Nat) : Statement (.gapRetransmit step) := by
  exact fun _ h => absurd h Bool.false_ne_true

theorem gapRequestArrival (req : BitVec 1024) : Statement (.gapRequestArrival req) := by
  exact fun _ h => absurd h Bool.false_ne_true

theorem gapReplyArrival (rep : BitVec 512) : Statement (.gapReplyArrival rep) := by
  exact fun _ h => absurd h Bool.false_ne_true

theorem sorusGapBound (core : Nat) : Statement (.sorusGapBound core) := by
  exact fun _ h => absurd h Bool.false_ne_true

theorem sorfirstWrite (v : BitVec 64) : Statement (.sorfirstWrite v) := by
  exact fun _ h => absurd h Bool.false_ne_true

theorem collPacketArrival (p : CollPacket) : Statement (.collPacketArrival p) := by
  exact fun _ h => absurd h Bool.false_ne_true

theorem collPacketAck (part : Nat) (cid : Nat) (gen : Nat) : Statement (.collPacketAck part cid gen) := by
  exact fun _ h => absurd h Bool.false_ne_true

theorem collFinishCount (part : Nat) (cid : Nat) (member : Nat) (count : Nat) : Statement (.collFinishCount part cid member count) := by
  exact fun _ h => absurd h Bool.false_ne_true

theorem collOverrun (core : Nat) : Statement (.collOverrun core) := by
  exact fun _ h => absurd h Bool.false_ne_true

theorem collwTimeout (core : Nat) : Statement (.collwTimeout core) := by
  exact fun _ h => absurd h Bool.false_ne_true

theorem timingMessage (corr : Int) : Statement (.timingMessage corr) := by
  exact fun _ h => absurd h Bool.false_ne_true

theorem timelockReady (jump : Nat) : Statement (.timelockReady jump) := by
  exact fun _ h => absurd h Bool.false_ne_true

theorem timelockLost : Statement (.timelockLost) := by
  exact fun _ h => absurd h Bool.false_ne_true

theorem hbmRefresh (stack : Nat) : Statement (.hbmRefresh stack) := by
  exact fun _ h => absurd h Bool.false_ne_true

theorem patrolScrub (line : Nat) (find : ScrubFind) : Statement (.patrolScrub line find) := by
  exact fun _ h => absurd h Bool.false_ne_true

theorem gtadjSetLock : Statement (.gtadjSetLock) := by
  exact fun _ h => absurd h Bool.false_ne_true

theorem gtadjClearLock : Statement (.gtadjClearLock) := by
  exact fun _ h => absurd h Bool.false_ne_true

theorem gtadjCorrection (adj : BitVec 32) : Statement (.gtadjCorrection adj) := by
  exact fun _ h => absurd h Bool.false_ne_true

theorem launchPrepare (part : Nat) : Statement (.launchPrepare part) := by
  exact fun _ h => absurd h Bool.false_ne_true

theorem launchStart (part : Nat) (id : Nat) (core : Nat) : Statement (.launchStart part id core) := by
  exact fun _ h => absurd h Bool.false_ne_true

theorem launchRecordFinal (part : Nat) : Statement (.launchRecordFinal part) := by
  exact fun _ h => absurd h Bool.false_ne_true

theorem lqtailWrite (first : Nat) (tail : BitVec 32) : Statement (.lqtailWrite first tail) := by
  exact fun _ h => absurd h Bool.false_ne_true

theorem submit (first : Nat) (desc : Nat) (host : Bool) : Statement (.submit first desc host) := by
  exact fun _ h => absurd h Bool.false_ne_true

theorem endlaunch (id : Nat) (host : Bool) : Statement (.endlaunch id host) := by
  exact fun _ h => absurd h Bool.false_ne_true

theorem preboundExpiry (core : Nat) (bank : Nat) : Statement (.preboundExpiry core bank) := by
  exact fun _ h => absurd h Bool.false_ne_true

theorem unansweredRecordExpiry (core : Nat) (bank : Nat) : Statement (.unansweredRecordExpiry core bank) := by
  exact fun _ h => absurd h Bool.false_ne_true

theorem taskRestore (core : Nat) (bank : Nat) : Statement (.taskRestore core bank) := by
  exact fun _ h => absurd h Bool.false_ne_true

theorem lateTrapRecord (core : Nat) (bank : Nat) : Statement (.lateTrapRecord core bank) := by
  exact fun _ h => absurd h Bool.false_ne_true

theorem answerResume (part : Nat) (slot : Nat) : Statement (.answerResume part slot) := by
  exact fun _ h => absurd h Bool.false_ne_true

theorem answerEnd (part : Nat) (slot : Nat) : Statement (.answerEnd part slot) := by
  exact fun _ h => absurd h Bool.false_ne_true

theorem cut (core : Nat) (bank : Nat) (host : Bool) : Statement (.cut core bank host) := by
  exact fun _ h => absurd h Bool.false_ne_true

theorem readbank (core : Nat) (bank : Nat) (dst : Nat) (host : Bool) : Statement (.readbank core bank dst host) := by
  exact fun _ h => absurd h Bool.false_ne_true

theorem regpart (first : Nat) (size : Nat) (addr : Nat) (host : Bool) : Statement (.regpart first size addr host) := by
  exact fun _ h => absurd h Bool.false_ne_true

theorem regtq (first : Nat) (addr : Nat) (host : Bool) : Statement (.regtq first addr host) := by
  exact fun _ h => absurd h Bool.false_ne_true

theorem partitionDestroy (first : Nat) : Statement (.partitionDestroy first) := by
  exact fun _ h => absurd h Bool.false_ne_true

theorem bar2Read (off : Nat) (len : Nat) : Statement (.bar2Read off len) := by
  exact fun _ h => absurd h Bool.false_ne_true

theorem bar2Write (off : Nat) (bytes : List Byte) : Statement (.bar2Write off bytes) := by
  exact fun _ h => absurd h Bool.false_ne_true

theorem registerWrite (r : MgmtReg) (v : BitVec 256) : Statement (.registerWrite r v) := by
  exact fun _ h => absurd h Bool.false_ne_true

theorem attestationReport (nonce : BitVec 256) : Statement (.attestationReport nonce) := by
  exact fun _ h => absurd h Bool.false_ne_true

theorem moduleReset (hostBoot : Bool) (image : List Byte) (readOk : Bool) : Statement (.moduleReset hostBoot image readOk) := by
  exact fun _ h => absurd h Bool.false_ne_true

theorem bootHostBuffer (addr : BitVec 64) (image : List Byte) (readOk : Bool) : Statement (.bootHostBuffer addr image readOk) := by
  exact fun _ h => absurd h Bool.false_ne_true

theorem pwrok : Statement (.pwrok) := by
  exact fun _ h => absurd h Bool.false_ne_true

theorem railLoss (rail : Nat) : Statement (.railLoss rail) := by
  exact fun _ h => absurd h Bool.false_ne_true

theorem thermalThrottle (die : Nat) (f : Nat) : Statement (.thermalThrottle die f) := by
  exact fun _ h => absurd h Bool.false_ne_true

theorem thermtrip (die : Nat) : Statement (.thermtrip die) := by
  exact fun _ h => absurd h Bool.false_ne_true

theorem islandFrequencyChange (island : Nat) (f : Nat) : Statement (.islandFrequencyChange island f) := by
  exact fun _ h => absurd h Bool.false_ne_true

theorem functionReady (f : ReadyFn) : Statement (.functionReady f) := by
  exact fun _ h => absurd h Bool.false_ne_true

theorem driveDma (addr : Nat) (bytes : List Byte) : Statement (.driveDma addr bytes) := by
  exact fun _ h => absurd h Bool.false_ne_true

theorem spdmMessage (stream : Nat) (key : BitVec 256) : Statement (.spdmMessage stream key) := by
  exact fun _ h => absurd h Bool.false_ne_true

theorem fields_start_a (b1 : BitVec 1) (b2 : BitVec 1) (b3 : BitVec 1) : let x : BitVec 14 := 0#10 ++ b1 ++ b2 ++ b3 ++ 0#1
    x.extractLsb' 4 10 = 0#10 ∧ x.extractLsb' 3 1 = b1 ∧ x.extractLsb' 2 1 = b2 ∧ x.extractLsb' 1 1 = b3 ∧ x.extractLsb' 0 1 = 0#1 := by
  intro x
  refine ⟨?_, ?_, ?_, ?_, ?_⟩
  all_goals
    apply BitVec.eq_of_getLsbD_eq
    intro j hj
    simp only [x, BitVec.getLsbD_extractLsb', BitVec.getLsbD_append, hj, decide_true, Bool.true_and]
    repeat' split
    all_goals first | omega | (congr 1; omega) | simp

theorem start (y : Syn) (m : Bool) (v : Bool) (t : Bool) : Statement (.start y m v t) := by
  intro q hq hf
  obtain rfl := only hq
  obtain ⟨ha0, ha1, ha2, ha3, ha4⟩ := fields_start_a (BitVec.ofBool m) (BitVec.ofBool v) (BitVec.ofBool t)
  have bha1 := get_of_extract _ _ (by omega) _ ha1
  have bha2 := get_of_extract _ _ (by omega) _ ha2
  have bha3 := get_of_extract _ _ (by omega) _ ha3
  have bha4 := get_of_extract _ _ (by omega) _ ha4
  refine decode_form [0] (by rw [hOpc_headOf]; rfl) (by rw [hLen_headOf]; simp) (by rw [hLen_headOf]; rfl) ?_
  unfold decodeForm
  rw [hOpc_headOf, hSyn_headOf]
  show ifZero _ _ = _
  simp (disch := omega) [headOf_extract, headOf_get, ifZero, ha0, ha1, bha1, ha2, bha2, ha3, bha3, ha4, bha4, hF0_headOf]

theorem fields_sig_a (f0 : BitVec 2) (f2 : BitVec 8) : let x : BitVec 14 := f0 ++ 0#4 ++ f2
    x.extractLsb' 12 2 = f0 ∧ x.extractLsb' 8 4 = 0#4 ∧ x.extractLsb' 0 8 = f2 := by
  intro x
  refine ⟨?_, ?_, ?_⟩
  all_goals
    apply BitVec.eq_of_getLsbD_eq
    intro j hj
    simp only [x, BitVec.getLsbD_extractLsb', BitVec.getLsbD_append, hj, decide_true, Bool.true_and]
    repeat' split
    all_goals first | omega | (congr 1; omega) | simp

theorem sig (y : Syn) (e : BitVec 2) (n : BitVec 8) : Statement (.sig y e n) := by
  intro q hq hf
  obtain rfl := only hq
  obtain ⟨ha0, ha1, ha2⟩ := fields_sig_a e n
  refine decode_form [0] (by rw [hOpc_headOf]; rfl) (by rw [hLen_headOf]; simp) (by rw [hLen_headOf]; rfl) ?_
  unfold decodeForm
  rw [hOpc_headOf, hSyn_headOf]
  show ifZero _ _ = _
  simp (disch := omega) [headOf_extract, headOf_get, ifZero, ha0, ha1, ha2, hF0_headOf]

theorem fields_wait_a (f0 : BitVec 2) (f2 : BitVec 8) : let x : BitVec 14 := f0 ++ 0#4 ++ f2
    x.extractLsb' 12 2 = f0 ∧ x.extractLsb' 8 4 = 0#4 ∧ x.extractLsb' 0 8 = f2 := by
  intro x
  refine ⟨?_, ?_, ?_⟩
  all_goals
    apply BitVec.eq_of_getLsbD_eq
    intro j hj
    simp only [x, BitVec.getLsbD_extractLsb', BitVec.getLsbD_append, hj, decide_true, Bool.true_and]
    repeat' split
    all_goals first | omega | (congr 1; omega) | simp

theorem wait (y : Syn) (e : BitVec 2) (n : BitVec 8) : Statement (.wait y e n) := by
  intro q hq hf
  obtain rfl := only hq
  obtain ⟨ha0, ha1, ha2⟩ := fields_wait_a e n
  refine decode_form [0] (by rw [hOpc_headOf]; rfl) (by rw [hLen_headOf]; simp) (by rw [hLen_headOf]; rfl) ?_
  unfold decodeForm
  rw [hOpc_headOf, hSyn_headOf]
  show ifZero _ _ = _
  simp (disch := omega) [headOf_extract, headOf_get, ifZero, ha0, ha1, ha2, hF0_headOf]

theorem fields_arrive_a (f1 : BitVec 6) : let x : BitVec 14 := 0#8 ++ f1
    x.extractLsb' 6 8 = 0#8 ∧ x.extractLsb' 0 6 = f1 := by
  intro x
  refine ⟨?_, ?_⟩
  all_goals
    apply BitVec.eq_of_getLsbD_eq
    intro j hj
    simp only [x, BitVec.getLsbD_extractLsb', BitVec.getLsbD_append, hj, decide_true, Bool.true_and]
    repeat' split
    all_goals first | omega | (congr 1; omega) | simp

theorem arrive (y : Syn) (n : BitVec 6) : Statement (.arrive y n) := by
  intro q hq hf
  obtain rfl := only hq
  obtain ⟨ha0, ha1⟩ := fields_arrive_a n
  refine decode_form [0] (by rw [hOpc_headOf]; rfl) (by rw [hLen_headOf]; simp) (by rw [hLen_headOf]; rfl) ?_
  unfold decodeForm
  rw [hOpc_headOf, hSyn_headOf]
  show ifZero _ _ = _
  simp (disch := omega) [headOf_extract, headOf_get, ifZero, ha0, ha1, hF0_headOf]

theorem fields_bwait_a (f1 : BitVec 6) : let x : BitVec 14 := 0#8 ++ f1
    x.extractLsb' 6 8 = 0#8 ∧ x.extractLsb' 0 6 = f1 := by
  intro x
  refine ⟨?_, ?_⟩
  all_goals
    apply BitVec.eq_of_getLsbD_eq
    intro j hj
    simp only [x, BitVec.getLsbD_extractLsb', BitVec.getLsbD_append, hj, decide_true, Bool.true_and]
    repeat' split
    all_goals first | omega | (congr 1; omega) | simp

theorem bwait (y : Syn) (n : BitVec 6) : Statement (.bwait y n) := by
  intro q hq hf
  obtain rfl := only hq
  obtain ⟨ha0, ha1⟩ := fields_bwait_a n
  refine decode_form [0] (by rw [hOpc_headOf]; rfl) (by rw [hLen_headOf]; simp) (by rw [hLen_headOf]; rfl) ?_
  unfold decodeForm
  rw [hOpc_headOf, hSyn_headOf]
  show ifZero _ _ = _
  simp (disch := omega) [headOf_extract, headOf_get, ifZero, ha0, ha1, hF0_headOf]

theorem fields_qfence_a (f1 : BitVec 4) : let x : BitVec 14 := 0#10 ++ f1
    x.extractLsb' 4 10 = 0#10 ∧ x.extractLsb' 0 4 = f1 := by
  intro x
  refine ⟨?_, ?_⟩
  all_goals
    apply BitVec.eq_of_getLsbD_eq
    intro j hj
    simp only [x, BitVec.getLsbD_extractLsb', BitVec.getLsbD_append, hj, decide_true, Bool.true_and]
    repeat' split
    all_goals first | omega | (congr 1; omega) | simp

theorem qfence (y : Syn) (q : BitVec 4) : Statement (.qfence y q) := by
  intro q hq hf
  obtain rfl := only hq
  obtain ⟨ha0, ha1⟩ := fields_qfence_a q
  refine decode_form [0] (by rw [hOpc_headOf]; rfl) (by rw [hLen_headOf]; simp) (by rw [hLen_headOf]; rfl) ?_
  unfold decodeForm
  rw [hOpc_headOf, hSyn_headOf]
  show ifZero _ _ = _
  simp (disch := omega) [headOf_extract, headOf_get, ifZero, ha0, ha1, hF0_headOf]

theorem fields_fence_a (f1 : BitVec 2) : let x : BitVec 14 := 0#12 ++ f1
    x.extractLsb' 2 12 = 0#12 ∧ x.extractLsb' 0 2 = f1 := by
  intro x
  refine ⟨?_, ?_⟩
  all_goals
    apply BitVec.eq_of_getLsbD_eq
    intro j hj
    simp only [x, BitVec.getLsbD_extractLsb', BitVec.getLsbD_append, hj, decide_true, Bool.true_and]
    repeat' split
    all_goals first | omega | (congr 1; omega) | simp

theorem fence (y : Syn) (scope : BitVec 2) : Statement (.fence y scope) := by
  intro q hq hf
  obtain rfl := only hq
  obtain ⟨ha0, ha1⟩ := fields_fence_a scope
  refine decode_form [0] (by rw [hOpc_headOf]; rfl) (by rw [hLen_headOf]; simp) (by rw [hLen_headOf]; rfl) ?_
  unfold decodeForm
  rw [hOpc_headOf, hSyn_headOf]
  show ifZero _ _ = _
  simp (disch := omega) [headOf_extract, headOf_get, ifZero, ha0, ha1, hF0_headOf]

theorem trap (y : Syn) (code : BitVec 14) : Statement (.trap y code) := by
  intro q hq hf
  obtain rfl := only hq
  refine decode_form [0] (by rw [hOpc_headOf]; rfl) (by rw [hLen_headOf]; simp) (by rw [hLen_headOf]; rfl) ?_
  unfold decodeForm
  rw [hOpc_headOf, hSyn_headOf]
  show some _ = _
  simp (disch := omega) [headOf_extract, headOf_get, ifZero, hF0_headOf]

theorem halt (y : Syn) : Statement (.halt y) := by
  intro q hq hf
  obtain rfl := only hq
  refine decode_form [0] (by rw [hOpc_headOf]; rfl) (by rw [hLen_headOf]; simp) (by rw [hLen_headOf]; rfl) ?_
  unfold decodeForm
  rw [hOpc_headOf, hSyn_headOf]
  show ifZero _ _ = _
  simp (disch := omega) [headOf_extract, headOf_get, ifZero, hF0_headOf]

theorem nop (y : Syn) : Statement (.nop y) := by
  intro q hq hf
  refine decode_form [0] (by rw [hOpc_headOf]; cases q <;> rfl) (by rw [hLen_headOf]; simp) (by rw [hLen_headOf]; rfl) ?_
  unfold decodeForm
  rw [hOpc_headOf, hSyn_headOf]
  show ifZero _ _ = _
  simp (disch := omega) [headOf_extract, headOf_get, ifZero, hF0_headOf]

theorem idle (y : Syn) (n : BitVec 14) : Statement (.idle y n) := by
  intro q hq hf
  refine decode_form [0] (by rw [hOpc_headOf]; cases q <;> rfl) (by rw [hLen_headOf]; simp) (by rw [hLen_headOf]; rfl) ?_
  unfold decodeForm
  rw [hOpc_headOf, hSyn_headOf]
  show some _ = _
  simp (disch := omega) [headOf_extract, headOf_get, ifZero, hF0_headOf]

theorem region (y : Syn) : Statement (.region y) := by
  intro q hq hf
  refine decode_form [0] (by rw [hOpc_headOf]; cases q <;> rfl) (by rw [hLen_headOf]; simp) (by rw [hLen_headOf]; rfl) ?_
  unfold decodeForm
  rw [hOpc_headOf, hSyn_headOf]
  show ifZero _ _ = _
  simp (disch := omega) [headOf_extract, headOf_get, ifZero, hF0_headOf]

theorem endStream (y : Syn) : Statement (.endStream y) := by
  intro q hq hf
  refine decode_form [0] (by rw [hOpc_headOf]; cases q <;> rfl) (by rw [hLen_headOf]; simp) (by rw [hLen_headOf]; rfl) ?_
  unfold decodeForm
  rw [hOpc_headOf, hSyn_headOf]
  show ifZero _ _ = _
  simp (disch := omega) [headOf_extract, headOf_get, ifZero, hF0_headOf]

theorem jmp (y : Syn) (off : BitVec 32) : Statement (.jmp y off) := by
  intro q hq hf
  refine decode_form [1] (by rw [hOpc_headOf]; cases q <;> rfl) (by rw [hLen_headOf]; simp) (by rw [hLen_headOf]; rfl) ?_
  unfold decodeForm
  rw [hOpc_headOf, hSyn_headOf]
  show ifZero _ _ = _
  simp (disch := omega) [headOf_extract, headOf_get, ifZero, hF0_headOf]

theorem fields_bnzdS_a (f0 : BitVec 6) : let x : BitVec 14 := f0 ++ 0#8
    x.extractLsb' 8 6 = f0 ∧ x.extractLsb' 0 8 = 0#8 := by
  intro x
  refine ⟨?_, ?_⟩
  all_goals
    apply BitVec.eq_of_getLsbD_eq
    intro j hj
    simp only [x, BitVec.getLsbD_extractLsb', BitVec.getLsbD_append, hj, decide_true, Bool.true_and]
    repeat' split
    all_goals first | omega | (congr 1; omega) | simp

theorem bnzdS (y : Syn) (r : BitVec 6) (off : BitVec 32) : Statement (.bnzd y (.s r) off) := by
  intro q hq hf
  obtain rfl : q = .c := only hq
  obtain ⟨ha0, ha1⟩ := fields_bnzdS_a r
  refine decode_form [1] (by rw [hOpc_headOf]; rfl) (by rw [hLen_headOf]; simp) (by rw [hLen_headOf]; rfl) ?_
  unfold decodeForm
  rw [hOpc_headOf, hSyn_headOf]
  show (if (SeqId.c == SeqId.c) = true then ifZero ((headOf 1 0xE5 y (r ++ 0#8)).extractLsb' 0 8 == 0) (Instr.bnzd y (.s ((headOf 1 0xE5 y (r ++ 0#8)).extractLsb' 8 6)) off)
    else ifZero ((headOf 1 0xE5 y (r ++ 0#8)).extractLsb' 0 9 == 0) (Instr.bnzd y (.x ((headOf 1 0xE5 y (r ++ 0#8)).extractLsb' 9 5)) off)) = _
  simp (disch := omega) [headOf_extract, headOf_get, ifZero, ha0, ha1, hF0_headOf]

theorem fields_bnzdX_a (f0 : BitVec 5) : let x : BitVec 14 := f0 ++ 0#9
    x.extractLsb' 9 5 = f0 ∧ x.extractLsb' 0 9 = 0#9 := by
  intro x
  refine ⟨?_, ?_⟩
  all_goals
    apply BitVec.eq_of_getLsbD_eq
    intro j hj
    simp only [x, BitVec.getLsbD_extractLsb', BitVec.getLsbD_append, hj, decide_true, Bool.true_and]
    repeat' split
    all_goals first | omega | (congr 1; omega) | simp

theorem bnzdX (y : Syn) (r : BitVec 5) (off : BitVec 32) : Statement (.bnzd y (.x r) off) := by
  intro q hq hf
  have hc : (q == SeqId.c) = false := by have k : (q != SeqId.c) = true := hq; simpa using k
  obtain ⟨ha0, ha1⟩ := fields_bnzdX_a r
  refine decode_form [1] (by rw [hOpc_headOf]; cases q <;> rfl) (by rw [hLen_headOf]; simp) (by rw [hLen_headOf]; rfl) ?_
  unfold decodeForm
  rw [hOpc_headOf, hSyn_headOf]
  show (if (q == SeqId.c) = true then ifZero ((headOf 1 0xE5 y (r ++ 0#9)).extractLsb' 0 8 == 0) (Instr.bnzd y (.s ((headOf 1 0xE5 y (r ++ 0#9)).extractLsb' 8 6)) off)
    else ifZero ((headOf 1 0xE5 y (r ++ 0#9)).extractLsb' 0 9 == 0) (Instr.bnzd y (.x ((headOf 1 0xE5 y (r ++ 0#9)).extractLsb' 9 5)) off)) = _
  simp (disch := omega) [headOf_extract, headOf_get, ifZero, ha0, ha1, hc, hF0_headOf]

theorem bnzd (y : Syn) (r : CountReg) (off : BitVec 32) : Statement (.bnzd y r off) := by
  cases r with
  | s r => exact bnzdS y r off
  | x r => exact bnzdX y r off

theorem fields_pop_a (f0 : BitVec 5) : let x : BitVec 14 := f0 ++ 0#9
    x.extractLsb' 9 5 = f0 ∧ x.extractLsb' 0 9 = 0#9 := by
  intro x
  refine ⟨?_, ?_⟩
  all_goals
    apply BitVec.eq_of_getLsbD_eq
    intro j hj
    simp only [x, BitVec.getLsbD_extractLsb', BitVec.getLsbD_append, hj, decide_true, Bool.true_and]
    repeat' split
    all_goals first | omega | (congr 1; omega) | simp

theorem pop (y : Syn) (xd : BitVec 5) : Statement (.pop y xd) := by
  intro q hq hf
  obtain ⟨ha0, ha1⟩ := fields_pop_a xd
  refine decode_form [0] (by rw [hOpc_headOf]; cases q <;> first | exact absurd hq Bool.false_ne_true | rfl) (by rw [hLen_headOf]; simp) (by rw [hLen_headOf]; rfl) ?_
  unfold decodeForm
  rw [hOpc_headOf, hSyn_headOf]
  show ifZero _ _ = _
  simp (disch := omega) [headOf_extract, headOf_get, ifZero, ha0, ha1, hF0_headOf]

theorem fields_pand_a (f1 : BitVec 4) (f2 : BitVec 4) (f3 : BitVec 4) : let x : BitVec 14 := 0#2 ++ f1 ++ f2 ++ f3
    x.extractLsb' 12 2 = 0#2 ∧ x.extractLsb' 8 4 = f1 ∧ x.extractLsb' 4 4 = f2 ∧ x.extractLsb' 0 4 = f3 := by
  intro x
  refine ⟨?_, ?_, ?_, ?_⟩
  all_goals
    apply BitVec.eq_of_getLsbD_eq
    intro j hj
    simp only [x, BitVec.getLsbD_extractLsb', BitVec.getLsbD_append, hj, decide_true, Bool.true_and]
    repeat' split
    all_goals first | omega | (congr 1; omega) | simp

theorem pand (y : Syn) (pd : BitVec 4) (pa : BitVec 4) (pb : BitVec 4) : Statement (.pand y pd pa pb) := by
  intro q hq hf
  obtain rfl := only hq
  obtain ⟨ha0, ha1, ha2, ha3⟩ := fields_pand_a pd pa pb
  refine decode_form [0] (by rw [hOpc_headOf]; rfl) (by rw [hLen_headOf]; simp) (by rw [hLen_headOf]; rfl) ?_
  unfold decodeForm
  rw [hOpc_headOf, hSyn_headOf]
  show ifZero _ _ = _
  simp (disch := omega) [headOf_extract, headOf_get, ifZero, ha0, ha1, ha2, ha3, hF0_headOf]

theorem fields_por_a (f1 : BitVec 4) (f2 : BitVec 4) (f3 : BitVec 4) : let x : BitVec 14 := 0#2 ++ f1 ++ f2 ++ f3
    x.extractLsb' 12 2 = 0#2 ∧ x.extractLsb' 8 4 = f1 ∧ x.extractLsb' 4 4 = f2 ∧ x.extractLsb' 0 4 = f3 := by
  intro x
  refine ⟨?_, ?_, ?_, ?_⟩
  all_goals
    apply BitVec.eq_of_getLsbD_eq
    intro j hj
    simp only [x, BitVec.getLsbD_extractLsb', BitVec.getLsbD_append, hj, decide_true, Bool.true_and]
    repeat' split
    all_goals first | omega | (congr 1; omega) | simp

theorem por (y : Syn) (pd : BitVec 4) (pa : BitVec 4) (pb : BitVec 4) : Statement (.por y pd pa pb) := by
  intro q hq hf
  obtain rfl := only hq
  obtain ⟨ha0, ha1, ha2, ha3⟩ := fields_por_a pd pa pb
  refine decode_form [0] (by rw [hOpc_headOf]; rfl) (by rw [hLen_headOf]; simp) (by rw [hLen_headOf]; rfl) ?_
  unfold decodeForm
  rw [hOpc_headOf, hSyn_headOf]
  show ifZero _ _ = _
  simp (disch := omega) [headOf_extract, headOf_get, ifZero, ha0, ha1, ha2, ha3, hF0_headOf]

theorem fields_pxor_a (f1 : BitVec 4) (f2 : BitVec 4) (f3 : BitVec 4) : let x : BitVec 14 := 0#2 ++ f1 ++ f2 ++ f3
    x.extractLsb' 12 2 = 0#2 ∧ x.extractLsb' 8 4 = f1 ∧ x.extractLsb' 4 4 = f2 ∧ x.extractLsb' 0 4 = f3 := by
  intro x
  refine ⟨?_, ?_, ?_, ?_⟩
  all_goals
    apply BitVec.eq_of_getLsbD_eq
    intro j hj
    simp only [x, BitVec.getLsbD_extractLsb', BitVec.getLsbD_append, hj, decide_true, Bool.true_and]
    repeat' split
    all_goals first | omega | (congr 1; omega) | simp

theorem pxor (y : Syn) (pd : BitVec 4) (pa : BitVec 4) (pb : BitVec 4) : Statement (.pxor y pd pa pb) := by
  intro q hq hf
  obtain rfl := only hq
  obtain ⟨ha0, ha1, ha2, ha3⟩ := fields_pxor_a pd pa pb
  refine decode_form [0] (by rw [hOpc_headOf]; rfl) (by rw [hLen_headOf]; simp) (by rw [hLen_headOf]; rfl) ?_
  unfold decodeForm
  rw [hOpc_headOf, hSyn_headOf]
  show ifZero _ _ = _
  simp (disch := omega) [headOf_extract, headOf_get, ifZero, ha0, ha1, ha2, ha3, hF0_headOf]

theorem fields_pnot_a (f1 : BitVec 4) (f2 : BitVec 4) : let x : BitVec 14 := 0#2 ++ f1 ++ f2 ++ 0#4
    x.extractLsb' 12 2 = 0#2 ∧ x.extractLsb' 8 4 = f1 ∧ x.extractLsb' 4 4 = f2 ∧ x.extractLsb' 0 4 = 0#4 := by
  intro x
  refine ⟨?_, ?_, ?_, ?_⟩
  all_goals
    apply BitVec.eq_of_getLsbD_eq
    intro j hj
    simp only [x, BitVec.getLsbD_extractLsb', BitVec.getLsbD_append, hj, decide_true, Bool.true_and]
    repeat' split
    all_goals first | omega | (congr 1; omega) | simp

theorem pnot (y : Syn) (pd : BitVec 4) (pa : BitVec 4) : Statement (.pnot y pd pa) := by
  intro q hq hf
  obtain rfl := only hq
  obtain ⟨ha0, ha1, ha2, ha3⟩ := fields_pnot_a pd pa
  refine decode_form [0] (by rw [hOpc_headOf]; rfl) (by rw [hLen_headOf]; simp) (by rw [hLen_headOf]; rfl) ?_
  unfold decodeForm
  rw [hOpc_headOf, hSyn_headOf]
  show ifZero _ _ = _
  simp (disch := omega) [headOf_extract, headOf_get, ifZero, ha0, ha1, ha2, ha3, hF0_headOf]

theorem fields_pset_a (f1 : BitVec 4) (f3 : BitVec 4) : let x : BitVec 14 := 0#2 ++ f1 ++ 0#4 ++ f3
    x.extractLsb' 12 2 = 0#2 ∧ x.extractLsb' 8 4 = f1 ∧ x.extractLsb' 4 4 = 0#4 ∧ x.extractLsb' 0 4 = f3 := by
  intro x
  refine ⟨?_, ?_, ?_, ?_⟩
  all_goals
    apply BitVec.eq_of_getLsbD_eq
    intro j hj
    simp only [x, BitVec.getLsbD_extractLsb', BitVec.getLsbD_append, hj, decide_true, Bool.true_and]
    repeat' split
    all_goals first | omega | (congr 1; omega) | simp

theorem pset (y : Syn) (pd : BitVec 4) (v : BitVec 4) : Statement (.pset y pd v) := by
  intro q hq hf
  obtain rfl := only hq
  obtain ⟨ha0, ha1, ha2, ha3⟩ := fields_pset_a pd v
  refine decode_form [0] (by rw [hOpc_headOf]; rfl) (by rw [hLen_headOf]; simp) (by rw [hLen_headOf]; rfl) ?_
  unfold decodeForm
  rw [hOpc_headOf, hSyn_headOf]
  show ifZero _ _ = _
  simp (disch := omega) [headOf_extract, headOf_get, ifZero, ha0, ha1, ha2, ha3, hF0_headOf]

theorem fields_pcnt_a (f0 : BitVec 5) (f2 : BitVec 4) : let x : BitVec 14 := f0 ++ 0#1 ++ f2 ++ 0#4
    x.extractLsb' 9 5 = f0 ∧ x.extractLsb' 8 1 = 0#1 ∧ x.extractLsb' 4 4 = f2 ∧ x.extractLsb' 0 4 = 0#4 := by
  intro x
  refine ⟨?_, ?_, ?_, ?_⟩
  all_goals
    apply BitVec.eq_of_getLsbD_eq
    intro j hj
    simp only [x, BitVec.getLsbD_extractLsb', BitVec.getLsbD_append, hj, decide_true, Bool.true_and]
    repeat' split
    all_goals first | omega | (congr 1; omega) | simp

theorem pcnt (y : Syn) (xd : BitVec 5) (pa : BitVec 4) : Statement (.pcnt y xd pa) := by
  intro q hq hf
  obtain rfl := only hq
  obtain ⟨ha0, ha1, ha2, ha3⟩ := fields_pcnt_a xd pa
  have bha1 := get_of_extract _ _ (by omega) _ ha1
  refine decode_form [0] (by rw [hOpc_headOf]; rfl) (by rw [hLen_headOf]; simp) (by rw [hLen_headOf]; rfl) ?_
  unfold decodeForm
  rw [hOpc_headOf, hSyn_headOf]
  show ifZero _ _ = _
  simp (disch := omega) [headOf_extract, headOf_get, ifZero, ha0, ha1, bha1, ha2, ha3, hF0_headOf]

theorem fields_vsetvl_a (f1 : BitVec 8) : let x : BitVec 14 := 0#6 ++ f1
    x.extractLsb' 8 6 = 0#6 ∧ x.extractLsb' 0 8 = f1 := by
  intro x
  refine ⟨?_, ?_⟩
  all_goals
    apply BitVec.eq_of_getLsbD_eq
    intro j hj
    simp only [x, BitVec.getLsbD_extractLsb', BitVec.getLsbD_append, hj, decide_true, Bool.true_and]
    repeat' split
    all_goals first | omega | (congr 1; omega) | simp

theorem vsetvl (y : Syn) (n : BitVec 8) : Statement (.vsetvl y n) := by
  intro q hq hf
  obtain rfl := only hq
  obtain ⟨ha0, ha1⟩ := fields_vsetvl_a n
  refine decode_form [0, 1] (by rw [hOpc_headOf]; rfl) (by rw [hLen_headOf]; simp) (by rw [hLen_headOf]; rfl) ?_
  unfold decodeForm
  rw [hOpc_headOf, hSyn_headOf]
  show ifZero _ _ = _
  simp (disch := omega) [headOf_extract, headOf_get, ifZero, ha0, ha1, hF0_headOf]

theorem fields_vsetvlReg_a (f1 : BitVec 5) : let x : BitVec 14 := 0#9 ++ f1
    x.extractLsb' 5 9 = 0#9 ∧ x.extractLsb' 0 5 = f1 := by
  intro x
  refine ⟨?_, ?_⟩
  all_goals
    apply BitVec.eq_of_getLsbD_eq
    intro j hj
    simp only [x, BitVec.getLsbD_extractLsb', BitVec.getLsbD_append, hj, decide_true, Bool.true_and]
    repeat' split
    all_goals first | omega | (congr 1; omega) | simp

theorem fields_vsetvlReg_b (f0 : BitVec 5) (f2 : BitVec 5) (f4 : BitVec 4) : let x : BitVec 32 := f0 ++ 0#5 ++ f2 ++ 0#12 ++ f4 ++ 0#1
    x.extractLsb' 27 5 = f0 ∧ x.extractLsb' 22 5 = 0#5 ∧ x.extractLsb' 17 5 = f2 ∧ x.extractLsb' 5 12 = 0#12 ∧ x.extractLsb' 1 4 = f4 ∧ x.extractLsb' 0 1 = 0#1 := by
  intro x
  refine ⟨?_, ?_, ?_, ?_, ?_, ?_⟩
  all_goals
    apply BitVec.eq_of_getLsbD_eq
    intro j hj
    simp only [x, BitVec.getLsbD_extractLsb', BitVec.getLsbD_append, hj, decide_true, Bool.true_and]
    repeat' split
    all_goals first | omega | (congr 1; omega) | simp

theorem vsetvlReg (y : Syn) (xd : BitVec 5) (xa : BitVec 5) (xb : BitVec 5) (opx : BitVec 4) : Statement (.vsetvlReg y xd xa xb opx) := by
  intro q hq hf
  obtain rfl := only hq
  obtain ⟨ha0, ha1⟩ := fields_vsetvlReg_a xd
  obtain ⟨hb0, hb1, hb2, hb3, hb4, hb5⟩ := fields_vsetvlReg_b xa xb opx
  have bhb5 := get_of_extract _ _ (by omega) _ hb5
  refine decode_form [0, 1] (by rw [hOpc_headOf]; rfl) (by rw [hLen_headOf]; simp) (by rw [hLen_headOf]; rfl) ?_
  unfold decodeForm
  rw [hOpc_headOf, hSyn_headOf]
  show ifZero _ _ = _
  simp (disch := omega) [headOf_extract, headOf_get, ifZero, ha0, ha1, hb0, hb1, hb2, hb3, hb4, hb5, bhb5, hF0_headOf]

theorem fields_loopv_a (f1 : BitVec 5) : let x : BitVec 14 := 0#9 ++ f1
    x.extractLsb' 5 9 = 0#9 ∧ x.extractLsb' 0 5 = f1 := by
  intro x
  refine ⟨?_, ?_⟩
  all_goals
    apply BitVec.eq_of_getLsbD_eq
    intro j hj
    simp only [x, BitVec.getLsbD_extractLsb', BitVec.getLsbD_append, hj, decide_true, Bool.true_and]
    repeat' split
    all_goals first | omega | (congr 1; omega) | simp

theorem fields_loopv_b (f0 : BitVec 20) : let x : BitVec 32 := f0 ++ 0#12
    x.extractLsb' 12 20 = f0 ∧ x.extractLsb' 0 12 = 0#12 := by
  intro x
  refine ⟨?_, ?_⟩
  all_goals
    apply BitVec.eq_of_getLsbD_eq
    intro j hj
    simp only [x, BitVec.getLsbD_extractLsb', BitVec.getLsbD_append, hj, decide_true, Bool.true_and]
    repeat' split
    all_goals first | omega | (congr 1; omega) | simp

theorem loopv (y : Syn) (xc : BitVec 5) (off : BitVec 20) : Statement (.loopv y xc off) := by
  intro q hq hf
  obtain rfl := only hq
  obtain ⟨ha0, ha1⟩ := fields_loopv_a xc
  obtain ⟨hb0, hb1⟩ := fields_loopv_b off
  refine decode_form [1] (by rw [hOpc_headOf]; rfl) (by rw [hLen_headOf]; simp) (by rw [hLen_headOf]; rfl) ?_
  unfold decodeForm
  rw [hOpc_headOf, hSyn_headOf]
  show ifZero _ _ = _
  simp (disch := omega) [headOf_extract, headOf_get, ifZero, ha0, ha1, hb0, hb1, hF0_headOf]

theorem fields_rotset_a (f1 : BitVec 7) : let x : BitVec 14 := 0#7 ++ f1
    x.extractLsb' 7 7 = 0#7 ∧ x.extractLsb' 0 7 = f1 := by
  intro x
  refine ⟨?_, ?_⟩
  all_goals
    apply BitVec.eq_of_getLsbD_eq
    intro j hj
    simp only [x, BitVec.getLsbD_extractLsb', BitVec.getLsbD_append, hj, decide_true, Bool.true_and]
    repeat' split
    all_goals first | omega | (congr 1; omega) | simp

theorem rotset (y : Syn) (n : BitVec 7) : Statement (.rotset y n) := by
  intro q hq hf
  obtain rfl := only hq
  obtain ⟨ha0, ha1⟩ := fields_rotset_a n
  refine decode_form [0] (by rw [hOpc_headOf]; rfl) (by rw [hLen_headOf]; simp) (by rw [hLen_headOf]; rfl) ?_
  unfold decodeForm
  rw [hOpc_headOf, hSyn_headOf]
  show ifZero _ _ = _
  simp (disch := omega) [headOf_extract, headOf_get, ifZero, ha0, ha1, hF0_headOf]

theorem fields_aswap_a (f1 : BitVec 2) : let x : BitVec 14 := 0#12 ++ f1
    x.extractLsb' 2 12 = 0#12 ∧ x.extractLsb' 0 2 = f1 := by
  intro x
  refine ⟨?_, ?_⟩
  all_goals
    apply BitVec.eq_of_getLsbD_eq
    intro j hj
    simp only [x, BitVec.getLsbD_extractLsb', BitVec.getLsbD_append, hj, decide_true, Bool.true_and]
    repeat' split
    all_goals first | omega | (congr 1; omega) | simp

theorem aswap (y : Syn) (acc : BitVec 2) : Statement (.aswap y acc) := by
  intro q hq hf
  obtain rfl := only hq
  obtain ⟨ha0, ha1⟩ := fields_aswap_a acc
  refine decode_form [0] (by rw [hOpc_headOf]; rfl) (by rw [hLen_headOf]; simp) (by rw [hLen_headOf]; rfl) ?_
  unfold decodeForm
  rw [hOpc_headOf, hSyn_headOf]
  show ifZero _ _ = _
  simp (disch := omega) [headOf_extract, headOf_get, ifZero, ha0, ha1, hF0_headOf]

theorem fields_azero_a (f1 : BitVec 2) (f2 : BitVec 2) : let x : BitVec 14 := 0#10 ++ f1 ++ f2
    x.extractLsb' 4 10 = 0#10 ∧ x.extractLsb' 2 2 = f1 ∧ x.extractLsb' 0 2 = f2 := by
  intro x
  refine ⟨?_, ?_, ?_⟩
  all_goals
    apply BitVec.eq_of_getLsbD_eq
    intro j hj
    simp only [x, BitVec.getLsbD_extractLsb', BitVec.getLsbD_append, hj, decide_true, Bool.true_and]
    repeat' split
    all_goals first | omega | (congr 1; omega) | simp

theorem azero (y : Syn) (bank : BitVec 2) (acc : BitVec 2) : Statement (.azero y bank acc) := by
  intro q hq hf
  obtain rfl := only hq
  obtain ⟨ha0, ha1, ha2⟩ := fields_azero_a bank acc
  refine decode_form [0] (by rw [hOpc_headOf]; rfl) (by rw [hLen_headOf]; simp) (by rw [hLen_headOf]; rfl) ?_
  unfold decodeForm
  rw [hOpc_headOf, hSyn_headOf]
  show ifZero _ _ = _
  simp (disch := omega) [headOf_extract, headOf_get, ifZero, ha0, ha1, ha2, hF0_headOf]

theorem fields_achk_a (f1 : BitVec 2) (f2 : BitVec 2) : let x : BitVec 14 := 0#10 ++ f1 ++ f2
    x.extractLsb' 4 10 = 0#10 ∧ x.extractLsb' 2 2 = f1 ∧ x.extractLsb' 0 2 = f2 := by
  intro x
  refine ⟨?_, ?_, ?_⟩
  all_goals
    apply BitVec.eq_of_getLsbD_eq
    intro j hj
    simp only [x, BitVec.getLsbD_extractLsb', BitVec.getLsbD_append, hj, decide_true, Bool.true_and]
    repeat' split
    all_goals first | omega | (congr 1; omega) | simp

theorem achk (y : Syn) (bank : BitVec 2) (acc : BitVec 2) : Statement (.achk y bank acc) := by
  intro q hq hf
  obtain rfl := only hq
  obtain ⟨ha0, ha1, ha2⟩ := fields_achk_a bank acc
  refine decode_form [0] (by rw [hOpc_headOf]; rfl) (by rw [hLen_headOf]; simp) (by rw [hLen_headOf]; rfl) ?_
  unfold decodeForm
  rw [hOpc_headOf, hSyn_headOf]
  show ifZero _ _ = _
  simp (disch := omega) [headOf_extract, headOf_get, ifZero, ha0, ha1, ha2, hF0_headOf]

theorem fields_fdrop_a (f1 : BitVec 5) : let x : BitVec 14 := 0#9 ++ f1
    x.extractLsb' 5 9 = 0#9 ∧ x.extractLsb' 0 5 = f1 := by
  intro x
  refine ⟨?_, ?_⟩
  all_goals
    apply BitVec.eq_of_getLsbD_eq
    intro j hj
    simp only [x, BitVec.getLsbD_extractLsb', BitVec.getLsbD_append, hj, decide_true, Bool.true_and]
    repeat' split
    all_goals first | omega | (congr 1; omega) | simp

theorem fdrop (y : Syn) (n : BitVec 5) : Statement (.fdrop y n) := by
  intro q hq hf
  obtain rfl := only hq
  obtain ⟨ha0, ha1⟩ := fields_fdrop_a n
  refine decode_form [0] (by rw [hOpc_headOf]; rfl) (by rw [hLen_headOf]; simp) (by rw [hLen_headOf]; rfl) ?_
  unfold decodeForm
  rw [hOpc_headOf, hSyn_headOf]
  show ifZero _ _ = _
  simp (disch := omega) [headOf_extract, headOf_get, ifZero, ha0, ha1, hF0_headOf]

end Sys2Proof.Laws.RoundTrip
end

