-- ==== Sys2Proof/Laws/Reads.lean ====
section
/-! SUPPORT. The reads that an instruction makes before it goes on (R293): whatever one read keeps, all of them keep, where they stop too. -/

namespace Sys2Proof.Machine

/-- What reads leave, or where they stop, has a property. -/
def ReadsKeep {α : Type} (P : State → Prop) (r : Except ReadStop (State × α)) : Prop :=
  match r with
  | .ok x => P x.1
  | .error (.fault _ s) => P s
  | .error (.wait _ s) => P s

theorem readInOrder_keeps {P : State → Prop} {rd : Reader} (h : ∀ s p s', P s → rd.read s p = some s' → P s') (m : Nat) :
    ∀ (ps : List Place) (s : State), P s → ReadsKeep P (readInOrder rd m ps s)
  | [], _, hs => hs
  | p :: ps, s, hs => by
    simp only [readInOrder]
    have one : ∀ s1, (if (rd.kept s p m).isSome then some s else rd.read s p) = some s1 → P s1 := by
      intro s1 h1; split at h1
      · exact Option.some.inj h1 ▸ hs
      · exact h s p s1 hs h1
    split
    · exact hs
    · next s1 h1 =>
      have k := readInOrder_keeps h m ps s1 (one s1 h1)
      split <;> simp_all [ReadsKeep]

theorem readPlaces_keeps {P : State → Prop} {rd : Reader} (h : ∀ s p s', P s → rd.read s p = some s' → P s') (m : Nat) (ps : List Place)
    (s : State) (hs : P s) : ReadsKeep P (readPlaces rd m ps s) := by
  simp only [readPlaces]
  split
  · exact readInOrder_keeps h m ps s hs
  · split
    · exact readInOrder_keeps h m ps s hs
    · rename_i n _ _
      show P (((ps.filter (fun p => !(rd.kept s p m).isSome))[n]?.bind (rd.read s)).getD s)
      cases hp : (ps.filter (fun p => !(rd.kept s p m).isSome))[n]?.bind (rd.read s) with
      | none => exact hs
      | some s1 =>
        obtain ⟨p, -, hr⟩ := Option.bind_eq_some_iff.mp hp
        exact h s p s1 hs hr

theorem readSpan_keeps {P : State → Prop} {rd : Reader} (h : ∀ s p s', P s → rd.read s p = some s' → P s') (core : Nat) (t : Task) (rs : Ranges)
    (k n a : Nat) (s : State) (hs : P s) : ReadsKeep P (readSpan rd core t rs k n a s) := by
  simp only [readSpan]
  split
  · exact hs
  · exact readPlaces_keeps h _ _ s hs

/-- A sequencer's own read keeps every memory canonical, and so does that of a COLL without a core. -/
theorem MemoryCanonical.ownRead {s s' : State} (h : MemoryCanonical s) (p : Place) (hr : ownReader.read s p = some s') : MemoryCanonical s' := by
  simp only [ownReader] at hr
  split at hr
  · exact Option.some.inj hr ▸ (h.readNow _ _).setMe _
  · cases hr

theorem MemoryCanonical.pendRead {s s' : State} {part n : Nat} (h : MemoryCanonical s) (p : Place) (hr : (pendReader part n).read s p = some s') :
    MemoryCanonical s' := by
  have go : ∀ b : Bool, (if b then some (mapPend (correctAt (served s part p.granule) p.granule 16) part n (fun x =>
      { x with early := x.early ++ [{ fetch := false, place := p.granule, bytes := readPlace (correctAt (served s part p.granule) p.granule 16) p.granule 16 }],
               stack := none })) else none) = some s' → MemoryCanonical s' := by
    intro b hb
    cases b with
    | false => cases hb
    | true => exact Option.some.inj hb ▸ ((h.served _ _).correctAt _ _).setPart _ _
  exact go _ hr

/-- So does every read of C of its task's memory. -/
theorem readTask_canonical (s : State) (rs : Ranges) (k n a : Nat) (h : MemoryCanonical s) : ReadsKeep MemoryCanonical (readTask s rs k n a) := by
  have r := readSpan_keeps (rd := ownReader) (fun _ p _ hs => MemoryCanonical.ownRead hs p) (myCore s) s.here rs k n a s h
  simp only [readTask, readAs]
  cases hx : readSpan ownReader (myCore s) s.here rs k n a s with
  | ok x => rw [hx] at r; exact r
  | error e => rw [hx] at r; cases e <;> exact r

end Sys2Proof.Machine
end

