-- ==== Sys2Proof/Tests/Slice0.lean ====
section
/-! SUPPORT. Tests: ill-formed terms that WellFormed refuses, words written out from the spec's encodings, states that meet the
hypotheses of the statements, and single steps with results worked out from the rules. -/

namespace Sys2Proof.Tests

open Sys2Proof.Machine

set_option Elab.async false

/-! ### Small states -/

/-- Core 0 with the task of Place.lean, changed by `f`; sequencer `q` has the turn at the start of task HBM space. -/
def at0 (q : SeqId) (f : Task → Task) : State :=
  (placeAt { State.reset with cur := { core := 0, q := q } } q []).setTask 0 0 (some (f (placeTask q)))

/-- What `Ready` asks of the state and the instruction, but for the task. -/
abbrev canIssue (s : State) (i : Instr) (y : Syn) : Prop :=
  (mayIssue s = true ∧ inWait s.me = false ∧ inSpace s.cur.q i = true) ∧ (instrPrivileged i = true → s.here.priv = true)
    ∧ fieldsOk i = true ∧ modeOk s.here.timed s.cur.q y i = true ∧ timing s s.here s.cur.q y i = .go

/-- The task at the issue, where `Ready` holds. -/
def readyTask (s : State) (i : Instr) (y : Syn) : Option Task :=
  (dueWrites s.here s.cur.q (issueTick s)).filter (fun t =>
    decide (canIssue s i y ∧ (s.here.timed = false → tokensReady t s.cur.q (waitMask y) = true ∧ roomReady t s.cur.q (sigMask y) = true)))

theorem ready_of_task {s : State} {i : Instr} {y : Syn} {t : Task} (h : readyTask s i y = some t) : Ready s i y t := by
  have h := Option.filter_eq_some_iff.mp h
  have k := of_decide_eq_true h.2
  exact { turn := k.1.1.1, fresh := k.1.1.2.1, space := k.1.1.2.2, mode := k.1.2.1, fields := k.1.2.2.1, syn := k.1.2.2.2.1, cycle := k.1.2.2.2.2,
          due := h.1, tokens := k.2 }

/-- The instruction is ready, and its task meets `p`. -/
def meets (s : State) (i : Instr) (p : Task → Bool) : Bool := (readyTask s i 0).any p

theorem meets_ready {s : State} {i : Instr} {p : Task → Bool} (h : meets s i p = true) : ∃ t, Ready s i 0 t ∧ p t = true := by
  unfold meets at h
  cases k : readyTask s i 0 with
  | none => rw [k] at h; exact absurd h (by simp)
  | some t => rw [k] at h; exact ⟨t, ready_of_task k, by simpa using h⟩

theorem all_meets {s : State} {l : List Instr} {p : Task → Bool} (h : l.all (fun i => meets s i p) = true) :
    ∀ i ∈ l, ∃ t, Ready s i 0 t ∧ p t = true :=
  fun i hi => meets_ready (List.all_eq_true.mp h i hi)

theorem all_meets_each {s : State} {l : List Instr} {p : Instr → Task → Bool} (h : l.all (fun i => meets s i (p i)) = true) :
    ∀ i ∈ l, ∃ t, Ready s i 0 t ∧ p i t = true :=
  fun i hi => meets_ready (List.all_eq_true.mp h i hi)

theorem all_ready {s : State} {l : List Instr} (h : l.all (fun i => meets s i (fun _ => true)) = true) : ∀ i ∈ l, ∃ t, Ready s i 0 t := by
  intro i hi
  obtain ⟨t, ht, _⟩ := meets_ready (List.all_eq_true.mp h i hi)
  exact ⟨t, ht⟩

/-! ### C -/

/-- A task whose C holds 7 in s1, -3 in s2, the start of the own scratchpad in s3 an HBM address in s4 and one of the window range in s7. -/
def cTask (t : Task) : Task :=
  { t with c := { t.c with regs := [(1, 7), (2, -3), (3, 0x1000), (4, 0x100000000000), (7, 0x100000000)] } }

def cState : State := at0 .c cTask

def rr : COp := ⟨5, 1, .reg 2⟩

theorem witness_IntegerGroup : ∀ i ∈ [Instr.add 0 rr, .sub 0 rr, .and 0 rr, .or 0 rr, .xor 0 rr, .sll 0 rr, .srl 0 rr, .sra 0 rr, .mul 0 rr,
    .mulh 0 rr, .mulhu 0 rr, .div 0 rr, .divu 0 rr, .rem 0 rr, .remu 0 rr, .min 0 rr, .max 0 rr, .minu 0 rr, .maxu 0 rr, .slt 0 rr, .sltu 0 rr,
    .seq 0 rr, .li 0 ⟨5, 0, .imm64 9⟩, .rotl 0 rr, .add 0 ⟨0, 0, .simm (-1)⟩], ∃ t, Ready cState i 0 t :=
  all_ready (by decide)


theorem witness_BitFieldGroup : (∀ i ∈ [Instr.clz 0 ⟨5, 1, .reg 0⟩, .popc 0 ⟨5, 1, .reg 0⟩, .bext 0 ⟨5, 1, .zimm 0xC8⟩, .bins 0 ⟨5, 1, .zimm 0xFC0⟩],
      ∃ t, Ready cState i 0 t)
    ∧ mayIssue cState = true ∧ cState.cur.q = .c ∧ 64 < ((0xFC1#32).extractLsb' 0 6).toNat + (((0xFC1#32).extractLsb' 6 6).toNat + 1) :=
  ⟨all_ready (by decide), by decide, by decide, by decide⟩

theorem witness_Branches : (∀ i ∈ [Instr.j 0 ⟨0, 0, .simm 0⟩, .jal 0 ⟨5, 0, .simm 4⟩, .beq 0 ⟨5, 1, .simm (-12)⟩, .bne 0 ⟨5, 1, .simm (-12)⟩,
      .blt 0 ⟨5, 1, .simm 3⟩, .bge 0 ⟨5, 1, .simm 3⟩, .bltu 0 ⟨5, 1, .simm 3⟩, .bgeu 0 ⟨5, 1, .simm 3⟩, .bbs 0 ⟨2, 1, .simm 3⟩], ∃ t, Ready cState i 0 t)
    ∧ (∃ t, Ready cState (.jr 0 ⟨5, 4, .simm 8⟩) 0 t ∧ decide (((t.c.reg 4).toNat + (8 : Int)) % 2 ^ 48 % 4 = 0) = true)
    ∧ (∃ t, Ready cState (.jr 0 ⟨5, 4, .simm 2⟩) 0 t ∧ decide (((t.c.reg 4).toNat + (2 : Int)) % 2 ^ 48 % 4 ≠ 0) = true) :=
  ⟨all_ready (by decide), meets_ready (by decide), meets_ready (by decide)⟩

/-- The check of an access by core 0 at the operand address passes, and its place meets `f`. -/
def accessOk (s : State) (rs : Ranges) (k : AccKind) (o : COp) (n : Nat) (t : Task) (f : Place → Bool) : Bool :=
  match checkAccess s 0 t rs k (addrC t.c o) n n with
  | .ok p => f p
  | .error _ => false

def passes (s : State) (rs : Ranges) (k : AccKind) (o : COp) (n : Nat) (t : Task) : Bool := accessOk s rs k o n t (fun _ => true)

/-- `WheelMet`, as a check. -/
def wheelMet (s : State) (part : Nat) (p : Place) : Bool :=
  match p with
  | .hbm a => ownsWheel s (a / 2 ^ 37) part && ownedBy (wheelAt s (a / 2 ^ 37) (s.mcc % 64)) part
  | _ => true

theorem wheelMet_of {s : State} {part : Nat} {p : Place} (h : wheelMet s part p = true) : WheelMet s part p := by
  intro a ha
  subst ha
  simpa [wheelMet] using h

/-- `PortMet`, as a check. -/
def portMet (s : State) (p : Place) : Bool :=
  match p with
  | .spad k _ => k == s.cur.core || !s.ports.contains s.cur.core
  | _ => true

theorem portMet_of {s : State} {p : Place} (h : portMet s p = true) : PortMet s p := by
  intro k off hp hk
  subst hp
  simpa [portMet, hk] using h

/-- An untimed load of C at `o` finds its bank or its wheel, and no store of its own is younger than its commit. -/
def readable (s : State) (i : Instr) (o : COp) (n : Nat) (t : Task) : Bool :=
  accessOk s Ranges.noTx .load o n t (fun p =>
    let e := enteredAt s t 0 i
    !timedHere s && open1 e p && ownCommitted e p n)

def mem : COp := ⟨5, 3, .simm 8⟩
/-- The last byte of the own scratchpad, a byte of a peer's, and a double word of HBM. -/
def memTop : COp := ⟨5, 0, .simm 0x7FFFFF⟩
def memPeer : COp := ⟨5, 0, .simm 0x8800000⟩
def memHbm : COp := ⟨5, 4, .simm 8⟩

/-- A timed C whose next cycle is this one; partition 0 owns the wheel position of the cycle in stack 0. -/
def loadTimed : State :=
  { at0 .c (fun t => { cTask t with timed := true, c := { (cTask t).c with timed := true, lastIssue := 5, nextFree := 5, seqno := 1 } }) with mcc := 6, wheels := [(6, 0x80)] }

theorem witness_Loads : (∀ i ∈ [Instr.ldb 0 mem, .ldbu 0 mem, .ldh 0 mem, .ldhu 0 mem, .ldw 0 mem, .ldwu 0 mem, .ldd 0 mem], ∃ t, Ready cState i 0 t ∧ readable cState i mem 8 t = true)
    ∧ (∃ t, Ready cState (.ldb 0 memTop) 0 t ∧ readable cState (.ldb 0 memTop) memTop 1 t = true)
    ∧ (∃ t, Ready cState (.ldd 0 memHbm) 0 t ∧ readable cState (.ldd 0 memHbm) memHbm 8 t = true)
    ∧ (∀ o ∈ [mem, memHbm], ∃ t, Ready loadTimed (.ldd 0 o) 0 t ∧ accessOk loadTimed Ranges.noTx .load o 8 t (fun p => timedHere loadTimed && wheelMet loadTimed t.part p) = true) := by
  refine ⟨all_meets_each (p := fun i t => readable cState i mem 8 t) (by decide +kernel), meets_ready (by decide +kernel), meets_ready (by decide +kernel), fun o ho => ?_⟩
  exact meets_ready (List.all_eq_true.mp
    (show [mem, memHbm].all (fun o => meets loadTimed (.ldd 0 o) (fun t => accessOk loadTimed Ranges.noTx .load o 8 t (fun p => timedHere loadTimed && wheelMet loadTimed t.part p))) = true by decide +kernel) o ho)

/-- A transmit window of partition 0 at the first address of the range, with one granted member. -/
def txW : TxWin :=
  { TxWin.free with mapped := true, part := 0, lbase := 0x100000000, size := 0x1000, rx := 7, allow := 4, slotset := 1, members := [1], granted := 1,
                    bases := [(0, 0x4000)], epochs := [(0, 2)] }

def txState : State := cState.setTx 3 txW
def memTx : COp := ⟨5, 7, .simm 0x40⟩

def sentOk (r : TxRes) : Bool := match r with | .sent _ => true | _ => false

theorem witness_Stores : (∀ i ∈ [Instr.stb 0 mem, .sth 0 mem, .stw 0 mem, .std 0 mem], ∃ t, Ready cState i 0 t ∧ accessOk cState Ranges.all .store mem 8 t (fun p => notWindow p && portMet cState p) = true)
    ∧ (∃ t, Ready cState (.stb 0 memPeer) 0 t ∧ accessOk cState Ranges.all .store memPeer 1 t (fun p => notWindow p && portMet cState p) = true)
    ∧ (∃ t, Ready loadTimed (.std 0 mem) 0 t ∧ accessOk loadTimed Ranges.all .store mem 8 t (fun p => notWindow p && portMet loadTimed p && timedHere loadTimed && wheelMet loadTimed t.part p) = true)
    ∧ (∃ t, Ready txState (.std 0 memTx) 0 t
        ∧ (accessOk txState Ranges.all .store memTx 8 t (fun p => !notWindow p)
          && sentOk (txStore (enteredAt txState t 0 (.std 0 memTx)) 0 0 .c 0 0 0x100000040 [(0x100000040, 1)])) = true) :=
  ⟨all_meets (by decide +kernel), meets_ready (by decide +kernel), meets_ready (by decide +kernel), meets_ready (by decide +kernel)⟩

def poisoned : State := { cState with poison := [(0x100000 / 64, 15)] }

theorem witness_AccessChecks :
    (∃ t, Ready cState (.ldw 0 ⟨5, 6, .simm 0⟩) 0 t) ∧ inTx 0x100000000 = true ∧ inTx 0x1FFFFFFFF = true
    ∧ (inOwn 0x800000 || inPeer 0x800000 || inTx 0x800000 || inHbm 0x800000) = false
    ∧ (∃ t, Ready cState (.ldw 0 ⟨5, 3, .simm 0x1⟩) 0 t ∧ (inOwn (addrC t.c ⟨5, 3, .simm 1⟩) && decide (addrC t.c ⟨5, 3, .simm 1⟩ % 4 ≠ 0)) = true)
    ∧ (∃ t, Ready cState (.ldw 0 ⟨5, 4, .simm 0x1000⟩) 0 t
        ∧ (inHbm (addrC t.c ⟨5, 4, .simm 0x1000⟩) && decide (translateIn cState t.extents .load (addrC t.c ⟨5, 4, .simm 0x1000⟩) = none)) = true)
    ∧ (∃ t, Ready poisoned (.ldw 0 ⟨5, 4, .simm 60⟩) 0 t
        ∧ (match translateIn poisoned t.extents .load (addrC t.c ⟨5, 4, .simm 60⟩) with | some pa => unreadable poisoned pa 4 | none => false) = true)
    ∧ (∃ t, Ready { cState with errs := [(0x100000 / 64, 2)] } (.ldw 0 ⟨5, 4, .simm 0⟩) 0 t
        ∧ (match translateIn cState t.extents .load (addrC t.c ⟨5, 4, .simm 0⟩) with | some pa => unreadable { cState with errs := [(0x100000 / 64, 2)] } pa 4 | none => false) = true)
    ∧ (∃ t, Ready cState (.stw 0 ⟨5, 4, .simm 0⟩) 0 t ∧ decide (translateIn cState t.extents .store (addrC t.c ⟨5, 4, .simm 0⟩) = none) = true)
    ∧ findTx cState 0 0x100000000 = none := by
  refine ⟨(meets_ready (p := fun _ => true) ?_).imp fun _ h => h.1, ?_, ?_, ?_, meets_ready ?_, meets_ready ?_, meets_ready ?_, meets_ready ?_, meets_ready ?_, ?_⟩ <;> decide +kernel

def wheelState : State := cState.setCore 0 { cState.core 0 with wheel := [(0, 1)] }

theorem witness_SlotWheelAccesses : (∀ i ∈ [Instr.ldsc 0 mem, .stsc 0 mem], ∃ t, Ready wheelState i 0 t
        ∧ (accessOk wheelState Ranges.noTx .load mem 8 t (fun p => open1 (enteredAt wheelState t 0 (.ldsc 0 mem)) p)
          && accessOk wheelState Ranges.noTx .store mem 8 t (fun p => open1 (enteredAt wheelState t 0 (.stsc 0 mem)) p)
          && t.c.stores.isEmpty && wheelState.flits.isEmpty) = true)
    ∧ (Sparse.get 0 (wheelState.core wheelState.cur.core).wheel (wheelState.mcc % 1024 / 64)).getLsbD (wheelState.mcc % 1024 % 64) = true :=
  ⟨all_meets (by decide +kernel), by decide⟩

theorem witness_EngineFeeding : ∀ i ∈ [Instr.start 0 true false false, .start 0 false true true, .param 0 ⟨1, 1, .simm 5⟩, .param 0 ⟨2, 1, .reg 2⟩,
    .param 0 ⟨3, 0, .zimm 5⟩, .fmtq 0 ⟨0, 1, .reg 0⟩, .fmtq 0 ⟨0, 0, .imm64 3⟩],
    ∃ t, Ready cState i 0 t ∧ (decide (t.pqT.length < 32) && decide (t.pqV.length < 32) && decide (t.pqM.length < 32) && decide (t.fq.length < 32)) = true :=
  all_meets (by decide)

/-- The partition has barrier 5 with E = 2 and one arrival to come, barrier 6 with two, sem3 = 4 and a registered collective. -/
def collDesc : BitVec 1024 := BitVec.ofNat 1024 (9 + 2 ^ 16 + 2 ^ 24 + 2 ^ 64 * 2 + 2 ^ 128 + 2 ^ 144 + 2 ^ 160 + 2 ^ 224 * 64 + 2 ^ 256 * 0x2000)

def coll0 : Coll := { addr := 0x3000, desc := collDesc, mlist := [0], issued := 1, issuedGt := 0, done := 0, applied := [], acked := [], fin := [] }

def syncState : State :=
  let s := cState
  s.setPart 0 { s.part 0 with bars := [(5, { Barrier.reset with e := 2, pending := 1, phase := 1 }), (6, { Barrier.reset with e := 2, pending := 2 })],
                              sems := [(3, 4)], colls := [coll0] }

/-- C of core 1 waits for 2 of sem3, which C of core 0 has before it; barrier 8 is armed, with its last arrival to come. -/
def waiterState : State :=
  let s := syncState.setTask 1 0 (some (let t := placeTask .c; { t with c := { t.c with wait := some { blankWait 2 with issued := true, op := .sem } } }))
  s.setPart 0 { s.part 0 with bars := (s.part 0).bars ++ [(8, { Barrier.reset with e := 2, pending := 1, arm := some 0x3000 })],
                              semq := [{ sem := 3, core := 1, bank := 0, need := 2 }] }

theorem witness_SemaphoresAndBarriers :
    (∀ i ∈ [Instr.semadd 0 ⟨3, 0, .simm 1⟩, .semset 0 ⟨3, 0, .simm 1⟩, .semwait 0 ⟨3, 0, .simm 4⟩, .binit 0 ⟨5, 0, .zimm 65535⟩, .binit 0 ⟨5, 0, .zimm 65536⟩,
      .barm 0 ⟨5, 0, .simm 0⟩, .barm 0 ⟨5, 0, .simm 0x3000⟩, .arrive 0 5, .arrive 0 6, .bwait 0 5, .arrive 0 7, .bwait 0 7],
      ∃ t, Ready syncState i 0 t ∧ (t.c.stores.isEmpty && syncState.flits.isEmpty && (syncState.part 0).semq.isEmpty
        && decide (Sparse.get 0 t.phases 5 ≠ 1)) = true)
    ∧ (∀ i ∈ [Instr.semadd 0 ⟨3, 0, .simm 1⟩, .semset 0 ⟨3, 0, .simm 1⟩, .semset 0 ⟨3, 0, .simm 2⟩, .semwait 0 ⟨3, 0, .simm 5⟩, .arrive 0 8],
        ∃ t, Ready waiterState i 0 t ∧ (t.c.stores.isEmpty && waiterState.flits.isEmpty && !timedHere waiterState) = true)
    ∧ ((waiterState.part 0).semq.map (fun w => (w.core, w.bank))).Nodup ∧ (∀ w ∈ (waiterState.part 0).semq, (w.core, w.bank) ≠ (0, waiterState.bankOf 0))
    ∧ ((waiterState.task? 1 0).bind (·.c.wait)).isSome = true ∧ (Sparse.get 0 (waiterState.part 0).sems 3).toNat < 5
    ∧ (Sparse.get Barrier.reset (waiterState.part 0).bars 8).arm = some 0x3000
    ∧ (4 : BitVec 32).toNat ≤ (Sparse.get 0 (syncState.part 0).sems 3).toNat ∧ (Sparse.get Barrier.reset (syncState.part 0).bars 7).e = 0
    ∧ (∃ c ∈ (syncState.part 0).colls, c.addr = 0x3000) := by
  refine ⟨all_meets ?_, all_meets ?_, ?_⟩ <;> decide

theorem witness_Fences : ∀ i ∈ [Instr.qfence 0 15, .fence 0 2, .fence 0 3, .rfence 0 ⟨5, 0, .simm (-1)⟩, .rfence 0 ⟨5, 1, .reg 0⟩],
    ∃ t, Ready cState i 0 t ∧ (t.c.stores.isEmpty && cState.flits.isEmpty && t.t.wait.isNone && t.t.flights.isEmpty && t.v.wait.isNone
      && t.v.flights.isEmpty && t.m.wait.isNone && t.m.flights.isEmpty) = true :=
  all_meets (by decide)

/-- C of a timetable task whose engines are held, in an untimed C, at DCC 40. -/
def timedState : State :=
  { at0 .c (fun t => { cTask t with timed := true, t := { t.t with stream := .held }, v := { t.v with stream := .held }, m := { t.m with stream := .held } })
    with mcc := 40, gt := 1000 }

theorem witness_TimeInstructions : (∀ i ∈ [Instr.rdcc 0 ⟨5, 0, .reg 0⟩, .rdgt 0 ⟨5, 0, .reg 0⟩, .waitt 0 ⟨5, 0, .zimm 1000⟩, .align 0 ⟨0, 1, .zimm 0x1E⟩],
      ∃ t, Ready { cState with gt := 1000, mcc := 7 } i 0 t)
    ∧ (∃ t, Ready { cState with gt := 1000, mcc := 7 } (.align 0 ⟨0, 1, .zimm 0x1E⟩) 0 t ∧ (!t.timed && decide ((t.c.reg 1).toNat ≤ 7)) = true)
    ∧ (∃ t, Ready timedState (.align 0 ⟨0, 1, .zimm 0xE⟩) 0 t ∧ (t.timed && decide ((t.c.reg 1).toNat < 40)) = true)
    ∧ (∃ t, Ready { timedState with mcc := 7 } (.align 0 ⟨0, 1, .zimm 0xE⟩) 0 t
        ∧ (t.timed && decide ((t.c.reg 1).toNat = 7) && t.t.stream == .held && t.v.stream == .held && t.m.stream == .held) = true) :=
  ⟨all_ready (by decide), meets_ready (by decide), meets_ready (by decide), meets_ready (by decide)⟩

/-- Tokens in the queues to and from every engine: 2 in queue (1, 0), 254 in queue (0, 1). -/
def tokState : State := at0 .c (fun t => { cTask t with tok := [(1, 254), (4, 2)] })

/-- No earlier instruction of `q` is in flight, no token is owed, and the next one completes at its issue. -/
def untouched (s : State) (q : SeqId) (t : Task) : Bool :=
  !t.timed && !t.replay && (t.seq q).flights.isEmpty && t.owed.isEmpty && complete s 0 0 q (t.seq q) s.me.nextId

theorem witness_TokensMove :
    (∃ t, Ready tokState (.sig 0 1 1) 0 t ∧ (t.c.stores.isEmpty && tokState.flits.isEmpty && t.c.flights.isEmpty && t.owed.isEmpty
        && decide (Sparse.get 0 t.tok 1 + Sparse.get 0 t.resv 1 + Sparse.get 0 t.psig 1 + 1 ≤ 255)) = true)
    ∧ (∃ t, Ready tokState (.wait 0 1 2) 0 t ∧ decide (2 ≤ Sparse.get 0 t.tok 4) = true)
    ∧ (∃ t, Ready (at0 .c id) (.nop 0) 0 t ∧ untouched (at0 .c id) .c t = true) ∧ (∃ t, Ready (at0 .t id) (.nop 0) 0 t ∧ untouched (at0 .t id) .t t = true)
    ∧ (∃ t, Ready (at0 .v id) (.nop 0) 0 t ∧ untouched (at0 .v id) .v t = true) ∧ (∃ t, Ready (at0 .m id) (.nop 0) 0 t ∧ untouched (at0 .m id) .m t = true) :=
  ⟨meets_ready (by decide), meets_ready (by decide), meets_ready (by decide), meets_ready (by decide), meets_ready (by decide), meets_ready (by decide)⟩

/-- Core 0's scratchpad with these bytes at an offset. -/
def withSpad (s : State) (off : Nat) (bs : List Byte) : State :=
  s.setCore 0 { s.core 0 with spad := putBytes (s.core 0).spad off bs }

/-- `readTask` succeeds, and what it leaves and its bytes as a number meet `p`. -/
def readsWith (s : State) (rs : Ranges) (k n a : Nat) (p : State → Nat → Bool) : Bool :=
  match readTask s rs k n a with
  | .ok r => p r.1 (leNat r.2)
  | .error _ => false

def readsAs (s : State) (rs : Ranges) (k n a : Nat) (p : Nat → Bool) : Bool := readsWith s rs k n a (fun _ => p)

/-- A descriptor of 256 bytes at 0x1000 that starts C at the bottom of task HBM, one of priority 1 in timetable mode at 0x1100 and one
without an entry at 0x1200; a partition block whose launch queue has 16 entries at 0x20000. -/
def launchState : State :=
  let s := withSpad (withSpad cState 0x1000 (leBytes 8 0x100000000000)) 0x1100 (leBytes 8 0x100000000000 ++ List.replicate 60 0 ++ leBytes 4 0x11)
  let s := withSpad (withSpad s 0x1048 (leBytes 4 1)) 0x1148 (leBytes 4 1)
  let s := { s with hbm := putBytes (putBytes s.hbm 0x4000 (leBytes 8 0x20000)) 0x4008 (leBytes 4 16) }
  s.setPart 0 { s.part 0 with block := 0x4000 }

def at1000 : COp := ⟨5, 3, .simm 0⟩

/-- The descriptor at the operand enters the launch queue and reads back from it; `f` holds of it. -/
def enters (s : State) (o : COp) (t : Task) (f : BitVec 2048 → Bool) : Bool :=
  readsWith (enteredAt s t 0 (.launch 0 o)) Ranges.noTx 64 4 (addrC t.c o) (fun e img =>
    let d := BitVec.ofNat 2048 img
    let tail := blk e 0 16 4
    let len := blk e 0 8 4
    let queue := blk e 0 0 8
    let slot := queue + 256 * (tail % max 1 len)
    let s2 := setBlk (partStore (noteSubmit e) slot (leBytes 256 d.toNat)) 0 16 4 (tail + 1)
    lqRoom e 0 && blk s2 0 12 4 == tail && blk s2 0 16 4 == tail + 1 && blk s2 0 8 4 == len && blk s2 0 0 8 == queue
      && BitVec.ofNat 2048 (partNat s2 slot 256) == d && (s.part 0).lqOwn.isEmpty && cpFree (s.part 0) && (childPool e 0 t.launch).isSome && f d)

def quietC (s : State) (t : Task) : Bool := t.c.stores.isEmpty && s.flits.isEmpty

/-- A launch in the partition's list. -/
def launchOf (id prio : Nat) (stage : LStage) : Launch :=
  { id := id, desc := BitVec.ofNat 2048 (0x100000000000 + 2 ^ (8 * 68 + 4) * prio + 2 ^ (8 * 72)), stage := stage, status := 0, child := false, parent := 0, pool := 0, cbase := 0, slot := 0,
    dccStart := 0, dccEnd := 0, ovlp := false, keychg := false, preempted := false, hostEnded := false, extents := [], coresStarted := [], ranksOver := [],
    ready := [(0, 1)], toRead := [], digest := none }

/-- The command processor is busy with an accepted launch: an entry of LAUNCH waits in the queue. -/
def cpBusy : State := launchState.setPart 0 { launchState.part 0 with launches := [launchOf 1 0 .accepted] }

/-- Both banks of core 0 are taken, and a launch of priority 1 is ready. -/
def busyState : State :=
  let s := cState.setTask 0 1 (some (placeTask .c))
  s.setPart 0 { s.part 0 with launches := [{ launchOf 1 0 .started with coresStarted := [0] }, launchOf 2 1 .prepared], nextId := 3 }

def idleEngines (t : Task) : Bool := [t.t, t.v, t.m].all (fun u => u.prog.isNone && u.wait.isNone && u.flights.isEmpty)

theorem witness_LaunchAndYield :
    (∀ i ∈ [Instr.launch 0 at1000, .child 0 at1000], ∃ t, Ready launchState i 0 t ∧ quietC launchState t = true)
    ∧ (∃ t, Ready launchState (.launch 0 at1000) 0 t ∧ enters launchState at1000 t (fun d => descOk d (dF d 48 8) t.priv && !dTimed d) = true)
    ∧ (∃ t, Ready launchState (.launch 0 ⟨5, 3, .simm 0x100⟩) 0 t
        ∧ enters launchState ⟨5, 3, .simm 0x100⟩ t (fun d => descOk d (dF d 48 8) t.priv && dTimed d && !timetableOk launchState 0) = true)
    ∧ (∃ t, Ready launchState (.launch 0 ⟨5, 3, .simm 0x200⟩) 0 t ∧ enters launchState ⟨5, 3, .simm 0x200⟩ t (fun d => !descOk d (dF d 48 8) t.priv) = true)
    ∧ (∃ t, Ready cState (.launch 0 at1000) 0 t ∧ readsWith (enteredAt cState t 0 (.launch 0 at1000)) Ranges.noTx 64 4 (addrC t.c at1000) (fun e _ => !lqRoom e 0) = true)
    ∧ (∃ t, Ready cpBusy (.launch 0 at1000) 0 t ∧ readsWith (enteredAt cpBusy t 0 (.launch 0 at1000)) Ranges.noTx 64 4 (addrC t.c at1000) (fun e img =>
        lqRoom e 0 && ((lqOwnOf ((enterQueue (noteSubmit e) 0 0 0 t.launch t.priv (BitVec.ofNat 2048 img)).part 0) 0 0 (blk e 0 16 4)).bind (·.result)).isNone) = true)
    ∧ (∃ t, Ready cState (.yield 0 ⟨5, 1, .zimm 8⟩) 0 t ∧ (idleEngines t && (higherReady cState 0 0 t).isNone) = true)
    ∧ (∃ t, Ready busyState (.yield 0 ⟨5, 1, .zimm 8⟩) 0 t ∧ (idleEngines t && (higherReady busyState 0 0 t).isSome && queuesEmpty t && quietC busyState t) = true)
    ∧ (launchState.part 0).subMcc ≠ launchState.mcc + 1 := by
  refine ⟨all_meets ?_, meets_ready ?_, meets_ready ?_, meets_ready ?_, meets_ready ?_, meets_ready ?_, meets_ready ?_, meets_ready ?_, ?_⟩ <;> decide +kernel

/-- CSR numbers at the ends of each range of R288. -/
def readNums : List (BitVec 32) := [0, 1, 2, 3, 4, 5, 6, 7, 8, 9, 0x010, 0x01F, 0x020, 0x05F, 0x100, 0x109, 0x140, 0x14F, 0x150]
def writeNums : List (BitVec 32) := [5, 0, 1, 2, 0x100, 0x101, 0x105, 0x106, 0x107, 0x108, 0x109, 0x10A, 0x10B, 0x10C, 0x10D, 0x10E, 0x10F, 0x110, 0x117, 0x118, 0x11F, 0x120, 0x12F,
  0x130, 0x13F, 0x140, 0x14F, 0x150]

/-- s6 rings the doorbell of the free slot 0 of the trap queue. -/
def bellState : State := at0 .c (fun t => { cTask t with c := { (cTask t).c with regs := [(6, 2 ^ 47)] } })
def discState : State := { cState with timedisc := true }

theorem witness_CsrAccesses : (∀ n ∈ readNums, ∃ t, Ready cState (.csrr 0 ⟨5, 0, .zimm n⟩) 0 t) ∧ (∀ n ∈ writeNums, ∃ t, Ready cState (.csrw 0 ⟨5, 1, .zimm n⟩) 0 t)
    ∧ (∃ t, Ready cState (.setkey 0 ⟨7, 4, .reg 0⟩) 0 t) ∧ (∃ t, Ready discState (.csrw 0 ⟨5, 1, .zimm 0x106⟩) 0 t)
    ∧ (∃ t, Ready bellState (.csrw 0 ⟨5, 6, .zimm 0x150⟩) 0 t
        ∧ (let e := enteredAt bellState t 0 (.csrw 0 ⟨5, 6, .zimm 0x150⟩)
           let s1 := doorbell e 0 0
           (t.c.reg 6).getLsbD 47 && s1.bankOf 0 == bellState.bankOf 0 && s1.task? 0 0 == some e.here) = true)
    ∧ csrScope 0x10A = .module ∧ csrScope 2 = .task ∧ cState.timedisc = false := by
  refine ⟨fun n hn => ?_, fun n hn => ?_, (meets_ready (p := fun _ => true) ?_).imp fun _ h => h.1, (meets_ready (p := fun _ => true) ?_).imp fun _ h => h.1, meets_ready ?_, ?_⟩
  · exact (meets_ready (List.all_eq_true.mp (show readNums.all (fun n => meets cState (.csrr 0 ⟨5, 0, .zimm n⟩) (fun _ => true)) = true by decide +kernel) n hn)).imp fun _ h => h.1
  · exact (meets_ready (List.all_eq_true.mp (show writeNums.all (fun n => meets cState (.csrw 0 ⟨5, 1, .zimm n⟩) (fun _ => true)) = true by decide +kernel) n hn)).imp fun _ h => h.1
  all_goals decide +kernel

theorem witness_TrapEntry : cState.task? 0 0 = some (cTask (placeTask .c)) ∧ freeSlot (cState.part 0) = some 0
    ∧ ([(cTask (placeTask .c)).c, (cTask (placeTask .c)).t, (cTask (placeTask .c)).v, (cTask (placeTask .c)).m].all (fun u => u.stores.isEmpty)) = true
    ∧ (∀ c ∈ [Cause.software, .stall, .schedMiss, .preempt], ∀ q ∈ [0, 3], trapHeld cState 0 0 (cTask (placeTask .c)) q c = false)
    ∧ (cTask (placeTask .c)).late = none ∧ (cTask (placeTask .c)).cutting = false
    ∧ cState.flits = [] ∧ cState.poison = [] ∧ cState.errs = [] ∧ (cTask (placeTask .c)).c.stream = .running ∧ lateBelow cState 0 512 = false ∧ cState.populated (tqBase cState (cState.part 0) + 128 * 0) 128 = true := by
  decide

theorem witness_SoftwareTrapAndHalt : (∀ i ∈ [Instr.trap 0 42, .trap 0 16383, .halt 0], ∃ t, Ready cState i 0 t
        ∧ (t.late.isNone && !t.cutting && [t.c, t.t, t.v, t.m].all (fun u => u.stores.isEmpty && u.prog.isNone)) = true) ∧ timedHere cState = false ∧ lateBelow cState 0 512 = false
    ∧ (∃ t, Ready loadTimed (.trap 0 42) 0 t ∧ timedHere loadTimed = true) :=
  ⟨all_meets (by decide +kernel), by decide +kernel, by decide +kernel, meets_ready (p := fun _ => timedHere loadTimed) (by decide +kernel)⟩

def userState : State := at0 .c (fun t => { cTask t with priv := false })

theorem witness_PrivilegedForms : mayIssue userState = true ∧ userState.cur.q = .c ∧ userState.here.priv = false := by decide +kernel

/-- What `Resumes` asks for, as a check. -/
def resumes (s : State) (i : Instr) : Bool :=
  decide (mayIssue s = true ∧ inSpace s.cur.q i = true ∧ (instrPrivileged i = true → s.here.priv = true) ∧ fieldsOk i = true ∧ modeOk s.here.timed s.cur.q 0 i = true)
    && s.me.wait.any (·.issued)

theorem resumes_of {s : State} {i : Instr} (h : resumes s i = true) : ∃ w, Resumes s i 0 w := by
  have h := (Bool.and_eq_true _ _).mp h
  have k := of_decide_eq_true h.1
  have w := (Option.any_eq_true _ _).mp h.2
  exact w.imp fun w hw => { turn := k.1, waiting := hw.1, issued := hw.2, space := k.2.1, mode := k.2.2.1, fields := k.2.2.2.1, syn := k.2.2.2.2 }

/-- The state with C in the waiting phase of an issued instruction. -/
def waits (s : State) (op : OpProg) : State := s.setMe { s.me with wait := some { blankWait 7 with issued := true, op := op } }

/-- The next instance of the registered collective goes out; `f` holds of the state before its first packet. -/
def issuesColl (s : State) (t : Task) (f : State → Bool) : Bool :=
  let e := enteredAt s t 0 (.coll 0 ⟨5, 0, .simm 0x3000⟩)
  match collTry e 0 0 e.here ownReader 0x3000 with
  | .go s0 g => g == 1 && t.c.early.isEmpty && f s0
  | _ => false

/-- `f` of the state after the first packet, where one may depart. -/
def afterPacket (s0 : State) (f : State → Bool) : Bool :=
  match sendIndex s0 0 0x3000 1 with
  | some n => (match sendPorts s0 0 n with | port :: _ => f (departPacket s0 0 n port) | [] => f s0)
  | none => f s0

/-- A slot on each port of the set of the collective, and the ports ready. -/
def linkState : State := { syncState with ready := syncState.ready ||| 0x3FFC0#64, slotMask := (List.range 256).map (fun k => (k, (1 : Word))) }

theorem witness_Collectives :
    (∃ t, Ready syncState (.coll 0 ⟨5, 0, .simm 0x3000⟩) 0 t ∧ issuesColl syncState t (fun s0 => afterPacket s0 (fun s1 => (sendIndex s1 0 0x3000 1).isSome)) = true)
    ∧ (∃ t, Ready linkState (.coll 0 ⟨5, 0, .simm 0x3000⟩) 0 t ∧ issuesColl linkState t (fun s0 => afterPacket s0 (fun s1 => (sendIndex s1 0 0x3000 1).isNone)) = true)
    ∧ (∃ w, Resumes (waits syncState (.collSend 0x3000 0)) (.coll 0 ⟨5, 0, .simm 0x3000⟩) 0 w)
    ∧ (∀ i ∈ [Instr.collw 0 ⟨5, 0, .simm 0x3000⟩, .collwRetire 0 ⟨5, 0, .zimm 0x3000⟩], ∃ t, Ready syncState i 0 t)
    ∧ sendIndex syncState 0 0x3000 0 = none ∧ (syncState.part 0).coll? 0x3000 = some coll0 ∧ (syncState.part 0).coll? 0x3080 = none
    ∧ coll0.done < coll0.issued ∧ (cExpect coll0.desc - 0) + (cBlocks coll0.desc - 0) = 2
    ∧ coll0.issuedGt + ((syncState.part 0).csrVal 0x103).toNat ≤ ({ syncState with gt := 100000 } : State).gt := by
  refine ⟨meets_ready ?_, meets_ready ?_, resumes_of ?_, all_ready ?_, ?_⟩ <;> decide +kernel

/-- The sorus is enabled for partition 0, of which module 0 is a member; step 1 is complete, steps below 1 are gone. -/
def stepDone : SorStep :=
  { step := 1, openGt := 0, mem := 1, sealer := some 0, complete := true, sealSent := true, asked := [], recoverGt := 0, recovering := false, notRet := false, held := [] }

def sorState : State :=
  { cState with sorus := { Sorus.reset with cfg := 0x80000000#64, mem := 1, first := 1, last := 0, steps := [stepDone] } }

def sporeForms : List Instr := [.spore 0 at1000, .sorw 0 ⟨5, 0, .simm 1⟩, .sorw 0 ⟨5, 0, .simm 65⟩, .sorw 0 ⟨5, 0, .simm 0⟩]
def spores : State := withSpad sorState 0x1008 (leBytes 4 2)

theorem witness_SporeAndSorw : (∀ i ∈ sporeForms, ∃ t, Ready sorState i 0 t) ∧ (∀ i ∈ sporeForms, ∃ t, Ready cState i 0 t)
    ∧ (∃ t, Ready spores (.spore 0 at1000) 0 t ∧ readsWith (enteredAt spores t 0 (.spore 0 at1000)) Ranges.ownHbm 32 1 (addrC t.c at1000) (fun e n =>
        let s1 := agentSend { e with sorus := { e.sorus with spored := e.sorus.spored ++ [2] } } (slotOff 2 0) (sporeImage spores n)
        bits n 120 8 == 0 && bits n 64 32 == 2 && (sorusFull e).isNone && !spores.sorus.spored.contains 2 && s1.flits.all (fun f => decide (f.id < spores.nextFlit) || f.departed)) = true)
    ∧ readsAs (withSpad sorState 0x100F [1]) Ranges.ownHbm 32 1 0x1000 (fun n => bits n 120 8 != 0) = true
    ∧ (∃ w, Resumes (waits sorState (.spore [7])) (.spore 0 at1000) 0 w) ∧ sorState.flits = []
    ∧ sorusMine sorState = true ∧ sorusMine cState = false ∧ sorState.errs = []
    ∧ sorState.sorus.openable 2 = true ∧ sorState.sorus.openable 65 = false ∧ (memOf sorState 2).getLsbD sorState.modNum = true
    ∧ sorState.sorus.lastPlus1 + 64 ≤ 65 ∧ sorState.sorus.gone 0 = true ∧ sorState.sorus.gone 1 = false ∧ sorState.sorus.step? 1 = some stepDone := by
  refine ⟨all_ready ?_, all_ready ?_, meets_ready ?_, ?_, resumes_of ?_, ?_⟩ <;> decide +kernel

/-- A domain of two modules, module 1 in the fabric group, port 0 ready, slot set 1 with a slot. -/
def pairState : State :=
  let s := { cState with domshape := 0x112, ready := cState.ready ||| 0x40#64, slotMask := [(48, 1)] }
  s.setPart 0 { s.part 0 with csr := [(0x118, 3)] }

def rxDesc : Nat := 5 + 2 ^ 15 + 2 ^ 16 * 12 + 2 ^ 64 * 0x7000
def txDesc : Nat := 3 + 2 ^ 16 * 12 + 2 ^ 40 + 2 ^ 48 * 4 + 2 ^ 64 * 0x100000000 + 2 ^ 176 * 7 + 2 ^ 192 + 2 ^ 256 * 0x1800
/-- The same with a size that is no window's, and with a member outside the domain. -/
def badDesc : Nat := 5 + 2 ^ 15 + 2 ^ 16 * 11
def farDesc : Nat := txDesc + 2 ^ 256 * 0x100

def wmapState : State :=
  withSpad (withSpad (withSpad (withSpad (withSpad (withSpad pairState 0x1000 (leBytes 64 rxDesc)) 0x1040 (leBytes 64 txDesc)) 0x1080 (leBytes 64 badDesc))
    0x10C0 (leBytes 64 farDesc)) 0x1800 (leBytes 2 1)) 0x1900 (leBytes 2 9)

/-- LOOP 1 with a receive window that does not exist. -/
def loopDesc : Nat := txDesc + 2 ^ 24

def listOf (s : State) (d : Nat) : List Nat := match readMembers s (wCount d) (wList d) with | .ok l => l.2 | .error _ => []

def rxOf (state : Nat) : RxWin := { RxWin.free with state := state, part := 0, lbase := 0x7000, size := 4096, epoch := 1 }

def wmapAt (off : Nat) : Instr := .wmap 0 ⟨5, 3, .simm (BitVec.ofNat 32 off)⟩
def askedTx (g r : Nat) : TxWin := { txW with granted := BitVec.ofNat 64 g, refused := BitVec.ofNat 64 r, members := [1, 2] }

theorem witness_WindowMapping :
    (∀ i ∈ [wmapAt 0, wmapAt 0x40, wmapAt 0x80, wmapAt 0xC0], ∃ t, Ready wmapState i 0 t)
    ∧ (∃ w, Resumes (waits (wmapState.setTx 3 { txW with mapped := false, asker := 1 }) (.wmap 3)) (wmapAt 0x40) 0 w)
    ∧ readsAs wmapState Ranges.noTx 64 1 0x1000 (· == rxDesc) = true ∧ readsAs wmapState Ranges.noTx 64 1 0x1040 (· == txDesc) = true
    ∧ wmapHead wmapState 0 rxDesc = none ∧ wmapCheck wmapState 0 rxDesc (listOf wmapState rxDesc) = none
    ∧ wmapHead (wmapState.setRx 5 (rxOf 2)) 0 rxDesc = none ∧ (rxOf 2).size = 2 ^ wLog rxDesc
    ∧ (let s := wmapState.setRx 5 { rxOf 2 with size := 8192 }; wmapHead s 0 rxDesc = none ∧ wmapCheck s 0 rxDesc (listOf s rxDesc) = none ∧ (s.rxWin 5).size ≠ 2 ^ wLog rxDesc)
    ∧ wLoop loopDesc ≠ 0 ∧ wmapHead wmapState 0 loopDesc = none ∧ listOf wmapState loopDesc = [1] ∧ (wmapState.rxWin (wRx loopDesc)).state = 0
    ∧ wmapCheck wmapState 0 loopDesc [1] = some (winStatus 4 0xFF)
    ∧ wmapHead wmapState 0 txDesc = none ∧ listOf wmapState txDesc = [1] ∧ wmapCheck wmapState 0 txDesc [1] = none
    ∧ wmapHead (wmapState.setRx 5 (rxOf 1)) 0 rxDesc = some 1 ∧ (wmapState.setTx 3 txW).txWin 3 ≠ TxWin.free
    ∧ wLog badDesc < 12 ∧ (wmapHead wmapState 0 badDesc).isSome = true ∧ wmapCheck wmapState 0 farDesc (listOf wmapState farDesc) = some (winStatus 3 0)
    ∧ inDomain { wmapState with slotMask := [] } 1 = true ∧ exitPorts { wmapState with slotMask := [] } 1 1 = [] ∧ timedHere wmapState = false
    ∧ txW.granted = txW.mask
    ∧ (let x := askedTx 1 2; x.granted.getLsbD 0 = true ∧ x.granted.getLsbD 1 = false ∧ x.mask &&& ~~~(x.granted ||| x.refused) = 0 ∧ x.refused.getLsbD 1 = true ∧ x.members.length ≤ 64)
    ∧ (let x := askedTx 1 0; x.askedGt + 10000 ≤ 10000 ∧ x.refused.getLsbD 1 = false ∧ x.granted.getLsbD 1 = false) := by
  refine ⟨all_ready ?_, resumes_of ?_, ?_⟩ <;> decide +kernel

def mappedState : State := (withSpad cState 0x1000 (leBytes 8 5)).setRx 5 (rxOf 1) |>.setTx 3 txW

def wunmapOf (k : Nat) : Instr := .wunmap 0 ⟨5, 0, .simm (BitVec.ofNat 32 k)⟩

theorem witness_WindowEnds :
    (∀ i ∈ [wunmapOf 3, wunmapOf 1023, wunmapOf 1029, wunmapOf 2047, wunmapOf 2048, .lrecall 0 at1000], ∃ t, Ready mappedState i 0 t)
    ∧ (∃ t, Ready mappedState (.lrecall 0 at1000) 0 t
        ∧ readsWith (enteredAt mappedState t 0 (.lrecall 0 at1000)) Ranges.noTx 128 1 0x1000 (fun e n => n % 2 ^ 512 == 5 && passes e Ranges.noTx .store ⟨5, 3, .simm 64⟩ 64 t) = true)
    ∧ (∃ w, Resumes (waits mappedState (.recall 5 0x1000 true)) (wunmapOf 1029) 0 w) ∧ (∃ w, Resumes (waits mappedState (.recall 5 0x1000 false)) (.lrecall 0 at1000) 0 w)
    ∧ (mappedState.txWin 3).mapped = true ∧ mappedState.flits = [] ∧ (mappedState.txWin 1023).mapped = false ∧ (mappedState.rxWin 1023).state = 0
    ∧ (mappedState.rxWin 5).state = 1 ∧ (mappedState.rxWin 5).leases = [] ∧ (mappedState.rxWin 5).recallGt = 0 := by
  refine ⟨all_ready ?_, meets_ready ?_, resumes_of ?_, resumes_of ?_, ?_⟩ <;> decide +kernel

/-- One token of 16 bytes at 0x2000 for expert 0 of two, whose window has one member; MAP at 0x4200. Every access has a bank of its own. -/
def a2aOver (w : TxWin) : State :=
  let d := 2 ^ 16 * 16 + 2 ^ 32 * 1 + 2 ^ 64 * 0x2000 + 2 ^ 128 * 0x2800 + 2 ^ 192 * 0x3100 + 2 ^ 256 * 0x4200
  withSpad (withSpad (cState.setTx 3 w) 0x1000 (leBytes 64 d)) 0x3100 (leBytes 8 (3 + 2 ^ 16 * 2))

def a2aDead : State := a2aOver { txW with dead := 1 }
def a2aLive : State := a2aOver txW

/-- Every store of A2A goes; afterwards some of them have yet to depart, or none. -/
def a2aRuns (s : State) (t : Task) (left : Bool) : Bool :=
  match a2aPlan (enteredAt s t 0 (.a2a 0 at1000)) (.a2a 0 at1000) 0x1000 with
  | .ok x => (match a2aSends x.stores x.state with | some s1 => s1.undeparted 0 0 .c s.me.nextId == left | none => false)
  | .error _ => false

theorem witness_AllToAll : (∃ t, Ready a2aDead (.a2a 0 at1000) 0 t ∧ a2aRuns a2aDead t false = true) ∧ (∃ t, Ready a2aLive (.a2a 0 at1000) 0 t ∧ a2aRuns a2aLive t true = true)
    ∧ (∃ w, Resumes (waits a2aDead (.status 0)) (.a2a 0 at1000) 0 w) ∧ timedHere a2aLive = false
    ∧ (∀ d ∈ [0, 2 ^ 32 - 1], d < [Expert.mk 3 2 0].length ∨ d = 2 ^ 32 - 1) := by
  refine ⟨meets_ready ?_, meets_ready ?_, resumes_of ?_, ?_⟩ <;> decide +kernel

/-- R258: three tokens for expert 0 of capacity 1, with the fallback expert 1 of capacity 1: the first, the second to the fallback, the third nowhere. -/
theorem test_routing : (let r := routeAll [⟨3, 1, 1⟩, ⟨4, 1, 0xFF⟩] true [0, 0, 0]
    r.map == [some 0, some 1, none] && r.drops == 1 && r.falls == 1) = true := by decide +kernel

/-! ### The common group -/

def qTask (t : Task) : Task := { t with pqT := [1, 2], pqV := [3, 4], pqM := [5], fq := [6, 7, 8] }

def noBad (t : Task) : Bool := t.bad.isEmpty

theorem witness_CommonGroup :
    (∀ i ∈ [Instr.nop 0, .idle 0 16383, .jmp 0 (-39), .bnzd 0 (.s 1) 4], ∃ t, Ready cState i 0 t)
    ∧ (∀ i ∈ [Instr.nop 0, .idle 0 0, .jmp 0 5, .bnzd 0 (.x 31) 4, .xadd 0 ⟨3, 1, 0, 5⟩, .pop 0 4], ∃ t, Ready (at0 .t qTask) i 0 t ∧ (!t.pqT.isEmpty && noBad t) = true)
    ∧ (∀ i ∈ [Instr.nop 0, .pop 0 4], ∃ t, Ready (at0 .v qTask) i 0 t ∧ ((t.pqV[t.heldTaken]?).isSome && noBad t) = true)
    ∧ (∀ i ∈ [Instr.nop 0, .pop 0 4], ∃ t, Ready (at0 .m qTask) i 0 t ∧ (!t.pqM.isEmpty && noBad t) = true)
    ∧ (∃ t, Ready (at0 .t (fun t => { qTask t with bad := [.pq 1 0] })) (.pop 0 4) 0 t ∧ ((popEntry t .t).isSome && t.bad.contains (.pq 1 0)) = true)
    ∧ (∃ t, Ready (at0 .v (fun t => { qTask t with bad := [.pq 2 0] })) (.pop 0 4) 0 t ∧ ((popEntry t .v).isSome && t.bad.contains (.pq 2 t.heldTaken)) = true) := by
  refine ⟨all_ready ?_, all_meets ?_, all_meets ?_, all_meets ?_, meets_ready ?_, meets_ready ?_⟩ <;> decide +kernel

def marks : List Instr := [.region 0, .endStream 0]

theorem witness_RegionAndEnd :
    (∀ i ∈ marks, ∃ t, Ready (at0 .c id) i 0 t ∧ t.c.flights.isEmpty = true) ∧ (∀ i ∈ marks, ∃ t, Ready (at0 .t id) i 0 t ∧ (t.t.flights.isEmpty && !t.timed) = true)
    ∧ (∀ i ∈ marks, ∃ t, Ready (at0 .v id) i 0 t ∧ (t.v.flights.isEmpty && !t.replay) = true) ∧ (∀ i ∈ marks, ∃ t, Ready (at0 .m id) i 0 t ∧ t.m.flights.isEmpty = true)
    ∧ (∃ t, Ready (at0 .v (fun t => { t with replay := true, atRegion := true })) (.region 0) 0 t ∧ (t.replay && t.atRegion) = true)
    ∧ (∃ t, Ready (at0 .c (fun t => { t with t := { t.t with stream := .running } })) (.endStream 0) 0 t ∧ (t.t.stream == .running) = true)
    ∧ (let s := at0 .t (fun t => { t with timed := true }); mayIssue s = true ∧ s.here.timed = true ∧ s.me.armed = false) := by
  refine ⟨all_meets ?_, all_meets ?_, all_meets ?_, all_meets ?_, meets_ready ?_, meets_ready ?_, ?_⟩ <;> decide +kernel

/-! ### Vector -/

/-- A task of V with VLM1 = 255, two registers, and addresses in x1 to x3. -/
def vTask (t : Task) : Task :=
  { t with vl := 255, vreg := [(8, 0x40000000), (9, 0x3F8000003F800000)], kreg := [(6, 0x3F000000)], v := { t.v with regs := [(1, 0x2000), (2, 0x800), (3, 64)] } }

def vState : State := at0 .v vTask
/-- VCSR with B8P 4. -/
def v8State : State := at0 .v (fun t => { vTask t with vcsr := 0x4000 })

def vop (ty opx : Nat) (b : VSrc) : VOp := ⟨0, 2, 8, BitVec.ofNat 4 ty, 0, BitVec.ofNat 4 opx, b⟩
/-- The same without a first operand. -/
def vop1 (ty opx : Nat) (b : VSrc) : VOp := ⟨0, 2, 0, BitVec.ofNat 4 ty, 0, BitVec.ofNat 4 opx, b⟩

/-- The sources of an instruction of V are free of errors, and they hold a register in error. -/
def clean (i : Instr) (t : Task) : Bool := !readsBad t (vSources t i)
def errored (i : Instr) (t : Task) : Bool := readsBad t (vSources t i)
/-- v9 holds a word with two bits in error, in its first lanes. -/
def vBad : State := at0 .v (fun t => { vTask t with bad := [.v 9 0] })

theorem witness_VectorFloat :
    (∀ i ∈ [Instr.vadd 0 (vop 0 0 (.reg 9)), .vsub 0 (vop 1 0 (.reg 9)), .vmul 0 (vop 2 0 (.kbank 6)), .vfma 0 (vop 0 0 (.lit 0x3F800000)), .vfms 0 (vop 0 0 (.reg 9)),
      .vdiv 0 (vop 0 0 (.reg 9)), .vsqrt 0 (vop1 0 0 (.reg 9)), .vrcp 0 (vop1 0 0 (.reg 9)), .vrsq 0 (vop1 0 0 (.reg 9)), .vexp2 0 (vop1 0 0 (.reg 9)),
      .vlog2 0 (vop1 0 0 (.reg 9)), .vmin 0 (vop 0 0 (.reg 9)), .vmax 0 (vop 0 0 (.reg 9)), .vabs 0 (vop1 0 0 (.reg 9)), .vneg 0 (vop1 0 0 (.reg 9)),
      .vmov 0 (vop1 0 0 (.imm20 0x3F800)), .vmov 0 (vop1 3 0 (.reg 9))], ∃ t, Ready vState i 0 t ∧ clean i t = true)
    ∧ (∃ t, Ready vBad (.vadd 0 (vop 0 0 (.reg 9))) 0 t ∧ errored (.vadd 0 (vop 0 0 (.reg 9))) t = true)
    ∧ (∃ t, Ready v8State (.vmov 0 (vop1 3 0 (.reg 9))) 0 t ∧ (isB8 3 && b8p t != 0) = true)
    ∧ (∃ t, Ready vState (.vmov 0 (vop1 3 0 (.reg 9))) 0 t ∧ (isB8 3 && b8p t == 0) = true) := by
  refine ⟨all_meets_each ?_, meets_ready ?_, meets_ready ?_, meets_ready ?_⟩ <;> decide +kernel

theorem witness_VectorInteger : ∀ i ∈ [Instr.viadd 0 (vop 5 1 (.reg 9)), .visub 0 (vop 6 0 (.reg 9)), .vimul 0 (vop 7 1 (.reg 9)), .vand 0 (vop 8 0 (.reg 9)),
    .vor 0 (vop 9 0 (.kbank 6)), .vxor 0 (vop 0 0 (.imm20 5)), .vshl 0 (vop 5 0 (.reg 9)), .vshr 0 (vop 7 0 (.reg 9)), .vsra 0 (vop 6 0 (.lit 0xFFFF)),
    .vimin 0 (vop 5 0 (.reg 9)), .vimax 0 (vop 8 0 (.reg 9))], ∃ t, Ready vState i 0 t ∧ clean i t = true :=
  all_meets_each (by decide +kernel)

theorem witness_VectorPredicates : ∀ i ∈ [Instr.pand 0 2 1 3, .por 0 15 1 3, .pxor 0 0 1 3, .pnot 0 2 1, .pset 0 2 1, .pset 0 2 0, .pcnt 0 5 1,
    .vsel 0 (vop 0 3 (.reg 9)), .vcmp 0 ⟨0, 0x023, 8, 0, 0, 0, .reg 9⟩, .vcmp 0 ⟨0, 0x061, 8, 1, 0, 0, .reg 9⟩, .vcmp 0 ⟨0, 0x201, 8, 0, 0, 0, .imm20 5⟩], ∃ t, Ready vState i 0 t ∧ clean i t = true :=
  all_meets_each (by decide +kernel)

theorem witness_VectorConversions :
    (∀ i ∈ [Instr.vcvt 0 ⟨0, 20, 0, 1, 0, 0, .reg 30⟩, .vcvt 0 ⟨0, 20, 0, 5, 0, 6, .reg 30⟩, .vqnt 0 ⟨0, 12, 40, 7, 1, 5, .reg 8⟩, .vdqnt 0 ⟨0, 12, 40, 7, 0, 5, .reg 8⟩,
      .vsrnd 0 ⟨0, 2, 0, 1, 0, 0, .reg 9⟩], ∃ t, Ready vState i 0 t ∧ clean i t = true)
    ∧ (∃ t, Ready v8State (.vcvt 0 ⟨0, 20, 0, 3, 0, 0, .reg 28⟩) 0 t ∧ (isB8 3 && b8p t != 0) = true) :=
  ⟨all_meets_each (by decide +kernel), meets_ready (by decide +kernel)⟩

theorem witness_VectorReductions : ∀ i ∈ [Instr.vrsum 0 (vop1 0 0 (.reg 9)), .vrmax 0 (vop1 6 0 (.reg 9)), .vrmin 0 (vop1 1 0 (.reg 9)), .vdot 0 (vop 0 0 (.reg 9)),
    .vperm 0 (vop 0 0 (.reg 9)), .vslide 0 (vop 0 0 (.reg 32)), .vslide 0 (vop 0 0 (.reg 1023)), .vbcast 0 (vop 0 0 (.reg 63)), .vzip 0 (vop 0 1 (.reg 9)), .vunzip 0 (vop 7 1 (.reg 9))],
    ∃ t, Ready vState i 0 t ∧ clean i t = true :=
  all_meets_each (by decide +kernel)

/-- The element accesses of a list, checked. -/
def eachOk (s : State) (rs : Ranges) (k : AccKind) (w : Nat) (l : List (Nat × Nat)) : Bool :=
  match checkEach s rs k w l with | .ok _ => true | .error _ => false

def two (xa vb opx : Nat) : VMemForm := .two ⟨0, 7, BitVec.ofNat 5 xa, BitVec.ofNat 10 vb, 0, BitVec.ofNat 4 opx⟩
def strides (base step : Nat) (t : Task) : List (Nat × Nat) := (selElems t 0 4).map (fun e => (e, base + e * step))

theorem witness_VectorLoads :
    (∀ i ∈ [Instr.vld 0 (two 1 2 0), .vlds 0 (two 1 2 3), .vgath 0 (two 1 9 0), .kld 0 ⟨0, 0, 1, 255, 0, 0⟩], ∃ t, Ready vState i 0 t)
    ∧ (∃ t, Ready vState (.vld 0 (two 1 2 0)) 0 t ∧ (match checkAccess vState 0 t Ranges.noTx .load 0x2200 256 256 with | .ok _ => true | _ => false) = true)
    ∧ (∃ t, Ready vState (.vlds 0 (two 1 2 3)) 0 t ∧ eachOk vState Ranges.noTx .load 4 (strides 0x2008 64 t) = true)
    ∧ (∃ t, Ready vState (.vgath 0 (two 1 8 0)) 0 t ∧ (!readsBad t [.v (physV t 8)] && eachOk vState Ranges.noTx .load 4 (strides 0x2000 0 t)) = true)
    ∧ (∃ t, Ready vBad (.vgath 0 (two 1 9 0)) 0 t ∧ readsBad t [.v (physV t 9)] = true)
    ∧ eachOk vState Ranges.noTx .load 4 ((List.range 256).map (fun k => (k, 0x2000 + 4 * k))) = true ∧ timedHere vState = false := by
  refine ⟨all_ready ?_, meets_ready ?_, meets_ready ?_, meets_ready ?_, meets_ready ?_, ?_⟩ <;> decide +kernel

theorem witness_VectorStores :
    (∀ i ∈ [Instr.vst 0 (two 1 2 0), .vsts 0 (two 1 2 3), .vscat 0 (two 1 9 0)], ∃ t, Ready vState i 0 t ∧ (!readsBad t [.v (physV t 7), .v (physV t 9)]) = true)
    ∧ (∃ t, Ready vState (.vst 0 (two 1 2 0)) 0 t
        ∧ (match checkAccess vState 0 t Ranges.all .store 0x2200 256 256 with
          | .ok p => (blockUnits p (List.replicate 256 (some 0))).all (fun u => notWindow u.1 && portMet vState u.1) | _ => false) = true)
    ∧ (∃ t, Ready vState (.vsts 0 (two 1 2 3)) 0 t ∧ eachOk vState Ranges.all .store 4 (strides 0x2008 64 t) = true)
    ∧ (∃ t, Ready (vState.setTx 3 txW) (.vsts 0 (two 1 2 3)) 0 t
        ∧ (match sendAll (enteredAt (vState.setTx 3 txW) t 0 (.vsts 0 (two 1 2 3))) [(Place.tx 0x100000040, [some 1])] with | .ok s1 => s1.flits.length == 1 | _ => false) = true) := by
  refine ⟨all_meets ?_, meets_ready ?_, meets_ready ?_, meets_ready ?_⟩ <;> decide +kernel

theorem witness_VectorControl : ∀ i ∈ [Instr.vsetvl 0 255, .vsetvlReg 0 4 1 2 7, .vsetvlReg 0 0 1 2 3, .rotset 0 0, .rotset 0 64, .loopv 0 4 (-24)], ∃ t, Ready vState i 0 t :=
  all_ready (by decide +kernel)

theorem witness_VectorDraws : ∀ i ∈ [Instr.vz 0 (.two ⟨0, 12, 2, 3, 5, 0, 0, true, 1⟩), .vzacc 0 (.two ⟨0, 12, 0, 3, 5, 1, 3, false, 0⟩), .vunif 0 (.two ⟨0, 12, 0, 3, 5, 2, 0, true, 0⟩),
    .vdrop 0 (.two ⟨0, 12, 0, 3, 5, 0, 0, true, 7⟩), .vcat 0 ⟨0, 12, 0, 3, 9, 0, 0, false, 0⟩], ∃ t, Ready vState i 0 t ∧ t.bad.isEmpty = true :=
  all_meets (by decide +kernel)

/-! ### Records -/

/-- `s` with record `i` in progress on sequencer `q` of core 0, before its first single issue. -/
def started (s : State) (q : SeqId) (i : Instr) (f : RecProg → RecProg) : State :=
  { s with cur := { core := 0, q := q } }.setMe { (turnOf s 0 q).me with prog := some (f (RecProg.start i (turnOf s 0 q).me.pc 5)) }

/-- What `ReadySingle` asks for, as a check that answers the record and the task. -/
def singleTask (s : State) (q : SeqId) : Option (RecProg × Task) :=
  if onTurn s 0 q = some (turnOf s 0 q) ∧ recordTiming (turnOf s 0 q) = .go then
    match (turnOf s 0 q).me.prog, dueWrites (turnOf s 0 q).here q (turnOf s 0 q).me.tick with
    | some p, some t => if p.refetch || p.recheck then none else some (p, t)
    | _, _ => none
  else none

theorem single_of_task {s : State} {q : SeqId} {p : RecProg} {t : Task} (h : singleTask s q = some (p, t)) : ReadySingle s 0 q p t := by
  unfold singleTask at h
  split at h
  · rename_i c
    split at h
    · rename_i p' t' hp ht
      split at h
      · exact absurd h (by simp)
      · rename_i k
        simp only [Bool.or_eq_true, not_or, Bool.not_eq_true] at k
        cases h
        exact ⟨c.1, hp, k.1, k.2, c.2, ht⟩
    · exact absurd h (by simp)
  · exact absurd h (by simp)

/-- A single issue is ready, and its record and task meet `k`. -/
def single (s : State) (q : SeqId) (k : RecProg → Task → Bool) : Bool := (singleTask s q).any (fun x => k x.1 x.2)

theorem single_ready {s : State} {q : SeqId} {k : RecProg → Task → Bool} (h : single s q k = true) : ∃ p t, ReadySingle s 0 q p t ∧ k p t = true := by
  unfold single at h
  cases g : singleTask s q with
  | none => rw [g] at h; exact absurd h (by simp)
  | some x => rw [g] at h; exact ⟨x.1, x.2, single_of_task g, by simpa using h⟩

/-- The check of an access by core 0 passes. -/
def okAt (s : State) (t : Task) (rs : Ranges) (k : AccKind) (a n : Nat) : Bool :=
  match checkAccess s 0 t rs k a n n with | .ok _ => true | .error _ => false

def operand (b : Nat) (s0 : Int) : RecOperand := { blankOperand with base := BitVec.ofNat 32 b, s0 := BitVec.ofInt 16 s0 }

/-- Three pieces of 256 bytes between v4, v5, v6 and 0x2000. -/
def ldRec : Rec := { blankRec with trip0 := 2, d := operand 4 1, a := operand 0x2000 1 }
def stRec : Rec := { blankRec with trip0 := 2, a := operand 4 1, d := operand 0x2000 1 }
def zRec : Rec := { blankRec with trip0 := 2, d := operand 4 1, a := operand 0 64, aux0 := 0x10C05022 }

/-- The first single issue of a record of V: nothing sent, no register in error, and its accesses of 4 bytes, or its one of 256, pass. -/
def vSingle (i : Instr) (rs : Ranges) (k : AccKind) (wide : Bool) (a step : Nat) : Bool :=
  single (started vState .v i (fun p => { p with began := true, baseD := 0x2000, baseA := 0x2000 })) .v (fun p t =>
    p.sent == 0 && t.bad.isEmpty && (if wide then okAt vState t rs k a 256 else eachOk (singleState vState 0 .v t) rs k 4 (strides a step t)))

def ixRec (r : Rec) : Rec := { r with b := operand 9 0 }

theorem witness_VectorRecords :
    (∀ i ∈ [Instr.vld 0 (.record ldRec), .vst 0 (.record stRec), .vlds 0 (.record ldRec), .vsts 0 (.record stRec), .vgath 0 (.record (ixRec ldRec)),
      .vscat 0 (.record (ixRec stRec)), .vz 0 (.record zRec), .vzacc 0 (.record zRec), .vunif 0 (.record { zRec with aux0 := 0x10C05020 }), .vdrop 0 (.record zRec)],
      ∃ t, Ready vState i 0 t)
    ∧ (∃ p t, ReadySingle (started vState .v (.vld 0 (.record ldRec)) id) 0 .v p t
        ∧ (p.sent == 0 && (heldBy p t .v).baseA == 0x2000 && okAt vState t Ranges.noTx .load 0x2000 256) = true)
    ∧ (∃ p t, ReadySingle (started vState .v (.vst 0 (.record stRec)) (fun p => { p with i0 := 2, began := true, baseD := 0x2000 })) 0 .v p t
        ∧ (p.sent == 0 && okAt vState t Ranges.all .store 0x2200 256) = true)
    ∧ (∃ p t, ReadySingle (started vState .v (.vz 0 (.record zRec)) id) 0 .v p t ∧ (p.sent == 0 && t.bad.isEmpty) = true)
    ∧ [Instr.vlds 0 (.record ldRec), .vgath 0 (.record (ixRec ldRec))].all (fun i => vSingle i Ranges.noTx .load false 0x2000 0) = true
    ∧ [Instr.vsts 0 (.record stRec), .vscat 0 (.record (ixRec stRec))].all (fun i => vSingle i Ranges.all .store false 0x2000 4) = true := by
  refine ⟨all_ready ?_, single_ready ?_, single_ready ?_, single_ready ?_, ?_⟩ <;> decide +kernel

/-! ### Transfer -/

/-- Map 1 with one REAL entry; map 2 with a bit in a field that must be 0; block 2 of the own scratchpad has tag 0xA5. -/
def tTask (t : Task) : Task :=
  { t with bm := [(1, BitVec.ofNat 1024 (2 ^ 768)), (2, BitVec.ofNat 1024 (2 ^ 800))], t := { t.t with regs := [(1, 0x2000), (2, 0x7FF000)] } }

def tState : State :=
  let s := at0 .t tTask
  s.setCore 0 { s.core 0 with tags := [(2, 0xA5)] }

/-- Two elements of 16 bytes from 0x2000 to 0x4000. -/
def cpRec : Rec := { blankRec with opm := 3, trip0 := 1, d := operand 0x4000 1, a := operand 0x2000 1 }
/-- Elements of HBM through x3. -/
def hbmOp : RecOperand := { operand 3 1 with br := true }
def tagged (r : Rec) (tag : Nat) : Rec := { r with opm := r.opm ||| 16, aux2 := BitVec.ofNat 32 (65536 * tag) }
def mappedRec (r : Rec) (n : Nat) : Rec := { r with d := { r.d with bm := true }, bmsel := BitVec.ofNat 3 n }

theorem witness_TransferHeads :
    (∀ i ∈ [Instr.ldx 0 cpRec, .stx 0 cpRec, .cpx 0 cpRec, .mcx 0 { cpRec with aux0 := 0x81 }, .gthx 0 { cpRec with b := operand 0x3000 4 },
      .sctx 0 { cpRec with b := operand 0x3000 4 }, .bmx 0 (mappedRec cpRec 1), .scacc 0 { cpRec with opm := 2, b := operand 0x3000 4 }, .zfx 0 { blankRec with opm := 3, d := operand 0x4000 1 }],
      ∃ t, Ready tState i 0 t)
    ∧ (∃ t, Ready tState (.bmx 0 (mappedRec cpRec 1)) 0 t ∧ bmValid (Sparse.get 0 t.bm 1) = true)
    ∧ (∃ t, Ready tState (.bmx 0 (mappedRec cpRec 2)) 0 t ∧ (!bmValid (Sparse.get 0 t.bm 2)) = true)
    ∧ (∃ t, Ready tState (.cpx 0 (tagged cpRec 0xA5)) 0 t ∧ decide ((recBase t.t cpRec.a).toNat % 2 ^ 48 < 0x800000) = true)
    ∧ (∃ t, Ready tState (.cpx 0 (tagged cpRec 0xA6)) 0 t ∧ decide ((recBase t.t cpRec.a).toNat % 2 ^ 48 < 0x800000) = true)
    ∧ Sparse.get 0 (tState.core 0).tags (0x2000 / 4096) = 0xA5 :=
  ⟨all_ready (by decide +kernel), meets_ready (by decide +kernel), meets_ready (by decide +kernel), meets_ready (by decide +kernel), meets_ready (by decide +kernel), by decide +kernel⟩

/-- The address that an operand has, if it has one. -/
def addrOf (m : MapRes) : Option Nat := match m with | .addr a => some a | _ => none

/-- A single issue of a record of T with no store waiting; `f` of the record as it holds its operands, and of the task. -/
def tSingles (s : State) (i : Instr) (g : RecProg → RecProg) (f : RecProg → Task → Bool) : Bool :=
  single (started s .t i g) .t (fun p t => p.sent == 0 && p.outs.isEmpty && f (heldBy p t .t) t)

/-- The operands of a record of T have these addresses, their checks pass, and its bank is free. -/
def copies (s : State) (i : Instr) (dr ar : Ranges) (da aa : Nat) (g : RecProg → RecProg) : Bool :=
  tSingles s i g (fun h t =>
    let r := h.fields
    let es := esBytes r.opm
    addrOf (tAddr h r.d h.baseD es true) == some da && addrOf (tAddr h r.a h.baseA es false) == some aa
      && (match checkAccess s 0 t dr .store da es es, checkAccess s 0 t ar .load aa es es with
        | .ok d, .ok a => let st := singleState s 0 .t t; notWindow d && portMet st d && open1 st a && ownCommitted st a es
        | _, _ => false))

def hbmRec : Rec := { blankRec with opm := 3, d := operand 0x4000 1, a := hbmOp }
def real (p : RecProg) : RecProg := { p with map := BitVec.ofNat 1024 (2 ^ 768) }
def oneGot (p : RecProg) : RecProg := { p with began := true, got := [7], baseD := 0x4000, baseA := 0x2000 }
def txAt (p : RecProg) : RecProg := { p with began := true, baseD := 0x100000040, baseA := 0x2000, got := [7] }

/-- A store of the single issue at `n` bytes goes into its window. -/
def sendsInto (s : State) (h : RecProg) (t : Task) (a : Nat) : Bool :=
  match sendChained (fun _ => 0) (setProg (singleState s 0 .t t) h) [(.tx a, [some 7])] with | .ok s1 => s1.flits.length == 1 | _ => false

/-- D of the record lies in no window of memory, or A does. -/
def failsD (h : RecProg) (t : Task) : Bool := !okAt tState t ⟨true, true, false, false⟩ .store ((addrOf (tAddr h h.fields.d h.baseD 16 true)).getD 0) 16
def failsA (h : RecProg) (t : Task) : Bool :=
  okAt tState t ⟨true, true, false, false⟩ .store ((addrOf (tAddr h h.fields.d h.baseD 16 true)).getD 0) 16
    && !okAt tState t ⟨true, true, false, false⟩ .load ((addrOf (tAddr h h.fields.a h.baseA 16 false)).getD 0) 16

/-- A map whose one bit is of kind 1 at a base beyond the scratchpad. -/
def beyond (p : RecProg) : RecProg := { p with began := true, map := BitVec.ofNat 1024 (2 ^ 768 + 2 ^ 13), baseD := 0x800000 }

theorem witness_TransferCopies :
    (let cp := Instr.cpx 0 cpRec
     let bm := Instr.bmx 0 (mappedRec cpRec 1)
     copies tState cp ⟨true, true, false, false⟩ ⟨true, true, false, false⟩ 0x4000 0x2000 id = true
     ∧ copies tState cp ⟨true, true, false, false⟩ ⟨true, true, false, false⟩ 0x4000 0x2000 oneGot = true
     ∧ copies tState bm ⟨true, true, true, true⟩ ⟨true, true, false, true⟩ 0x4000 0x2000 real = true
     ∧ tSingles tState (.bmx 0 { mappedRec cpRec 1 with aux2 := 4 }) (fun p => { real p with i0 := 2, began := true })
        (fun h _ => decide (tAddr h h.fields.d h.baseD 16 true = .skip)) = true
     ∧ tSingles tState bm beyond (fun h _ => decide (tAddr h h.fields.d h.baseD 16 true = .bad 0x800000)) = true
     ∧ tSingles tState cp (fun p => { p with began := true, baseD := 0x800000, baseA := 0x2000 }) failsD = true
     ∧ tSingles tState cp (fun p => { p with began := true, baseD := 0x4000, baseA := 0x800000 }) failsA = true)
    ∧ copies (at0 .t (fun t => { tTask t with t := { t.t with regs := [(3, 0x100000000000)] } })) (.ldx 0 hbmRec) ⟨true, true, false, false⟩ ⟨false, false, false, true⟩ 0x4000 0x100000000000 id = true
    ∧ (let s := (at0 .t tTask).setTx 3 txW
       tSingles s (.stx 0 { cpRec with d := { operand 3 1 with br := true } }) txAt (fun h t =>
         addrOf (tAddr h h.fields.d h.baseD 16 true) == some 0x100000040 && okAt s t ⟨false, false, true, true⟩ .store 0x100000040 16 && sendsInto s h t 0x100000040) = true) := by
  decide +kernel

def idxRec : Rec := { blankRec with opm := 3, d := operand 0x4000 0, a := operand 0x2000 0, b := operand 0x3000 1, aux0 := 32, aux1 := 3 }

/-- A single issue that has read `got`: its checks pass; its index, where it has read one, is dropped or not. -/
def indexed (i : Instr) (got : List Nat) (drop : Bool) : Bool :=
  tSingles tState i (fun p => { p with began := true, baseD := 0x4000, baseA := 0x2000, baseB := 0x3000, got := got }) (fun h t =>
    let r := h.fields
    let es := esBytes r.opm
    let near : Ranges := ⟨true, true, false, false⟩
    let k := sbits (h.got.headD 0) 0 32
    h.got == got && addrOf (tAddr h r.d h.baseD es true) == some 0x4000 && addrOf (tAddr h r.a h.baseA es false) == some 0x2000
      && addrOf (tAddr h r.b h.baseB 4 false) == some 0x3000 && okAt tState t near .load 0x3000 4 && okAt tState t near .store 0x4000 es
      && (got.isEmpty || decide (k < 0 ∨ 3 ≤ k) == drop) && okAt tState t ⟨true, true, false, true⟩ .load (0x2000 + 64) es && okAt tState t near .load 0x2000 es && okAt tState t near .load (0x4000 + 64) es
      && okAt tState t Ranges.all .store (0x4000 + 64) es)

/-- What the checks of an indexed single issue answer, with `d`, `a` and `b` as its bases: of B, of D, of A, of the row of A, of the row of D as a
destination and as a source; and whether the index selects a row. -/
def ixChecks (i : Instr) (d a b : Nat) (got : List Nat) (want : List Bool) : Bool :=
  tSingles tState i (fun p => { p with began := true, baseD := BitVec.ofNat 64 d, baseA := BitVec.ofNat 64 a, baseB := BitVec.ofNat 64 b, got := got }) (fun h t =>
    let r := h.fields
    let es := esBytes r.opm
    let near : Ranges := ⟨true, true, false, false⟩
    let k := sbits (got.headD 0) 0 32
    let row (x : Nat) : Nat := ((x + k * r.aux0.toNat) % 2 ^ 48).toNat
    [okAt tState t near .load b 4, okAt tState t near .store d es, okAt tState t near .load a es, okAt tState t ⟨true, true, false, true⟩ .load (row a) es,
      okAt tState t Ranges.all .store (row d) es, okAt tState t near .load (row d) es, !decide (r.aux1 ≠ 0 ∧ (k < 0 ∨ (r.aux1.toNat : Int) ≤ k))] == want)

theorem witness_TransferIndexed_faults :
    (let g := Instr.gthx 0 idxRec
     ixChecks g 0x800000 0x2000 0x3000 [] [true, false, true, true, false, false, true] = true
     ∧ ixChecks g 0x4000 0x2000 0x800000 [] [false, true, true, true, true, true, true] = true
     ∧ ixChecks g 0x4000 0x7FFFF0 0x3000 [2] [true, true, true, false, true, true, true] = true)
    ∧ (∀ i ∈ [Instr.sctx 0 idxRec, .scacc 0 { idxRec with opm := 2 }],
      ixChecks i 0x4000 0x2000 0x800000 [] [false, true, true, true, true, true, true] = true
      ∧ ixChecks i 0x4000 0x800000 0x800000 [] [false, true, false, false, true, true, true] = true
      ∧ ixChecks i 0x4000 0x800000 0x3000 [3] [true, true, false, false, true, true, false] = true
      ∧ ixChecks i 0x7FFFF0 0x2000 0x3000 [2] [true, true, true, true, false, false, true] = true
      ∧ ixChecks i 0x4000 0x800000 0x3000 [2] [true, true, false, false, true, true, true] = true)
    ∧ tState.ports = [] := by
  decide +kernel

theorem witness_TransferIndexed :
    (let m := Instr.mcx 0 { cpRec with aux0 := 0x81 }
     copies tState m ⟨true, false, false, false⟩ ⟨true, false, false, true⟩ 0x4000 0x2000 id = true ∧ copies tState m ⟨true, false, false, false⟩ ⟨true, false, false, true⟩ 0x4000 0x2000 oneGot = true)
    ∧ [Instr.gthx 0 idxRec, .sctx 0 idxRec, .scacc 0 { idxRec with opm := 2 }].all (fun i => indexed i [] true && indexed i [2 ^ 32 - 1] true && indexed i [3] true && indexed i [2] false && indexed i [2, 9] false) = true
    ∧ (idxRec.aux1 ≠ 0) := by
  decide +kernel

theorem witness_TransferSetup :
    (∀ i ∈ [Instr.bmld 0 ⟨0, 1, 1, 0⟩, .sccfg 0 ⟨0, 0, 0, 0x502⟩, .tagx 0 ⟨0, 1, 0, 0x100A5⟩, .tagx 0 ⟨0, 2, 0, 0x100A5⟩],
      ∃ t, Ready tState i 0 t ∧ (t.t.stores.isEmpty && tState.flits.isEmpty && okAt tState t Ranges.noTx .load 0x2000 128
        && decide ((t.t.reg 1).toNat / 4096 + 2 ≤ 2048) && decide (2048 < (t.t.reg 2).toNat / 4096 + 2)) = true) :=
  all_meets (by decide +kernel)

/-! ### Matrix -/

/-- A format word for elements of code 0, the one of GATE, one that no tile command takes. -/
def mWord : Word := 0
def gWord : Word := 0x888
def badWord : Word := 7

/-- Three words in the format queue, one element in each bank of accumulator 2. -/
def mTask (t : Task) : Task :=
  { t with fq := [mWord, gWord, 0], version := [(2, 5)], acc := [(4, AccBank.zero.put 0 0 ⟨7, 0⟩), (5, AccBank.zero.put 1 2 ⟨9, 0⟩)], m := { t.m with regs := [(1, 0x2000), (3, 17)] } }

def mState : State := at0 .m mTask
def gState : State := at0 .m (fun t => { mTask t with fq := [gWord] })
/-- A bank whose checksums do not hold. -/
def accBadState : State := at0 .m (fun t => { mTask t with acc := [(4, { AccBank.zero with elems := [(0, ⟨7, 0⟩)] })] })

/-- Its second word is in error. M is timed, and due now. -/
def fqBad : State := at0 .m (fun t => { mTask t with bad := [.fq 1] })
def mTimed : State := { at0 .m (fun t => { mTask t with timed := true, m := { (mTask t).m with timed := true, lastIssue := 5, nextFree := 5, seqno := 1 } }) with mcc := 6 }

theorem witness_MatrixOneTick :
    (∀ i ∈ [Instr.aswap 0 0, .aswap 0 3, .azero 0 0 2, .azero 0 1 2, .azero 0 2 3, .achk 0 0 2, .achk 0 1 2, .achk 0 2 2, .avset 0 ⟨0, 3, 2, 7⟩, .fdrop 0 0, .fdrop 0 2, .fdrop 0 3, .fdrop 0 31,
      .epsset 0 ⟨0, 0, 7, 0x3A800000⟩], ∃ t, Ready mState i 0 t ∧ (decide (t.fq.length = 3) && (t.accBank 2 0).check.isNone && (t.accBank 2 1).check.isNone) = true)
    ∧ (∃ t, Ready accBadState (.achk 0 0 2) 0 t ∧ (t.accBank 2 0).check.isSome = true)
    ∧ (∃ t, Ready fqBad (.fdrop 0 2) 0 t ∧ (t.fq.length == 3 && t.bad.contains (.fq 1)) = true)
    ∧ (∃ t, Ready fqBad (.fdrop 0 0) 0 t ∧ (t.fq.length == 3 && !t.bad.contains (.fq 0)) = true)
    ∧ (∃ t, Ready mTimed (.fdrop 0 3) 0 t ∧ (t.fq.length == 3 && timedHere mTimed) = true) :=
  ⟨all_meets (by decide +kernel), meets_ready (by decide +kernel), meets_ready (by decide +kernel), meets_ready (by decide +kernel), meets_ready (by decide +kernel)⟩

def wldRec : Rec := { blankRec with trip0 := 3, d := operand 0 1, b := operand 0x2000 128, aux2 := 0x07F00000 }
def mmaRec : Rec := { blankRec with opm := 2, trip0 := 3, d := operand 0 1, a := operand 0x2000 128, aux0 := 1, aux1 := 0x7F00, aux2 := 127 }
def mmaVersion (v : Nat) : Rec := { mmaRec with opm := 6, stamp := BitVec.ofNat 32 v }
def adrnRec : Rec := { blankRec with opm := 2, trip0 := 3, d := operand 0x4000 128, a := operand 0 1, aux0 := 1, aux1 := 0x300 }
def imageSave : Rec := { blankRec with opm := 2, trip0 := 3184, d := operand 0x4000 1 }
def imageLoad : Rec := { blankRec with opm := 2, trip0 := 3184, a := operand 0x4000 1 }
def gateRec : Rec := { blankRec with opm := 1, d := operand 0x4000 2, a := operand 0x2000 2, b := operand 0x3000 0, aux0 := 0x10001 }

/-- The words of a record's head read from scratchpads whose banks are free. -/
def unitaryOk (s : State) (t : Task) : Bool :=
  match mReads (s.setHere t) 8 ((gateEntries gateRec).map (fun x => MapRes.addr (((recBase t.m gateRec.b).toNat + x.2) % 2 ^ 48))) with
  | .ok us => us.length == 4 && (match readPlaces ownReader 8 (us.filterMap id) (entered s t 0 16 0) with | .ok _ => true | .error _ => false)
  | .error _ => false

def mappedAdrn : Rec := { adrnRec with d := { adrnRec.d with bm := true }, bmsel := 1 }

theorem witness_MatrixHeads :
    (∀ i ∈ [Instr.asave 0 imageSave, .aload 0 imageLoad, .wld 0 wldRec, .mma 0 mmaRec, .mma 0 (mmaVersion 5), .mma 0 (mmaVersion 6), .adrn 0 adrnRec],
      ∃ t, Ready mState i 0 t ∧ (decide (t.fq = [mWord, gWord, 0]) && wordOk mWord && (is8 (fwB mWord) == t.w8) && decide (t.ver 2 = 5)
        && (t.accBank 2 1).check.isNone && t.bad.isEmpty) = true)
    ∧ (∃ t, Ready gState (.gate 0 gateRec) 0 t ∧ (gateWordOk gWord && t.m.stores.isEmpty && unitaryOk gState t) = true)
    ∧ (∀ i ∈ [Instr.wld 0 wldRec, .mma 0 mmaRec, .adrn 0 adrnRec, .gate 0 gateRec], ∃ t, Ready (at0 .m id) i 0 t ∧ (t.fq.isEmpty && !timedHere (at0 .m id)) = true)
    ∧ (∃ t, Ready (at0 .m (fun t => { t with fq := [badWord] })) (.wld 0 wldRec) 0 t ∧ (t.fq == [badWord]) = true)
    ∧ (∃ t, Ready (at0 .m (fun t => { mTask t with bm := [(1, BitVec.ofNat 1024 (2 ^ 768))] })) (.adrn 0 mappedAdrn) 0 t ∧ bmValid (mapSeenByM t 1) = true)
    ∧ mK mmaRec ≤ 128 ∧ mCol0 mmaRec + (mNcol mmaRec - 1) * mCstep mmaRec ≤ 127 ∧ mCol0 adrnRec + (mNcol adrnRec - 1) * mCstep adrnRec ≤ 127
    ∧ wordOk badWord = false ∧ mmaRec.aux2.getLsbD 9 = false := by
  refine ⟨all_meets ?_, meets_ready ?_, all_meets ?_, meets_ready ?_, meets_ready ?_, ?_⟩ <;> decide +kernel

/-- A single issue of a record of M with no store waiting; `f` of the record, of the state in which it runs, and of the task. -/
def mSingles (s : State) (i : Instr) (g : RecProg → RecProg) (f : RecProg → State → Task → Bool) : Bool :=
  single (started s .m i g) .m (fun p t => p.sent == 0 && p.outs.isEmpty && f (heldBy p t .m) (singleState s 0 .m t) t)

/-- The elements of a single issue pass their checks, as many as `n`, and the next one, where one is left, finds its bank. -/
def readsOk (s : State) (h : RecProg) (size n : Nat) (l : List MapRes) : Bool :=
  match mReads s size l with
  | .ok ps => ps.length == n && s.pick.isNone && (match ps[h.got.length]? with | some (some pl) => open1 s pl && ownCommitted s pl size | some none => false | none => true)
  | .error _ => false

/-- The operand that the turn picks has not been read, and its granule may be read ahead. -/
def aheadOk (s : State) (h : RecProg) (size : Nat) (l : List MapRes) : Bool :=
  match mReads s size l, s.pick with
  | .ok ps, some n =>
    match (((ps.drop h.got.length).filterMap id).filter (fun pl => (s.me.earlyAt false pl size).isNone))[n]? with
    | some pl => open1 s pl && ownCommitted s pl.granule 16
    | none => false
  | _, _ => false

/-- The places of a single issue's outputs pass their checks, and none is a window. -/
def placesOk (s : State) (size : Nat) (l : List MapRes) : Bool :=
  match mPlaces s size (l.map (fun m => (m, []))) with | .ok us => us.all (fun u => notWindow u.1 && portMet s u.1) | .error _ => false

def atRow (n : Nat) (got : List Nat) (p : RecProg) : RecProg := { p with fmt := mWord, i0 := n, began := true, baseA := 0x2000, baseB := 0x2000, baseD := 0x4000, got := got }
def elems (n : Nat) (f : Nat → MapRes) : List MapRes := (List.range n).map f

/-- M has read the granule of its first operand ahead. -/
def mAhead : State := at0 .m (fun t => { mTask t with m := { (mTask t).m with early := [{ fetch := false, place := .spad 0 0x2000, bytes := List.replicate 16 1 }] } })

theorem witness_MatrixSingles :
    (∀ got ∈ [[], List.replicate 128 1], mSingles mState (.wld 0 wldRec) (atRow 3 got) (fun h st _ => readsOk st h 2 128 (elems 128 (fun n => mAddr h wldRec.b h.baseB 2 (n : Nat) false))) = true)
    ∧ (∀ got ∈ [[], List.replicate 128 1], mSingles mState (.mma 0 mmaRec) (atRow 0 got) (fun h st _ => h.lastBlock.isNone && readsOk st h 2 128 (elems 128 (fun k => mAddr h mmaRec.a h.baseA 2 (k : Nat) false))) = true)
    ∧ (∀ n ∈ [0, 127], mSingles { mState with pick := some n } (.mma 0 mmaRec) (atRow 0 []) (fun h st _ => aheadOk st h 2 (elems 128 (fun k => mAddr h mmaRec.a h.baseA 2 (k : Nat) false))) = true)
    ∧ mSingles { mState with pick := some 5 } (.wld 0 wldRec) (atRow 3 []) (fun h st _ => aheadOk st h 2 (elems 128 (fun n => mAddr h wldRec.b h.baseB 2 (n : Nat) false))) = true
    ∧ mSingles mAhead (.mma 0 mmaRec) (atRow 0 []) (fun _ st _ => (st.me.earlyAt false (.spad 0 0x2000) 2).isSome) = true
    ∧ mSingles mState (.wld 0 { wldRec with opm := 16 }) (atRow 3 []) (fun _ _ _ => true) = true
    ∧ (let r := { mmaRec with a := { mmaRec.a with bm := true } }
       mSingles mState (.mma 0 r) (fun p => { atRow 0 [0] p with map := 0 }) (fun h st _ => match mReads st 2 (elems 128 (fun k => mAddr h r.a h.baseA 2 (k : Nat) false)) with | .ok ps => ps[1]? == some none | .error _ => false) = true)
    ∧ (let r := { mmaRec with aux2 := mmaRec.aux2 ||| 0x50200 }
       mSingles mState (.mma 0 r) (atRow 0 []) (fun h _ _ => r.aux2.getLsbD 9 && addrOf (mAddr h r.a h.baseA 2 0 false) == some 0x2000 && h.lastBlock != some 2
         && Sparse.get 0 (mState.core 0).tags 2 != r.aux2.extractLsb' 16 16) = true) := by
  decide +kernel

theorem witness_MatrixDrains :
    mSingles mState (.adrn 0 adrnRec) (atRow 0 []) (fun h st _ => placesOk st 2 (elems 4 (fun n => mAddr h adrnRec.d h.baseD 2 (n : Nat) true))) = true
    ∧ mSingles mState (.asave 0 imageSave) (atRow 3184 []) (fun h _ t => addrOf (mAddr h imageSave.d h.baseD 64 0 true) == some (0x4000 + 64 * 3184) && okAt mState t Ranges.all .store (0x4000 + 64 * 3184) 64 && notWindow (.spad 0 0x4000)) = true
    ∧ (∀ got ∈ [[], [1, 2, 3], [1, 2, 3, 4]], mSingles mState (.aload 0 imageLoad) (fun p => { atRow 0 got p with baseA := 0x4000 }) (fun h st t =>
        addrOf (mAddr h imageLoad.a h.baseA 64 0 false) == some 0x4000 && okAt mState t Ranges.noTx .load 0x4000 64 && open1 st (.spad 0 (0x4000 + 16 * h.got.length))) = true)
    ∧ (∀ got ∈ [[], List.replicate 2 1], mSingles gState (.gate 0 gateRec) (fun p => { atRow 0 got p with fmt := gWord }) (fun h st _ =>
        readsOk st h 8 2 (elems 2 (fun c => mAddr h gateRec.a h.baseA 8 ((c * 1 : Nat) : Int) false)) && placesOk st 8 (elems 2 (fun c => mAddr h gateRec.d h.baseD 8 ((c * 1 : Nat) : Int) true))) = true)
    ∧ mSingles { gState with pick := some 1 } (.gate 0 gateRec) (fun p => { atRow 0 [] p with fmt := gWord }) (fun h st _ =>
        aheadOk st h 8 (elems 2 (fun c => mAddr h gateRec.a h.baseA 8 ((c * 1 : Nat) : Int) false))) = true
    ∧ fwOvfTrap mWord = false ∧ fwOvfTrap gWord = false := by
  decide +kernel

/-! ### Events of the sequencers -/

/-- A result on its way since cycle 0, and a store. -/
def pendOf (id lat : Nat) (ws : List Write) (ls : List LoadPiece) : Pend :=
  { id := id, due := lat, writes := ws, flags := 0, loads := ls, produced := false, region := 0, since := 0, lat := lat, pc := 0, ordered := false }
def storeOf (id : Nat) (p : Place) (bs : List Byte) : PStore := { id := id, place := p, bytes := bs.map some, upd := none, since := 0, lat := 2, pc := 0, chain := 0, whole := false }

/-- V with a result of latency 4, a load of 4 bytes, two stores to one granule of the scratchpad and one to HBM on their way, on cycle 14. -/
def flyState : State :=
  { at0 .v (fun t => { vTask t with v := { (vTask t).v with
      pend := [pendOf 1 4 [.x 4 9] [], pendOf 2 14 [] [{ place := .spad 0 0x100, len := 4, dest := .k 3, addr := 0x100 }]],
      stores := [storeOf 3 (.spad 0 0x2000) [1, 2], storeOf 4 (.hbm 0x100100) [3], storeOf 5 (.spad 0 0x2001) [4]] } }) with mcc := 14, wheels := [(14, 0x80)] }

/-- The same with a word in error where the load reads. -/
def flyBad : State := flyState.setCore 0 { flyState.core 0 with spadBad := [0x20] }

theorem witness_SequencerEvents :
    alive flyState = true ∧ flyState.poison = [] ∧ flyState.errs = []
    ∧ (match flyState.task? 0 (flyState.bankOf 0) with
      | some t =>
        t.v.pend.any (fun p => p.id == 1 && !p.produced && p.loads.isEmpty && decide (p.since + p.lat ≤ flyState.mcc)) && loadReady flyState 0 t .v ⟨2, 14, 0⟩ && !recordFirst flyState 0 t .v
          && t.v.pend.any (fun p => match p.loads[0]? with | some l => p.id == 2 && p.due == 14 && loadNow flyState 0 t .v p l | none => false)
          && storeReady flyState 0 t .v 0 && storeReady flyState 0 t .v 1 && sameGranule (.spad 0 0x2000) 2 (.spad 0 0x2001) 1
          && !placeBad flyState (.spad 0 0x100) 4 && placeBad flyBad (.spad 0 0x100) 4
          && !t.v.stores.any (fun st => sameGranule st.place st.bytes.length (.spad 0 0x100) 4)
      | none => false) = true
    ∧ ({ flyState with mcc := 1 } : State).mcc < (storeOf 3 (.spad 0 0x2000) [1, 2]).since + (storeOf 3 (.spad 0 0x2000) [1, 2]).lat := by
  decide +kernel

/-- The instruction that a sequencer of core 0 fetches. -/
def fetches (s : State) (q : SeqId) (i : Instr) : Bool := fetchInstr (turnOf s 0 q) 0 q (turnOf s 0 q).here == .run i

/-- `s` with the words of `i` at the bottom of task HBM. -/
def withCode (s : State) (i : Instr) : State := { s with hbm := putBytes s.hbm placePa ((encode i).flatMap (fun p => leBytes 4 p.toNat)) }

/-- Core 0 waits in WAITT for GT 1000, in ALIGN for DCC 7, in SORW for step 1, in COLL for generation 1. -/
def waitIn (i : Instr) (kind : Nat) (op : OpProg) (addr : Nat) : State :=
  let s := withCode cState i
  { s.setMe { s.me with wait := some { blankWait kind with issued := true, op := op, addr := addr } } with mcc := 0x2000000, gt := 2000000 }

def waitsFor (s : State) (i : Instr) : Bool :=
  decide (onTurn s 0 .c = some (turnOf s 0 .c)) && alive s && fetches s .c i && resumes (turnOf s 0 .c) i

def openStep : SorStep := { stepDone with complete := false, sealSent := false }

/-- C waits at `i`; `f` of its partition and its wait. -/
def boundAt (s : State) (i : Instr) (f : Partition → Wait → Bool) : Bool :=
  waitsFor s i && firstToExpire s 0 .c && (match s.me.wait with | some w => f (s.part 0) w | none => false)

def semForm : Instr := .semwait 0 ⟨3, 0, .simm 4⟩
def storeForm : Instr := .std 0 memTx
def sorwForm : Instr := .sorw 0 ⟨5, 0, .simm 1⟩
def collForm : Instr := .coll 0 ⟨5, 0, .simm 0x3000⟩

/-- T on a timed task whose next cycle, 6, has passed; and with a store whose bound has passed. -/
def missState (sts : List PStore) : State :=
  { withCode (at0 .t (fun t => { t with timed := true, t := { t.t with timed := true, lastIssue := 5, stores := sts } })) (.nop 0) with mcc := 9 }

/-- T waits in its record for a window that stays closed. -/
def recWaits : State :=
  let s := started cState .t (.cpx 0 cpRec) id
  { s.setTask 0 0 (some { s.here with t := { s.here.t with stream := .running, wait := some { blankWait 5 with addr := 0x100000040 } } }) with gt := 2000000 }

theorem witness_SequencerBounds :
    waitsFor (waitIn (.waitt 0 ⟨5, 0, .zimm 1000⟩) 8 (.waitt 1000 5) 0) (.waitt 0 ⟨5, 0, .zimm 1000⟩) = true
    ∧ waitsFor (waitIn (.align 0 ⟨0, 1, .zimm 0x1E⟩) 8 (.align 7 0x1E) 0) (.align 0 ⟨0, 1, .zimm 0x1E⟩) = true
    ∧ (let s := waitIn semForm 2 .sem 0
       boundAt s semForm (fun p w => p.csrVal 0x104 != 0 && decide (w.since + (p.csrVal 0x104).toNat ≤ s.mcc) && !boundWins (turnOf s 0 .c) w) = true)
    ∧ (let s := waitIn storeForm 5 .none 0x100000040
       boundAt s storeForm (fun p w => w.kind == 5 && inTx w.addr && decide (w.sinceGt + (p.csrVal 0x101).toNat ≤ s.gt) && s.me.prog.isNone) = true)
    ∧ (let s := { waitIn sorwForm 4 .none 1 with sorus := { sorState.sorus with steps := [openStep] } }
       boundAt s sorwForm (fun _ w => w.kind == 4 && (match s.sorus.step? w.addr with
        | some x => !x.complete && decide (x.openGt + s.sorus.dl.toNat + s.sorus.gap.toNat ≤ s.gt) | none => false)) = true)
    ∧ (let s := waitIn collForm 4 (.coll 1) 0x3000
       boundAt s collForm (fun p w => w.op == .coll 1 && decide (w.sinceGt + (p.csrVal 0x103).toNat ≤ s.gt)) = true)
    ∧ (let s := missState []
       let t := (turnOf s 0 .t).here
       onTurn s 0 .t = some (turnOf s 0 .t) ∧ nextDue (turnOf s 0 .t) 0 .t t = some 6 ∧ overdueAccess (turnOf s 0 .t) 0 t .t = none ∧ firstToExpire s 0 .t = true)
    ∧ (let s := missState [storeOf 1 (.spad 0 0x2000) [1]]
       overdueAccess (turnOf s 0 .t) 0 (turnOf s 0 .t).here .t = some (2, 0) ∧ firstToExpire s 0 .t = true)
    ∧ (onTurn recWaits 0 .t = some (turnOf recWaits 0 .t) ∧ firstToExpire recWaits 0 .t = true ∧ (turnOf recWaits 0 .t).me.prog.isSome = true
       ∧ 0 + ((recWaits.part 0).csrVal 0x101).toNat ≤ recWaits.gt)
    ∧ (let s := { cState with hbm := putBytes cState.hbm placePa (leBytes 4 0x3F800000) }
       fetches s .c (.illegalOpcode 0 .c 0x3F800000) && (fetchNow (turnOf s 0 .c) 0 .c).2 == some (.run (.illegalOpcode 0 .c 0x3F800000))) = true := by
  decide +kernel

/-! ### Events of the fabric -/

/-- A flit of core 0 with bytes 0 to 3 of its block, on its way in window 3. -/
def flit0 : Flit :=
  { id := 4, win := 3, core := 0, block := 1, mask := 15, data := 0x04030201, order := [0], isOpen := true, lost := 0, copies := 1,
    departed := false, departGt := 0, owners := [{ bank := 0, q := .c, id := 9, pc := 0, since := 0 }] }

def flitState : State := { mappedState with flits := [flit0], nextFlit := 5 }
def goneState : State := { flitState with flits := [{ flit0 with copies := 0, departed := true }], gt := 20000 }
/-- Two members whose routes begin with one hop. -/
def treeState : State :=
  { (pairState.setTx 3 { txW with members := [1, 1], granted := 3 }) with flits := [{ flit0 with copies := 3 }], nextFlit := 5 }
/-- Receive window 5 takes the flits of module 1. -/
def takeState : State := (pairState.setRx 5 (rxOf 1)).setTx 3 txW

/-- Module 1's flit lands in window 5, its granule 0 yet to come; and one whose last granule is left. -/
def landOf (order : List Nat) (coll : Option CollPacket) : Landing :=
  { src := 1, path := 0, rx := 5, part := 0, ack := true, base := .hbm 0x7000, mask := 15, data := 0x04030201, order := order, coll := coll }
/-- The flit may leave by port 0 of the slots of set 1. -/
def outState : State := { takeState with flits := [flit0], nextFlit := 5, landings := [landOf [0, 3] none] }
def flitFor (rx epoch : Nat) : InFlit := { src := 1, path := 0, rx := rx, epoch := epoch, off := 4032, mask := 1, data := 0, order := [0] }

theorem witness_FlitEvents :
    alive outState = true ∧ outState.flits.find? (fun g => g.id == flit0.id) = some flit0 ∧ flit0.copies.getLsbD 0 = true ∧ (outState.txWin 3).recalled = 0 ∧ (outState.txWin 3).loop ≠ 2
    ∧ (∀ g ∈ outState.flits, g.id < flit0.id → g.win = flit0.win → g.core = flit0.core → g.copies.getLsbD 0 = false)
    ∧ 0 ∈ exitPorts outState 1 1 ∧ outState.ready.getLsbD 6 = true ∧ wheelOpen outState 32 0 = true ∧ 1 ∉ exitPorts outState 1 1
    ∧ takesFlit outState (flitFor 9 0) = false ∧ takesFlit outState (flitFor 5 1) = true ∧ takesFlit outState (flitFor 5 0) = false ∧ isRing outState 5 = false
    ∧ firstHop treeState 1 = some 0 ∧ (List.range 2).filter (fun j => (3#64).getLsbD j && firstHop treeState ((treeState.txWin 3).members.getD j 0) == firstHop treeState 1) = [0, 1]
    ∧ (∀ base ∈ [Place.hbm 0x7000, .spad 1 0x7000], ∀ order ∈ [[3], [0, 3]], (let l := { landOf order none with base := base }
        ({ outState with landings := [l] } : State).landings[0]? = some l))
    ∧ 0 + ((goneState.part 0).csrVal 0x102).toNat < goneState.gt
    ∧ ({ goneState with gt := 10000 } : State).gt ≤ 0 + ((goneState.part 0).csrVal 0x102).toNat
    ∧ outState.landings[0]? = some (landOf [0, 3] none) ∧ outState.poison = [] ∧ outState.errs = []
    ∧ (∀ m ∈ outState.landings.take 0, m.src = 1 → m.path ≠ 0)
    ∧ (goneState.flits.find? (fun g => g.id == 4)).isSome = true ∧ 4 < goneState.nextFlit ∧ (goneState.task? 0 0).isSome = true
    ∧ 0 + ((goneState.part (goneState.txWin 3).part).csrVal 0x102).toNat ≤ goneState.gt ∧ takeState.tx.any (fun e => e.2.members.idxOf? 1 == some 0) = true := by
  decide +kernel

/-- Window 5 with a lease of module 1 and a recall in progress since GT 0. -/
def recallState : State := { takeState.setRx 5 { rxOf 1 with leases := [1], recallGt := 1 } with gt := 10000 }
/-- Window 3 asks for its lease; its member has recalled it; it has been released. -/
def askState : State := takeState.setTx 3 { txW with mapped := false, granted := 0, asker := 1 }
def recalledState : State := takeState.setTx 3 { txW with recalled := 1 }
def releasedState : State := takeState.setTx 3 { txW with recalled := 1, released := 1 }
/-- C of core 0 waits in WMAP for the lease of window 3. -/
def wmapWaits : State :=
  let s := withCode wmapState (.wmap 0 ⟨5, 3, .simm 0x40⟩)
  { (waits s (.wmap 3)).setTx 3 { txW with mapped := false, granted := 0, asker := 1 } with gt := 10000 }

/-- The answer of a member to a WMAP that is over is still to come. -/
def orphanState : State := { takeState.setTx 3 TxWin.free with orphans := [(3, 0, 1, 7)] }

theorem witness_LeaseEvents :
    alive takeState = true ∧ (takeState.rxWin 5).state = 1 ∧ rxAllows takeState (takeState.rxWin 5) 1 = true ∧ (takeState.rxWin 5).size = 4096 ∧ (takeState.rxWin 5).recallGt = 0
    ∧ (takeState.rxWin 1023).state ≠ 1 ∧ 1 ∈ (recallState.rxWin 5).leases ∧ (recallState.rxWin 5).recallGt ≠ 0 ∧ (recallState.rxWin 5).recallGt - 1 + 10000 ≤ recallState.gt
    ∧ (recallState.rxWin 5).state = 1 ∧ rxAllows recallState (recallState.rxWin 5) 1 = true ∧ (2 : Nat) ∉ (recallState.rxWin 5).leases
    ∧ (askState.txWin 3).asker ≠ 0 ∧ 0 < (askState.txWin 3).members.length ∧ ((askState.txWin 3).granted ||| (askState.txWin 3).refused).getLsbD 0 = false ∧ askState.orphans = []
    ∧ recallState.gt ≤ (recallState.rxWin 5).recallGt - 1 + 10000 ∧ (recallState.rxWin 5).recallGt - 1 + 10000 < ({ recallState with gt := 10001 } : State).gt
    ∧ askState.gt ≤ (askState.txWin 3).askedGt + 10000 ∧ (askState.txWin 3).askedGt + 10000 < ({ askState with gt := 10001 } : State).gt
    ∧ (let s := takeState.setRx 5 { rxOf 1 with released := [1] }; (1 : Nat) ∉ (s.rxWin 5).leases ∧ 1 ∈ (s.rxWin 5).released)
    ∧ (orphanState.txWin 3).asker = 0 ∧ orphanState.orphans.find? (fun x => x.1 == 3 && x.2.1 == 0) = some (3, 0, 1, 7)
    ∧ (takeState.txWin 3).mapped = true ∧ (takeState.txWin 3).members[0]? = some 1 ∧ (takeState.txWin 3).members.idxOf? 1 = some 0
    ∧ underLease recalledState 3 0 = [(3, 0)] ∧ (recalledState.txWin 3).recalled.getLsbD 0 = true ∧ (recalledState.txWin 3).released.getLsbD 0 = false ∧ recalledState.flits = []
    ∧ underLease releasedState 3 0 = [(3, 0)] ∧ (releasedState.txWin 3).released.getLsbD 0 = true
    ∧ (let s := wmapWaits
       waitsFor s (.wmap 0 ⟨5, 3, .simm 0x40⟩) = true ∧ (s.txWin 3).asker = 1 ∧ (s.txWin 3).askedGt + 10000 ≤ s.gt ∧ (s.txWin 3).granted ≠ (s.txWin 3).mask ∧ s.bankOf 0 = 0) := by
  decide +kernel

/-- The sorus of modules 0 and 1: step 1 is open, its ring at 0x8000000 is empty; a request window at 0x700000. -/
def openBoth : SorStep := { openStep with mem := 3, sealer := none }
def ringState : State :=
  let s := (cState.setRx 2 { RxWin.free with state := 1, part := 0, lbase := 0x8000000, size := 2 ^ 27 }).setRx 1 { RxWin.free with state := 1, part := 0, lbase := 0x700000, size := 65536 }
  { s with sorus := { Sorus.reset with cfg := BitVec.ofNat 64 (2 ^ 31 + 2 * 2 ^ 10 + 2 ^ 20), mem := 3, first := 1, last := 0, steps := [openBoth] }, gt := 30000 }

def goodRec : BitVec 256 := sealRec (2 ^ 64 + 2 ^ 96)

/-- A request for step 1 of module 1, and one for step 0, which is gone; a reply with a record, and one that says NOTRET. -/
def reqFor (n : Nat) : BitVec 1024 := BitVec.ofNat 1024 (n + 2 ^ 32 + 2 ^ 512 * 3)
/-- The ring holds the record of module 1 for step 1; a request to module 1 and a late reply are on their way. -/
def heldRing : State :=
  { performAt ringState (.hbm (0x8000000 + slotOff 1 1)) (leBytes 32 goodRec.toNat) with
    sorus := { ringState.sorus with gapSent := [{ id := 70, dst := 1, step := 1, gone := true, gt := 0, late := 1, msg := .ask (reqFor 1) }, { id := 71, dst := 1, step := 1, gone := true, gt := 0, late := 0, msg := .ask (reqFor 1) }] } }

/-- A request that waits for a slot of its window. -/
def gapMsg : GapSend := { id := 72, dst := 1, step := 1, gone := false, gt := 0, late := 0, msg := .ask (reqFor 1) }
def gapState : State :=
  let s := pairState.setTx 0 txW
  { s with sorus := { ringState.sorus with gapSent := [gapMsg] } }

theorem witness_SorusEvents :
    alive ringState = true ∧ sorEn ringState = true ∧ ringBase ringState = some 0x8000000 ∧ ringState.sorus.step? (recStep goodRec) = some openBoth ∧ recFlags goodRec = 0
    ∧ recOrigin goodRec = 1 ∧ recCheckOk goodRec = true ∧ recCheckOk (goodRec ^^^ 1) = false ∧ ringState.sorus.openable 1 = true ∧ openBoth.mem.getLsbD 1 = true
    ∧ ringRec ringState (slotOff 1 1) = 0 ∧ ringState.poison = [] ∧ ringState.errs = [] ∧ (∀ j ∈ ringState.sorus.steps, j.held = []) ∧ missing ringState openBoth ≠ []
    ∧ hostRecovers ringState = false ∧ openBoth.openGt + ringState.sorus.dl.toNat ≤ ringState.gt ∧ (askOrder ringState openBoth).filter (fun j => !openBoth.asked.contains j) = [1]
    ∧ hostRecovers (ringState.setPart 0 { ringState.part 0 with csr := [(0x108, 4)] }) = true ∧ openBoth.recovering = false ∧ ({ openBoth with recovering := true } : SorStep).recoverGt + ringState.sorus.dl.toNat ≤ ringState.gt
    ∧ (let k := { openBoth with mem := 0, sealer := some 0 }
       let s := { ringState with sorus := { ringState.sorus with steps := [k] } }
       findSealer s k = some s.modNum ∧ missing s k = [] ∧ s.sorus.step? 1 = some k)
    ∧ (let x := heldRing.sorus
       x.gapSent.any (fun g => decide (g.step = 1 ∧ g.late ≠ 0 ∧ (g.late - 1 - 0) / max 1 x.dl.toNat < (heldRing.gt - 0) / max 1 x.dl.toNat)) = true
       ∧ heldRing.flits.find? (fun f => f.id == 71) = none ∧ (x.gapSent.find? (fun g => g.id == 71)).isSome = true ∧ 0 + ((heldRing.part (sorOwner heldRing)).csrVal 0x102).toNat ≤ heldRing.gt)
    ∧ (let s := gapState
       sorusWins s = [0] ∧ s.sorus.gapSent.find? (fun g => g.id == 72) = some gapMsg ∧ gapMsg.gone = false ∧ wheelOpen s 32 (sorOwner s) = true ∧ 0 ∈ exitPorts s (s.txWin 0).slotset 1
         ∧ s.ready.getLsbD 6 = true ∧ 1 ∉ exitPorts s (s.txWin 0).slotset 1)
    ∧ (let x := heldRing.sorus
       x.gapSent.any (fun g => g.id == 71 && g.gone && g.late == 0) = true ∧ ({ heldRing with gt := 10000 } : State).gt ≤ 0 + ((heldRing.part (sorOwner heldRing)).csrVal 0x102).toNat
         ∧ 0 + ((heldRing.part (sorOwner heldRing)).csrVal 0x102).toNat < heldRing.gt)
    ∧ (let s := { ringState with sorus := { ringState.sorus with steps := [{ openBoth with asked := [1] }] } }
       hostRecovers s = false ∧ (askOrder s openBoth).filter (fun j => j != 1) = [])
    ∧ reqWin (ringState.setRx 1 RxWin.free) = none
    ∧ (reqWin ringState).isSome = true ∧ ringState.sorus.gone (bits (reqFor 0).toNat 0 32) = true ∧ ringState.sorus.gone (bits (reqFor 1).toNat 0 32) = false ∧ bits (reqFor 1).toNat 32 16 < 512
    ∧ (members ((reqFor 1).extractLsb' 512 512)).filter (fun o => ringRec ringState (slotOff 1 o) != 0) = [] ∧ (members ((reqFor 1).extractLsb' 512 512)).filter (fun o => ringRec heldRing (slotOff 1 o) != 0) = [1]
    ∧ (BitVec.ofNat 512 (2 ^ 64)).getLsbD 320 = false ∧ ((BitVec.ofNat 512 (2 ^ 64)).extractLsb' 0 256 : BitVec 256) ≠ 0 ∧ (BitVec.ofNat 512 (2 ^ 320 + 2 ^ 256)).getLsbD 320 = true := by
  and_intros <;> decide +kernel

/-- A packet of collective 9 for its landing block in window 5, and one that passes. -/
def pkt (ops hops : Nat) : CollPacket :=
  { src := 1, cid := 9, gen := 1, block := 0, hops := hops, ops := BitVec.ofNat 32 ops, route := 0x32, back := 0, lwin := 5, loff := 0, lhalf := 64, data := 0xABCD }

def collState : State :=
  let s := takeState.setPart 0 { takeState.part 0 with colls := [coll0], collSends := [{ addr := 0x3000, desc := collDesc, gen := 0, next := 0, bytes := [] }] }
  { s with landings := [{ landOf [0, 1, 2, 3] (some (pkt 4 0)) with ack := false, mask := BitVec.allOnes 64 }], slotMask := (List.range 256).map (fun k => (k, (1 : Word))), ready := s.ready ||| 0x3FFC0#64 }

/-- An armed barrier's COLL has waited for CTMO; its record waits for a slot. -/
def pendOne (late : Option TrapRec) : CollPend := { addr := 0x3000, bar := 5, core := 0, bank := 0, sinceGt := 0, late := late, early := [], stack := none }
def pendState (late : Option TrapRec) : State :=
  let s := { collState with gt := 100000 }
  s.setPart 0 { s.part 0 with collPend := [pendOne late] }

def lateRec : TrapRec :=
  { cause := .extent, seq := 0, flags := 0, noCore := false, core := 0, bank := 0, dcc := 0, faddr := 0, fpc := 0, cutpc := [], seqno := [], titer := [], miter := [], tokens := [], fqDepth := 0 }

def collwWaits (i : Instr) : State :=
  let s := withCode collState i
  { waits s (.coll 1) with gt := 100000 }

theorem witness_CollectiveEvents :
    alive collState = true ∧ (collState.part ((collState.rxWin (pkt 1 1).lwin)).part).collPend = [] ∧ ((pkt 1 1).ops.extractLsb' 0 4).toNat = 1 ∧ (pkt 1 1).hops ≠ 0
    ∧ ((pkt 2 0).ops.extractLsb' 0 4).toNat = 2 ∧ (pkt 2 0).loff + (pkt 2 0).gen % 2 * (pkt 2 0).lhalf + 64 * (pkt 2 0).block + 64 ≤ (collState.rxWin 5).size
    ∧ rxAllows collState (collState.rxWin 5) 1 = true ∧ isRing collState 5 = false ∧ (collState.rxWin 5).state = 1
    ∧ (collState.landings[0]?).isSome = true ∧ collState.poison = [] ∧ collState.errs = [] ∧ wheelOpen collState 32 0 = true
    ∧ (match (collState.part 0).collSends[0]? with
      | some x => slotAt collState (cSlots x.desc) (cPort x.desc 0) && collState.ready.getLsbD (6 + cPort x.desc 0) | none => false) = true
    ∧ (collState.part 0).collCid? 9 = some coll0 ∧ coll0.genOf 0 < coll0.issued ∧ Sparse.get 0 coll0.acked (coll0.genOf 0) < cBlocks coll0.desc ∧ coll0.mlist.idxOf? 0 = some 0
    ∧ ((pendState none).part 0).collPend.findIdx? (fun x => x.late.isNone) = some 0 ∧ ((pendState none).part 0).collPend[0]? = some (pendOne none) ∧ 0 + (((pendState none).part 0).csrVal 0x103).toNat ≤ (pendState none).gt
    ∧ ((pendState (some lateRec)).part 0).collPend.findIdx? (fun x => x.late.isSome) = some 0 ∧ ((pendState (some lateRec)).part 0).collPend[0]? = some (pendOne (some lateRec)) ∧ lateBelow (pendState (some lateRec)) 0 512 = false
    ∧ ((pendState none).task? 0 0).any (fun t => (((pendState none).part 0).coll? 0x3000).any (fun c => membersReady (pendState none) c c.issued
        && (match readAs (pendReader 0 0) 0 t Ranges.ownHbm 64 (cBlocks c.desc) (cSrc c.desc) (pendState none) with | .ok _ => true | .error _ => false))) = true
    ∧ (let s := pendState none
       let s := s.setPart 0 { s.part 0 with colls := [{ coll0 with issued := 2 }] }
       (((s.part 0).coll? 0x3000).any (fun c => !membersReady s c c.issued)) = true)
    ∧ freeSlot ((pendState none).part 0) = some 0 ∧ (pendState none).populated (tqBase (pendState none) ((pendState none).part 0) + 128 * 0) 128 = true
    ∧ (∀ i ∈ [Instr.collw 0 ⟨5, 0, .simm 0x3000⟩, .collwRetire 0 ⟨5, 0, .zimm 0x3000⟩],
       waitsFor (collwWaits i) i = true ∧ ((collwWaits i).part 0).coll? 0x3000 = some coll0 ∧ coll0.done < coll0.issued
         ∧ coll0.issuedGt + (((collwWaits i).part 0).csrVal 0x103).toNat ≤ (collwWaits i).gt) := by
  decide +kernel

/-! ### Events from outside -/

def hostState : State := { cState with ready := cState.ready ||| 2#64 }
/-- A saved task of core 0 in bank 1, and a task of bank 0 that is held. -/
def extentState : State :=
  let s := cState.setTask 0 0 (some { placeTask .c with hold := .stopped })
  s.setPart 0 { s.part 0 with saved := [{ launch := 1, rank := 0, core := 0, bank := 1, prio := 0, slot := none, answered := false, extents := [], sig := 0, firstIssue := 0, failw := [], regions := [], atRegion := false, owed := [], pieces := [], wait := none }] }

theorem witness_TimeAndHostEvents :
    alive State.reset = true ∧ State.reset.timedisc = false ∧ State.reset.lockedOnce = false ∧ State.reset.populated (64 * 5) 64 = true ∧ Sparse.get 0 State.reset.poison 5 = 0
    ∧ (∀ e ∈ State.reset.parts, e.2.present = false) ∧ (∃ e ∈ hostState.parts, e.2.present = true)
    ∧ (let s : State := { State.reset with errs := [(5, 1), (6, 2)] }; Sparse.get 0 s.errs 5 = 1 ∧ Sparse.get 0 s.errs 6 = 2 ∧ s.populated (64 * 6) 64 = true)
    ∧ hostUp hostState = true ∧ hostRefused hostState 0x5000 8 = false ∧ hostRefused hostState (2 ^ 48) 8 = true ∧ State.reset.populated (2 ^ 48) 8 = false
    ∧ mailRuns hostState.mailbox = false ∧ mailRuns hostState.hostbox = false ∧ mailRuns [(0, 0xFF00)] = true
    ∧ (({ cState with timedisc := true, lockedOnce := true } : State).timedisc = true) ∧ (({ State.reset with bootstat := 1 } : State).bootstat.extractLsb' 0 4).toNat = 1
    ∧ (match extentState.task? 0 0 with | some t => t.hold != .none | none => false) = true ∧ (match hostState.task? 0 0 with | some t => t.hold == .none | none => false) = true
    ∧ extentState.parts.any (fun e => e.2.saved.any (fun x => x.core == 0 && x.bank == 1)) = true
    ∧ (let s := { hostState with errs := [(0x140, 1), (0x141, 2)] }
       alive s = true ∧ hostUp s = true ∧ hostRefused s 0x5000 128 = false ∧ Sparse.get 0 s.errs 0x140 % 4 = 1 ∧ Sparse.get 0 s.errs 0x141 % 4 = 2)
    ∧ (mState.task? 0 0).any (fun t => t.fq.length == 3 && t.bad.isEmpty) = true := by
  decide +kernel

theorem witness_BootAndSupplies :
    alive State.reset = true ∧ ((({ State.reset with bootstat := 1 } : State).bootstat).extractLsb' 0 4).toNat = 1
    ∧ (({ State.reset with ready := 32 } : State).ready).getLsbD 5 = true ∧ islandTimed State.reset 31 = false
    ∧ (let s := cState.setPart 0 { cState.part 0 with launches := [{ launchOf 1 0 .started with desc := BitVec.ofNat 2048 (2 ^ (8 * 68)) }] }; islandTimed s 0 = true) := by
  decide +kernel

/-- A partition with a launch that may start its second bank, and one that is over. -/
def partState : State :=
  let s := { cState with hbm := putBytes (putBytes cState.hbm 0x4008 (leBytes 4 16)) 0x401C (leBytes 4 16) }
  s.setPart 0 { s.part 0 with block := 0x4000, launches := [launchOf 3 0 .prepared], nextId := 4 }

def overLaunch : Launch := { launchOf 3 0 .over with ranksOver := [0], coresStarted := [0], dccStart := 1 }
def overState : State := partState.setPart 0 { partState.part 0 with launches := [overLaunch] }
def acceptedState : State := partState.setPart 0 { partState.part 0 with launches := [launchOf 3 0 .accepted] }
/-- One descriptor waits in the launch queue at 0x20000. -/
def queueState : State := { partState with hbm := putBytes (putBytes partState.hbm 0x4000 (leBytes 8 0x20000)) 0x4010 (leBytes 4 1) }

theorem witness_LaunchEvents :
    alive partState = true ∧ (partState.part 0).present = true ∧ mailRuns partState.mailbox = false ∧ mailRuns partState.hostbox = false
    ∧ blk partState 0 8 4 < ((17#32).toNat + 2 ^ 32 - blk partState 0 12 4) % 2 ^ 32 ∧ ((16#32).toNat + 2 ^ 32 - blk partState 0 12 4) % 2 ^ 32 ≤ blk partState 0 8 4
    ∧ lqCount partState 0 = 0 ∧ lqCount queueState 0 = 0 + 1 ∧ cpFree (queueState.part 0) = true ∧ cpFree (acceptedState.part 0) = false ∧ (queueState.part 0).lqOwn = []
    ∧ partState.populated 0x5000 256 = true ∧ partState.populated (2 ^ 48) 256 = false ∧ 0 < blk partState 0 8 4
    ∧ (let s := { queueState with hbm := putBytes queueState.hbm 0x4010 (leBytes 4 16) }; blk s 0 8 4 ≤ lqCount s 0)
    ∧ (let s := { queueState with hbm := putBytes queueState.hbm 0x4010 (leBytes 4 0) }
       lqCount s 0 = 0 ∧ (s.part 0).block + 128 ≤ blk s 0 0 8 + 256 * (blk s 0 16 4 % max 1 (blk s 0 8 4)))
    ∧ (acceptedState.part 0).launches.find? (fun m => m.stage == .accepted) = some (launchOf 3 0 .accepted) ∧ (acceptedState.part 0).launch? 3 = some (launchOf 3 0 .accepted)
    ∧ overlaps (acceptedState.part 0) (launchOf 3 0 .accepted) = false ∧ (acceptedState.part 0).resv.length < 64
    ∧ (partState.part 0).launch? 3 = some (launchOf 3 0 .prepared) ∧ freeBank (partState.core 0) = some 1 ∧ freeBank (partState.core 7) = some 0
    ∧ (partState.part 0).stopped = false ∧ 0 ∈ coresOf 0 (partState.part 0) ∧ 7 ∈ coresOf 0 (partState.part 0) ∧ gate (partState.part 0) (launchOf 3 0 .prepared) = true
    ∧ displacedFirst (partState.part 0) 0 (launchOf 3 0 .prepared) = false
    ∧ (overState.part 0).launches.find? (fun m => m.stage != .final) = some overLaunch ∧ (overState.part 0).launch? 3 = some overLaunch ∧ signs (overState.part 0) overLaunch = false
    ∧ overLaunch.dccStart ≠ 0 ∧ overLaunch.coresStarted ≠ [] ∧ partState.poison = [] ∧ partState.errs = []
    ∧ partState.parts.find? (fun e => e.2.present && (match e.2.launch? 3 with | some m => !m.over | none => false)) = some (0, partState.part 0)
    ∧ overLaunch.toRead = [] ∧ ({ overLaunch with toRead := [0] } : Launch).toRead ≠ []
    ∧ (let l := { overLaunch with toRead := [0, 15], extents := [(0, { Extent.reset with valid := true, range := 0, pbase := 0x6000, npages := 0 })] }
       let s := { partState.setPart 0 { partState.part 0 with launches := [l] } with errs := [(0x180, 2)] }
       (s.part 0).launch? 3 = some l ∧ wheelOpen s 16 0 = true ∧ wheelOpen { s with wheels := [(16 * 64 + s.mcc % 64, 0x81)] } 16 0 = false ∧ Sparse.get 0 s.errs (0x6000 / 64) % 4 = 2)
    ∧ permitted (partState.part 0) false = true ∧ permitted (partState.part 0) true = false := by
  and_intros <;> decide +kernel

/-- Core 0 holds two tasks, the running one with a record of class 0 or 1 in slot 0. -/
def heldState (cls : Nat) : State :=
  let s := busyState.setTask 0 0 (some { placeTask .c with hold := .record 0 })
  { s.setPart 0 { s.part 0 with tq := [{ slot := 0, core := 0, bank := 0, noTask := false, cls := cls, gt := 0 }] } with gt := 2000000 }

/-- The cut of the task leaves a stream to run. -/
def lives (s : State) : Bool := match (cutTask s 0 0).1.task? 0 0 with | some k => !allEnded k | none => true

/-- A copy that finds no port open keeps a flit of core 0. -/
def stuckState : State := { busyState with flits := [flit0] }
def lateState (core : Nat) (r : TrapRec) : State := busyState.setTask core 0 (some { placeTask .c with late := some r })

theorem witness_TrapEvents :
    (let s := { busyState with gt := 2000000 }
     alive s = true ∧ s.flits = [] ∧ s.poison = [] ∧ s.errs = [] ∧ freeSlot (s.part 0) = some 0 ∧ s.populated (tqBase s (s.part 0) + 128 * 0) 128 = true ∧ lives s = true
       ∧ s.populated (saveAddr s 0 0 0) imageEnd = true ∧ ((s.part 0).tqBlock + 56 ≤ tqBase s (s.part 0) + 128 * 0) ∧ mailRuns s.mailbox = false ∧ mailRuns s.hostbox = false
       ∧ (match s.task? 0 0 with
         | some t => t.hold == .none && t.c.stream == .running && boundOver s 0 0 t 0 && [t.c, t.t, t.v, t.m].all (fun u => u.stores.isEmpty)
         | none => false) = true)
    ∧ (∀ cls ∈ [0, 1, 2], let s := heldState cls
       (match s.task? 0 0, (s.part 0).tq.find? (fun e => e.slot == 0) with
        | some t, some x => t.hold == .record 0 && x.cls == cls && x.core == 0 && x.bank == 0 && !x.noTask && !allEnded t && (cls != 0 || boundOver s 0 0 t x.gt)
        | _, _ => false) = true)
    ∧ ((heldState 0).part 0).present = true ∧ ((heldState 0).part 0).saved = [] ∧ ((heldState 0).part 0).stopped = false ∧ ((heldState 0).part 0).tqBlock + 8 ≤ tqBase (heldState 0) ((heldState 0).part 0) + 128 * 0 + 5
    ∧ (heldState 0).populated 0x600000 imageEnd = true ∧ flitsStay stuckState 0 0 = true
    ∧ (∀ r ∈ [lateRec, { lateRec with cause := .preempt }], let s := lateState 0 r
       (match s.task? 0 0 with | some t => t.late == some r && t.hold == .none | none => false) = true ∧ lateBelow s 0 0 = false ∧ lateBelow s 0 3 = true ∧ lives s = true ∧ freeSlot (s.part 0) = some 0)
    ∧ (∀ fs ∈ [[], [flit0]], let t := { placeTask .c with late := some lateRec, cutting := true }
       let s := { busyState.setTask 0 0 (some t) with flits := fs }
       s.task? 0 0 = some t ∧ t.hold = .none ∧ trapHeld s 0 0 t lateRec.seq lateRec.cause = !fs.isEmpty)
    ∧ (busyState.task? 0 0).any (fun t => mayCut busyState 0 0 t && !mayCut stuckState 0 0 t && t.hold == .none && !t.cutting) = true
    ∧ busyState.task? 5 0 = none ∧ (busyState.task? 0 1).any (fun t => t.hold == .none) = true ∧ busyState.bankOf 0 = 0 := by
  decide +kernel

/-- Stacks and clusters are ready; a partition block at 0x4000 and a queue block at 0x8000. -/
def bareState : State :=
  { State.reset with ready := 0x40000#64, ready1 := 0xFF, mcc := 5,
                     hbm := putBytes (putBytes (putBytes (putBytes (putBytes [] 0x4008 (leBytes 4 16)) 0x401C (leBytes 4 16)) 0x4030 (leBytes 4 16)) 0x8000 (leBytes 8 0x10000)) 0x8030 (leBytes 8 0x200000) }

/-- Core 1 is empty; its task of launch 3 is saved. -/
def savedState : State :=
  partState.setPart 0 { partState.part 0 with
    launches := [{ launchOf 3 0 .started with coresStarted := [0, 1] }],
    saved := [{ launch := 3, rank := 1, core := 1, bank := 0, prio := 0, slot := none, answered := false, extents := [], sig := 0, firstIssue := 0, failw := [], regions := [], atRegion := false, owed := [], pieces := [], wait := none }] }

/-- A task of launch 3 gave up its core. -/
def yieldedState : State :=
  savedState.setPart 0 { savedState.part 0 with saved := [], yielded :=
    [{ launch := 3, rank := 1, core := 0, pcs := [0x100, 0, 0, 0], streams := [.running, .ended, .ended, .ended], tok := [], key := 5, sa := 1, vals := [7, 8], sd := 5, seqno := [1, 0, 0, 0], regions := [0, 0, 0, 0], firstIssue := 0 }] }

theorem witness_PartitionEvents :
    alive bareState = true ∧ (bareState.part 0).present = false ∧ regpartStatus bareState 0 0 0x4000 false = 0 ∧ regpartStatus bareState 0 7 0x4000 false ≠ 0
    ∧ mailRuns bareState.mailbox = false ∧ mailRuns bareState.hostbox = false
    ∧ (partState.part 0).present = true ∧ idle (bareState.part 0) = true
    ∧ (let s := bareState.setPart 0 placePart; (s.part 0).present = true ∧ idle (s.part 0) = true ∧ tqBlockOk s 0x8000 = true)
    ∧ savedState.parts.find? (fun e => e.2.present && (coresOf e.1 e.2).contains 1) = some (0, savedState.part 0) ∧ savedState.task? 1 0 = none ∧ (savedState.part 0).yielded = []
    ∧ (savedState.part 0).saved.length = 1 ∧ (savedState.part 0).launch? 3 = some { launchOf 3 0 .started with coresStarted := [0, 1] } ∧ (savedState.part 0).stopped = false
    ∧ (∀ m ∈ (savedState.part 0).launches, 1 ∈ m.coresStarted) ∧ savedState.poison = [] ∧ savedState.errs = [] ∧ imageBad savedState (saveAddr savedState 0 1 0) = none
    ∧ partNat savedState (saveAddr savedState 0 1 0 + 0xF76) 1 = 0
    ∧ (yieldedState.part 0).saved = [] ∧ (match (yieldedState.part 0).yielded with | [y] => y.pcs.length == 4 && y.streams.length == 4 && y.seqno.length == 4 && y.regions.length == 4 && ((yieldedState.part 0).launch? y.launch).isSome | _ => false) = true
    ∧ yieldedState.parts.find? (fun e => e.2.present && (coresOf e.1 e.2).contains 1) = some (0, yieldedState.part 0) := by
  decide +kernel

/-! ### The machine -/

/-- ADD s5, s1, s2 stands at the PC of C, and C has the turn. -/
def addState : State := { withCode cState (.add 0 rr) with agenda := [.seq 0 .c] }
def recordState : State := { started vState .v (.vld 0 (.record ldRec)) id with agenda := [.seq 0 .v] }

theorem witness_StepRunsDecoded :
    (let s0 := { addState with agenda := [] }
     onTurn s0 0 .c = some (turnOf s0 0 .c) ∧ (turnOf s0 0 .c).me.prog = none ∧ decode .c (encode (.add 0 rr)) = .ok (.add 0 rr)
       ∧ (encode (.add 0 rr)).mapIdx (fun k w => (match fetchParcel (turnOf s0 0 .c) 0 .c (turnOf s0 0 .c).here (placeVa + 4 * k), checkAccess (turnOf s0 0 .c) 0 (turnOf s0 0 .c).here Ranges.hbmOnly .fetch (placeVa + 4 * k) 4 4 with
         | .ok x, .ok p => x == w && wheelMet (turnOf s0 0 .c) 0 p | _, _ => false)) = [true, true]
       ∧ opcLens .c 0 = some [1, 2] ∧ s0.pick = none ∧ s0.errs = [] ∧ (turnOf s0 0 .c).me.stores = [] ∧ (turnOf s0 0 .c).me.pend = [] ∧ (turnOf s0 0 .c).here.part = 0
       ∧ (fetchNow (turnOf s0 0 .c) 0 .c).2 = some (.run (.add 0 rr)))
    ∧ (let s0 := (turnOf { cState with hbm := putBytes cState.hbm placePa (leBytes 4 0xC0000000) } 0 .c)
       (match fetchNow s0 0 .c with | (_, some (.trap c _ _)) => c == .illegalForm | _ => false) = true)
    ∧ (let s0 := { recordState with agenda := [] }
       onTurn s0 0 .v = some (turnOf s0 0 .v) ∧ (turnOf s0 0 .v).me.prog.isSome = true)
    ∧ isEvent .pwrok = true ∧ isEvent (.add 0 rr) = false := by
  decide +kernel

theorem witness_EncodeDecodeRoundTrip : (inSpace .c (.add 0 rr) = true ∧ (Instr.add 0 rr).WellFormed) ∧ inSpace .m (.mma 0 mmaRec) = true ∧ (Instr.mma 0 mmaRec).WellFormed := by
  unfold Instr.WellFormed
  decide +kernel

theorem witness_DecodeIsExact : decode .c [0x40000304#32, 0x08000000#32, 5#32] = .ok (.add 0 ⟨3, 1, .reg 2⟩) := by decide +kernel

theorem witness_StepKeepsMemoryCanonical : MemoryCanonical State.reset ∧ (match step { State.reset with agenda := [.clock 1 1] } with | .next s => s.mcc == 1 | _ => false) = true :=
  ⟨⟨by decide +kernel, fun _ => rfl⟩, by decide +kernel⟩

/-! ### Ill-formed terms that the field checks refuse -/

/-- Each term of the list is ill-formed. -/
def allBad (l : List Instr) : Bool := l.all (fun i => !fieldsOk i)

def reg2 : COp := ⟨5, 1, .reg 2⟩
def imm2 : COp := ⟨5, 1, .simm 2⟩
def zim2 : COp := ⟨5, 1, .zimm 2⟩
def big2 : COp := ⟨5, 1, .imm64 2⟩

theorem test_illformed_integers : allBad [.li 0 reg2, .li 0 imm2, .clz 0 reg2, .clz 0 imm2, .popc 0 reg2, .bext 0 imm2, .bext 0 ⟨5, 1, .zimm 0xFC1⟩, .bext 0 ⟨5, 1, .zimm 0x1000⟩,
    .bins 0 reg2, .bins 0 ⟨5, 1, .zimm 0xFC1⟩] = true := by decide +kernel

theorem test_illformed_branches : allBad [.j 0 imm2, .j 0 ⟨0, 1, .simm 2⟩, .j 0 ⟨0, 0, .zimm 2⟩, .jal 0 imm2, .jr 0 reg2, .beq 0 zim2, .bne 0 reg2, .blt 0 big2, .bge 0 zim2, .bltu 0 reg2, .bgeu 0 zim2, .bbs 0 reg2] = true := by
  decide +kernel

theorem test_illformed_memory : allBad [.ldb 0 reg2, .ldh 0 zim2, .ldw 0 reg2, .ldd 0 big2, .ldbu 0 zim2, .ldhu 0 reg2, .ldwu 0 zim2, .stb 0 reg2, .sth 0 zim2, .stw 0 reg2, .std 0 zim2, .ldsc 0 reg2, .stsc 0 zim2] = true := by
  decide +kernel

theorem test_illformed_engines : allBad [.start 0 false false false, .param 0 ⟨0, 1, .reg 2⟩, .param 0 ⟨4, 1, .reg 2⟩, .param 0 ⟨1, 1, .imm64 2⟩, .fmtq 0 ⟨1, 1, .reg 0⟩, .fmtq 0 ⟨0, 1, .reg 2⟩, .fmtq 0 ⟨0, 1, .imm64 3⟩,
    .sig 0 0 1, .sig 0 1 0, .wait 0 0 1, .wait 0 2 0, .semadd 0 big2, .semwait 0 big2, .semset 0 big2, .barm 0 reg2, .binit 0 big2, .qfence 0 0, .rfence 0 reg2, .rfence 0 imm2, .waitt 0 big2,
    .rdcc 0 reg2, .rdgt 0 ⟨5, 1, .reg 0⟩, .align 0 ⟨1, 1, .zimm 2⟩, .align 0 ⟨0, 1, .zimm 1⟩, .align 0 ⟨0, 1, .zimm 32⟩, .align 0 ⟨0, 1, .simm 2⟩] = true := by decide +kernel

theorem test_illformed_tasks : allBad [.launch 0 reg2, .child 0 zim2, .yield 0 ⟨5, 1, .zimm 9⟩, .yield 0 ⟨5, 0, .zimm 1⟩, .yield 0 ⟨5, 60, .zimm 5⟩, .csrr 0 ⟨5, 1, .zimm 0⟩, .csrr 0 ⟨5, 0, .zimm 0xFFF⟩,
    .csrr 0 ⟨5, 0, .zimm 0x1000⟩, .csrw 0 ⟨5, 1, .zimm 0xFFF⟩, .csrw 0 imm2, .setkey 0 reg2, .coll 0 reg2, .collw 0 zim2, .collwRetire 0 imm2, .spore 0 reg2, .sorw 0 zim2, .a2a 0 reg2, .wmap 0 zim2, .wunmap 0 reg2, .lrecall 0 reg2] = true := by
  decide +kernel

theorem test_illformed_common : allBad [.bnzd 0 (.s 0) 4, .bnzd 0 (.x 0) 4, .pop 0 0, .xadd 0 ⟨3, 1, 1, 5⟩, .xadd 0 ⟨0, 1, 0, 5⟩] = true := by decide +kernel

theorem test_illformed_vector : allBad [.vadd 0 (vop 5 0 (.reg 9)), .vsub 0 (vop 0 1 (.reg 9)), .vmul 0 (vop 10 0 (.reg 9)), .vfma 0 (vop 7 0 (.reg 9)), .vfms 0 (vop 3 0 (.reg 9)), .vdiv 0 (vop 9 0 (.reg 9)),
    .vmin 0 ⟨0, 2, 8, 0, 1, 0, .reg 9⟩, .vmax 0 (vop 5 0 (.reg 9)), .vabs 0 (vop 0 0 (.reg 9)), .vneg 0 (vop 0 0 (.reg 9)), .vsqrt 0 (vop 0 0 (.reg 9)), .vrcp 0 (vop1 5 0 (.reg 9)), .vrsq 0 (vop1 0 1 (.reg 9)),
    .vexp2 0 (vop 0 0 (.reg 9)), .vlog2 0 (vop1 7 0 (.reg 9)), .vmov 0 (vop1 10 0 (.reg 9)), .viadd 0 (vop 0 0 (.reg 9)), .visub 0 (vop 5 2 (.reg 9)), .vimul 0 (vop 1 0 (.reg 9)), .vand 0 (vop 11 0 (.reg 9)),
    .vor 0 (vop 5 1 (.reg 9)), .vxor 0 ⟨0, 2, 8, 5, 1, 0, .reg 9⟩, .vshl 0 (vop 0 0 (.reg 9)), .vshr 0 (vop 5 1 (.reg 9)), .vsra 0 (vop 2 0 (.reg 9)), .vimin 0 (vop 0 0 (.reg 9)), .vimax 0 (vop 5 1 (.reg 9)),
    .vcmp 0 ⟨0, 0x073, 8, 0, 0, 0, .reg 9⟩, .vcmp 0 ⟨0, 0x083, 8, 0, 0, 0, .reg 9⟩, .vcmp 0 ⟨0, 0x203, 8, 0, 0, 0, .reg 9⟩, .vsel 0 (vop 0 3 (.lit 9)), .pset 0 2 2, .pcnt 0 0 1] = true := by decide +kernel

theorem test_illformed_vector_moves : allBad [.vcvt 0 ⟨0, 20, 0, 1, 0, 10, .reg 30⟩, .vcvt 0 ⟨0, 1023, 0, 0, 0, 1, .reg 30⟩, .vqnt 0 ⟨0, 12, 40, 0, 1, 5, .reg 8⟩, .vdqnt 0 ⟨0, 12, 40, 5, 0, 5, .reg 8⟩, .vsrnd 0 ⟨0, 2, 0, 0, 0, 0, .reg 9⟩,
    .vrsum 0 (vop1 6 0 (.reg 9)), .vrmax 0 (vop 0 0 (.reg 9)), .vrmin 0 (vop1 0 1 (.reg 9)), .vdot 0 (vop 5 0 (.reg 9)), .vperm 0 (vop 0 1 (.reg 9)), .vslide 0 (vop 0 0 (.kbank 32)), .vbcast 0 (vop 0 0 (.reg 64)),
    .vzip 0 (vop 0 2 (.reg 9)), .vunzip 0 (vop 0 2 (.reg 9)), .vld 0 (.two ⟨0, 7, 1, 2, 10, 0⟩), .vst 0 (.two ⟨0, 7, 1, 2, 0, 1⟩), .vlds 0 (.two ⟨0, 7, 1, 2, 15, 3⟩), .vsts 0 (.two ⟨0, 7, 1, 2, 11, 3⟩),
    .vgath 0 (.two ⟨0, 7, 1, 9, 0, 1⟩), .vscat 0 (.record { stRec with aux0 := 1, b := operand 9 0 }), .vld 0 (.record { ldRec with stamp := 1 }), .vst 0 (.record { stRec with a := operand 1024 1 }),
    .kld 0 ⟨0, 769, 1, 255, 0, 0⟩, .kld 0 ⟨1, 0, 1, 255, 0, 0⟩, .vsetvlReg 0 4 1 2 8, .vsetvlReg 0 0 1 2 4, .loopv 0 0 4, .rotset 0 65, .vz 0 (.two ⟨0, 12, 2, 3, 5, 3, 0, true, 1⟩), .vzacc 0 (.two ⟨0, 12, 2, 3, 5, 0, 0, true, 2⟩),
    .vunif 0 (.two ⟨0, 12, 2, 3, 5, 0, 0, true, 1⟩), .vcat 0 ⟨0, 12, 0, 3, 9, 1, 0, false, 0⟩, .vdrop 0 (.two ⟨0, 12, 0, 3, 5, 0, 0, false, 7⟩), .vz 0 (.record { zRec with aux1 := 1 })] = true := by decide +kernel

theorem test_illformed_transfer : allBad [.ldx 0 { cpRec with stamp := 1 }, .stx 0 { cpRec with bmsel := 1 }, .cpx 0 { cpRec with opm := 4 }, .mcx 0 cpRec, .mcx 0 { cpRec with aux0 := 256 }, .gthx 0 (mappedRec cpRec 1),
    .sctx 0 { cpRec with aux2 := 1 }, .bmx 0 cpRec, .bmld 0 ⟨1, 1, 1, 0⟩, .bmld 0 ⟨0, 1, 8, 0⟩, .scacc 0 cpRec, .sccfg 0 ⟨0, 0, 0, 0x602⟩, .sccfg 0 ⟨0, 0, 0, 0x506⟩, .zfx 0 cpRec, .zfx 0 { blankRec with aux0 := 256 },
    .tagx 0 ⟨1, 1, 0, 0⟩, .tagx 0 ⟨0, 1, 0, 0x1000000⟩] = true := by decide +kernel

theorem test_illformed_matrix : allBad [.wld 0 { wldRec with opm := 1 }, .wld 0 { wldRec with aux0 := 1 }, .mma 0 { mmaRec with b := operand 1 0 }, .mma 0 { mmaRec with aux1 := 0x80 }, .gate 0 { gateRec with opm := 4 },
    .gate 0 { gateRec with aux2 := 1 }, .adrn 0 { adrnRec with opm := 8 }, .adrn 0 { adrnRec with aux2 := 0x10000 }, .azero 0 3 0, .achk 0 3 0, .asave 0 { imageSave with trip0 := 3183 }, .asave 0 { imageSave with aux0 := 1 },
    .aload 0 imageSave, .avset 0 ⟨0, 3, 4, 7⟩, .avset 0 ⟨0, 3, 2, 0x10000⟩, .epsset 0 ⟨0, 1, 7, 0⟩, .epsset 0 ⟨0, 0, 8, 0⟩] = true := by decide +kernel

/-! ### Words of the spec, bit by bit -/

/-- The words decode to the instruction, and to nothing else of a space. -/
def reads (q : SeqId) (ps : List Parcel) (i : Instr) : Bool := decode q ps == .ok i

/-- R30: ADD s3, s1, s2; ADD s3, s1, 100 wait=t sig=m; LI; BNE. R266: BEXT and DIV of the worked program. R267: J. -/
theorem test_decode_integers : (reads .c [0b01_00000000_00000000_000011_000001_00#32, 0b000010_00000000000000000000000000#32] (.add 0 ⟨3, 1, .reg 2⟩)
    && reads .c [0x400A0305#32, 0x64#32] (.add 0x28 ⟨3, 1, .simm 100⟩) && reads .c [0x85800502#32, 0x89ABCDEF#32, 0x01234567#32] (.li 0 ⟨5, 0, .imm64 0x0123456789ABCDEF⟩)
    && reads .c [0x49000711#32, 0xFFFFFFF4#32] (.bne 0 ⟨7, 4, .simm (-12)⟩) && reads .c [0x46800313#32, 0xC8#32] (.bext 0 ⟨3, 4, .zimm 0xC8⟩)
    && reads .c [0x42C00214#32, 0x18000000#32] (.div 0 ⟨2, 5, .reg 6⟩) && reads .c [0x48000001#32, 0#32] (.j 0 ⟨0, 0, .simm 0⟩)) = true := by decide +kernel

/-- R268, R271 to R282. -/
theorem test_decode_control : (reads .c [0x4CC00109#32, 0x40#32] (.ldd 0 ⟨1, 2, .simm 0x40⟩) && reads .c [0b00_01000000_00000000_0000000000_111_0#32] (.start 0 true true true)
    && reads .c [0x50400111#32, 0#32] (.param 0 ⟨1, 4, .simm 0⟩) && reads .c [0b00_01000011_00000000_11_0000_00000011#32] (.sig 0 3 3) && reads .c [0x11003001#32] (.wait 0 3 1)
    && reads .c [0x51400301#32, 1#32] (.semadd 0 ⟨3, 0, .simm 1⟩) && reads .c [0x52C00501#32, 0x40#32] (.binit 0 ⟨5, 0, .simm 0x40⟩) && reads .c [0x12000005#32] (.arrive 0 5) && reads .c [0x1300000A#32] (.qfence 0 10)
    && reads .c [0x13400002#32] (.fence 0 2) && reads .c [0x54000719#32, 0x1F4#32] (.waitt 0 ⟨7, 6, .simm 500⟩) && reads .c [0x54C00017#32, 0x1E#32] (.align 0 ⟨0, 5, .zimm 0x1E⟩)) = true := by decide +kernel

/-- R283 to R287, R193, R248, R249, and the common group of R41. -/
theorem test_decode_tasks : (reads .c [0x56000911#32, 0#32] (.launch 0 ⟨9, 4, .simm 0⟩) && reads .c [0x16C0002A#32] (.trap 0 42) && reads .c [0x57800710#32, 0#32] (.setkey 0 ⟨7, 4, .reg 0⟩)
    && reads .c [0x57000303#32, 0#32] (.csrr 0 ⟨3, 0, .zimm 0⟩) && reads .c [0x58800911#32, 0#32] (.spore 0 ⟨9, 4, .simm 0⟩) && reads .c [0x58C10A19#32, 0#32] (.sorw 4 ⟨10, 6, .simm 0⟩)
    && reads .m [0x38108000#32] (.nop 0x42) && reads .t [0x39800800#32] (.pop 0 4) && reads .t [0x3840000C#32] (.idle 0 12) && reads .t [0x38C00000#32] (.endStream 0) && reads .v [0x79000000#32, 0xFFFFFFD9#32] (.jmp 0 (-39))
    && reads .c [0x79400600#32, 4#32] (.bnzd 0 (.s 6) 4)) = true := by decide +kernel

/-- R33: the worked vector forms; R146 to R164, R196. -/
theorem test_decode_vector : (reads .v [0b01_00000011_00000000_0010_0000001000#32, 0b0000001001_0000001010_0000_01_0_0000_0#32] (.vfma 0 ⟨2, 8, 9, 0, 1, 0, .reg 10⟩)
    && reads .v [0x40C00008#32, 0b0000001001_00111111000000000000_0_1#32] (.vfma 0 ⟨0, 8, 9, 0, 0, 0, .imm20 0x3F000⟩) && reads .v [0x80C00008#32, 0x02400040#32, 0x3E2AAAAB#32] (.vfma 0 ⟨0, 8, 9, 0, 1, 0, .lit 0x3E2AAAAB⟩)
    && reads .v [0x42800403#32, 0x00007020#32] (.vsqrt 0 ⟨1, 3, 0, 0, 0, 0, .kbank 7⟩) && reads .v [0x44000003#32, 0x01005702#32] (.viadd 0 ⟨0, 3, 4, 7, 0, 1, .reg 5⟩)
    && reads .v [0x48000023#32, 0x01005000#32] (.vcmp 0 ⟨0, 0x23, 4, 0, 0, 0, .reg 5⟩) && reads .v [0x48400006#32, 0x01C0800A#32] (.vsel 0 ⟨0, 6, 7, 0, 0, 5, .reg 8⟩) && reads .v [0x08800412#32] (.pand 0 4 1 2)
    && reads .v [0x4C000014#32, 0x0001E140#32] (.vcvt 0 ⟨0, 20, 0, 1, 1, 0, .reg 30⟩) && reads .v [0x4E000832#32, 0x9000#32] (.vrsum 0 ⟨2, 50, 0, 0, 0, 0, .reg 9⟩)) = true := by decide +kernel

theorem test_decode_vector_moves : (reads .v [0x50400002#32, 0x00420000#32] (.vslide 0 ⟨0, 2, 1, 0, 0, 0, .reg 32⟩) && reads .v [0x52000007#32, 0x18002000#32] (.vld 0 (.two ⟨0, 7, 3, 2, 0, 0⟩))
    && reads .v [0x52800008#32, 0x1800000A#32] (.vlds 0 (.two ⟨0, 8, 3, 0, 0, 5⟩)) && reads .v [0x53800000#32, 0x10005000#32] (.kld 0 ⟨0, 0, 2, 5, 0, 0⟩) && reads .v [0x140000FF#32] (.vsetvl 0 255)
    && reads .v [0x14800002#32] (.rotset 0 2) && reads .v [0x54400003#32, 0xFFFFA000#32] (.loopv 0 3 (-6)) && reads .v [0x5600000C#32, 0x10C05022#32] (.vz 0 (.two ⟨0, 12, 2, 3, 5, 0, 0, true, 1⟩))) = true := by decide +kernel

/-- R40 and R106 to R119: the worked record of LDX.bf16, the one of BMX, and the short forms of T. -/
theorem test_decode_transfer : (reads .t [0xC0061001#32, 0x0003003F#32, 0, 0, 0x4000#32, 0x00400001#32, 0, 5#32, 0x10000001#32, 0, 0, 0, 0, 0, 0, 0]
      (.ldx 0x18 { blankRec with opm := 1, trip0 := 63, trip1 := 3, d := { operand 0x4000 1 with s1 := 64 }, a := { operand 5 1 with br := true, s1 := 4096 } })
    && reads .t [0xC1860222#32, 15#32, 0, 0, 0x2000#32, 1#32, 0, 0x1000#32, 1#32, 0, 0, 0, 0, 0, 0, 0]
      (.bmx 0x18 { blankRec with bmsel := 1, opm := 2, trip0 := 15, d := operand 0x2000 1, a := { operand 0x1000 1 with bm := true } })
    && reads .t [0x42400000#32, 0x502#32] (.sccfg 0 ⟨0, 0, 0, 0x502⟩) && reads .t [0x42C00060#32, 0x100A5#32] (.tagx 0 ⟨0, 6, 0, 0x100A5⟩) && reads .t [0x41C00041#32, 0#32] (.bmld 0 ⟨0, 4, 1, 0⟩)) = true := by decide +kernel

/-- The worked tile program of the matrix chapter, the GATE of the circuit program, ASAVE and the short forms of M. -/
theorem test_decode_matrix : (reads .m [0xC0040000#32, 3#32, 0, 0, 0, 1#32, 0, 0, 0, 0, 0x2000#32, 2#32, 0, 0, 0, 0x00100000#32]
      (.wld 0x10 { blankRec with trip0 := 3, d := operand 0 1, b := operand 0x2000 2, aux2 := 0x00100000 })
    && reads .m [0xC0400000#32, 1#32, 0, 0, 0, 1#32, 0, 0x1000#32, 4#32, 0, 0, 0, 0, 1#32, 0x100#32, 3#32]
      (.mma 0 { blankRec with trip0 := 1, d := operand 0 1, a := operand 0x1000 4, aux0 := 1, aux1 := 0x100, aux2 := 3 })
    && reads .m [0xC0C04004#32, 1#32, 0, 1#32, 0x3000#32, 2#32, 0, 0, 1#32, 0, 0, 0, 0, 1#32, 0x100#32, 0]
      (.adrn 1 { blankRec with opm := 4, trip0 := 1, stamp := 1, d := operand 0x3000 2, a := operand 0 1, aux0 := 1, aux1 := 0x100 })
    && reads .m [0xC088C601#32, 7#32, 0, 0, 0x8000#32, 2#32, 0, 0x8000#32, 2#32, 0, 0x9100#32, 0, 0, 0x00010001#32, 0, 0]
      (.gate 0x23 { blankRec with opm := 1, trip0 := 7, d := { operand 0x8000 2 with bm := true }, a := { operand 0x8000 2 with bm := true }, b := operand 0x9100 0, aux0 := 0x10001 })
    && reads .m [0xC1C02004#32, 0xC70#32, 0, 0, 4#32, 1#32, 0, 0, 0, 0, 0, 0, 0, 0, 0, 0] (.asave 0 { blankRec with opm := 4, trip0 := 3184, d := { operand 4 1 with br := true } })
    && reads .m [0x01000000#32] (.aswap 0 0) && reads .m [0x0140000A#32] (.azero 0 2 2) && reads .m [0x01800004#32] (.achk 0 1 0) && reads .m [0x02800000#32] (.fdrop 0 0)
    && reads .m [0x42400001#32, 7#32] (.avset 0 ⟨0, 0, 1, 7⟩) && reads .m [0x42C00002#32, 0x3A800000#32] (.epsset 0 ⟨0, 0, 2, 0x3A800000⟩)) = true := by decide +kernel

/-- R46 and the table after it: an unassigned opcode, ADD with a record's length, a reserved bit of XK 00. -/
theorem test_decode_refuses : (decode .c [0x3F800000#32] == .error .opcode && decode .c (List.replicate 16 0xC0000000#32) == .error .form && decode .c [0x40000304#32, 0x08000001#32] == .error .field) = true := by
  decide +kernel

/-! ### Single steps -/

/-- `i` answers a next state at `s`, and its task meets `p`. -/
def gives (s : State) (i : Instr) (p : Task → Bool) : Bool :=
  match exec i s with | .next s' => (s'.task? s.cur.core 0).any p | _ => false

/-- cState has s1 = 7 and s2 = -3. R265, R266. -/
theorem test_integers : (gives cState (.add 0 ⟨5, 1, .simm (-8)⟩) (fun t => t.c.reg 5 == -1) && gives cState (.mulh 0 rr) (fun t => t.c.reg 5 == -1) && gives cState (.div 0 ⟨5, 2, .simm 2⟩) (fun t => t.c.reg 5 == -1)
    && gives cState (.div 0 ⟨5, 1, .simm 0⟩) (fun t => t.c.reg 5 == -1) && gives cState (.rem 0 ⟨5, 2, .simm 2⟩) (fun t => t.c.reg 5 == -1) && gives cState (.sra 0 ⟨5, 2, .simm 65⟩) (fun t => t.c.reg 5 == -2)
    && gives cState (.sltu 0 rr) (fun t => t.c.reg 5 == 1) && gives cState (.slt 0 rr) (fun t => t.c.reg 5 == 0) && gives cState (.add 0 ⟨0, 1, .simm 1⟩) (fun t => t.c.reg 0 == 0)
    && gives cState (.clz 0 ⟨5, 1, .reg 0⟩) (fun t => t.c.reg 5 == 61) && gives cState (.bext 0 ⟨5, 1, .zimm 0x41⟩) (fun t => t.c.reg 5 == 3)) = true := by decide +kernel

/-- R267, R31: s2 = -3 is less than 7 as a signed number only; the target is counted from the head. -/
theorem test_branches : (gives cState (.blt 0 ⟨1, 2, .simm (-4)⟩) (fun t => t.c.pc == 0xFFFFFFFFFF0) && gives cState (.bltu 0 ⟨1, 2, .simm (-4)⟩) (fun t => t.c.pc == 0x100000000008)
    && gives cState (.jal 0 ⟨5, 0, .simm 6⟩) (fun t => t.c.pc == 0x100000000018 && t.c.reg 5 == 0x100000000008)) = true := by decide +kernel

/-- R268: the byte 0x80 at 0x1008 is -128 or 128. -/
theorem test_loads : (let s := withSpad cState 0x1008 [0x80]
    gives s (.ldb 0 mem) (fun t => t.c.reg 5 == -128) && gives s (.ldbu 0 mem) (fun t => t.c.reg 5 == 128)) = true := by decide +kernel

/-- R263, R26, R103: a store into the own scratchpad is in memory two cycles after its issue; C's next load in its granule comes after it. -/
def later (n : Nat) (s : State) : State := { s with mcc := s.mcc + n }

theorem test_store_then_load :
    (match exec (.sth 0 ⟨1, 3, .simm 8⟩) cState with
      | .next s => getByte (s.core 0).spad 0x1008 == 0 && gives (later 1 s) (.ldb 0 mem) (fun t => t.c.reg 5 == 0 && t.c.wait.isSome) && gives (later 2 s) (.ldb 0 mem) (fun t => t.c.reg 5 == 7)
          && (match exec (.storePerformed 0 .c 0) (later 1 s) with | .next s2 => getByte (s2.core 0).spad 0x1008 == 0 | _ => false)
          && (match exec (.storePerformed 0 .c 0) (later 2 s) with | .next s2 => getByte (s2.core 0).spad 0x1008 == 7 | _ => false)
      | _ => false) = true := by decide +kernel

/-- R328, R332: a misaligned load takes slot 0 of the trap queue: the task is held with its record at the load, which wrote nothing. -/
theorem test_trap_entry :
    (match exec (.ldw 0 ⟨5, 3, .simm 1⟩) cState with
      | .next s => (s.task? 0 0).any (fun t => t.hold == .record 0 && t.c.pc == 0x100000000000 && t.c.reg 5 == 0) && s.out == [.interrupt 0 0]
      | _ => false) = true := by decide +kernel

/-- R144: 2.0 - 1.0 = 1.0 in FP32 at each element, four ticks later. -/
theorem test_vector_sub : gives (at0 .v (fun t => { vTask t with vreg := [(8, 0x40000000), (9, 0x3F800000)], vl := 3 })) (.vsub 0 (vop 0 0 (.reg 9)))
    (fun t => t.v.pend == [{ pendOf 0 4 [.v 2 15 0x3F800000] [] with pc := 0x100000000000 }]) = true := by decide +kernel

/-- R188: the case that the chapter works out, and the draws of the spores program. R240: the check value over "123456789". -/
theorem test_draws_and_crc : lichen 7 1 6 = 0xF577A6B4 ∧ lichen 7 1 4 = 0x3FCB0C8B ∧ lichen 11 1 5 = 0xB4B40FCD ∧ crc32 [0x31, 0x32, 0x33, 0x34, 0x35, 0x36, 0x37, 0x38, 0x39] = 0xCBF43926 := by decide +kernel

/-- R170: ASWAP exchanges the banks of accumulator 2 and advances its version 5. -/
theorem test_aswap : gives mState (.aswap 0 2) (fun t => (t.accBank 2 0).elem 1 2 == ⟨9, 0⟩ && (t.accBank 2 1).elem 0 0 == ⟨7, 0⟩ && t.ver 2 == 6) = true := by decide +kernel

/-- R114: with one bit of kind 1 at place 0, logical 1 is core 1's scratchpad at the base; logical 2 is beyond the bits, and skipped. R63: 1 + 2^-24 is a tie, which
goes to the even 1. R71: 2^-150 rounds to 0 in FP32, with UF and NX. -/
theorem test_map_and_rounding :
    (let m : BitVec 1024 := BitVec.ofNat 1024 (2 ^ 768 + 2 ^ 13)
     mapAddr m 0x40 1 true = .addr (0x8000000 + 0x800000 + 0x40) ∧ mapAddr m 0x40 0 true = .addr (0x8000000 + 0x40) ∧ mapAddr m 0x40 2 true = .skip ∧ mapAddr m 0x800000 1 false = .bad 0x800000)
    ∧ addRne fp32 0x3F800000 0x33800000 = (0x3F800000, 1) ∧ (roundTo fp32 .rne false (fExp2 (.fin true 150 0 false)).1) = (0, 1) ∧ (fp32.decode 0x7F800000 = .inf false) := by decide +kernel

theorem test_exp2_flags : gives (at0 .v (fun t => { vTask t with vreg := [(9, 0xC3160000)], vl := 3 })) (.vexp2 0 (vop1 0 0 (.reg 9)))
    (fun t => t.v.pend.map (fun p => (p.writes, p.flags)) == [([.v 2 15 0], 3)]) = true := by decide +kernel

end Sys2Proof.Tests
end

/-! ### What the sorus agent leaves unchanged

Whatever the agent sends or writes when a flit of its own is acknowledged, it touches memory, the ring, landings and messages: never a core, a partition
or a window entry; and the flits that it opens are its own (R242). -/

namespace Sys2Proof.Machine

/-- The cores, partitions and window entries stay, and every new flit is one of the agent. -/
structure AgentFrame (s s' : State) : Prop where
  cores : s'.cores = s.cores
  parts : s'.parts = s.parts
  tx : s'.tx = s.tx
  rx : s'.rx = s.rx
  flits : ∀ f ∈ s'.flits, f ∈ s.flits ∨ f.core = agentCore

theorem AgentFrame.of_flits {s s' : State} (hc : s'.cores = s.cores) (hp : s'.parts = s.parts) (ht : s'.tx = s.tx) (hr : s'.rx = s.rx)
    (hf : s'.flits = s.flits) : AgentFrame s s' := ⟨hc, hp, ht, hr, fun _ h => .inl (hf ▸ h)⟩

theorem AgentFrame.refl (s : State) : AgentFrame s s := .of_flits rfl rfl rfl rfl rfl

theorem AgentFrame.trans {s u v : State} (h : AgentFrame s u) (k : AgentFrame u v) : AgentFrame s v :=
  ⟨k.cores.trans h.cores, k.parts.trans h.parts, k.tx.trans h.tx, k.rx.trans h.rx, fun f hf => (k.flits f hf).elim (h.flits f) .inr⟩

theorem AgentFrame.fold {α : Type} (f : State → α → State) (hf : ∀ s a, AgentFrame s (f s a)) (l : List α) (s : State) : AgentFrame s (l.foldl f s) :=
  List.foldlRecOn (motive := AgentFrame s) l f (.refl s) (fun _ h a _ => h.trans (hf _ a))

theorem AgentFrame.ite {s a b : State} {c : Prop} [Decidable c] (ha : AgentFrame s a) (hb : AgentFrame s b) : AgentFrame s (if c then a else b) := by
  split
  · exact ha
  · exact hb

theorem findErrors_agentFrame (s : State) (a n : Nat) : AgentFrame s (findErrors s a n) :=
  AgentFrame.fold _ (fun s e => by split <;> exact .of_flits rfl rfl rfl rfl rfl) _ s

theorem storeLine_agentFrame (s : State) (a : Nat) (bs : List Byte) (whole : Bool) : AgentFrame s (storeLine s a bs whole) := by
  unfold storeLine
  split
  · exact .of_flits rfl rfl rfl rfl rfl
  · split
    · exact .of_flits rfl rfl rfl rfl rfl
    · dsimp only
      split <;> exact (findErrors_agentFrame s _ _).trans (.of_flits rfl rfl rfl rfl rfl)

theorem storeHbm_agentFrame (whole : Bool) (n : Nat) (s : State) (a : Nat) (bs : List Byte) : AgentFrame s (storeHbm whole n s a bs) := by
  induction n generalizing s a bs with
  | zero => exact .refl s
  | succ n ih =>
    unfold storeHbm
    split
    · exact .refl s
    · exact (storeLine_agentFrame s _ _ _).trans (ih _ _ _)

theorem ringWrite_agentFrame (s : State) (off : Nat) (r : BitVec 256) : AgentFrame s (ringWrite s off r) := by
  unfold ringWrite
  split
  · exact storeHbm_agentFrame _ _ s _ _
  · exact .refl s

/-- A change of the sorus alone. -/
theorem sorus_agentFrame (s : State) (x : Sorus) : AgentFrame s { s with sorus := x } := .of_flits rfl rfl rfl rfl rfl

theorem bad_agentFrame (s : State) : AgentFrame s (bad s) := sorus_agentFrame s _

theorem ringTable_agentFrame (s : State) (t : SorStep) (m : Option Nat) (off : Nat) (r : BitVec 256) : AgentFrame s (ringTable s t m off r) := by
  have stays := AgentFrame.refl s
  have counts := bad_agentFrame s
  have writes := ringWrite_agentFrame s off r
  unfold ringTable
  cases m with
  | none => exact .ite (.ite writes (.ite stays counts)) (.ite (sorus_agentFrame s _) (sorus_agentFrame s _))
  | some m => exact .ite (.ite writes (.ite stays counts)) (.ite (.ite counts (.ite stays (.ite counts writes))) (.ite counts writes))

theorem reviewStep_agentFrame (s : State) (n : Nat) : AgentFrame s (reviewStep s n) := by
  unfold reviewStep
  split
  · exact .refl s
  · next t _ =>
    have waited (u : State) (m : Option Nat) : AgentFrame u (t.held.foldl (fun s h => ringTable s t m h.1 h.2.1) u) :=
      AgentFrame.fold _ (fun s h => ringTable_agentFrame s _ _ _ _) _ _
    exact (sorus_agentFrame s _).trans ((AgentFrame.ite (waited _ _) (.refl _)).trans (sorus_agentFrame _ _))

theorem review_agentFrame (n : Nat) (s : State) : AgentFrame s (review n s) := by
  induction n generalizing s with
  | zero => exact .refl s
  | succ n ih =>
    have one : AgentFrame s (s.sorus.steps.foldl (fun s t => reviewStep s t.step) s) := AgentFrame.fold _ (fun s t => reviewStep_agentFrame s _) _ s
    unfold review
    exact .ite one (one.trans (ih _))

theorem openStep_agentFrame (s : State) (n : Nat) : AgentFrame s (openStep s n) := by
  unfold openStep
  dsimp only
  split
  · exact .refl s
  · split <;> exact .of_flits rfl rfl rfl rfl rfl

theorem ringArrive_agentFrame (s : State) (off : Nat) (r : BitVec 256) (direct : Option Nat) : AgentFrame s (ringArrive s off r direct) := by
  have opened := openStep_agentFrame s (recStep r)
  unfold ringArrive
  refine .ite (bad_agentFrame s) (opened.trans ?_)
  generalize openStep s (recStep r) = u
  dsimp only
  split
  · exact bad_agentFrame u
  · exact .ite (bad_agentFrame u) ((ringTable_agentFrame u _ _ _ _).trans (review_agentFrame _ _))

theorem ringFlit_agentFrame (s : State) (off : Nat) (mask : BitVec 64) (data : BitVec 512) (m : Nat) : AgentFrame s (ringFlit s off mask data m) :=
  AgentFrame.fold _ (fun s k => by
    exact .ite (.refl s) (.ite (ringArrive_agentFrame s _ _ _) (bad_agentFrame s))) _ s

theorem loopBack_agentFrame (s : State) (f : Flit) : AgentFrame s (loopBack s f) := by
  unfold loopBack landWindow
  exact .ite (.ite (ringFlit_agentFrame s _ _ _ _) (.of_flits rfl rfl rfl rfl rfl)) (.refl s)

theorem agentFlit_agentFrame (s : State) (win off : Nat) (r : BitVec 256) : AgentFrame s (agentFlit s win off r) := by
  have opened : ∀ f : Flit, f.core = agentCore → AgentFrame s { s with flits := s.flits ++ [f], nextFlit := s.nextFlit + 1 } :=
    fun f hf => ⟨rfl, rfl, rfl, rfl, fun g hg => (List.mem_append.mp hg).imp_right (fun h => (congrArg Flit.core (List.mem_singleton.mp h)).trans hf)⟩
  unfold agentFlit
  exact .ite ((opened _ (by rfl)).trans (loopBack_agentFrame _ _)) (opened _ (by rfl))

theorem pumpOne_agentFrame (n : Nat) (s : State) (x : SorSend) : AgentFrame s (pumpOne n s x).1 := by
  induction n generalizing s x with
  | zero => exact .refl s
  | succ n ih =>
    unfold pumpOne
    split
    · exact .refl s
    · split
      · exact (agentFlit_agentFrame s _ _ _).trans (ih _ _)
      · exact .refl s

theorem pumpList_agentFrame (s : State) (l : List SorSend) : AgentFrame s (pumpList s l).1 := by
  induction l generalizing s with
  | nil => exact .refl s
  | cons x xs ih =>
    unfold pumpList
    dsimp only
    split
    · exact (pumpOne_agentFrame _ s x).trans (ih _)
    · exact pumpOne_agentFrame _ s x

theorem agentWrites_agentFrame (n : Nat) (s : State) : AgentFrame s (agentWrites n s) := by
  induction n generalizing s with
  | zero => exact .refl s
  | succ n ih =>
    unfold agentWrites
    split
    · exact .refl s
    · exact .ite (((sorus_agentFrame s _).trans (ringArrive_agentFrame _ _ _ _)).trans (ih _)) (.refl s)

theorem agentRun_agentFrame (s : State) : AgentFrame s (agentRun s) :=
  ((pumpList_agentFrame s _).trans (sorus_agentFrame _ _)).trans (agentWrites_agentFrame _ _)

theorem agentAcked_agentFrame (s : State) (fid : Nat) : AgentFrame s (agentAcked s fid) :=
  (sorus_agentFrame s _).trans (agentRun_agentFrame _)

/-! ### Commands of the mailbox (R350) -/

/-- A command leaves everything but its copy of the mailbox. -/
@[simp] theorem mailDone_parts (s : State) (cmd status : Nat) (ops : List Nat) : (mailDone s false cmd status ops).parts = s.parts := rfl
@[simp] theorem mailDone_cores (s : State) (cmd status : Nat) (ops : List Nat) : (mailDone s false cmd status ops).cores = s.cores := rfl
@[simp] theorem mailDone_hbm (s : State) (cmd status : Nat) (ops : List Nat) : (mailDone s false cmd status ops).hbm = s.hbm := rfl
@[simp] theorem mailDone_part (s : State) (cmd status : Nat) (ops : List Nat) (n : Nat) : (mailDone s false cmd status ops).part n = s.part n := rfl

/-- Operands at offsets from `k` on leave the words below `k`. -/
theorem get_operands_below (ops : List Nat) (m : Sparse Word) (j k : Nat) (h : j < k) :
    Sparse.get 0 ((ops.zipIdx k).foldl (fun m x => Sparse.set 0 x.2 (BitVec.ofNat 64 x.1) m) m) j = Sparse.get 0 m j := by
  induction ops generalizing m k with
  | nil => rfl
  | cons x ops ih =>
    rw [List.zipIdx_cons, List.foldl_cons, ih _ (k + 1) (by omega), Sparse.get_set_other _ _ _ _ _ (by simp; omega)]

/-- Word 0 of the mailbox after a command: the command and its status. -/
@[simp] theorem mailDone_status (s : State) (cmd status : Nat) (ops : List Nat) :
    Sparse.get 0 (mailDone s false cmd status ops).mailbox 0 = BitVec.ofNat 64 (cmd + 256 * status) := by
  change Sparse.get 0 ((((cmd + 256 * status) :: ops).zipIdx).foldl (fun m x => Sparse.set 0 x.2 (BitVec.ofNat 64 x.1) m) s.mailbox) 0 = _
  rw [List.zipIdx_cons, List.foldl_cons, get_operands_below ops _ 0 1 (by omega), Sparse.get_set_same]

/-- An event that can happen. -/
theorem event_true {s : State} (h : alive s = true) (f : Host.Outcome State Fault Refusal) : event s true f = f := by simp [event, h]

section mailbox
variable {s : State} (ha : alive s = true) (hm : mailRuns s.mailbox = false) (hb : mailRuns s.hostbox = false)
include ha hm hb

/-- A command of Milnos that passes its checks, with no other one running. -/
theorem command_done (cmd : Nat) (ops : List Nat) (f : State → Host.Outcome State Fault Refusal) :
    command s false cmd ops 0 f = f (mailDone s false cmd 0 ops) := by
  simp [command, event, ha, hm, hb]

/-- One that a check refuses. -/
theorem command_refused (cmd : Nat) (ops : List Nat) {c : Nat} (hc : c ≠ 0) (f : State → Host.Outcome State Fault Refusal) :
    command s false cmd ops c f = .next (mailDone s false cmd c ops) := by
  simp [command, event, ha, hm, hb, hc]

end mailbox

/-! ### The cores and the window entries of a partition (R16, R126, R215) -/

/-- A core belongs to a partition of `2 ^ size` clusters from `first` on. -/
theorem mem_coresOf {first n : Nat} {p : Partition} : n ∈ coresOf first p ↔ 8 * first ≤ n ∧ n < 8 * first + 8 * 2 ^ p.size := by
  simp only [coresOf, upTo, List.mem_map, List.mem_range]
  exact ⟨fun ⟨i, hi, e⟩ => by omega, fun ⟨h1, h2⟩ => ⟨n - 8 * first, by omega, by omega⟩⟩

/-- The state with the cores of a list as after reset. -/
def clearCores (l : List Nat) (s : State) : State := l.foldl (fun s n => s.setCore n Core.reset) s

theorem core_clearCores (l : List Nat) (s : State) (n : Nat) : (clearCores l s).core n = if n ∈ l then Core.reset else s.core n := by
  unfold clearCores
  induction l generalizing s with
  | nil => simp
  | cons k l ih =>
    rw [List.foldl_cons, ih, State.core_setCore]
    by_cases h : n = k <;> simp [h]

/-- Clearing cores changes nothing but the cores. -/
theorem clearCores_eq (l : List Nat) (s : State) : clearCores l s = { s with cores := (clearCores l s).cores } :=
  List.foldlRecOn (motive := fun u : State => u = { s with cores := u.cores }) l (fun s n => s.setCore n Core.reset) rfl (fun u hu n _ => by rw [hu]; rfl)

@[simp] theorem part_clearCores (l : List Nat) (s : State) (n : Nat) : (clearCores l s).part n = s.part n := by rw [clearCores_eq]; rfl
@[simp] theorem hbm_clearCores (l : List Nat) (s : State) : (clearCores l s).hbm = s.hbm := by rw [clearCores_eq]
@[simp] theorem mailbox_clearCores (l : List Nat) (s : State) : (clearCores l s).mailbox = s.mailbox := by rw [clearCores_eq]
@[simp] theorem tx_clearCores (l : List Nat) (s : State) : (clearCores l s).tx = s.tx := by rw [clearCores_eq]
@[simp] theorem rx_clearCores (l : List Nat) (s : State) : (clearCores l s).rx = s.rx := by rw [clearCores_eq]
@[simp] theorem flits_clearCores (l : List Nat) (s : State) : (clearCores l s).flits = s.flits := by rw [clearCores_eq]

/-- A new partition. -/
def newPartition (s : State) (size addr : Nat) : Partition :=
  { Partition.absent with present := true, size := size, block := addr, mcc0 := (s.mcc + 1023) / 1024 * 1024 }

theorem createPartition_eq (s : State) (first size addr : Nat) :
    createPartition s first size addr
      = clearCores (coresOf first (newPartition s size addr)) (s.setPart first (newPartition s size addr)) := rfl

/-- Messages under a condition change nothing but the messages. -/
theorem sayEach_eq {α : Type} (c : α → Bool) (m : α → Msg) (l : List α) (s : State) :
    l.foldl (fun s x => if c x then s.say (m x) else s) s = { s with out := (l.foldl (fun s x => if c x then s.say (m x) else s) s).out } :=
  List.foldlRecOn (motive := fun u : State => u = { s with out := u.out }) l (fun s x => if c x then s.say (m x) else s) rfl
    (fun u hu x _ => by split; exacts [congrArg (State.say · (m x)) hu, hu])

/-- A transmit window entry that is freed: the entry, messages, and what is still asked for change. -/
theorem freeAsked_eq (s : State) (win : Nat) :
    freeAsked s win = { s.setTx win TxWin.free with out := (freeAsked s win).out, orphans := (freeAsked s win).orphans } := by
  unfold freeAsked
  dsimp only
  rw [sayEach_eq]
  rfl

/-- Freeing a list of entries changes, beside messages and what is still asked for, those entries. -/
theorem freeAll_frame (l : List Nat) (s : State) :
    let u := l.foldl freeAsked s
    u = { s with tx := u.tx, out := u.out, orphans := u.orphans } ∧ ∀ w, u.txWin w = if w ∈ l then TxWin.free else s.txWin w := by
  induction l generalizing s with
  | nil => exact ⟨rfl, fun w => by simp⟩
  | cons k l ih =>
    obtain ⟨he, hw⟩ := ih (freeAsked s k)
    rw [List.foldl_cons]
    refine ⟨?_, fun w => ?_⟩
    · rw [he, freeAsked_eq]; rfl
    · have one : (freeAsked s k).txWin w = if w = k then TxWin.free else s.txWin w := by
        rw [freeAsked_eq]; exact Sparse.get_set TxWin.free TxWin.free k w s.tx
      rw [hw, one]
      by_cases h : w = k <;> simp [h]

end Sys2Proof.Machine

/-! ### What a restored task goes on from (R284, R338, R342) -/

namespace Sys2Proof.Machine

/-- What every step of a fold keeps, the fold keeps. -/
theorem foldl_keeps {α β γ : Type} (g : β → γ) (f : β → α → β) (hf : ∀ b a, g (f b a) = g b) (l : List α) (b : β) : g (l.foldl f b) = g b :=
  List.foldlRecOn (motive := fun x => g x = g b) l f rfl (fun _ h a _ => (hf _ a).trans h)

/-- What of a task an image or its launch settles for good: nothing that is kept beside an image changes it. -/
structure Context where
  launch : Nat
  rank : Nat
  hold : Hold
  extents : Sparse Extent
  replay : Bool
  key : Word
  pc : BitVec 48
  regs : Sparse Word
  stream : Stream

def Task.context (t : Task) : Context := ⟨t.launch, t.rank, t.hold, t.extents, t.replay, t.key, t.c.pc, t.c.regs, t.c.stream⟩

/-- The last REGION of each sequencer. -/
def Task.lastRegions (t : Task) : List (BitVec 48) := [t.c, t.t, t.v, t.m].map (·.lastRegion)

/-! #### The image -/

/-- Storage that lists some values of a function by their keys. -/
theorem get_filterMap_keys {α : Type} (d : α) (g : Nat → Option α) (l : List Nat) (k : Nat) :
    Sparse.get d (l.filterMap (fun i => (g i).map (fun v => (i, v)))) k = if k ∈ l then (g k).getD d else d := by
  induction l with
  | nil => rfl
  | cons i l ih =>
    cases hg : g i with
    | none =>
      rw [List.filterMap_cons_none (by simp [hg]), ih]
      by_cases h : k = i <;> simp [h, hg]
    | some v =>
      rw [List.filterMap_cons_some (b := (i, v)) (by simp [hg]), Sparse.get, ih]
      by_cases h : k = i
      · simp [h, hg]
      · simp [h, Ne.symm h]

/-- A value of an image as sparse storage reads it. -/
theorem get_sparseOf {w : Nat} (n : Nat) (f : Nat → Nat) (k : Nat) (hk : k < n) : Sparse.get 0 (sparseOf n f : Sparse (BitVec w)) k = BitVec.ofNat w (f k) := by
  have listed : (sparseOf n f : Sparse (BitVec w))
      = (upTo n id).filterMap (fun i => (if BitVec.ofNat w (f i) = 0 then none else some (BitVec.ofNat w (f i))).map (fun v => (i, v))) := by
    unfold sparseOf
    congr 1
    funext i
    dsimp only
    split <;> rfl
  rw [listed, get_filterMap_keys, if_pos (by simpa [upTo] using hk)]
  split
  · next h => exact h.symm
  · rfl

/-- Register `r` of a sequencer of an image. -/
theorem reg_imageSeq (s : State) (a q n off : Nat) (u : Seq) (r : Nat) (h0 : 0 < r) (hn : r < n) :
    (imageSeq s a q n off u).reg r = BitVec.ofNat 64 (partNat s (a + (off + 8 * r)) 8) := by
  have hr : r ≠ 0 := by omega
  simp only [Seq.reg, hr, if_false, imageSeq]
  rw [Sparse.get_filter 0 (fun k => k != 0), get_sparseOf n _ r hn]
  simp [hr]

theorem imageRec_context (s : State) (a : Nat) (t : Task) (q : SeqId) (ctr bases map : Nat) (hq : q ≠ .c) :
    (imageRec s a t q ctr bases map).context = t.context := by
  cases q with
  | c => exact absurd rfl hq
  | t => rfl
  | v => rfl
  | m => rfl

/-- A bank that is read back is that of its launch and rank, in replay mode, with C and the KEY as the image holds them. -/
theorem readImage_context (s : State) (a : Nat) (t : Task) :
    (readImage s a t).context =
      let c := imageSeq s a 0 64 0 t.c
      ⟨t.launch, t.rank, t.hold, t.extents, true, BitVec.ofNat 64 (partNat s (a + 0xF80) 8), c.pc, c.regs, c.stream⟩ := by
  unfold readImage
  dsimp only
  split
  · rw [imageRec_context s a _ .m _ _ _ (by decide)]
    split
    · rw [imageRec_context s a _ .t _ _ _ (by decide)]; rfl
    · rfl
  · split
    · rw [imageRec_context s a _ .t _ _ _ (by decide)]; rfl
    · rfl

/-! #### What is kept beside it -/

/-- What a task goes on from that neither a single issue in progress nor a waiting instruction has a part in: its context, and where its regions began. -/
def Task.goesOnFrom (t : Task) : Context × List (BitVec 48) × Bool := (t.context, t.lastRegions, t.atRegion)

/-- The last REGION of each sequencer, as it was kept, and what V resumes at. -/
def restoreRegions (x : Saved) (t : Task) : Task :=
  let t := ([SeqId.c, .t, .v, .m].zip x.regions).foldl (fun t r => t.setSeq r.1 { t.seq r.1 with lastRegion := r.2 }) t
  { t with atRegion := x.atRegion, owed := x.owed, v := { t.v with regionNo := if x.atRegion then 1 else 0 } }

theorem restoreRegions_context (x : Saved) (t : Task) : (restoreRegions x t).context = t.context :=
  foldl_keeps Task.context (fun t (r : SeqId × BitVec 48) => t.setSeq r.1 { t.seq r.1 with lastRegion := r.2 })
    (fun t r => by rcases r with ⟨q, l⟩; cases q <;> rfl) _ t

theorem restoreRegions_lastRegions (x : Saved) (t : Task) (h : x.regions.length = 4) : (restoreRegions x t).lastRegions = x.regions := by
  obtain ⟨a, b, c, d, e⟩ : ∃ a b c d, x.regions = [a, b, c, d] := List.length_eq_four.mp h
  unfold restoreRegions
  rw [e]
  rfl

/-- Beside the regions, what is kept of a task concerns its tokens, a single issue in progress and a waiting instruction only. -/
theorem restoreKept_goesOnFrom (s : State) (x : Saved) (t : Task) : (restoreKept s x t).goesOnFrom = (restoreRegions x t).goesOnFrom := by
  have pieces : ∀ u : Task, (x.pieces.foldl (fun t p =>
      t.setSeq p.q { t.seq p.q with prog := (t.seq p.q).prog.map (fun r => { r with sent := p.sent, outs := p.outs }) }) u).goesOnFrom = u.goesOnFrom :=
    foldl_keeps Task.goesOnFrom _ (fun t p => by rcases p with ⟨q, _, _⟩; cases q <;> rfl) _
  have took (l : List Nat) (u : Task) : (l.foldl (fun t a => { t with resv := bump t.resv (tokKey a 0) 1 }) u).goesOnFrom = u.goesOnFrom :=
    foldl_keeps Task.goesOnFrom _ (fun _ _ => by rfl) l u
  have sent (l : List Nat) (u : Task) : (l.foldl (fun t b => { t with psig := bump t.psig (tokKey 0 b) 1 }) u).goesOnFrom = u.goesOnFrom :=
    foldl_keeps Task.goesOnFrom _ (fun _ _ => by rfl) l u
  unfold restoreKept
  dsimp only
  split
  · exact pieces _
  · exact (sent _ _).trans ((took _ _).trans (pieces _))

/-! #### A saved task in its bank -/

/-- The task that `restoreSaved` puts into the bank. -/
def savedTask (s : State) (part : Nat) (l : Launch) (x : Saved) : Task :=
  let a := saveAddr s part x.core x.bank
  let t := restoreKept s x (readImage s a { launchTask s part l x.rank with extents := x.extents, firstIssue := x.firstIssue })
  let t := (ids x.sig).foldl (fun t b => { t with tok := bump t.tok (tokKey 0 b) 1 }) t
  x.failw.foldl (fun t e => { t with failw := Sparse.set 0 e.1 (Sparse.get 0 t.failw e.1 ||| e.2) t.failw }) t

theorem savedTask_goesOnFrom (s : State) (part : Nat) (l : Launch) (x : Saved) :
    (savedTask s part l x).goesOnFrom
      = (restoreRegions x (readImage s (saveAddr s part x.core x.bank)
          { launchTask s part l x.rank with extents := x.extents, firstIssue := x.firstIssue })).goesOnFrom :=
  (foldl_keeps Task.goesOnFrom (fun t (e : Nat × Word) => { t with failw := Sparse.set 0 e.1 (Sparse.get 0 t.failw e.1 ||| e.2) t.failw })
    (fun _ _ => rfl) _ _).trans
    ((foldl_keeps Task.goesOnFrom (fun t b => { t with tok := bump t.tok (tokKey 0 b) 1 }) (fun _ _ => rfl) _ _).trans (restoreKept_goesOnFrom s x _))

theorem savedTask_context (s : State) (part : Nat) (l : Launch) (x : Saved) :
    (savedTask s part l x).context =
      let a := saveAddr s part x.core x.bank
      let c := imageSeq s a 0 64 0 (launchTask s part l x.rank).c
      ⟨l.id, x.rank, .none, x.extents, true, BitVec.ofNat 64 (partNat s (a + 0xF80) 8), c.pc, c.regs, c.stream⟩ :=
  ((congrArg Prod.fst (savedTask_goesOnFrom s part l x)).trans (restoreRegions_context x _)).trans (readImage_context s _ _)

theorem savedTask_atRegion (s : State) (part : Nat) (l : Launch) (x : Saved) : (savedTask s part l x).atRegion = x.atRegion :=
  congrArg (fun g => g.2.2) (savedTask_goesOnFrom s part l x)

theorem savedTask_lastRegions (s : State) (part : Nat) (l : Launch) (x : Saved) (h : x.regions.length = 4) :
    (savedTask s part l x).lastRegions = x.regions :=
  (congrArg (fun g => g.2.1) (savedTask_goesOnFrom s part l x)).trans (restoreRegions_lastRegions x _ h)

/-- Registers s1 to s63 are those of the image. -/
theorem savedTask_reg (s : State) (part : Nat) (l : Launch) (x : Saved) (r : Nat) (h0 : 0 < r) (hr : r < 64) :
    (savedTask s part l x).c.reg r = BitVec.ofNat 64 (partNat s (saveAddr s part x.core x.bank + 8 * r) 8) := by
  have himage := reg_imageSeq s (saveAddr s part x.core x.bank) 0 64 0 (launchTask s part l x.rank).c r h0 hr
  have hregs : (savedTask s part l x).c.regs = _ := congrArg Context.regs (savedTask_context s part l x)
  rw [Nat.zero_add] at himage
  rw [← himage, Seq.reg, Seq.reg, hregs]

/-! #### A task that yielded in its bank -/

/-- What YIELD kept of one sequencer: its PC, its stream, its SEQNO and its last REGION. -/
def putYielded (t : Task) (x : SeqId × BitVec 48 × Stream × Word × BitVec 48) : Task :=
  t.setSeq x.1 { t.seq x.1 with pc := x.2.1, lastRegion := x.2.2.2.2, stream := x.2.2.1, seqno := x.2.2.2.1 }

/-- The values that YIELD kept, in the registers from `sa` on. -/
def setRegs (sa : Nat) (vals : List (Word × Nat)) (u : Seq) : Seq := vals.foldl (fun c v => c.setReg (sa + v.2) v.1) u

theorem setRegs_pc (sa : Nat) (vals : List (Word × Nat)) (u : Seq) : (setRegs sa vals u).pc = u.pc := foldl_keeps Seq.pc _ (fun _ _ => Seq.setReg_pc ..) vals u
theorem setRegs_stream (sa : Nat) (vals : List (Word × Nat)) (u : Seq) : (setRegs sa vals u).stream = u.stream :=
  foldl_keeps Seq.stream _ (fun _ _ => Seq.setReg_stream ..) vals u
theorem setRegs_lastRegion (sa : Nat) (vals : List (Word × Nat)) (u : Seq) : (setRegs sa vals u).lastRegion = u.lastRegion :=
  foldl_keeps Seq.lastRegion _ (fun _ _ => Seq.setReg_lastRegion ..) vals u

/-- Values with numbers from `k` on leave the registers below `sa + k`. -/
theorem reg_setRegs_below (sa k r : Nat) (vals : List Word) (u : Seq) (h : r < sa + k) : (setRegs sa (vals.zipIdx k) u).reg r = u.reg r := by
  induction vals generalizing u k with
  | nil => rfl
  | cons v vals ih =>
    rw [List.zipIdx_cons]
    refine (ih (k + 1) (u.setReg (sa + k) v) (by omega)).trans ?_
    rw [Seq.reg_setReg, if_neg (by omega)]

/-- Value `i` stands in its register, but for register 0. -/
theorem reg_setRegs (sa k i : Nat) (v : Word) (vals : List Word) (u : Seq) (h : vals[i]? = some v) (h0 : sa + (k + i) ≠ 0) :
    (setRegs sa (vals.zipIdx k) u).reg (sa + (k + i)) = v := by
  induction vals generalizing u k i with
  | nil => simp at h
  | cons w vals ih =>
    rw [List.zipIdx_cons]
    cases i with
    | zero =>
      obtain rfl : w = v := by simpa using h
      refine (reg_setRegs_below sa (k + 1) (sa + (k + 0)) vals (u.setReg (sa + k) w) (by omega)).trans ?_
      rw [Seq.reg_setReg, if_pos ⟨rfl, h0⟩]
    | succ i =>
      have e : k + (i + 1) = k + 1 + i := by omega
      rw [e] at h0 ⊢
      exact ih (k + 1) i (u.setReg (sa + k) w) (by simpa using h) h0

/-- The task that `restoreYielded` puts into the bank. -/
def yieldedTask (s : State) (part : Nat) (l : Launch) (y : Yielded) : Task :=
  let t := ([SeqId.c, .t, .v, .m].zip (y.pcs.zip (y.streams.zip (y.seqno.zip y.regions)))).foldl putYielded
    { launchTask s part l y.rank with tok := y.tok, key := y.key, firstIssue := y.firstIssue }
  { t with c := (setRegs y.sa y.vals.zipIdx t.c).setReg y.sd 1 }

theorem restoreYielded_eq (s : State) (part core bank : Nat) (l : Launch) (y : Yielded) :
    restoreYielded s part core bank l y
      = switchBank ((s.setPart part { s.part part with yielded := (s.part part).yielded.filter (· != y) }).setTask core bank
          (some (yieldedTask s part l y))) core := rfl

/-- The task is that of its launch, with everything that YIELD kept, and 1 in s[SD]. -/
theorem yieldedTask_kept (s : State) (part : Nat) (l : Launch) (y : Yielded) (a b c d : BitVec 48) (hp : y.pcs = [a, b, c, d])
    (hs : y.streams.length = 4) (hn : y.seqno.length = 4) (hr : y.regions.length = 4) :
    let t := yieldedTask s part l y
    (t.launch = l.id ∧ t.rank = y.rank ∧ t.tok = y.tok ∧ t.key = y.key) ∧ (t.c.pc = a ∧ t.t.pc = b ∧ t.v.pc = c ∧ t.m.pc = d)
      ∧ [t.c, t.t, t.v, t.m].map (·.stream) = y.streams ∧ t.lastRegions = y.regions := by
  obtain ⟨s0, s1, s2, s3, es⟩ := List.length_eq_four.mp hs
  obtain ⟨n0, n1, n2, n3, en⟩ := List.length_eq_four.mp hn
  obtain ⟨r0, r1, r2, r3, er⟩ := List.length_eq_four.mp hr
  unfold yieldedTask
  rw [hp, es, en, er]
  refine ⟨⟨rfl, rfl, rfl, rfl⟩, ⟨?_, rfl, rfl, rfl⟩, ?_, ?_⟩
  · simp only [Seq.setReg_pc, setRegs_pc]; rfl
  · simp only [List.map_cons, List.map_nil, Seq.setReg_stream, setRegs_stream]; rfl
  · simp only [Task.lastRegions, List.map_cons, List.map_nil, Seq.setReg_lastRegion, setRegs_lastRegion]; rfl

theorem yieldedTask_sd (s : State) (part : Nat) (l : Launch) (y : Yielded) (h : y.sd ≠ 0) : (yieldedTask s part l y).c.reg y.sd = 1 := by
  simp [yieldedTask, Seq.reg_setReg, h]

theorem yieldedTask_vals (s : State) (part : Nat) (l : Launch) (y : Yielded) (i : Nat) (v : Word) (h : y.vals[i]? = some v) (h0 : y.sa + i ≠ 0)
    (hd : y.sa + i ≠ y.sd) : (yieldedTask s part l y).c.reg (y.sa + i) = v := by
  have kept (u : Seq) : (setRegs y.sa y.vals.zipIdx u).reg (y.sa + i) = v := by
    simpa using reg_setRegs y.sa 0 i v y.vals u h (by omega)
  simp [yieldedTask, Seq.reg_setReg, hd, kept]

/-! #### The bank that a core issues from -/

/-- The core goes to its other bank, or stays. -/
theorem switchBank_cases (s : State) (core : Nat) :
    switchBank s core = s ∨ switchBank s core = s.setCore core { s.core core with bank := 1 - (s.core core).bank } := by
  unfold switchBank
  dsimp only
  split
  · exact .inl rfl
  · split
    · exact .inr rfl
    · exact .inl rfl

@[simp] theorem switchBank_parts (s : State) (core : Nat) : (switchBank s core).parts = s.parts := by
  rcases switchBank_cases s core with h | h <;> rw [h]; rfl

@[simp] theorem switchBank_hbm (s : State) (core : Nat) : (switchBank s core).hbm = s.hbm := by
  rcases switchBank_cases s core with h | h <;> rw [h]; rfl

@[simp] theorem switchBank_spad (s : State) (core n : Nat) : ((switchBank s core).core n).spad = (s.core n).spad := by
  rcases switchBank_cases s core with h | h <;> rw [h]
  rw [State.core_setCore]
  split <;> simp [*]

@[simp] theorem switchBank_task? (s : State) (core n b : Nat) : (switchBank s core).task? n b = s.task? n b := by
  rcases switchBank_cases s core with h | h <;> rw [h]
  simp only [State.task?, State.core_setCore]
  split
  · next e => rw [e]; rfl
  · rfl

@[simp] theorem switchBank_part (s : State) (core n : Nat) : (switchBank s core).part n = s.part n := by simp [State.part]

/-- A task of which C runs is not over. -/
theorem endIfOver_running {s : State} {core bank : Nat} {t : Task} (ht : s.task? core bank = some t) (hr : t.c.stream = .running) :
    endIfOver s core bank = s := by
  simp [endIfOver, ht, allEnded, hr]

/-! #### The events -/

/-- Renaming the stores of a bank in flits changes nothing but the flits. -/
theorem moveFlits_task? (s : State) (core bank dst n b : Nat) : (s.moveFlits core bank dst).task? n b = s.task? n b := rfl
theorem moveFlits_core (s : State) (core bank dst n : Nat) : (s.moveFlits core bank dst).core n = s.core n := rfl
theorem moveFlits_part (s : State) (core bank dst n : Nat) : (s.moveFlits core bank dst).part n = s.part n := rfl
theorem moveFlits_hbm (s : State) (core bank dst : Nat) : (s.moveFlits core bank dst).hbm = s.hbm := rfl

/-- The state with the task of a saved one in a bank, and its stores in flits under the name of that bank. -/
def putBack (s : State) (part bank : Nat) (x : Saved) (t : Task) : State :=
  ((s.setPart part { s.part part with saved := (s.part part).saved.filter (· != x) }).setTask x.core bank (some t)).moveFlits x.core (2 + x.bank) bank

theorem putBack_task? (s : State) (part bank : Nat) (x : Saved) (t : Task) : (putBack s part bank x t).task? x.core bank = some t := by
  rw [putBack, moveFlits_task?, State.task?_setTask]

theorem putBack_saved (s : State) (part bank : Nat) (x : Saved) (t : Task) :
    ((putBack s part bank x t).part part).saved = (s.part part).saved.filter (· != x) := by
  rw [putBack, moveFlits_part, State.part_setTask, State.part_setPart_same]

theorem putBack_hbm (s : State) (part bank : Nat) (x : Saved) (t : Task) : (putBack s part bank x t).hbm = s.hbm := by
  rw [putBack, moveFlits_hbm, State.setTask_hbm, State.setPart_hbm]

theorem putBack_spad (s : State) (part bank : Nat) (x : Saved) (t : Task) (n : Nat) : ((putBack s part bank x t).core n).spad = (s.core n).spad := by
  rw [putBack, moveFlits_core, State.spad_setTask, State.core_setPart]

/-- Without a line in error, and with a good image, a saved task stands in the bank again. -/
theorem restoreSaved_eq (s : State) (part bank : Nat) (l : Launch) (x : Saved) (hp : s.poison = []) (he : s.errs = [])
    (hi : imageBad s (saveAddr s part x.core x.bank) = none) :
    restoreSaved s part bank l x = .next (switchBank (endIfOver (putBack s part bank x (savedTask s part l x)) x.core bank) x.core) := by
  have hc : correctAt s (.hbm (saveAddr s part x.core x.bank)) imageEnd = s := by simp [correctAt, he]
  unfold restoreSaved
  simp only [hp, he, List.filter_nil, List.append_nil, List.map_nil, List.find?_nil, hi, hc]
  rfl

/-- No launch starts on the core before what waits to come back. -/
theorem no_launch_starts_first {p : Partition} {core : Nat}
    (hg : ∀ m ∈ p.launches, gate p m = true → core ∈ m.coresStarted) (best : Nat × Nat) :
    p.launches.any (fun l => gate p l && !l.coresStarted.contains core && better (dPrio l.desc, l.id) best) = false := by
  refine List.any_eq_false.mpr (fun m hm => ?_)
  by_cases h : gate p m = true
  · simp [hg m hm h]
  · simp [h]

section restore
variable {s : State} {first core bank : Nat} {l : Launch} (ha : alive s = true)
  (hcore : partOfCore s core = some (first, s.part first)) (hb : bank < 2) (ht : s.task? core bank = none) (hs : (s.part first).stopped = false)
  (hg : ∀ m ∈ (s.part first).launches, gate (s.part first) m = true → core ∈ m.coresStarted)
include ha hcore hb ht hs hg

/-- The only task that waits for the core, saved and not behind a record, is restored. -/
theorem taskRestore_saved (x : Saved) (hy : (s.part first).yielded = []) (hx : (s.part first).saved = [x]) (hxc : x.core = core) (hxs : x.slot = none)
    (hl : (s.part first).launch? x.launch = some l) : execTaskRestore core bank s = restoreSaved s first bank l x := by
  have hmine : [x].filter (fun x => x.core == core && (x.slot.isNone || x.answered)) = [x] := by simp [hxc, hxs]
  unfold execTaskRestore
  simp only [hcore, hx, hy, hmine, List.map_cons, List.map_nil, List.append_nil, List.foldl_cons, List.foldl_nil, hb, ht, hs, no_launch_starts_first hg]
  simp [event_true ha, hl]

/-- The only task that waits for the core, after its YIELD, resumes. -/
theorem taskRestore_yielded (y : Yielded) (hx : (s.part first).saved = []) (hy : (s.part first).yielded = [y])
    (hl : (s.part first).launch? y.launch = some l) : execTaskRestore core bank s = .next (restoreYielded s first core bank l y) := by
  unfold execTaskRestore
  simp only [hcore, hx, hy, List.filter_nil, List.map_cons, List.map_nil, List.nil_append, List.foldl_cons, List.foldl_nil, hb, ht, hs, no_launch_starts_first hg]
  simp [event_true ha, hl]

end restore

end Sys2Proof.Machine

/-! ### Partitions and displaced tasks (O54) -/

namespace Sys2Proof

open Sys2Proof.Machine

section commands
variable {s : State} {first : Nat} (ha : alive s = true) (hq : mailRuns s.mailbox = false ∧ mailRuns s.hostbox = false)
include ha hq

/-- REGPART that passes its checks creates a partition whose DCC starts on the next multiple of 1,024 of MCC (R16, R126, R280, R350). -/
theorem regpart_creates (size addr : Nat) (hp : (s.part first).present = false) (hr : regpartStatus s first size addr false = 0) :
    exec (.regpart first size addr false) s = .next (createPartition (mailDone s false 1 0 [first, size, addr]) first size addr) := by
  rw [exec_regpart, execRegpart, hr, command_done ha hq.1 hq.2, mailDone_part, hp]
  rfl

/-- One that a check refuses tells the status, and nothing else. -/
theorem regpart_refused (size addr c : Nat) (hr : regpartStatus s first size addr false = c) (hc : c ≠ 0) :
    exec (.regpart first size addr false) s = .next (mailDone s false 1 c [first, size, addr]) := by
  rw [exec_regpart, execRegpart, hr, command_refused ha hq.1 hq.2 1 _ hc]

/-- REGTQ of a good block for an idle partition (R327, R350). -/
theorem regtq_registers (addr : Nat) (hp : (s.part first).present = true) (hi : idle (s.part first) = true) (hb : tqBlockOk s addr = true) :
    exec (.regtq first addr false) s
      = .next ((mailDone s false 2 0 [first, addr]).setPart first { s.part first with tqBlock := addr }) := by
  rw [exec_regtq, execRegtq]
  simp only [permitted, hp, hi, hb, Bool.not_false, Bool.true_or, Bool.not_true, Bool.false_eq_true, if_false, if_true]
  rw [command_done ha hq.1 hq.2, mailDone_part, hp]

end commands

/-- A multiple of 1,024 that is not below a cycle, and less than 1,024 after it. -/
theorem roundUp_1024 (n : Nat) : (n + 1023) / 1024 * 1024 % 1024 = 0 ∧ n ≤ (n + 1023) / 1024 * 1024 ∧ (n + 1023) / 1024 * 1024 < n + 1024 := by omega

/-- What the end of a partition leaves before the agent goes on: its window entries free, its flits gone, its cores clear (R215). -/
def destroyed (s : State) (first : Nat) : State :=
  let mine := (s.tx.filter (fun e => e.2.part == first)).map (·.1)
  let s1 := mine.foldl freeAsked { s with flits := s.flits.filter (fun f => !mine.contains f.win) }
  clearCores (coresOf first (s.part first)) ({ s1 with rx := s1.rx.filter (fun e => e.2.part != first) }.setPart first Partition.absent)

/-- The agent's flits of those windows then count as acknowledged. -/
theorem partitionDestroy_eq {s : State} {first : Nat} (ha : alive s = true) (hp : (s.part first).present = true) :
    ∃ gone : List Flit, exec (.partitionDestroy first) s = .next (gone.foldl (fun s f => agentAcked s f.id) (destroyed s first)) := by
  rw [exec_partitionDestroy, execPartitionDestroy, hp]
  exact ⟨_, event_true ha _⟩

/-- An entry that is listed for a key is among the entries; one that is not reads as free. -/
theorem txWin_mem (s : State) (w : Nat) : s.txWin w = TxWin.free ∨ (w, s.txWin w) ∈ s.tx := by
  unfold State.txWin
  rw [Sparse.get_eq_find]
  cases h : s.tx.find? (fun p => p.1 == w) with
  | none => exact .inl rfl
  | some e =>
    have hk : e.1 = w := by simpa using List.find?_some h
    exact .inr (hk ▸ List.mem_of_find?_eq_some h)

theorem destroyed_spec (s : State) (first : Nat) :
    let u := destroyed s first
    u.part first = Partition.absent
      ∧ (∀ n, n ∈ coresOf first (s.part first) → u.core n = Core.reset)
      ∧ (∀ w, u.txWin w ≠ TxWin.free → (u.txWin w).part ≠ first ∧ u.txWin w = s.txWin w)
      ∧ (∀ e ∈ u.rx, e.2.part ≠ first) ∧ ∀ f ∈ u.flits, f ∈ s.flits := by
  let mine := (s.tx.filter (fun e => e.2.part == first)).map (·.1)
  let s0 : State := { s with flits := s.flits.filter (fun f => !mine.contains f.win) }
  obtain ⟨hframe, hwin⟩ := freeAll_frame mine s0
  have htx (w : Nat) : (destroyed s first).txWin w = if w ∈ mine then TxWin.free else s.txWin w := by
    rw [← show s0.txWin w = s.txWin w from rfl, ← hwin w]
    simp only [State.txWin, destroyed, tx_clearCores, State.setPart_tx]
    rfl
  refine ⟨?_, fun n hn => ?_, fun w hw => ?_, fun e he => ?_, fun f hf => ?_⟩
  · simp [destroyed]
  · rw [destroyed, core_clearCores, if_pos hn]
  · rw [htx] at hw ⊢
    by_cases hm : w ∈ mine
    · exact absurd (if_pos hm) hw
    · rw [if_neg hm] at hw ⊢
      refine ⟨fun hp => hm ?_, rfl⟩
      exact List.mem_map.mpr ⟨(w, s.txWin w), List.mem_filter.mpr ⟨(txWin_mem s w).resolve_left hw, by simpa using hp⟩, rfl⟩
  · rw [destroyed, rx_clearCores, State.setPart_rx] at he
    simpa using (List.mem_filter.mp he).2
  · rw [destroyed, flits_clearCores, State.setPart_flits] at hf
    have hf0 : f ∈ s0.flits := by rw [hframe] at hf; exact hf
    exact (List.mem_filter.mp hf0).1

/-- What the agent does when a partition ends leaves what its end left, but for flits of its own. -/
theorem partitionDestroy_spec {s : State} {first : Nat} (ha : alive s = true) (hp : (s.part first).present = true) :
    ∃ s', exec (.partitionDestroy first) s = .next s' ∧ AgentFrame (destroyed s first) s' := by
  obtain ⟨gone, he⟩ := partitionDestroy_eq ha hp
  exact ⟨_, he, AgentFrame.fold (fun s (f : Flit) => agentAcked s f.id) (fun s f => agentAcked_agentFrame s f.id) gone _⟩

section restore
variable {s : State} {first core bank : Nat} {l : Launch} (ha : alive s = true)
  (hcore : partOfCore s core = some (first, s.part first)) (hb : bank < 2) (ht : s.task? core bank = none) (hs : (s.part first).stopped = false)
  (hg : ∀ m ∈ (s.part first).launches, gate (s.part first) m = true → core ∈ m.coresStarted)
include ha hcore hb ht hs hg

/-- A saved task of which C runs is back in its bank, and goes on from its image and what was kept beside it (R338, R342). -/
theorem taskRestore_saved_back (x : Saved) (hy : (s.part first).yielded = []) (hx : (s.part first).saved = [x]) (hxc : x.core = core) (hxs : x.slot = none)
    (hl : (s.part first).launch? x.launch = some l) (hp : s.poison = []) (he : s.errs = [])
    (hi : imageBad s (saveAddr s first core x.bank) = none) (hrun : partNat s (saveAddr s first core x.bank + 0xF76) 1 = 0) :
    ∃ s', exec (.taskRestore core bank) s = .next s' ∧ s'.task? core bank = some (savedTask s first l x) ∧ (s'.part first).saved = []
      ∧ SameMemory s s' := by
  subst hxc
  have hstream : (savedTask s first l x).c.stream = .running := by
    refine (congrArg Context.stream (savedTask_context s first l x)).trans ?_
    simp [imageSeq, hrun]
  rw [exec_taskRestore, taskRestore_saved ha hcore hb ht hs hg x hy hx rfl hxs hl, restoreSaved_eq s first bank l x hp he hi,
    endIfOver_running (putBack_task? ..) hstream]
  refine ⟨_, rfl, ?_, ?_, fun a => ?_, fun n a => ?_⟩
  · rw [switchBank_task?, putBack_task?]
  · rw [switchBank_part, putBack_saved, hx]
    simp
  · rw [switchBank_hbm, putBack_hbm]
  · rw [switchBank_spad, putBack_spad]

/-- A task that gave up its core is back in a bank of it (R284). -/
theorem taskRestore_yielded_back (y : Yielded) (hx : (s.part first).saved = []) (hy : (s.part first).yielded = [y])
    (hl : (s.part first).launch? y.launch = some l) :
    ∃ s', exec (.taskRestore core bank) s = .next s' ∧ s'.task? core bank = some (yieldedTask s first l y) ∧ (s'.part first).yielded = []
      ∧ SameMemory s s' := by
  rw [exec_taskRestore, taskRestore_yielded ha hcore hb ht hs hg y hx hy hl, restoreYielded_eq]
  refine ⟨_, rfl, ?_, ?_, fun a => by simp, fun n a => by simp⟩
  · rw [switchBank_task?, State.task?_setTask]
  · rw [switchBank_part, State.part_setTask, State.part_setPart_same]
    simp [hy]

end restore

/-- Settles O54: each command and event is an equation of its own; the rest is what the state that it names holds. -/
theorem partitionEvents : Obligations.PartitionEvents := by
  unfold Obligations.PartitionEvents
  intro s first ha
  refine ⟨?create, ?refuse, ?register, ?destroy, ?restore⟩
  case create =>
    intro size addr hq hp hr
    refine ⟨_, regpart_creates ha hq size addr hp hr, ?_⟩
    obtain ⟨hmul, hlow, hhigh⟩ := roundUp_1024 s.mcc
    have hpart (u : State) : (createPartition u first size addr).part first = newPartition u size addr := by simp [createPartition_eq]
    rw [hpart]
    refine ⟨?_, rfl, rfl, rfl, hmul, hlow, hhigh, rfl, rfl, fun n h1 h2 => ?_, ?_⟩
    · rw [createPartition_eq, mailbox_clearCores]; exact mailDone_status ..
    · rw [createPartition_eq, core_clearCores, if_pos (mem_coresOf.mpr ⟨h1, h2⟩)]
    · rw [createPartition_eq, hbm_clearCores, State.setPart_hbm, mailDone_hbm]
  case refuse =>
    intro size addr c hq hr hc
    exact ⟨_, regpart_refused ha hq size addr c hr hc, mailDone_status .., mailDone_parts .., mailDone_cores ..⟩
  case register =>
    intro addr hq hp hi hb
    exact ⟨_, regtq_registers ha hq addr hp hi hb, mailDone_status .., State.part_setPart_same ..⟩
  case destroy =>
    intro hp
    obtain ⟨s', he, hf⟩ := partitionDestroy_spec ha hp
    obtain ⟨hpart, hcores, hwins, hrx, hflits⟩ := destroyed_spec s first
    have htx (w : Nat) : s'.txWin w = (destroyed s first).txWin w := by rw [State.txWin, hf.tx]; rfl
    refine ⟨s', he, ?_, fun n h1 h2 => ?_, fun w hw => ?_, fun e h => ?_, fun f h => (hf.flits f h).imp_left (hflits f)⟩
    · rw [State.part, hf.parts]; exact hpart
    · rw [State.core, hf.cores]; exact hcores n (mem_coresOf.mpr ⟨h1, h2⟩)
    · rw [htx] at hw ⊢; exact hwins w hw
    · exact hrx e (hf.rx ▸ h)
  case restore =>
    intro core bank l hcore hb ht hs hg
    constructor
    · intro x hy hx hxc hxs hl hpoison herrs a himage hrun
      subst hxc
      obtain ⟨s', hstep, htask, hsaved, hmem⟩ := taskRestore_saved_back ha hcore hb ht hs hg x hy hx rfl hxs hl hpoison herrs himage hrun
      have hctx := savedTask_context s first l x
      exact ⟨s', _, hstep, htask, hsaved, hmem, congrArg Context.launch hctx, congrArg Context.rank hctx, congrArg Context.hold hctx,
        congrArg Context.extents hctx, congrArg Context.replay hctx, savedTask_atRegion s first l x, savedTask_lastRegions s first l x,
        congrArg Context.pc hctx, congrArg Context.key hctx, savedTask_reg s first l x⟩
    · intro y a b c e hx hy hl hp hstr hseq hreg
      obtain ⟨s', hstep, htask, hyielded, hmem⟩ := taskRestore_yielded_back ha hcore hb ht hs hg y hx hy hl
      obtain ⟨⟨hlaunch, hrank, htok, hkey⟩, ⟨hc, ht, hv, hm⟩, hstreams, hregions⟩ := yieldedTask_kept s first l y a b c e hp hstr hseq hreg
      exact ⟨s', _, hstep, htask, hyielded, hmem, hlaunch, hrank, htok, hkey, hc, ht, hv, hm, hstreams, hregions, yieldedTask_sd s first l y,
        fun i v h h0 hd => yieldedTask_vals s first l y i v h h0 hd⟩

end Sys2Proof

/-! ### The encoding (O56, O57, O58) -/

namespace Sys2Proof

/-! #### Parcels from their fields -/

/-- Two fields that stand next to each other are one field. -/
theorem field_join {w s₁ s₂ n m : Nat} {x : BitVec w} (h : s₂ = s₁ + n) :
    x.extractLsb' s₂ m ++ x.extractLsb' s₁ n = x.extractLsb' s₁ (m + n) :=
  BitVec.extractLsb'_append_extractLsb'_eq_extractLsb' h

theorem extractLsb'_one {w : Nat} (x : BitVec w) (i : Nat) : x.extractLsb' i 1 = BitVec.ofBool (x.getLsbD i) := by
  apply BitVec.eq_of_getLsbD_eq
  intro j hj
  obtain rfl : j = 0 := by omega
  simp

/-- A head parcel is its length, its opcode, its SYN and F0. -/
theorem headOf_of_fields {h : Parcel} {l : BitVec 2} {o y : BitVec 8} {f : BitVec 14} (hl : hLen h = l) (ho : hOpc h = o)
    (hy : hSyn h = y) (hf : f = hF0 h) : headOf l o y f = h := by
  subst hl ho hy hf
  unfold headOf hLen hOpc hSyn hF0
  simp (disch := rfl) only [field_join]
  exact BitVec.extractLsb'_eq_self

theorem extra_zero : ∀ l : BitVec 2, extraParcels l = 0 → l = 0 := by decide
theorem extra_one : ∀ l : BitVec 2, extraParcels l = 1 → l = 1 := by decide
theorem extra_two : ∀ l : BitVec 2, extraParcels l = 2 → l = 2 := by decide
theorem extra_fifteen : ∀ l : BitVec 2, extraParcels l = 15 → l = 3 := by decide

/-! #### The forms -/

section forms
variable {h : Parcel} {r : List Parcel}

theorem parseCOp_exact {o : COp} (hr : r.length = extraParcels (hLen h)) (hp : parseCOp h r = some o) :
    encCOp (hOpc h) (hSyn h) o = h :: r := by
  have head (l k : BitVec 2) (hl : hLen h = l) (hk : (h.extractLsb' 0 2).toNat = k.toNat) :
      headOf l (hOpc h) (hSyn h) (h.extractLsb' 8 6 ++ h.extractLsb' 2 6 ++ k) = h := by
    refine headOf_of_fields hl rfl rfl ?_
    rw [← BitVec.eq_of_toNat_eq hk]
    simp (disch := rfl) only [field_join]
    rfl
  unfold parseCOp at hp
  dsimp only at hp
  split at hp
  · next p1 hk =>
    split at hp
    · next hz =>
      obtain rfl := Option.some.inj hp
      have : p1.extractLsb' 26 6 ++ 0#26 = p1 := by
        rw [show 0#26 = p1.extractLsb' 0 26 from (beq_iff_eq.mp hz).symm]
        simp (disch := rfl) only [field_join]
        exact BitVec.extractLsb'_eq_self
      simp only [encCOp, head 1 0#2 (extra_one _ hr.symm) hk, this]
    · cases hp
  · next p1 hk =>
    obtain rfl := Option.some.inj hp
    simp only [encCOp, head 1 1#2 (extra_one _ hr.symm) hk]
  · next p1 hk =>
    obtain rfl := Option.some.inj hp
    simp only [encCOp, head 1 3#2 (extra_one _ hr.symm) hk]
  · next p1 p2 hk =>
    obtain rfl := Option.some.inj hp
    obtain ⟨hhi, hlo⟩ := fields_words p2 p1
    simp only [encCOp, head 2 2#2 (extra_two _ hr.symm) hk, hhi, hlo]
  · cases hp

theorem parseE2_exact {o : E2} (hr : r.length = extraParcels (hLen h)) (hp : parseE2 h r = some o) :
    encE2 (hOpc h) (hSyn h) o = h :: r := by
  unfold parseE2 at hp
  split at hp
  · obtain rfl := Option.some.inj hp
    unfold encE2
    rw [headOf_of_fields (extra_one _ hr.symm) rfl rfl]
    simp (disch := rfl) only [field_join]
    rfl
  · cases hp

/-- The head of a vector form: a predicate and a register. -/
theorem predHead_eq {l : BitVec 2} (hl : hLen h = l) : headOf l (hOpc h) (hSyn h) (h.extractLsb' 10 4 ++ h.extractLsb' 0 10) = h := by
  refine headOf_of_fields hl rfl rfl ?_
  simp (disch := rfl) only [field_join]
  rfl

/-- A bit that is known, as a field. -/
theorem bit_field {w : Nat} {x : BitVec w} {i : Nat} {b : Bool} (h : x.getLsbD i = b) : x.extractLsb' i 1 = BitVec.ofBool b := by
  rw [extractLsb'_one, h]

/-- The second parcel of V2R and V3L. -/
theorem v2rParcel_eq {p1 : Parcel} {vb : BitVec 10} {kb : BitVec 1} (hv : p1.extractLsb' 12 10 = vb) (hk : p1.extractLsb' 5 1 = kb)
    (h0 : p1.extractLsb' 0 1 = 0#1) :
    p1.extractLsb' 22 10 ++ vb ++ p1.extractLsb' 8 4 ++ p1.extractLsb' 6 2 ++ kb ++ p1.extractLsb' 1 4 ++ 0#1 = p1 := by
  rw [← hv, ← hk, ← h0]
  simp (disch := rfl) only [field_join]
  exact BitVec.extractLsb'_eq_self

/-- The second parcel of V2I. -/
theorem v2iParcel_eq {p1 : Parcel} (h1 : p1.extractLsb' 1 1 = 0#1) (h0 : p1.extractLsb' 0 1 = 1#1) :
    p1.extractLsb' 22 10 ++ p1.extractLsb' 2 20 ++ 0#1 ++ 1#1 = p1 := by
  rw [← h1, ← h0]
  simp (disch := rfl) only [field_join]
  exact BitVec.extractLsb'_eq_self

theorem parseVOp_exact {o : VOp} (hr : r.length = extraParcels (hLen h)) (hp : parseVOp h r = some o) :
    encVOp (hOpc h) (hSyn h) o = h :: r := by
  unfold parseVOp at hp
  dsimp only at hp
  split at hp
  · next p1 =>
    have head := predHead_eq (extra_one _ hr.symm)
    cases h0 : p1.getLsbD 0 with
    | true =>
      cases h1 : p1.getLsbD 1 with
      | true => simp [h0, h1] at hp
      | false =>
        simp only [h0, h1, if_true, Bool.false_eq_true, if_false] at hp
        obtain rfl := Option.some.inj hp
        simp only [encVOp, head, v2iParcel_eq (bit_field h1) (bit_field h0)]
    | false =>
      simp only [h0, Bool.false_eq_true, if_false] at hp
      obtain rfl := Option.some.inj hp
      cases hk : p1.getLsbD 5 with
      | false => simp only [encVOp, Bool.false_eq_true, if_false, head, v2rParcel_eq (kb := 0#1) rfl (bit_field hk) (bit_field h0)]
      | true => simp only [encVOp, if_true, head, v2rParcel_eq (kb := 1#1) rfl (bit_field hk) (bit_field h0)]
  · next p1 p2 =>
    split at hp
    · next hz =>
      simp only [Bool.and_eq_true, beq_iff_eq, Bool.not_eq_true'] at hz
      obtain ⟨⟨hv, hk⟩, h0⟩ := hz
      obtain rfl := Option.some.inj hp
      simp only [encVOp, predHead_eq (extra_two _ hr.symm), v2rParcel_eq (vb := 0#10) (kb := 0#1) hv (bit_field hk) (bit_field h0)]
    · cases hp
  · cases hp

theorem parseVMem_exact {o : VMemOp} (hr : r.length = extraParcels (hLen h)) (hp : parseVMem h r = some o) :
    encVMem (hOpc h) (hSyn h) o = h :: r := by
  unfold parseVMem at hp
  split at hp
  · next p1 =>
    split at hp
    · next hz =>
      simp only [Bool.and_eq_true, beq_iff_eq, Bool.not_eq_true'] at hz
      obtain ⟨⟨⟨h22, h6⟩, h5⟩, h0⟩ := hz
      obtain rfl := Option.some.inj hp
      have e : p1.extractLsb' 5 3 = 0#3 := by
        rw [show p1.extractLsb' 5 3 = p1.extractLsb' 6 2 ++ p1.extractLsb' 5 1 from (field_join (s₁ := 5) (n := 1) (m := 2) rfl).symm, h6, extractLsb'_one, h5]
        rfl
      have tail : p1.extractLsb' 27 5 ++ 0#5 ++ p1.extractLsb' 12 10 ++ p1.extractLsb' 8 4 ++ 0#3 ++ p1.extractLsb' 1 4 ++ 0#1 = p1 := by
        rw [← e, ← show p1.extractLsb' 0 1 = 0#1 from bit_field h0, show 0#5 = p1.extractLsb' 22 5 from h22.symm]
        simp (disch := rfl) only [field_join]
        exact BitVec.extractLsb'_eq_self
      simp only [encVMem, predHead_eq (extra_one _ hr.symm), tail]
    · cases hp
  · cases hp

theorem parseVRnd_exact {o : VRndOp} (hr : r.length = extraParcels (hLen h)) (hp : parseVRnd h r = some o) :
    encVRnd (hOpc h) (hSyn h) o = h :: r := by
  unfold parseVRnd at hp
  split at hp
  · next p1 =>
    cases h0 : p1.getLsbD 0 with
    | true => simp [h0] at hp
    | false =>
      simp only [h0, Bool.false_eq_true, if_false] at hp
      obtain rfl := Option.some.inj hp
      have tail : p1.extractLsb' 27 5 ++ p1.extractLsb' 22 5 ++ p1.extractLsb' 12 10 ++ p1.extractLsb' 8 4 ++ p1.extractLsb' 6 2
          ++ BitVec.ofBool (p1.getLsbD 5) ++ p1.extractLsb' 1 4 ++ 0#1 = p1 := by
        rw [← show p1.extractLsb' 0 1 = 0#1 from bit_field h0]
        simp (disch := rfl) only [← extractLsb'_one, field_join]
        exact BitVec.extractLsb'_eq_self
      simp only [encVRnd, predHead_eq (extra_one _ hr.symm), tail]
  · cases hp

/-- Two fields of 16 bits are the parcel. -/
theorem pairParcel_eq (p : Parcel) : p.extractLsb' 16 16 ++ p.extractLsb' 0 16 = p := by
  simp (disch := rfl) only [field_join]
  exact BitVec.extractLsb'_eq_self

theorem parseRec_exact {o : Rec} (hr : r.length = extraParcels (hLen h)) (hp : parseRec h r = some o) :
    encRec (hOpc h) (hSyn h) o = h :: r := by
  unfold parseRec at hp
  split at hp
  · obtain rfl := Option.some.inj hp
    have head : headOf 3 (hOpc h) (hSyn h) (BitVec.ofBool (h.getLsbD 13) ++ BitVec.ofBool (h.getLsbD 12) ++ BitVec.ofBool (h.getLsbD 11)
        ++ BitVec.ofBool (h.getLsbD 10) ++ BitVec.ofBool (h.getLsbD 9) ++ BitVec.ofBool (h.getLsbD 8) ++ h.extractLsb' 5 3 ++ h.extractLsb' 0 5) = h := by
      refine headOf_of_fields (extra_fifteen _ hr.symm) rfl rfl ?_
      simp (disch := rfl) only [← extractLsb'_one, field_join]
      rfl
    simp only [encRec, recMod, recOperandOf, pairParcel_eq, head]
  · cases hp

theorem parseVMemForm_exact {f : VMemForm} (hr : r.length = extraParcels (hLen h)) (hp : parseVMemForm h r = some f) :
    encVMemForm (hOpc h) (hSyn h) f = h :: r := by
  unfold parseVMemForm at hp
  split at hp
  all_goals
    obtain ⟨o, ho, rfl⟩ := Option.map_eq_some_iff.mp hp
  · exact parseRec_exact hr ho
  · exact parseVMem_exact hr ho

theorem parseVRndForm_exact {f : VRndForm} (hr : r.length = extraParcels (hLen h)) (hp : parseVRndForm h r = some f) :
    encVRndForm (hOpc h) (hSyn h) f = h :: r := by
  unfold parseVRndForm at hp
  split at hp
  all_goals
    obtain ⟨o, ho, rfl⟩ := Option.map_eq_some_iff.mp hp
  · exact parseRec_exact hr ho
  · exact parseVRnd_exact hr ho

end forms

/-! #### The spaces -/

/-- `i` is an instruction of `q` whose own parcels are `h :: r`. -/
def ReadExactly (q : SeqId) (h : Parcel) (r : List Parcel) (i : Instr) : Prop := inSpace q i = true ∧ encode i = h :: r

/-- A form whose parser is exact, under an opcode whose instructions it makes. -/
theorem ReadExactly.of_form {α : Type} {q : SeqId} {h : Parcel} {r : List Parcel} {i : Instr} {parse : Parcel → List Parcel → Option α}
    {enc : BitVec 8 → Syn → α → List Parcel} {mk : α → Instr} {opc : BitVec 8} (ho : hOpc h = opc)
    (hx : ∀ o, parse h r = some o → enc (hOpc h) (hSyn h) o = h :: r) (hd : (parse h r).map mk = some i)
    (hq : ∀ o, inSpace q (mk o) = true) (he : ∀ o, encode (mk o) = enc opc (hSyn h) o) : ReadExactly q h r i := by
  obtain ⟨o, hp, rfl⟩ := Option.map_eq_some_iff.mp hd
  exact ⟨hq o, by rw [he, ← ho, hx o hp]⟩

/-- A form of one parcel with `f` in F0. -/
theorem ReadExactly.of_head {q : SeqId} {h : Parcel} {r : List Parcel} {i j : Instr} {opc : BitVec 8} {f : BitVec 14} (ho : hOpc h = opc)
    (hr : r.length = extraParcels (hLen h)) (h0 : hLen h = 0) (hd : i = j) (hq : inSpace q i = true) (he : encode i = [headOf 0 opc (hSyn h) f])
    (hf : f = hF0 h) : ReadExactly q h r j := by
  subst hd
  rw [h0] at hr
  obtain rfl := List.length_eq_zero_iff.mp hr
  exact ⟨hq, by rw [he, headOf_of_fields h0 ho rfl hf]⟩

/-- A form of two parcels with `f` in F0 and `g` after the head. -/
theorem ReadExactly.of_pair {q : SeqId} {h p1 : Parcel} {i : Instr} {opc : BitVec 8} {f : BitVec 14} {g : Parcel} (ho : hOpc h = opc)
    (h1 : hLen h = 1) (hq : inSpace q i = true) (he : encode i = [headOf 1 opc (hSyn h) f, g]) (hf : f = hF0 h) (hg : g = p1) :
    ReadExactly q h [p1] i :=
  ⟨hq, by rw [he, headOf_of_fields h1 ho rfl hf, hg]⟩

theorem ifZero_some {z : Bool} {i j : Instr} (h : ifZero z i = some j) : z = true ∧ i = j := by
  unfold ifZero at h
  split at h
  · next hz => exact ⟨hz, Option.some.inj h⟩
  · cases h

/-- An opcode whose one length is that of the head alone. -/
theorem hLen_zero {h : Parcel} {ls : List Nat} (hl : some [0] = some ls) (hm : (hLen h).toNat ∈ ls) : hLen h = 0 := by
  obtain rfl := Option.some.inj hl
  exact BitVec.eq_of_toNat_eq (by simpa using hm)

theorem hLen_one {h : Parcel} {ls : List Nat} (hl : some [1] = some ls) (hm : (hLen h).toNat ∈ ls) : hLen h = 1 := by
  obtain rfl := Option.some.inj hl
  exact BitVec.eq_of_toNat_eq (by simpa using hm)

/-- A field above zeros that are reserved. -/
theorem zeros_join {w s n m : Nat} {x : BitVec w} (hz : x.extractLsb' (s + n) m = 0#m) : 0#m ++ x.extractLsb' s n = x.extractLsb' s (m + n) := by
  rw [← hz, field_join rfl]

section spaces
variable {h : Parcel} {r : List Parcel} {i : Instr} {n : Nat} {ls : List Nat}

theorem decodeC_exact (ho : hOpc h = BitVec.ofNat 8 n) (hr : r.length = extraParcels (hLen h)) (hm : (hLen h).toNat ∈ ls)
    (hl : lensC n = some ls) (hd : decodeC n (hSyn h) h r = some i) : ReadExactly .c h r i := by
  unfold decodeC at hd
  split at hd
  case h_1 => -- START
    obtain ⟨hz, hi⟩ := ifZero_some hd
    simp only [Bool.and_eq_true, beq_iff_eq, Bool.not_eq_true'] at hz
    obtain ⟨hz, h0⟩ := hz
    refine .of_head ho hr (hLen_zero hl hm) hi rfl rfl ?_
    rw [show 0#10 = _ from hz.symm, show 0#1 = _ from (bit_field h0).symm]
    simp (disch := rfl) only [← extractLsb'_one, field_join]
    rfl
  case h_2 | h_3 => -- SIG, WAIT
    obtain ⟨hz, hi⟩ := ifZero_some hd
    refine .of_head ho hr (hLen_zero hl hm) hi rfl rfl ?_
    rw [show 0#4 = _ from (beq_iff_eq.mp hz).symm]
    simp (disch := rfl) only [field_join]
    rfl
  case h_4 | h_5 | h_6 | h_7 => -- ARRIVE, BWAIT, QFENCE, FENCE
    obtain ⟨hz, hi⟩ := ifZero_some hd
    exact .of_head ho hr (hLen_zero hl hm) hi rfl rfl (zeros_join (beq_iff_eq.mp hz))
  case h_8 => exact .of_head ho hr (hLen_zero hl hm) (Option.some.inj hd) rfl rfl rfl -- TRAP
  case h_9 => -- HALT
    obtain ⟨hz, hi⟩ := ifZero_some hd
    exact .of_head ho hr (hLen_zero hl hm) hi rfl rfl (beq_iff_eq.mp hz).symm
  case h_80 => -- COLLW
    refine .of_form ho (fun _ => parseCOp_exact hr) hd (fun o => ?_) (fun o => ?_)
    all_goals cases hb : o.b <;> simp only [collwOf, hb] <;> rfl
  case h_87 => cases hd
  all_goals exact .of_form ho (fun _ => parseCOp_exact hr) hd (fun _ => rfl) (fun _ => rfl)

theorem decodeT_exact (ho : hOpc h = BitVec.ofNat 8 n) (hr : r.length = extraParcels (hLen h)) (hd : decodeT n (hSyn h) h r = some i) :
    ReadExactly .t h r i := by
  unfold decodeT at hd
  split at hd
  case h_1 | h_2 | h_3 => exact .of_form ho (fun _ => parseE2_exact hr) hd (fun _ => rfl) (fun _ => rfl) -- BMLD, SCCFG, TAGX
  case h_13 => cases hd
  all_goals exact .of_form ho (fun _ => parseRec_exact hr) hd (fun _ => rfl) (fun _ => rfl)

theorem decodeM_exact (ho : hOpc h = BitVec.ofNat 8 n) (hr : r.length = extraParcels (hLen h)) (hm : (hLen h).toNat ∈ ls)
    (hl : lensM n = some ls) (hd : decodeM n (hSyn h) h r = some i) : ReadExactly .m h r i := by
  unfold decodeM at hd
  split at hd
  case h_1 | h_5 => -- ASWAP, FDROP
    obtain ⟨hz, hi⟩ := ifZero_some hd
    exact .of_head ho hr (hLen_zero hl hm) hi rfl rfl (zeros_join (beq_iff_eq.mp hz))
  case h_2 | h_3 => -- AZERO, ACHK
    obtain ⟨hz, hi⟩ := ifZero_some hd
    refine .of_head ho hr (hLen_zero hl hm) hi rfl rfl ?_
    rw [show 0#10 = _ from (beq_iff_eq.mp hz).symm]
    simp (disch := rfl) only [field_join]
    rfl
  case h_4 | h_6 => exact .of_form ho (fun _ => parseE2_exact hr) hd (fun _ => rfl) (fun _ => rfl) -- AVSET, EPSSET
  case h_13 => cases hd
  all_goals exact .of_form ho (fun _ => parseRec_exact hr) hd (fun _ => rfl) (fun _ => rfl)

/-- The second parcel of VSETVL's register form. -/
theorem vsetvlParcel_eq {p1 : Parcel} (h22 : p1.extractLsb' 22 5 = 0#5) (h5 : p1.extractLsb' 5 12 = 0#12) (h0 : p1.getLsbD 0 = false) :
    p1.extractLsb' 27 5 ++ 0#5 ++ p1.extractLsb' 17 5 ++ 0#12 ++ p1.extractLsb' 1 4 ++ 0#1 = p1 := by
  rw [← h22, ← h5, ← show p1.extractLsb' 0 1 = 0#1 from bit_field h0]
  simp (disch := rfl) only [field_join]
  exact BitVec.extractLsb'_eq_self

/-- The second parcel of LOOPV. -/
theorem loopvParcel_eq {p1 : Parcel} (h0 : p1.extractLsb' 0 12 = 0#12) : p1.extractLsb' 12 20 ++ 0#12 = p1 := by
  rw [← h0]
  simp (disch := rfl) only [field_join]
  exact BitVec.extractLsb'_eq_self

theorem vsetvl_exact (ho : hOpc h = 0x50) (hr : r.length = extraParcels (hLen h)) (hd : decodeV 0x50 (hSyn h) h r = some i) :
    ReadExactly .v h r i := by
  match r with
  | [] =>
    change ifZero (h.extractLsb' 8 6 == 0) (.vsetvl (hSyn h) (h.extractLsb' 0 8)) = some i at hd
    obtain ⟨hz, hi⟩ := ifZero_some hd
    exact .of_head ho hr (extra_zero _ hr.symm) hi rfl rfl (zeros_join (beq_iff_eq.mp hz))
  | [p1] =>
    change ifZero (h.extractLsb' 5 9 == 0 && p1.extractLsb' 22 5 == 0 && p1.extractLsb' 5 12 == 0 && !p1.getLsbD 0)
      (.vsetvlReg (hSyn h) (h.extractLsb' 0 5) (p1.extractLsb' 27 5) (p1.extractLsb' 17 5) (p1.extractLsb' 1 4)) = some i at hd
    obtain ⟨hz, rfl⟩ := ifZero_some hd
    simp only [Bool.and_eq_true, beq_iff_eq, Bool.not_eq_true'] at hz
    obtain ⟨⟨⟨hh, h22⟩, h5⟩, h0⟩ := hz
    exact .of_pair ho (extra_one _ hr.symm) rfl rfl (zeros_join hh) (vsetvlParcel_eq h22 h5 h0)
  | _ :: _ :: _ => cases hd

theorem loopv_exact (ho : hOpc h = 0x51) (hr : r.length = extraParcels (hLen h)) (hd : decodeV 0x51 (hSyn h) h r = some i) :
    ReadExactly .v h r i := by
  match r with
  | [] => cases hd
  | [p1] =>
    change ifZero (h.extractLsb' 5 9 == 0 && p1.extractLsb' 0 12 == 0) (.loopv (hSyn h) (h.extractLsb' 0 5) (p1.extractLsb' 12 20)) = some i at hd
    obtain ⟨hz, rfl⟩ := ifZero_some hd
    simp only [Bool.and_eq_true, beq_iff_eq] at hz
    obtain ⟨hh, hp⟩ := hz
    exact .of_pair ho (extra_one _ hr.symm) rfl rfl (zeros_join hh) (loopvParcel_eq hp)
  | _ :: _ :: _ => cases hd

theorem decodeV_exact (ho : hOpc h = BitVec.ofNat 8 n) (hr : r.length = extraParcels (hLen h)) (hm : (hLen h).toNat ∈ ls)
    (hl : lensV n = some ls) (hd : decodeV n (hSyn h) h r = some i) : ReadExactly .v h r i := by
  unfold decodeV at hd
  split at hd
  case h_1 | h_2 | h_3 => -- PAND, POR, PXOR
    obtain ⟨hz, hi⟩ := ifZero_some hd
    refine .of_head ho hr (hLen_zero hl hm) hi rfl rfl ?_
    rw [show 0#2 = _ from (beq_iff_eq.mp hz).symm]
    simp (disch := rfl) only [field_join]
    rfl
  case h_4 | h_5 => -- PNOT, PSET
    obtain ⟨hz, hi⟩ := ifZero_some hd
    simp only [Bool.and_eq_true, beq_iff_eq] at hz
    obtain ⟨hz, h0⟩ := hz
    refine .of_head ho hr (hLen_zero hl hm) hi rfl rfl ?_
    rw [show 0#2 = _ from hz.symm, show 0#4 = _ from h0.symm]
    simp (disch := rfl) only [field_join]
    rfl
  case h_6 => -- PCNT
    obtain ⟨hz, hi⟩ := ifZero_some hd
    simp only [Bool.and_eq_true, beq_iff_eq, Bool.not_eq_true'] at hz
    obtain ⟨h8, h0⟩ := hz
    refine .of_head ho hr (hLen_zero hl hm) hi rfl rfl ?_
    rw [← show h.extractLsb' 8 1 = 0#1 from bit_field h8, show 0#4 = _ from h0.symm]
    simp (disch := rfl) only [field_join]
    rfl
  case h_7 => exact .of_form ho (fun _ => parseVMem_exact hr) hd (fun _ => rfl) (fun _ => rfl) -- KLD
  case h_8 => exact vsetvl_exact ho hr hd
  case h_9 => exact loopv_exact ho hr hd
  case h_10 => -- ROTSET
    obtain ⟨hz, hi⟩ := ifZero_some hd
    exact .of_head ho hr (hLen_zero hl hm) hi rfl rfl (zeros_join (beq_iff_eq.mp hz))
  case h_11 => exact .of_form ho (fun _ => parseVRnd_exact hr) hd (fun _ => rfl) (fun _ => rfl) -- VCAT
  case h_54 | h_55 | h_56 | h_57 | h_58 | h_59 => exact .of_form ho (fun _ => parseVMemForm_exact hr) hd (fun _ => rfl) (fun _ => rfl)
  case h_60 | h_61 | h_62 | h_63 => exact .of_form ho (fun _ => parseVRndForm_exact hr) hd (fun _ => rfl) (fun _ => rfl)
  case h_64 => cases hd
  all_goals exact .of_form ho (fun _ => parseVOp_exact hr) hd (fun _ => rfl) (fun _ => rfl)

/-- BNZD, with an s register in C and an x register in an engine. -/
theorem bnzd_exact {q : SeqId} {p1 : Parcel} (ho : hOpc h = 0xE5) (h1 : hLen h = 1)
    (hd : decodeCommon q 0xE5 (hSyn h) h [p1] = some i) : ReadExactly q h [p1] i := by
  change (if (q == .c) = true then ifZero (h.extractLsb' 0 8 == 0) (.bnzd (hSyn h) (.s (h.extractLsb' 8 6)) p1)
    else ifZero (h.extractLsb' 0 9 == 0) (.bnzd (hSyn h) (.x (h.extractLsb' 9 5)) p1)) = some i at hd
  split at hd
  · next hc =>
    obtain ⟨hz, rfl⟩ := ifZero_some hd
    have hf : h.extractLsb' 8 6 ++ 0#8 = hF0 h := by
      rw [show 0#8 = _ from (beq_iff_eq.mp hz).symm]
      simp (disch := rfl) only [field_join]
      rfl
    exact .of_pair ho h1 hc rfl hf rfl
  · next hc =>
    obtain ⟨hz, rfl⟩ := ifZero_some hd
    have hf : h.extractLsb' 9 5 ++ 0#9 = hF0 h := by
      rw [show 0#9 = _ from (beq_iff_eq.mp hz).symm]
      simp (disch := rfl) only [field_join]
      rfl
    exact .of_pair ho h1 (show (q != .c) = true by simpa using hc) rfl hf rfl

theorem decodeCommon_exact {q : SeqId} (ho : hOpc h = BitVec.ofNat 8 n) (hr : r.length = extraParcels (hLen h)) (hm : (hLen h).toNat ∈ ls)
    (hn : 0xE0 ≤ n) (hl : commonLens q n = some ls) (hd : decodeCommon q n (hSyn h) h r = some i) : ReadExactly q h r i := by
  have hn' : n ≤ 0xE7 := by
    by_contra hc
    simp [commonLens, show ¬n ≤ 0xE3 by omega, show ¬n ≤ 0xE5 by omega, show n ≠ 0xE6 by omega, show n ≠ 0xE7 by omega] at hl
  have engine (hz : commonLens .c n = none) : (q != .c) = true := by
    cases q with
    | c => rw [hz] at hl; cases hl
    | t | v | m => rfl
  have alone (h0 : hLen h = 0) : r = [] := by rw [h0] at hr; exact List.length_eq_zero_iff.mp hr
  have two (h1 : hLen h = 1) : ∃ p1, r = [p1] := by rw [h1] at hr; exact List.length_eq_one_iff.mp hr
  interval_cases n
  · -- NOP
    have h0 := hLen_zero hl hm
    obtain rfl := alone h0
    obtain ⟨hz, hi⟩ := ifZero_some (show ifZero (hF0 h == 0) (.nop (hSyn h)) = some i from hd)
    exact .of_head ho hr h0 hi rfl rfl (beq_iff_eq.mp hz).symm
  · -- IDLE
    have h0 := hLen_zero hl hm
    obtain rfl := alone h0
    exact .of_head ho hr h0 (Option.some.inj (show some (.idle (hSyn h) (hF0 h)) = some i from hd)) rfl rfl rfl
  · -- REGION
    have h0 := hLen_zero hl hm
    obtain rfl := alone h0
    obtain ⟨hz, hi⟩ := ifZero_some (show ifZero (hF0 h == 0) (.region (hSyn h)) = some i from hd)
    exact .of_head ho hr h0 hi rfl rfl (beq_iff_eq.mp hz).symm
  · -- END
    have h0 := hLen_zero hl hm
    obtain rfl := alone h0
    obtain ⟨hz, hi⟩ := ifZero_some (show ifZero (hF0 h == 0) (.endStream (hSyn h)) = some i from hd)
    exact .of_head ho hr h0 hi rfl rfl (beq_iff_eq.mp hz).symm
  · -- JMP
    have h1 := hLen_one hl hm
    obtain ⟨p1, rfl⟩ := two h1
    obtain ⟨hz, rfl⟩ := ifZero_some (show ifZero (hF0 h == 0) (.jmp (hSyn h) p1) = some i from hd)
    exact .of_pair ho h1 rfl rfl (beq_iff_eq.mp hz).symm rfl
  · -- BNZD
    have h1 := hLen_one hl hm
    obtain ⟨p1, rfl⟩ := two h1
    exact bnzd_exact ho h1 hd
  · -- POP
    have hq := engine rfl
    have h0 : hLen h = 0 := by cases q with
      | c => cases hq
      | t | v | m => exact hLen_zero hl hm
    obtain rfl := alone h0
    obtain ⟨hz, hi⟩ := ifZero_some (show ifZero (h.extractLsb' 0 9 == 0) (.pop (hSyn h) (h.extractLsb' 9 5)) = some i from hd)
    refine .of_head ho hr h0 hi hq rfl ?_
    rw [show 0#9 = _ from (beq_iff_eq.mp hz).symm]
    simp (disch := rfl) only [field_join]
    rfl
  · -- XADD
    exact .of_form ho (fun _ => parseE2_exact hr) (show (parseE2 h r).map (.xadd (hSyn h)) = some i from hd) (fun _ => engine rfl) (fun _ => rfl)

theorem decodeForm_exact {q : SeqId} (hr : r.length = extraParcels (hLen h)) (hm : (hLen h).toNat ∈ ls)
    (hl : opcLens q (hOpc h).toNat = some ls) (hd : decodeForm q h r = some i) : ReadExactly q h r i := by
  have ho : hOpc h = BitVec.ofNat 8 (hOpc h).toNat := by simp
  generalize hn : (hOpc h).toNat = n at ho hl
  unfold decodeForm at hd
  unfold opcLens at hl
  dsimp only at hd
  rw [hn] at hd
  split at hd
  · next hc =>
    rw [if_pos hc] at hl
    exact decodeCommon_exact ho hr hm hc hl hd
  · next hc =>
    rw [if_neg hc] at hl
    cases q with
    | c => exact decodeC_exact ho hr hm hl hd
    | t => exact decodeT_exact ho hr hd
    | v => exact decodeV_exact ho hr hm hl hd
    | m => exact decodeM_exact ho hr hm hl hd

end spaces

theorem decode_ok {q : SeqId} {ps : List Parcel} {i : Instr} (h : decode q ps = .ok i) :
    ∃ x rest ls, ps = x :: rest ∧ opcLens q (hOpc x).toNat = some ls ∧ (hLen x).toNat ∈ ls ∧ extraParcels (hLen x) ≤ rest.length
      ∧ decodeForm q x (rest.take (extraParcels (hLen x))) = some i := by
  unfold decode at h
  split at h
  · cases h
  · next x rest =>
    split at h
    · cases h
    · next ls hl =>
      split at h
      · next hm =>
        split at h
        · cases h
        · next hs =>
          split at h
          · next j hf =>
            obtain rfl := Except.ok.inj h
            exact ⟨x, rest, ls, rfl, hl, by simpa using hm, by omega, hf⟩
          · cases h
      · cases h

/-- Settles O58: the parser of each form gives back fields that are the parcels it has read, whose number the length of the head names. -/
theorem decodeIsExact : Obligations.DecodeIsExact := by
  unfold Obligations.DecodeIsExact
  intro q ps i h
  obtain ⟨x, rest, ls, rfl, hl, hm, hs, hf⟩ := decode_ok h
  obtain ⟨hq, he⟩ := decodeForm_exact (by simpa using hs) hm hl hf
  refine ⟨hq, ?_⟩
  rw [he, List.length_cons, List.length_take_of_le hs, List.take_succ_cons]

/-! #### The statements -/

/-- Every instruction is read back from its own parcels; an event stands in no space. -/
theorem roundTrip_statement (i : Instr) : Laws.RoundTrip.Statement i := by
  cases i with
  | add y o => exact Laws.RoundTrip.add y o
  | sub y o => exact Laws.RoundTrip.sub y o
  | and y o => exact Laws.RoundTrip.and y o
  | or y o => exact Laws.RoundTrip.or y o
  | xor y o => exact Laws.RoundTrip.xor y o
  | sll y o => exact Laws.RoundTrip.sll y o
  | srl y o => exact Laws.RoundTrip.srl y o
  | sra y o => exact Laws.RoundTrip.sra y o
  | mul y o => exact Laws.RoundTrip.mul y o
  | mulh y o => exact Laws.RoundTrip.mulh y o
  | mulhu y o => exact Laws.RoundTrip.mulhu y o
  | div y o => exact Laws.RoundTrip.div y o
  | divu y o => exact Laws.RoundTrip.divu y o
  | rem y o => exact Laws.RoundTrip.rem y o
  | remu y o => exact Laws.RoundTrip.remu y o
  | min y o => exact Laws.RoundTrip.min y o
  | max y o => exact Laws.RoundTrip.max y o
  | minu y o => exact Laws.RoundTrip.minu y o
  | maxu y o => exact Laws.RoundTrip.maxu y o
  | slt y o => exact Laws.RoundTrip.slt y o
  | sltu y o => exact Laws.RoundTrip.sltu y o
  | seq y o => exact Laws.RoundTrip.seq y o
  | li y o => exact Laws.RoundTrip.li y o
  | clz y o => exact Laws.RoundTrip.clz y o
  | popc y o => exact Laws.RoundTrip.popc y o
  | rotl y o => exact Laws.RoundTrip.rotl y o
  | bext y o => exact Laws.RoundTrip.bext y o
  | bins y o => exact Laws.RoundTrip.bins y o
  | j y o => exact Laws.RoundTrip.j y o
  | jal y o => exact Laws.RoundTrip.jal y o
  | jr y o => exact Laws.RoundTrip.jr y o
  | beq y o => exact Laws.RoundTrip.beq y o
  | bne y o => exact Laws.RoundTrip.bne y o
  | blt y o => exact Laws.RoundTrip.blt y o
  | bge y o => exact Laws.RoundTrip.bge y o
  | bltu y o => exact Laws.RoundTrip.bltu y o
  | bgeu y o => exact Laws.RoundTrip.bgeu y o
  | bbs y o => exact Laws.RoundTrip.bbs y o
  | ldb y o => exact Laws.RoundTrip.ldb y o
  | ldh y o => exact Laws.RoundTrip.ldh y o
  | ldw y o => exact Laws.RoundTrip.ldw y o
  | ldd y o => exact Laws.RoundTrip.ldd y o
  | ldbu y o => exact Laws.RoundTrip.ldbu y o
  | ldhu y o => exact Laws.RoundTrip.ldhu y o
  | ldwu y o => exact Laws.RoundTrip.ldwu y o
  | stb y o => exact Laws.RoundTrip.stb y o
  | sth y o => exact Laws.RoundTrip.sth y o
  | stw y o => exact Laws.RoundTrip.stw y o
  | std y o => exact Laws.RoundTrip.std y o
  | ldsc y o => exact Laws.RoundTrip.ldsc y o
  | stsc y o => exact Laws.RoundTrip.stsc y o
  | start y m v t => exact Laws.RoundTrip.start y m v t
  | param y o => exact Laws.RoundTrip.param y o
  | fmtq y o => exact Laws.RoundTrip.fmtq y o
  | sig y e n => exact Laws.RoundTrip.sig y e n
  | wait y e n => exact Laws.RoundTrip.wait y e n
  | semadd y o => exact Laws.RoundTrip.semadd y o
  | semwait y o => exact Laws.RoundTrip.semwait y o
  | semset y o => exact Laws.RoundTrip.semset y o
  | arrive y n => exact Laws.RoundTrip.arrive y n
  | bwait y n => exact Laws.RoundTrip.bwait y n
  | barm y o => exact Laws.RoundTrip.barm y o
  | binit y o => exact Laws.RoundTrip.binit y o
  | qfence y q => exact Laws.RoundTrip.qfence y q
  | fence y scope => exact Laws.RoundTrip.fence y scope
  | rfence y o => exact Laws.RoundTrip.rfence y o
  | waitt y o => exact Laws.RoundTrip.waitt y o
  | rdcc y o => exact Laws.RoundTrip.rdcc y o
  | rdgt y o => exact Laws.RoundTrip.rdgt y o
  | align y o => exact Laws.RoundTrip.align y o
  | launch y o => exact Laws.RoundTrip.launch y o
  | child y o => exact Laws.RoundTrip.child y o
  | yield y o => exact Laws.RoundTrip.yield y o
  | trap y code => exact Laws.RoundTrip.trap y code
  | csrr y o => exact Laws.RoundTrip.csrr y o
  | csrw y o => exact Laws.RoundTrip.csrw y o
  | setkey y o => exact Laws.RoundTrip.setkey y o
  | halt y => exact Laws.RoundTrip.halt y
  | coll y o => exact Laws.RoundTrip.coll y o
  | collw y o => exact Laws.RoundTrip.collw y o
  | collwRetire y o => exact Laws.RoundTrip.collwRetire y o
  | spore y o => exact Laws.RoundTrip.spore y o
  | sorw y o => exact Laws.RoundTrip.sorw y o
  | a2a y o => exact Laws.RoundTrip.a2a y o
  | wmap y o => exact Laws.RoundTrip.wmap y o
  | wunmap y o => exact Laws.RoundTrip.wunmap y o
  | lrecall y o => exact Laws.RoundTrip.lrecall y o
  | nop y => exact Laws.RoundTrip.nop y
  | idle y n => exact Laws.RoundTrip.idle y n
  | region y => exact Laws.RoundTrip.region y
  | endStream y => exact Laws.RoundTrip.endStream y
  | jmp y off => exact Laws.RoundTrip.jmp y off
  | bnzd y r off => exact Laws.RoundTrip.bnzd y r off
  | pop y xd => exact Laws.RoundTrip.pop y xd
  | xadd y o => exact Laws.RoundTrip.xadd y o
  | vadd y o => exact Laws.RoundTrip.vadd y o
  | vsub y o => exact Laws.RoundTrip.vsub y o
  | vmul y o => exact Laws.RoundTrip.vmul y o
  | vfma y o => exact Laws.RoundTrip.vfma y o
  | vfms y o => exact Laws.RoundTrip.vfms y o
  | vdiv y o => exact Laws.RoundTrip.vdiv y o
  | vmin y o => exact Laws.RoundTrip.vmin y o
  | vmax y o => exact Laws.RoundTrip.vmax y o
  | vabs y o => exact Laws.RoundTrip.vabs y o
  | vneg y o => exact Laws.RoundTrip.vneg y o
  | vsqrt y o => exact Laws.RoundTrip.vsqrt y o
  | vrcp y o => exact Laws.RoundTrip.vrcp y o
  | vrsq y o => exact Laws.RoundTrip.vrsq y o
  | vexp2 y o => exact Laws.RoundTrip.vexp2 y o
  | vlog2 y o => exact Laws.RoundTrip.vlog2 y o
  | vmov y o => exact Laws.RoundTrip.vmov y o
  | viadd y o => exact Laws.RoundTrip.viadd y o
  | visub y o => exact Laws.RoundTrip.visub y o
  | vimul y o => exact Laws.RoundTrip.vimul y o
  | vand y o => exact Laws.RoundTrip.vand y o
  | vor y o => exact Laws.RoundTrip.vor y o
  | vxor y o => exact Laws.RoundTrip.vxor y o
  | vshl y o => exact Laws.RoundTrip.vshl y o
  | vshr y o => exact Laws.RoundTrip.vshr y o
  | vsra y o => exact Laws.RoundTrip.vsra y o
  | vimin y o => exact Laws.RoundTrip.vimin y o
  | vimax y o => exact Laws.RoundTrip.vimax y o
  | vcmp y o => exact Laws.RoundTrip.vcmp y o
  | vsel y o => exact Laws.RoundTrip.vsel y o
  | pand y pd pa pb => exact Laws.RoundTrip.pand y pd pa pb
  | por y pd pa pb => exact Laws.RoundTrip.por y pd pa pb
  | pxor y pd pa pb => exact Laws.RoundTrip.pxor y pd pa pb
  | pnot y pd pa => exact Laws.RoundTrip.pnot y pd pa
  | pset y pd v => exact Laws.RoundTrip.pset y pd v
  | pcnt y xd pa => exact Laws.RoundTrip.pcnt y xd pa
  | vcvt y o => exact Laws.RoundTrip.vcvt y o
  | vqnt y o => exact Laws.RoundTrip.vqnt y o
  | vdqnt y o => exact Laws.RoundTrip.vdqnt y o
  | vsrnd y o => exact Laws.RoundTrip.vsrnd y o
  | vrsum y o => exact Laws.RoundTrip.vrsum y o
  | vrmax y o => exact Laws.RoundTrip.vrmax y o
  | vrmin y o => exact Laws.RoundTrip.vrmin y o
  | vdot y o => exact Laws.RoundTrip.vdot y o
  | vperm y o => exact Laws.RoundTrip.vperm y o
  | vslide y o => exact Laws.RoundTrip.vslide y o
  | vbcast y o => exact Laws.RoundTrip.vbcast y o
  | vzip y o => exact Laws.RoundTrip.vzip y o
  | vunzip y o => exact Laws.RoundTrip.vunzip y o
  | vld y f => exact Laws.RoundTrip.vld y f
  | vst y f => exact Laws.RoundTrip.vst y f
  | vlds y f => exact Laws.RoundTrip.vlds y f
  | vsts y f => exact Laws.RoundTrip.vsts y f
  | vgath y f => exact Laws.RoundTrip.vgath y f
  | vscat y f => exact Laws.RoundTrip.vscat y f
  | kld y o => exact Laws.RoundTrip.kld y o
  | vsetvl y n => exact Laws.RoundTrip.vsetvl y n
  | vsetvlReg y xd xa xb opx => exact Laws.RoundTrip.vsetvlReg y xd xa xb opx
  | loopv y xc off => exact Laws.RoundTrip.loopv y xc off
  | rotset y n => exact Laws.RoundTrip.rotset y n
  | vz y f => exact Laws.RoundTrip.vz y f
  | vzacc y f => exact Laws.RoundTrip.vzacc y f
  | vunif y f => exact Laws.RoundTrip.vunif y f
  | vcat y o => exact Laws.RoundTrip.vcat y o
  | vdrop y f => exact Laws.RoundTrip.vdrop y f
  | ldx y r => exact Laws.RoundTrip.ldx y r
  | stx y r => exact Laws.RoundTrip.stx y r
  | cpx y r => exact Laws.RoundTrip.cpx y r
  | mcx y r => exact Laws.RoundTrip.mcx y r
  | gthx y r => exact Laws.RoundTrip.gthx y r
  | sctx y r => exact Laws.RoundTrip.sctx y r
  | bmx y r => exact Laws.RoundTrip.bmx y r
  | bmld y o => exact Laws.RoundTrip.bmld y o
  | scacc y r => exact Laws.RoundTrip.scacc y r
  | sccfg y o => exact Laws.RoundTrip.sccfg y o
  | zfx y r => exact Laws.RoundTrip.zfx y r
  | tagx y o => exact Laws.RoundTrip.tagx y o
  | wld y r => exact Laws.RoundTrip.wld y r
  | mma y r => exact Laws.RoundTrip.mma y r
  | gate y r => exact Laws.RoundTrip.gate y r
  | adrn y r => exact Laws.RoundTrip.adrn y r
  | aswap y acc => exact Laws.RoundTrip.aswap y acc
  | azero y bank acc => exact Laws.RoundTrip.azero y bank acc
  | achk y bank acc => exact Laws.RoundTrip.achk y bank acc
  | asave y r => exact Laws.RoundTrip.asave y r
  | aload y r => exact Laws.RoundTrip.aload y r
  | avset y o => exact Laws.RoundTrip.avset y o
  | fdrop y n => exact Laws.RoundTrip.fdrop y n
  | epsset y o => exact Laws.RoundTrip.epsset y o
  | _ => exact fun _ h => absurd h Bool.false_ne_true

/-- Settles O57, from the round trip of each instruction. -/
theorem encodeDecodeRoundTrip : Obligations.EncodeDecodeRoundTrip :=
  fun q i hq hf => roundTrip_statement i q hq hf

/-- Settles O56: the decoder computes each of the words. -/
theorem decodesSpecWords : Obligations.DecodesSpecWords :=
  ⟨rfl, rfl, rfl, rfl, rfl, rfl, rfl, rfl, rfl, rfl, rfl, rfl, rfl, rfl, rfl, rfl⟩

end Sys2Proof

/-! ### The common group (O23, O24) -/

namespace Sys2Proof

open Sys2Proof.Machine

/-! #### Results that an issue sets on their way (R29) -/

/-- The bookkeeping of issue is no part of what `bareTask` keeps: a task with it changed is the same. -/
theorem bareTask_setPc (t : Task) (q : SeqId) (pc : BitVec 48) : bareTask (t.setSeq q { t.seq q with pc := pc }) q = bareTask t q := by
  cases q <;> rfl

theorem bareTask_withPendAt (t : Task) (q : SeqId) (head : BitVec 48) (id since tick lat : Nat) (ws : List Write) (fl : Flags) (ordered : Bool)
    (loads : List LoadPiece) :
    bareTask (withPendAt t q head id since tick lat ws fl ordered loads) q = withPendAt (bareTask t q) q head id since tick lat ws fl ordered loads := by
  cases q <;> rfl

/-- The instruction at its PC is noted on the result: its id, its tick and its head. -/
theorem pendLoads_setHere (s : State) (t : Task) (w : Wait) (hp : (t.seq s.cur.q).prog = none) (hw : (t.seq s.cur.q).wait = some w) (lat : Nat)
    (ws : List Write) (fl : Flags) (ordered : Bool) (loads : List LoadPiece) :
    pendLoads (s.setHere t) lat ws fl ordered loads
      = s.setHere (withPendAt t s.cur.q (t.seq s.cur.q).head w.id s.mcc ((t.seq s.cur.q).tick - 1) lat ws fl ordered loads) := by
  simp [pendLoads, withPendAt, curId, hp, hw]

/-- The state in which a body runs, as the executing task that issue leaves. -/
structure Entered (s : State) (i : Instr) (t : Task) (ticks : Nat) (k : Task) (w : Wait) : Prop where
  bare : bareTask k s.cur.q = bareTask t s.cur.q
  wait : (k.seq s.cur.q).wait = some w
  id : w.id = s.me.nextId
  op : w.op = .none
  sent : w.sent = 0
  pc : (k.seq s.cur.q).pc = nextPc s i
  head : (k.seq s.cur.q).head = s.me.pc
  tick : (k.seq s.cur.q).tick = issueTick s + ticks
  seqno : (k.seq s.cur.q).seqno = if ticks = 0 then (t.seq s.cur.q).seqno else (t.seq s.cur.q).seqno + 1
  stream : (k.seq s.cur.q).stream = (t.seq s.cur.q).stream
  prog : (k.seq s.cur.q).prog = (t.seq s.cur.q).prog
  flights : (k.seq s.cur.q).flights = (t.seq s.cur.q).flights
  regs : (k.seq s.cur.q).regs = (t.seq s.cur.q).regs

/-- What issue leaves alone of a task. -/
theorem Entered.field {s : State} {i : Instr} {t k : Task} {ticks : Nat} {w : Wait} (h : Entered s i t ticks k w) {α : Type} (g : Task → α)
    (hg : ∀ x, g (bareTask x s.cur.q) = g x) : g k = g t := by
  rw [← hg k, h.bare, hg]

theorem Entered.reg {s : State} {i : Instr} {t k : Task} {ticks : Nat} {w : Wait} (h : Entered s i t ticks k w) (r : Nat) :
    (k.seq s.cur.q).reg r = (t.seq s.cur.q).reg r := by
  simp [Seq.reg, h.regs]

theorem Entered.headPc {s : State} {i : Instr} {t k : Task} {ticks : Nat} {w : Wait} (h : Entered s i t ticks k w) :
    headPc (s.setHere k) i = s.me.pc := by
  simp [Machine.headPc, h.pc, nextPc]

theorem entered_spec (s : State) (i : Instr) (y : Syn) (t : Task) (ticks : Nat) :
    ∃ k w, entered s t y (encode i).length ticks = s.setHere k ∧ Entered s i t ticks k w := by
  obtain ⟨k, w, n, hk, he, hid, -, hop, hsent⟩ := entered_eq s t y (encode i).length ticks
  refine ⟨_, w, he, ?_, by simp, hid, hop, hsent, by simp [nextPc], by simp, by simp, by simp, by simp, by simp, by simp, by simp⟩
  unfold TokensOnly at hk
  rw [hk]
  cases s.cur.q <;> rfl

section issue
variable {s : State} {i : Instr} {y : Syn} {t : Task}

theorem Ready.stream (h : Ready s i y t) : (t.seq s.cur.q).stream = .running := by rw [h.seq_eq]; exact h.running
theorem Ready.prog (h : Ready s i y t) : (t.seq s.cur.q).prog = none := by rw [h.seq_eq]; exact h.noProg
theorem Ready.nextId (h : Ready s i y t) : (t.seq s.cur.q).nextId = s.me.nextId := by rw [h.seq_eq]

/-- An instruction of one tick that changes the task by `f`, which concerns no sequencer and no token, and sets a result on its way. -/
theorem effect_pend_jump (h : Ready s i y t) {body : State → Res} (hx : exec i s = run i y 1 body s) {f : Task → Task}
    (hf : ∀ x, bareTask (f x) s.cur.q = f (bareTask x s.cur.q)) (hs : ∀ x, (f x).seq s.cur.q = x.seq s.cur.q) {lat : Nat} {ws : List Write} {fl : Flags}
    {ordered : Bool} {loads : List LoadPiece} {pc : BitVec 48}
    (hb : ∀ k w, Entered s i t 1 k w → body (s.setHere k) = .ok (setPc (pendLoads (s.setHere (f k)) lat ws fl ordered loads) pc)) :
    Effect s i y s (withPend s (f t) lat ws fl ordered loads) pc 1 := by
  obtain ⟨k, w, he, hk⟩ := entered_spec s i y t 1
  have hbk := hb k w hk
  rw [pendLoads_setHere s (f k) w (by rw [hs, hk.prog, h.prog]) (by rw [hs, hk.wait])] at hbk
  simp only [setPc, State.setMe_setHere, State.me_setHere] at hbk
  refine effect_of h hx (by rw [he]; exact hbk) rfl rfl ?_ ?_ ?_ ?_ ?_ ?_
  · simp [withPendAt, hs, hk.stream, h.stream]
  · simp [withPendAt, hs, hk.wait]
  · rw [bareTask_setPc, withPend, bareTask_withPendAt, bareTask_withPendAt, hf, hf, hk.bare, hs, hk.head, hk.tick, hk.id, hs, h.nextId]
    rfl
  · simp
  · simp [withPendAt, hs, hk.tick]
  · simp [withPendAt, withPend, hs, hk.seqno]

/-- A PC that is written again. -/
theorem setPc_same (s : State) (t : Task) : setPc (s.setHere t) (t.seq s.cur.q).pc = s.setHere t := by
  simp only [setPc, State.setMe_setHere, State.me_setHere]
  exact congrArg s.setHere (Task.setSeq_seq t s.cur.q)

theorem effect_pend (h : Ready s i y t) {body : State → Res} (hx : exec i s = run i y 1 body s) {f : Task → Task}
    (hf : ∀ x, bareTask (f x) s.cur.q = f (bareTask x s.cur.q)) (hs : ∀ x, (f x).seq s.cur.q = x.seq s.cur.q) {lat : Nat} {ws : List Write} {fl : Flags}
    {ordered : Bool} {loads : List LoadPiece}
    (hb : ∀ k w, Entered s i t 1 k w → body (s.setHere k) = .ok (pendLoads (s.setHere (f k)) lat ws fl ordered loads)) :
    Effect s i y s (withPend s (f t) lat ws fl ordered loads) (nextPc s i) 1 := by
  refine effect_pend_jump h hx hf hs (fun k w hk => ?_)
  rw [hb k w hk, pendLoads_setHere s (f k) w (by rw [hs, hk.prog, h.prog]) (by rw [hs, hk.wait])]
  have hpc : nextPc s i = ((withPendAt (f k) s.cur.q ((f k).seq s.cur.q).head w.id s.mcc (((f k).seq s.cur.q).tick - 1) lat ws fl ordered loads).seq s.cur.q).pc := by
    simp [withPendAt, hs, hk.pc]
  rw [hpc, setPc_same]

end issue

/-! #### Branch targets and sums (R31, R41) -/

theorem branchTarget_eq (head : BitVec 48) (off : BitVec 32) : branchTarget head off = BitVec.ofInt 48 (head.toNat + 4 * off.toInt) := by
  rw [BitVec.ofInt_add, BitVec.ofInt_mul, BitVec.ofInt_natCast, BitVec.ofNat_toNat, BitVec.setWidth_eq]
  rfl

theorem xadd_eq (a : Word) (imm : BitVec 32) : a + imm.signExtend 64 = BitVec.ofInt 64 (a.toNat + imm.toInt) := by
  rw [BitVec.ofInt_add, BitVec.ofInt_natCast, BitVec.ofNat_toNat, BitVec.setWidth_eq]
  rfl

section common
variable {s : State} {y : Syn} {t : Task}

theorem bnzd_s_effect {r : BitVec 6} {off : BitVec 32} (h : Ready s (.bnzd y (.s r) off) y t) :
    Effect s (.bnzd y (.s r) off) y s (withReg s t r.toNat ((t.seq s.cur.q).reg r.toNat - 1))
      (if (t.seq s.cur.q).reg r.toNat - 1 = 0 then nextPc s (.bnzd y (.s r) off) else branchTarget s.me.pc off) 1 := by
  split
  · next hz =>
    refine effect_setReg h one_ne_zero (exec_bnzd y (.s r) off s) ?_
    simp only [reg_entered, hz, bne_self_eq_false, Bool.false_eq_true, if_false]
  · next hz =>
    refine effect_setPc h one_ne_zero (exec_bnzd y (.s r) off s) ?_
    simp only [reg_entered, headPc_entered, bne_iff_ne, ne_eq, hz, not_false_eq_true, if_true]

theorem bnzd_x_effect {r : BitVec 5} {off : BitVec 32} (h : Ready s (.bnzd y (.x r) off) y t) :
    Effect s (.bnzd y (.x r) off) y s (withPend s t 1 [.x r.toNat ((t.seq s.cur.q).reg r.toNat - 1)] 0 false [])
      (if (t.seq s.cur.q).reg r.toNat - 1 = 0 then nextPc s (.bnzd y (.x r) off) else branchTarget s.me.pc off) 1 := by
  split
  · next hz =>
    refine effect_pend (f := id) h (exec_bnzd y (.x r) off s) (fun _ => rfl) (fun _ => rfl) (fun k w hk => ?_)
    simp only [State.reg_setHere, hk.reg, hz, bne_self_eq_false, Bool.false_eq_true, if_false, pendWrites, id]
  · next hz =>
    refine effect_pend_jump (f := id) h (exec_bnzd y (.x r) off s) (fun _ => rfl) (fun _ => rfl) (fun k w hk => ?_)
    simp only [State.reg_setHere, hk.reg, hk.headPc, bne_iff_ne, ne_eq, hz, not_false_eq_true, if_true, pendWrites, id]

/-- An entry that POP takes, where its word is whole: it is on its way to its register, and the task is what `popEntry` leaves. -/
theorem pop_effect {xd : BitVec 5} {v : Word} {f : Task → Task} (h : Ready s (.pop y xd) y t)
    (hf : ∀ x, bareTask (f x) s.cur.q = f (bareTask x s.cur.q)) (hs : ∀ x, (f x).seq s.cur.q = x.seq s.cur.q)
    (hp : ∀ k w, Entered s (.pop y xd) t 1 k w → popEntry k s.cur.q = some (v, f k)) (hb : .pq s.cur.q.num (popIndex t s.cur.q) ∉ t.bad) :
    WritesLater s (.pop y xd) y (f t) 1 [.x xd.toNat v] 0 := by
  refine effect_pend h (exec_pop y xd s) hf hs (fun k w hk => ?_)
  have hbad : k.bad = t.bad := hk.field (·.bad) (fun x => by simp [bareTask])
  have hheld : k.heldTaken = t.heldTaken := hk.field (·.heldTaken) (fun x => by simp [bareTask])
  have hi : popIndex k s.cur.q = popIndex t s.cur.q := by simp [popIndex, hheld]
  have hc : t.bad.contains (.pq s.cur.q.num (popIndex t s.cur.q)) = false := by simpa using hb
  simp only [State.here_setHere, State.setHere_cur, hp k w hk, hbad, hi, hc, Bool.false_eq_true, if_false, State.setHere_setHere, pendWrites]

/-- What becomes of a word in error when `n` entries leave the head of parameter queue `e` (R344). -/
def movedUp (e n : Nat) : BadWord → Option BadWord
  | .pq f i => if f = e then (if i < n then none else some (.pq f (i - n))) else some (.pq f i)
  | w => some w

theorem dequeued_pq (t : Task) {e : Nat} (n : Nat) (he : e ≠ 4) : dequeued t e n = { t with bad := t.bad.filterMap (movedUp e n) } := by
  by_cases h : t.bad.isEmpty
  · have hn : t.bad = [] := List.isEmpty_iff.mp h
    cases t
    simp_all [dequeued]
  · unfold dequeued
    rw [if_neg h]
    refine congrArg (fun b => { t with bad := b }) (List.filterMap_congr (fun w _ => ?_))
    cases w with
    | fq i => simp [movedUp, he]
    | v | k | pq => rfl

theorem xadd_effect {o : E2} (h : Ready s (.xadd y o) y t) :
    WritesLater s (.xadd y o) y t 1 [.x o.xd.toNat ((t.seq s.cur.q).reg o.xa.toNat + o.imm.signExtend 64)] 0 := by
  refine effect_pend (f := id) h (exec_xadd y o s) (fun _ => rfl) (fun _ => rfl) (fun k w hk => ?_)
  simp only [State.reg_setHere, hk.reg, pendWrites, id]

/-- A word in error at the head traps, and nothing is taken. -/
theorem pop_traps {xd : BitVec 5} (h : Ready s (.pop y xd) y t) (hp : popEntry t s.cur.q ≠ none)
    (hb : .pq s.cur.q.num (if s.cur.q = .v then t.heldTaken else 0) ∈ t.bad) :
    TrapsPrecisely s (.pop y xd) t .eccUncorrectable (Config.eccAddr s.moves) := by
  refine trap_of h (exec_pop y xd s) ?_
  obtain ⟨k, w, he, hk⟩ := entered_spec s (.pop y xd) y t 1
  have hbad : k.bad = t.bad := hk.field (·.bad) (fun x => by simp [bareTask])
  have hheld : k.heldTaken = t.heldTaken := hk.field (·.heldTaken) (fun x => by simp [bareTask])
  have hpop : (popEntry k s.cur.q).isSome = (popEntry t s.cur.q).isSome := by
    have hT : k.pqT = t.pqT := hk.field (·.pqT) (fun x => by simp [bareTask])
    have hM : k.pqM = t.pqM := hk.field (·.pqM) (fun x => by simp [bareTask])
    have hV : k.pqV = t.pqV := hk.field (·.pqV) (fun x => by simp [bareTask])
    unfold popEntry
    rw [hT, hM, hV, hheld]
    cases s.cur.q with
    | c => rfl
    | t => cases t.pqT <;> rfl
    | v => simp
    | m => cases t.pqM <;> rfl
  obtain ⟨r, hr⟩ := Option.isSome_iff_exists.mp (hpop.trans (Option.isSome_iff_ne_none.mpr hp))
  have hc : t.bad.contains (.pq s.cur.q.num (popIndex k s.cur.q)) = true := by simpa [popIndex, hheld] using hb
  rw [he]
  simp only [State.here_setHere, State.setHere_cur, hr, hbad, hc, if_true, eccTrap, State.setHere_moves]

end common

/-- Settles O23: each instruction runs its body at once; the results of an engine are on their way. -/
theorem commonGroup : Obligations.CommonGroup := by
  unfold Obligations.CommonGroup
  intro s y t q u target kept
  have hkept (e : Nat) : kept e = t.bad.filterMap (movedUp e 1) := by
    refine List.filterMap_congr (fun w _ => ?_)
    cases w with
    | pq f i => simp [movedUp]
    | v | k | fq => rfl
  have htarget (off : BitVec 32) : target off = branchTarget s.me.pc off := (branchTarget_eq _ _).symm
  simp only [hkept, htarget, ← xadd_eq]
  refine ⟨fun h => ?_, fun n h => ?_, fun off h => ?_, fun r off h => ?_, fun r off h => ?_, fun xd w l h hq hl hb => ?_, fun xd w l h hq hl hb => ?_,
    fun xd w h hq hl hb => ?_, fun xd h hp hb => ?_, fun o h => ?_⟩
  · exact effect_none h one_ne_zero (exec_nop y s) rfl
  · exact effect_none h (by omega) (exec_idle y n s) rfl
  · exact effect_jump h one_ne_zero (exec_jmp y off s) (by rw [headPc_entered])
  · exact bnzd_s_effect h
  · exact bnzd_x_effect h
  · have hq : s.cur.q = .t := hq
    refine pop_effect (f := fun x => { x with pqT := l, bad := t.bad.filterMap (movedUp 1 1) }) h (fun x => by cases s.cur.q <;> rfl)
      (fun x => by cases s.cur.q <;> rfl) (fun k z hk => ?_) (by simpa [hq, popIndex, SeqId.num] using hb)
    have hpq : k.pqT = w :: l := (hk.field (·.pqT) (fun x => by simp [bareTask])).trans hl
    have hbad : k.bad = t.bad := hk.field (·.bad) (fun x => by simp [bareTask])
    simp [popEntry, hq, hpq, dequeued_pq, hbad, SeqId.num]
  · have hq : s.cur.q = .m := hq
    refine pop_effect (f := fun x => { x with pqM := l, bad := t.bad.filterMap (movedUp 3 1) }) h (fun x => by cases s.cur.q <;> rfl)
      (fun x => by cases s.cur.q <;> rfl) (fun k z hk => ?_) (by simpa [hq, popIndex, SeqId.num] using hb)
    have hpq : k.pqM = w :: l := (hk.field (·.pqM) (fun x => by simp [bareTask])).trans hl
    have hbad : k.bad = t.bad := hk.field (·.bad) (fun x => by simp [bareTask])
    simp [popEntry, hq, hpq, dequeued_pq, hbad, SeqId.num]
  · have hq : s.cur.q = .v := hq
    refine pop_effect (f := fun x => { x with heldTaken := t.heldTaken + 1, heldV := max t.heldV (t.heldTaken + 1) }) h (fun x => by cases s.cur.q <;> rfl)
      (fun x => by cases s.cur.q <;> rfl) (fun k z hk => ?_) (by simpa [hq, popIndex, SeqId.num] using hb)
    have hpq : k.pqV = t.pqV := hk.field (·.pqV) (fun x => by simp [bareTask])
    have hheld : k.heldTaken = t.heldTaken := hk.field (·.heldTaken) (fun x => by simp [bareTask])
    have hv : k.heldV = t.heldV := hk.field (·.heldV) (fun x => by simp [bareTask])
    simp [popEntry, hq, hpq, hheld, hv, hl]
  · exact pop_traps h hp hb
  · exact xadd_effect h

end Sys2Proof

namespace Sys2Proof

open Sys2Proof.Machine

/-! #### Instructions that change the task (O24) -/

/-- The parts of a sequencer that the issue of an instruction has set. -/
structure SameIssue (u v : Seq) : Prop where
  stream : u.stream = v.stream
  wait : u.wait = v.wait
  pc : u.pc = v.pc
  tick : u.tick = v.tick
  seqno : u.seqno = v.seqno

section issue
variable {s : State} {i : Instr} {y : Syn} {t : Task}

/-- An instruction whose body changes the executing task alone. -/
theorem effect_task (h : Ready s i y t) {body : State → Res} (hx : exec i s = run i y 1 body s) {t2 : Task}
    (ht : (t2.seq s.cur.q).seqno = (t.seq s.cur.q).seqno)
    (hb : ∀ k w, Entered s i t 1 k w → ∃ k2, body (s.setHere k) = .ok (s.setHere k2) ∧ bareTask k2 s.cur.q = bareTask t2 s.cur.q
      ∧ SameIssue (k2.seq s.cur.q) (k.seq s.cur.q)) :
    Effect s i y s t2 (nextPc s i) 1 := by
  obtain ⟨k, w, he, hk⟩ := entered_spec s i y t 1
  obtain ⟨k2, hb2, hbare, hsame⟩ := hb k w hk
  refine effect_of h hx (by rw [he]; exact hb2) rfl rfl ?_ ?_ hbare ?_ ?_ ?_
  · rw [hsame.stream, hk.stream, h.stream]
  · rw [hsame.wait, hk.wait]; rfl
  · rw [hsame.pc, hk.pc]
  · rw [hsame.tick, hk.tick]
  · rw [hsame.seqno, hk.seqno, ht]; rfl

end issue

/-! #### REGION (R41, R282, R334) -/

/-- A region of V is open: its control values are kept. -/
def regionOpened (head : BitVec 48) (t : Task) : Task :=
  { t with regVl := t.vl, regVrb := t.vrb, regVcsr := t.vcsr, v := { t.v with lastRegion := head, regionNo := t.v.regionNo + 1 } }

/-- The parameters that V has taken are gone. -/
def heldFreed (t : Task) : Task :=
  { t with pqV := t.pqV.drop t.heldTaken, heldV := t.heldV - t.heldTaken, heldTaken := 0, bad := t.bad.filterMap (movedUp 2 t.heldTaken) }

theorem freeHeld_eq (t : Task) : freeHeld t = heldFreed t := dequeued_pq _ _ (by decide)

section region
variable {s : State} {y : Syn} {t : Task}

/-- An engine that no ALIGN has armed is held at its REGION. -/
theorem region_holds (hm : mayIssue s = true) (ht : s.here.timed = true) (hq : s.cur.q ≠ .c) (ha : s.me.armed = false) :
    exec (.region y) s = .next (s.setMe { s.me with stream := .held, early := [] }) := by
  rw [exec_region, execRegion, if_pos]
  simp [holdsAtRegion, hm, ht, hq, ha]

theorem exec_region_run (ha : s.cur.q = .c ∨ (s.here.timed = true → s.me.armed = true)) :
    exec (.region y) s = run (.region y) y 1 (fun s =>
      match s.cur.q with
      | .v => .ok (openRegion s (headPc s (.region y)))
      | _ => .ok (s.setMe { s.me with lastRegion := headPc s (.region y) })) s := by
  have hn : ¬ holdsAtRegion s = true := by
    rcases ha with ha | ha
    · simp [holdsAtRegion, ha]
    · cases ht : s.here.timed
      · simp [holdsAtRegion, ht]
      · simp [holdsAtRegion, ha ht]
  exact (exec_region y s).trans (if_neg hn)

/-- REGION of C, T or M is noted as the last one. -/
theorem region_noted (h : Ready s (.region y) y t) (ha : s.cur.q = .c ∨ (s.here.timed = true → s.me.armed = true)) (hq : s.cur.q ≠ .v) :
    Effect s (.region y) y s (t.setSeq s.cur.q { t.seq s.cur.q with lastRegion := s.me.pc }) (nextPc s (.region y)) 1 := by
  refine effect_task h (exec_region_run ha) (by simp) (fun k w hk => ⟨k.setSeq s.cur.q { k.seq s.cur.q with lastRegion := s.me.pc }, ?_, ?_, ?_⟩)
  · have hp := hk.headPc
    cases hc : s.cur.q with
    | v => exact absurd hc hq
    | c | t | m => simp only [State.setHere_cur, hc, hp, State.setMe_setHere, State.me_setHere]
  · have (x : Task) : bareTask (x.setSeq s.cur.q { x.seq s.cur.q with lastRegion := s.me.pc }) s.cur.q
        = (bareTask x s.cur.q).setSeq s.cur.q { (bareTask x s.cur.q).seq s.cur.q with lastRegion := s.me.pc } := by
      cases s.cur.q <;> rfl
    rw [this, this, hk.bare]
  · constructor <;> simp

/-- The REGION that V resumes at in replay mode ends nothing; every other one frees what the region before took. -/
theorem openRegion_eq (s : State) (k : Task) (head : BitVec 48) :
    ∃ k2, openRegion (s.setHere k) head = s.setHere k2 ∧ SameIssue k2.v k.v
      ∧ bareTask k2 .v = bareTask (if k.replay && k.atRegion then { regionOpened head k with atRegion := false }
          else { regionOpened head (heldFreed k) with replay := false }) .v := by
  unfold openRegion
  simp only [State.here_setHere, State.setHere_setHere, freeHeld_eq]
  by_cases hc : (k.replay && k.atRegion) = true
  · simp only [hc, if_true]
    exact ⟨_, rfl, ⟨rfl, rfl, rfl, rfl, rfl⟩, rfl⟩
  · simp only [hc, if_false, Bool.false_eq_true]
    by_cases hr : (heldFreed k).replay = true
    · simp only [hr, if_true]
      exact ⟨_, rfl, ⟨rfl, rfl, rfl, rfl, rfl⟩, rfl⟩
    · simp only [hr, if_false, Bool.false_eq_true]
      refine ⟨_, rfl, ⟨rfl, rfl, rfl, rfl, rfl⟩, ?_⟩
      have hk : k.replay = false := Bool.not_eq_true _ ▸ hr
      simp only [regionOpened, heldFreed, hk]
      rfl

theorem region_v (h : Ready s (.region y) y t) (ha : s.here.timed = true → s.me.armed = true) (hq : s.cur.q = .v) :
    Effect s (.region y) y s (if t.replay && t.atRegion then { regionOpened s.me.pc t with atRegion := false }
      else { regionOpened s.me.pc (heldFreed t) with replay := false }) (nextPc s (.region y)) 1 := by
  have hseq : ∀ x : Task, x.seq s.cur.q = x.v := fun x => by rw [hq]; rfl
  refine effect_task h (exec_region_run (.inr ha)) ?_ (fun k w hk => ?_)
  · rw [hseq, hseq]; split <;> rfl
  · obtain ⟨k2, ho, hs, hb⟩ := openRegion_eq s k s.me.pc
    refine ⟨k2, ?_, ?_, by rw [hseq, hseq]; exact hs⟩
    · simp only [State.setHere_cur, hq, hk.headPc, ho]
    · have hr : k.replay = t.replay := hk.field (·.replay) (fun x => by simp [bareTask])
      have hat : k.atRegion = t.atRegion := hk.field (·.atRegion) (fun x => by simp [bareTask])
      have hbare := hk.bare
      rw [hq] at hbare ⊢
      rw [hb, hr, hat]
      split
      · exact congrArg (fun x : Task => { regionOpened s.me.pc x with atRegion := false }) hbare
      · exact congrArg (fun x : Task => { regionOpened s.me.pc (heldFreed x) with replay := false }) hbare

end region
end Sys2Proof

namespace Sys2Proof

open Sys2Proof.Machine

/-! #### END (R41, R271, R137) -/

/-- Completion of an instruction after which its stream may have ended. -/
theorem completed_settled (s : State) (t : Task) (hw : (t.seq s.cur.q).wait.isSome = true) :
    ∃ t' fl n, completed (s.setHere t) = endIfOver (s.setHere t') s.cur.core (s.bankOf s.cur.core)
      ∧ TokensOnly (t.setSeq s.cur.q { t.seq s.cur.q with wait := none, early := [], lastIssue := n, flights := fl }) t' := by
  obtain ⟨n, f0, hc⟩ := closeWait_eq s t hw
  unfold completed settleMe
  simp only [hc, State.setHere_cur, State.bankOf_setHere]
  obtain ⟨t', fl, h1, h2⟩ := settle_eq _ s.cur.core (s.bankOf s.cur.core) s.cur.q _ (State.task?_setHere s (t.setSeq s.cur.q
      { t.seq s.cur.q with wait := none, early := [], lastIssue := n, flights := f0 }))
  refine ⟨t', fl, n, ?_, by simpa using h2⟩
  rw [h1]
  simp only [State.setHere_eq, State.setTask_setTask]

/-- What follows a body that ends at once: the instruction is complete, what has completed has sent its tokens, and the task ends if its streams have. -/
theorem finish_settled (s : State) (head : BitVec 48) (t : Task) (hw : (t.seq s.cur.q).wait.isSome = true) :
    ∃ t' fl n, finish head (.ok (s.setHere t)) = .next (endIfOver (s.setHere t') s.cur.core (s.bankOf s.cur.core))
      ∧ TokensOnly (t.setSeq s.cur.q { t.seq s.cur.q with wait := none, early := [], lastIssue := n, flights := fl }) t' := by
  obtain ⟨k, hk, ho⟩ := issued_eq s t
  have hs := ho.seq s.cur.q
  obtain ⟨t', fl, n, h1, h2⟩ := completed_settled s k (by rw [hs]; exact hw)
  refine ⟨t', fl, n, ?_, (ho.setSeq _ _).trans (hs ▸ h2)⟩
  unfold finish
  simp only [present_setHere, hk, h1, if_true]
/-- Which streams have ended, of a task whose sequencers but one are those of another, and that one's stream. -/
theorem allEnded_iff (t : Task) : allEnded t = true ↔ ∀ q : SeqId, (t.seq q).stream = .ended := by
  simp only [allEnded, Bool.and_eq_true, beq_iff_eq]
  exact ⟨fun ⟨⟨⟨hc, ht⟩, hv⟩, hm⟩ q => by cases q <;> assumption, fun h => ⟨⟨⟨h .c, h .t⟩, h .v⟩, h .m⟩⟩

theorem stream_bareTask (t : Task) (q r : SeqId) : ((bareTask t q).seq r).stream = (t.seq r).stream := by
  cases q <;> cases r <;> rfl

/-- The streams of a task, as `bareTask` keeps them. -/
theorem allEnded_bare {t k : Task} {q : SeqId} (h : bareTask k q = bareTask t q) : allEnded k = true ↔ ∀ r : SeqId, (t.seq r).stream = .ended := by
  rw [allEnded_iff]
  exact forall_congr' (fun r => by rw [← stream_bareTask k q r, h, stream_bareTask])

/-! The end of a task frees its bank, and no byte of memory changes. -/

theorem dropWmap_cores (s : State) (core bank : Nat) : (dropWmap s core bank).cores = s.cores :=
  foldl_keeps State.cores _ (fun b _ => by rw [freeAsked_eq]; rfl) _ s

theorem dropWmap_hbm (s : State) (core bank : Nat) : (dropWmap s core bank).hbm = s.hbm :=
  foldl_keeps State.hbm _ (fun b _ => by rw [freeAsked_eq]; rfl) _ s

theorem leaveSems_cores (s : State) (core bank : Nat) : (leaveSems s core bank).cores = s.cores := by
  unfold leaveSems
  split
  · rfl
  · exact dropWmap_cores _ _ _

theorem leaveSems_hbm (s : State) (core bank : Nat) : (leaveSems s core bank).hbm = s.hbm := by
  unfold leaveSems
  split
  · rfl
  · exact dropWmap_hbm _ _ _

theorem core_of_cores {s s' : State} (h : s'.cores = s.cores) (n : Nat) : s'.core n = s.core n := by simp [State.core, h]

/-- The rank of a task that is over is noted in its partition alone. -/
theorem launchRankOver_eq (s : State) (part id rank first status : Nat) (host : Bool) :
    ∃ p, launchRankOver s part id rank first status host = s.setPart part p := ⟨_, rfl⟩

theorem endTask_eq {s : State} {core bank : Nat} {t : Task} (h : s.task? core bank = some t) (status : Nat) (host : Bool) :
    ∃ p, endTask s core bank status host
      = switchBank ((((leaveSems s core bank).setTask core bank none).moveFlits core bank 4).setPart t.part p) core := by
  obtain ⟨p, hp⟩ := launchRankOver_eq (((leaveSems s core bank).setTask core bank none).moveFlits core bank 4) t.part t.launch t.rank t.firstIssue status host
  refine ⟨p, ?_⟩
  unfold endTask
  simp only [h, hp]

theorem endTask_frees {s : State} {core bank : Nat} {t : Task} (h : s.task? core bank = some t) (status : Nat) (host : Bool) :
    (endTask s core bank status host).task? core bank = none := by
  obtain ⟨p, hp⟩ := endTask_eq h status host
  rw [hp, switchBank_task?, State.task?_setPart, moveFlits_task?, State.task?_setTask]

theorem endTask_memory {s : State} {core bank : Nat} {t : Task} (h : s.task? core bank = some t) (status : Nat) (host : Bool) :
    SameMemory s (endTask s core bank status host) := by
  obtain ⟨p, hp⟩ := endTask_eq h status host
  refine ⟨fun a => ?_, fun n a => ?_⟩
  · rw [hp, switchBank_hbm, State.setPart_hbm, moveFlits_hbm, State.setTask_hbm, leaveSems_hbm]
  · rw [hp, switchBank_spad, State.core_setPart, moveFlits_core, State.spad_setTask, core_of_cores (leaveSems_cores s core bank)]

section endStream
variable {s : State} {y : Syn} {t : Task}

/-- An engine that is still held has ended. -/
def released (u : Seq) : Seq := if u.stream = .held then { u with stream := .ended } else u

/-- The task with the stream of `q` ended: with that of C the engines still held (R271), with that of V the parameters it has taken. -/
def streamEnded (q : SeqId) (t : Task) : Task :=
  match q with
  | .c => { t with c := { t.c with stream := .ended }, t := released t.t, v := released t.v, m := released t.m }
  | .t => { t with t := { t.t with stream := .ended } }
  | .v => { heldFreed t with v := { t.v with stream := .ended } }
  | .m => { t with m := { t.m with stream := .ended } }

theorem streamEnded_bare (q : SeqId) {k t : Task} (h : bareTask k q = bareTask t q) : bareTask (streamEnded q k) q = bareTask (streamEnded q t) q := by
  have (x : Task) : bareTask (streamEnded q x) q = streamEnded q (bareTask x q) := by cases q <;> rfl
  rw [this, this, h]

theorem streamEnded_seq (q : SeqId) (t : Task) : (streamEnded q t).seq q = { t.seq q with stream := .ended } := by cases q <;> rfl

/-- END with nothing in flight ends its stream at once. -/
theorem endStream_body (s : State) (y : Syn) : ∃ body, exec (.endStream y) s = run (.endStream y) y 1 body s
    ∧ ∀ k : Task, (k.seq s.cur.q).flights = [] → body (s.setHere k) = .ok (s.setHere (streamEnded s.cur.q k)) := by
  refine ⟨_, exec_endStream y s, fun k hf => ?_⟩
  have hall (p : Flight → Bool) : (k.seq s.cur.q).flights.all p = true := by rw [hf]; rfl
  have hdrop (x : Task) (r : SeqId) : (if ((x.seq r).stream == .held) = true then x.setSeq r { x.seq r with stream := .ended } else x)
      = x.setSeq r (released (x.seq r)) := by
    unfold released
    split
    · next h => rw [if_pos (beq_iff_eq.mp h)]
    · next h => rw [if_neg (fun e => h (beq_iff_eq.mpr e)), Task.setSeq_seq]
  simp only [State.me_setHere, hall, if_true, State.setHere_cur, State.setMe_setHere, State.here_setHere, State.setHere_setHere, freeHeld_eq, hdrop]
  cases s.cur.q <;> rfl

/-- What END leaves: the task with its stream ended but for the bookkeeping of issue, which ends if no stream is left. -/
theorem endStream_next (h : Ready s (.endStream y) y t) (hf : (t.seq s.cur.q).flights = []) :
    ∃ t', exec (.endStream y) s = .next (endIfOver (s.setHere t') s.cur.core (s.bankOf s.cur.core))
      ∧ bareTask t' s.cur.q = bareTask (streamEnded s.cur.q t) s.cur.q
      ∧ (t'.seq s.cur.q).pc = nextPc s (.endStream y)
      ∧ (t'.seq s.cur.q).tick = issueTick s + 1
      ∧ (t'.seq s.cur.q).seqno = ((streamEnded s.cur.q t).seq s.cur.q).seqno + 1
      ∧ (t'.seq s.cur.q).wait = none := by
  obtain ⟨body, hx, hb⟩ := endStream_body s y
  obtain ⟨k, w, he, hk⟩ := entered_spec s (.endStream y) y t 1
  have hw : ((streamEnded s.cur.q k).seq s.cur.q).wait.isSome = true := by rw [streamEnded_seq]; simp [hk.wait]
  obtain ⟨t', fl, n, h1, h2⟩ := finish_settled s s.me.pc (streamEnded s.cur.q k) hw
  have hs := h2.seq s.cur.q
  rw [Task.seq_setSeq, streamEnded_seq] at hs
  refine ⟨t', ?_, ?_, ?_, ?_, ?_, ?_⟩
  · rw [hx, run_ok h, he, hb k (by rw [hk.flights, hf]), h1]
  · rw [h2.bare, ← streamEnded_bare s.cur.q hk.bare]; cases s.cur.q <;> rfl
  · rw [hs]; exact hk.pc
  · rw [hs]; exact hk.tick
  · rw [hs, streamEnded_seq]; exact hk.seqno
  · rw [hs]

/-- While another stream goes on, END is complete. -/
theorem endStream_goes_on (h : Ready s (.endStream y) y t) (hf : (t.seq s.cur.q).flights = [])
    (hr : ∃ q : SeqId, ((streamEnded s.cur.q t).seq q).stream ≠ .ended) :
    Effect s (.endStream y) y s (streamEnded s.cur.q t) (nextPc s (.endStream y)) 1 := by
  obtain ⟨t', hx, hb, hrest⟩ := endStream_next h hf
  refine ⟨t', ?_, hb, hrest⟩
  have hn : ¬ allEnded t' = true := fun ha => hr.elim (fun q hq => hq ((allEnded_bare hb).mp ha q))
  rw [hx, endIfOver, State.task?_setHere]
  simp only [hn, if_false, State.setHere_eq, Bool.false_eq_true]

/-- With the last stream the task ends. -/
theorem endStream_last (h : Ready s (.endStream y) y t) (hf : (t.seq s.cur.q).flights = [])
    (he : ∀ q : SeqId, ((streamEnded s.cur.q t).seq q).stream = .ended) :
    ∃ s', exec (.endStream y) s = .next s' ∧ s'.task? s.cur.core (s.bankOf s.cur.core) = none ∧ SameMemory s s' := by
  obtain ⟨t', hx, hb, -⟩ := endStream_next h hf
  have ht := State.task?_setHere s t'
  have hn : allEnded t' = true := (allEnded_bare hb).mpr he
  refine ⟨endTask (s.setHere t') s.cur.core (s.bankOf s.cur.core) 0 false, ?_, endTask_frees ht 0 false, ?_⟩
  · rw [hx, endIfOver, ht]
    simp only [hn, if_true]
  · obtain ⟨hm, hp⟩ := endTask_memory ht 0 false
    exact ⟨fun a => (hm a).trans (by rw [State.setHere_eq, State.setTask_hbm]),
      fun c a => (hp c a).trans (by rw [State.setHere_eq, State.spad_setTask])⟩

end endStream

/-- Settles O24: REGION changes the executing task alone, and END ends its stream, with the last one the task. -/
theorem regionAndEnd : Obligations.RegionAndEnd := by
  unfold Obligations.RegionAndEnd
  intro freedBad
  have hbad (t : Task) : freedBad t = t.bad.filterMap (movedUp 2 t.heldTaken) := by
    refine List.filterMap_congr (fun w _ => ?_)
    cases w with
    | pq f i => simp [movedUp]
    | v | k | fq => rfl
  constructor
  · intro s y t i freed opened
    have hfreed (x : Task) : freed x = heldFreed x := by
      show Task.mk .. = _
      simp only [heldFreed, ← hbad]
    refine ⟨fun h hc => ?_, region_holds, fun h ha => ⟨fun hq => ?_, fun hq => ?_, fun hq hr hat => ?_, fun hq hr => ?_⟩⟩
    · have hd := region_noted h (.inl hc) (by simp [hc])
      rw [hc] at hd
      exact hd
    · have hd := region_noted h (.inr ha) (by simp [hq])
      rw [hq] at hd
      exact hd
    · have hd := region_noted h (.inr ha) (by simp [hq])
      rw [hq] at hd
      exact hd
    · have hd := region_v h ha hq
      rw [if_pos (by simp [hr, hat])] at hd
      exact hd
    · have hd := region_v h ha hq
      rw [if_neg (by rcases hr with hr | hr <;> simp [hr])] at hd
      rw [hfreed]
      exact hd
  · intro s y t h hf i release t1
    have ht : t1 = streamEnded s.cur.q t := by
      cases hq : s.cur.q <;> simp only [t1, hq, hbad] <;> rfl
    rw [ht]
    exact ⟨endStream_goes_on h hf, endStream_last h hf⟩

end Sys2Proof

/-! ### The machine's step (O55) -/

namespace Sys2Proof

open Sys2Proof.Machine

/-! #### What stores and reads of memory leave of the tasks -/

/-- The execution context and every task are the same. -/
structure SameTasks (s s' : State) : Prop where
  cur : s'.cur = s.cur
  bank : ∀ n, s'.bankOf n = s.bankOf n
  task : ∀ n b, s'.task? n b = s.task? n b

theorem SameTasks.of_cores {s s' : State} (hc : s'.cur = s.cur) (hk : s'.cores = s.cores) : SameTasks s s' :=
  ⟨hc, fun n => by simp [State.bankOf, State.core, hk], fun n b => by simp [State.task?, State.core, hk]⟩

theorem SameTasks.refl (s : State) : SameTasks s s := .of_cores rfl rfl

theorem SameTasks.trans {s u v : State} (h : SameTasks s u) (k : SameTasks u v) : SameTasks s v :=
  ⟨k.cur.trans h.cur, fun n => (k.bank n).trans (h.bank n), fun n b => (k.task n b).trans (h.task n b)⟩

theorem SameTasks.fold {α : Type} (f : State → α → State) (hf : ∀ s a, SameTasks s (f s a)) (l : List α) (s : State) : SameTasks s (l.foldl f s) :=
  List.foldlRecOn (motive := SameTasks s) l f (.refl s) (fun _ h a _ => h.trans (hf _ a))

theorem findErrors_sameTasks (s : State) (a n : Nat) : SameTasks s (findErrors s a n) :=
  SameTasks.fold _ (fun s e => by split <;> exact .of_cores rfl rfl) _ s

theorem storeLine_sameTasks (s : State) (a : Nat) (bs : List Byte) (whole : Bool) : SameTasks s (storeLine s a bs whole) := by
  unfold storeLine
  split
  · exact .of_cores rfl rfl
  · split
    · exact .of_cores rfl rfl
    · dsimp only
      split <;> exact (findErrors_sameTasks s _ _).trans (.of_cores rfl rfl)

theorem storeHbm_sameTasks (whole : Bool) (n : Nat) (s : State) (a : Nat) (bs : List Byte) : SameTasks s (storeHbm whole n s a bs) := by
  induction n generalizing s a bs with
  | zero => exact .refl s
  | succ n ih =>
    unfold storeHbm
    split
    · exact .refl s
    · exact (storeLine_sameTasks s _ _ _).trans (ih _ _ _)

theorem storeSpad_sameTasks (s : State) (c off : Nat) (bs : List Byte) : SameTasks s (storeSpad s c off bs) := by
  refine ⟨rfl, fun n => ?_, fun n b => ?_⟩
  · simp only [storeSpad, State.bankOf, State.core_setCore]
    split
    · next h => rw [h]
    · rfl
  · simp only [storeSpad, State.task?, State.core_setCore]
    split
    · next h => rw [h]; rfl
    · rfl

theorem performPiece_sameTasks (s : State) (p : Place) (bs : List Byte) (whole : Bool) : SameTasks s (performPiece s p bs whole) := by
  cases p with
  | spad c off => exact storeSpad_sameTasks s c off bs
  | hbm a => exact storeHbm_sameTasks whole _ s a bs
  | tx a => exact .refl s

theorem performStore_sameTasks (s : State) (st : PStore) : SameTasks s (performStore s st) := by
  unfold performStore
  split
  · exact SameTasks.fold _ (fun s r => performPiece_sameTasks s _ _ _) _ s
  · exact performPiece_sameTasks s _ _ _

theorem performStores_sameTasks (s : State) (l : List PStore) : SameTasks s (performStores s l) :=
  SameTasks.fold _ performStore_sameTasks l s

theorem correctAt_sameTasks (s : State) (p : Place) (n : Nat) : SameTasks s (correctAt s p n) := by
  cases p with
  | hbm a => exact SameTasks.fold correctLine (fun s line => .of_cores rfl rfl) _ s
  | spad c off => exact .refl s
  | tx a => exact .refl s

theorem served_sameTasks (s : State) (part : Nat) (p : Place) : SameTasks s (served s part p) := by
  cases p with
  | hbm a =>
    show SameTasks s (serveWheel s _ part)
    unfold serveWheel
    split
    · exact .refl s
    · exact .of_cores rfl rfl
  | spad c off =>
    unfold served
    dsimp only
    split
    · exact .refl s
    · exact .of_cores rfl rfl
  | tx a => exact .refl s

/-! #### What the fetch of an instruction leaves -/

/-- The execution context, the bank from which each core issues, and the PC of sequencer `q` of a core are the same. -/
structure SamePc (core : Nat) (q : SeqId) (s s' : State) : Prop where
  cur : s'.cur = s.cur
  bank : ∀ n, s'.bankOf n = s.bankOf n
  pc : (s'.task? core (s.bankOf core)).map (fun t => (t.seq q).pc) = (s.task? core (s.bankOf core)).map (fun t => (t.seq q).pc)

section pc
variable {core : Nat} {q : SeqId}

theorem SamePc.refl (s : State) : SamePc core q s s := ⟨rfl, fun _ => rfl, rfl⟩

theorem SamePc.trans {s u v : State} (h : SamePc core q s u) (k : SamePc core q u v) : SamePc core q s v :=
  ⟨k.cur.trans h.cur, fun n => (k.bank n).trans (h.bank n), (h.bank core ▸ k.pc).trans h.pc⟩

theorem SameTasks.samePc {s s' : State} (h : SameTasks s s') : SamePc core q s s' := ⟨h.cur, h.bank, by rw [h.task]⟩

theorem SamePc.setTask {s : State} {t t' : Task} (ht : s.task? core (s.bankOf core) = some t) (hp : (t'.seq q).pc = (t.seq q).pc) :
    SamePc core q s (s.setTask core (s.bankOf core) (some t')) :=
  ⟨rfl, fun n => State.bankOf_setTask .., by rw [State.task?_setTask, ht]; simp [hp]⟩

/-- The task of a bank whose own stores are drained has lost those stores alone. -/
theorem drainAt_samePc (s : State) (id : Nat) (p : Place) (n : Nat) : SamePc core q s (drainAt s core (s.bankOf core) q id p n) := by
  unfold drainAt
  split
  · exact .refl s
  · next t _ =>
    dsimp only
    generalize splitStores p n ((t.seq q).stores.filter (fun st => decide (st.id < id))) = d
    have h := performStores_sameTasks s d.1
    split
    · exact (h.trans (correctAt_sameTasks _ _ _)).samePc
    · next k hk =>
      refine h.samePc.trans (SamePc.trans ?_ (correctAt_sameTasks _ _ _).samePc)
      have hk : (performStores s d.1).task? core ((performStores s d.1).bankOf core) = some k := by
        rw [h.bank]
        split at hk
        · cases hk
        · exact hk
      have hset := SamePc.setTask hk (q := q) (t' := k.setSeq q { k.seq q with stores := (k.seq q).stores.filter (fun st => !d.1.contains st) }) (by simp)
      rw [h.bank] at hset
      exact hset

theorem fetchGranule_samePc {s s' : State} {a : Nat} (h : fetchGranule s core q a = some s') : SamePc core q s s' := by
  unfold fetchGranule at h
  dsimp only at h
  cases ht : s.task? core (s.bankOf core) with
  | none => rw [ht] at h; exact Option.some.inj h ▸ .refl s
  | some t =>
    simp only [ht] at h
    cases hc : checkAccess s core t Ranges.hbmOnly .fetch (a % 2 ^ 48) 4 4 with
    | error e => simp only [hc] at h; exact Option.some.inj h ▸ .refl s
    | ok p =>
      simp only [hc] at h
      split at h
      · exact Option.some.inj h ▸ .refl s
      · split at h
        · have hd := drainAt_samePc (core := core) (q := q) s (t.seq q).nextId p.granule 16
          generalize drainAt s core (s.bankOf core) q (t.seq q).nextId p.granule 16 = u at h hd
          have hs : SamePc core q u (if isTimed t (t.seq q) = true then u else served u t.part p) := by
            split
            · exact .refl u
            · exact (served_sameTasks u _ _).samePc
          generalize (if isTimed t (t.seq q) = true then u else served u t.part p) = v at h hs
          have hv := hd.trans hs
          rw [← hv.bank core] at h
          split at h
          · exact Option.some.inj h ▸ hv
          · next k hk => exact Option.some.inj h ▸ hv.trans (.setTask hk (by simp))
        · cases h

theorem fetchAll_samePc (l : List Nat) (s : State) : SamePc core q s (fetchAll core q l s).1 := by
  induction l generalizing s with
  | nil => exact .refl s
  | cons a l ih =>
    unfold fetchAll
    split
    · exact .refl s
    · next r hr => exact (fetchGranule_samePc hr).trans (ih r)

theorem fetchGranules_samePc (l : List Nat) (s : State) : SamePc core q s (fetchGranules core q l s).1 := by
  unfold fetchGranules
  split
  · exact fetchAll_samePc l s
  · next n _ =>
    dsimp only
    split
    · exact .refl s
    · generalize l.filter (fun a => !fetched s core q (coreTask s core) a) = todo
      show SamePc core q s ((todo[n]?.bind (fetchGranule s core q)).getD s)
      cases hr : todo[n]?.bind (fetchGranule s core q) with
      | none => exact .refl s
      | some r =>
        obtain ⟨a, -, ha⟩ := Option.bind_eq_some_iff.mp hr
        exact fetchGranule_samePc ha

/-- The fetch changes neither the turn nor the PC. -/
theorem fetchNow_samePc (s : State) : SamePc core q s (fetchNow s core q).1 := by
  have h := fetchGranules_samePc (core := core) (q := q) [((coreTask s core).seq q).pc.toNat] s
  unfold fetchNow
  dsimp only
  split
  · exact h.trans (fetchGranules_samePc _ _)
  · exact h

end pc
/-! #### The granules of an instruction (R293) -/

/-- An access is checked against the extents and the partition of a task, and against nothing else of any task. -/
theorem checkAccess_congr {s s' : State} {core : Nat} {t t' : Task} (hs : s' = s ∨ ∃ n b x, s' = s.setTask n b x) (hx : t'.extents = t.extents)
    (hp : t'.part = t.part) (rs : Ranges) (k : AccKind) (a size align : Nat) :
    checkAccess s' core t' rs k a size align = checkAccess s core t rs k a size align := by
  have hb (c off m : Nat) : spadBadIn s' c off m = spadBadIn s c off m := by
    rcases hs with rfl | ⟨n, b, x, rfl⟩ <;> simp [spadBadIn]
  unfold checkAccess
  simp only [hb, hx, hp]
  rcases hs with rfl | ⟨n, b, x, rfl⟩ <;> rfl

theorem readPlace_setTask (s : State) (n b : Nat) (x : Option Task) (p : Place) (m : Nat) : readPlace (s.setTask n b x) p m = readPlace s p m := by
  cases p with
  | spad c off => simp only [readPlace, State.spad_setTask]
  | hbm a => rfl
  | tx a => rfl

/-- An access that lands in HBM has its alignment, and is translated by the task's extents. -/
theorem checkAccess_hbm {s : State} {core : Nat} {t : Task} {rs : Ranges} {k : AccKind} {a size align pa : Nat}
    (h : checkAccess s core t rs k a size align = .ok (.hbm pa)) : a % align = 0 ∧ translateIn s t.extents k a = some pa := by
  unfold checkAccess at h
  extract_lets extent ecc aligned at h
  have hecc (p : Place) {p' : Place} (he : ecc p = .ok p') : p' = p := by
    simp only [ecc] at he
    split at he
    · exact (Except.ok.inj he).symm
    · split at he
      · cases he
      · exact (Except.ok.inj he).symm
    · split at he
      · cases he
      · exact (Except.ok.inj he).symm
    · exact (Except.ok.inj he).symm
  have haligned {e : Except AccFault Place} {p : Place} (he : aligned e = .ok p) : a % align = 0 ∧ e = .ok p := by
    simp only [aligned] at he
    split at he
    · next ha => exact ⟨beq_iff_eq.mp ha, he⟩
    · cases he
  have hext {p : Place} (he : extent = .ok p) : False := nomatch show Except.error _ = Except.ok p from he
  split at h
  · split at h
    · cases hecc _ (haligned h).2
    · cases hext h
  · split at h
    · split at h
      · cases hecc _ (haligned h).2
      · cases hext h
    · split at h
      · split at h
        · split at h
          · obtain ⟨-, hb⟩ := haligned h
            split at hb
            · cases hb
            · cases hext hb
          · cases hext h
        · cases h
      · split at h
        · split at h
          · obtain ⟨ha, hb⟩ := haligned h
            split at hb
            · next pa' ht => exact ⟨ha, by cases hecc _ hb; exact ht⟩
            · cases hext hb
          · cases hext h
        · cases hext h

/-- Translation keeps the alignment within a page. -/
theorem translateIn_aligned {s : State} {xs : Sparse Extent} {k : AccKind} {a pa align : Nat} (hd : align ∣ 4096) (ha : align ∣ a)
    (h : translateIn s xs k a = some pa) : align ∣ pa := by
  unfold translateIn at h
  split at h
  · next e he =>
    have hu := List.find?_some he
    simp only [Extent.usable, Extent.covers, Bool.and_eq_true, beq_iff_eq, decide_eq_true_eq] at hu
    obtain ⟨⟨⟨⟨⟨-, hv⟩, hp⟩, -⟩, -⟩, -⟩ := hu
    split at h
    · obtain rfl := Option.some.inj h
      exact Nat.dvd_add (hd.trans (Nat.dvd_of_mod_eq_zero hp)) (Nat.dvd_sub ha (hd.trans (Nat.dvd_of_mod_eq_zero hv)))
    · cases h
  · cases h

/-- The place of an access that has passed its checks is aligned as its address is. -/
theorem checkAccess_hbm_aligned {s : State} {core : Nat} {t : Task} {rs : Ranges} {k : AccKind} {a size align pa : Nat} (hd : align ∣ 4096)
    (h : checkAccess s core t rs k a size align = .ok (.hbm pa)) : pa % align = 0 := by
  obtain ⟨ha, ht⟩ := checkAccess_hbm h
  exact Nat.mod_eq_zero_of_dvd (translateIn_aligned hd (Nat.dvd_of_mod_eq_zero ha) ht)

/-- What is fetched lies in HBM, at a multiple of 4. -/
theorem checkAccess_fetch {s : State} {core : Nat} {t : Task} {a : Nat} {p : Place} (h : checkAccess s core t Ranges.hbmOnly .fetch a 4 4 = .ok p) :
    ∃ pa, p = .hbm pa ∧ pa % 4 = 0 := by
  suffices hp : ∃ pa, p = .hbm pa by
    obtain ⟨pa, rfl⟩ := hp
    exact ⟨pa, rfl, checkAccess_hbm_aligned (by decide) h⟩
  unfold checkAccess at h
  dsimp only [Ranges.hbmOnly] at h
  split at h
  · simp at h
  · split at h
    · simp at h
    · split at h
      · simp at h
      · split at h
        · simp only [if_true] at h
          split at h
          · split at h
            · split at h
              · simp at h
              · exact ⟨_, (Except.ok.inj h).symm⟩
            · simp at h
          · simp at h
        · simp at h

theorem getBytes_eq_map (m : List Host.Cell) (a n : Nat) : getBytes m a n = (List.range n).map (fun k => getByte m (a + k)) := by
  induction n generalizing a with
  | zero => rfl
  | succ n ih => rw [getBytes, ih, List.range_succ_eq_map, List.map_cons, List.map_map]; simp [Function.comp_def, Nat.add_assoc, Nat.add_comm 1]

/-- A part of what was read is what a read of that part gives. -/
theorem getBytes_part (m : List Host.Cell) (a k j n : Nat) (h : k + n ≤ j) : ((getBytes m a j).drop k).take n = getBytes m (a + k) n := by
  refine List.ext_getElem (by simp [getBytes_length]; omega) (fun i h1 h2 => ?_)
  simp [getBytes_eq_map, Nat.add_assoc]

/-- The granules of a list are what memory holds. -/
def AsInMemory (s : State) (l : List Early) : Prop := ∀ e ∈ l, ∀ pa, e.place = .hbm pa → e.bytes = getBytes s.hbm pa 16

/-- A parcel among granules that are as in memory is the parcel in memory. -/
theorem earlyIn_asInMemory {s : State} {l : List Early} (h : AsInMemory s l) (f : Bool) {pa : Nat} (ha : pa % 4 = 0) (v : List Byte)
    (hv : earlyIn l f (.hbm pa) 4 = some v) : v = readPlace s (.hbm pa) 4 := by
  unfold earlyIn at hv
  obtain ⟨e, he, rfl⟩ := Option.map_eq_some_iff.mp hv
  have hp : e.place = .hbm (pa / 16 * 16) := by
    have := List.find?_some he
    simp only [Bool.and_eq_true, beq_iff_eq] at this
    exact this.2
  rw [h e (List.mem_of_find?_eq_some he) _ hp]
  show ((getBytes s.hbm (pa / 16 * 16) 16).drop (pa % 16)).take 4 = getBytes s.hbm pa 4
  rw [getBytes_part _ _ _ _ _ (by omega)]
  congr 1
  omega

theorem earlyIn_append (l l' : List Early) (f : Bool) (p : Place) (n : Nat) : earlyIn (l ++ l') f p n = (earlyIn l f p n).or (earlyIn l' f p n) := by
  simp only [earlyIn, List.find?_append]
  cases l.find? (fun e => e.fetch == f && e.place == p.granule) <;> rfl

/-- The task after more granules have been fetched. -/
def withEarly (t : Task) (q : SeqId) (l : List Early) : Task := t.setSeq q { t.seq q with early := (t.seq q).early ++ l }

/-- The state `r` differs from `s` in granules alone that sequencer `q` of task `t` has fetched. -/
structure FetchedMore (s : State) (core : Nat) (q : SeqId) (t : Task) (r : State) (l : List Early) : Prop where
  fresh : AsInMemory s l
  task : r.task? core (s.bankOf core) = some (withEarly t q l)
  state : r = s ∨ r = s.setTask core (s.bankOf core) (some (withEarly t q l))

section fetch
variable {s : State} {core : Nat} {q : SeqId} {t : Task} {r : State} {l : List Early}

theorem FetchedMore.start (h : s.task? core (s.bankOf core) = some t) : FetchedMore s core q t s [] := by
  refine ⟨fun e he => absurd he List.not_mem_nil, ?_, .inl rfl⟩
  have : withEarly t q [] = t := by unfold withEarly; cases q <;> simp [Task.setSeq, Task.seq]
  rw [this, h]

theorem withEarly_extents (t : Task) (q : SeqId) (l : List Early) : (withEarly t q l).extents = t.extents := by cases q <;> rfl
theorem withEarly_part (t : Task) (q : SeqId) (l : List Early) : (withEarly t q l).part = t.part := by cases q <;> rfl
theorem withEarly_priv (t : Task) (q : SeqId) (l : List Early) : (withEarly t q l).priv = t.priv := by cases q <;> rfl

theorem FetchedMore.bank (h : FetchedMore s core q t r l) : r.bankOf core = s.bankOf core := by
  rcases h.state with h | h
  · rw [h]
  · rw [h, State.bankOf_setTask]

theorem FetchedMore.coreTask (h : FetchedMore s core q t r l) : coreTask r core = withEarly t q l := by
  simp [Machine.coreTask, h.bank, h.task]

theorem FetchedMore.cases (h : FetchedMore s core q t r l) : r = s ∨ ∃ n b x, r = s.setTask n b x := h.state.imp_right (fun h => ⟨_, _, _, h⟩)

theorem FetchedMore.check (h : FetchedMore s core q t r l) (a : Nat) :
    checkAccess r core (withEarly t q l) Ranges.hbmOnly .fetch a 4 4 = checkAccess s core t Ranges.hbmOnly .fetch a 4 4 :=
  checkAccess_congr h.cases (withEarly_extents t q l) (withEarly_part t q l) _ _ _ _ _

theorem FetchedMore.read (h : FetchedMore s core q t r l) (p : Place) (n : Nat) : readPlace r p n = readPlace s p n := by
  rcases h.state with hr | hr
  · rw [hr]
  · rw [hr, readPlace_setTask]

theorem withEarly_early (t : Task) (q : SeqId) (l : List Early) : ((withEarly t q l).seq q).early = (t.seq q).early ++ l := by simp [withEarly]

/-- What has been fetched gives the parcels that memory gives. -/
theorem FetchedMore.parcel (h : FetchedMore s core q t r l) {a : Nat} {w : Parcel} (hw : fetchParcel s core q t a = .ok w) :
    fetchParcel r core q (withEarly t q l) a = .ok w := by
  rw [← hw]
  unfold fetchParcel
  rw [h.check]
  cases hc : checkAccess s core t Ranges.hbmOnly .fetch a 4 4 with
  | error e => rfl
  | ok p =>
    obtain ⟨pa, rfl, ha⟩ := checkAccess_fetch hc
    simp only [Seq.earlyAt, withEarly_early, earlyIn_append, h.read]
    cases earlyIn (t.seq q).early true (.hbm pa) 4 with
    | some v => rfl
    | none =>
      cases hl : earlyIn l true (.hbm pa) 4 with
      | none => rfl
      | some v => rw [earlyIn_asInMemory h.fresh true ha v hl]; rfl

/-- A read with no store of its own on its way and no symbol in error leaves the state. -/
theorem drainAt_of_none {bank : Nat} (ht : s.task? core bank = some t) (hs : (t.seq q).stores = []) (he : s.errs = []) (id : Nat) (p : Place) (n : Nat) :
    drainAt s core bank q id p n = s := by
  have hc : correctAt s p n = s := by cases p <;> simp [correctAt, he]
  simp [drainAt, ht, hs, splitStores, performStores, hc]

/-- The wheel of a partition's own position is open, and serving it there is not noted. -/
theorem WheelMet.open {part pa : Nat} (h : WheelMet s part (.hbm pa)) : portOpen s core part q (.hbm pa) = true := by
  obtain ⟨ho, hb⟩ := h pa rfl
  simp only [portOpen, wheelOpen, ho, if_true, hb]

theorem WheelMet.served {part pa : Nat} (h : WheelMet s part (.hbm pa)) (g : Nat) (hg : g / 2 ^ 37 = pa / 2 ^ 37) : served s part (.hbm g) = s := by
  obtain ⟨ho, -⟩ := h pa rfl
  simp only [Machine.served, serveWheel, hg, ho, if_true]

theorem FetchedMore.wheelMet (h : FetchedMore s core q t r l) {part : Nat} {p : Place} (hw : WheelMet s part p) : WheelMet r part p := by
  rcases h.state with hr | hr
  · rw [hr]; exact hw
  · rw [hr]; exact hw

/-- One more granule is fetched as memory holds it. -/
theorem FetchedMore.add (h : FetchedMore s core q t r l) (g : Nat) :
    FetchedMore s core q t (r.setTask core (s.bankOf core) (some ((withEarly t q l).setSeq q { (withEarly t q l).seq q with
      early := ((withEarly t q l).seq q).early ++ [{ fetch := true, place := .hbm g, bytes := readPlace r (.hbm g) 16 }] })))
      (l ++ [{ fetch := true, place := .hbm g, bytes := readPlace r (.hbm g) 16 }]) := by
  have ht (e : Early) : (withEarly t q l).setSeq q { (withEarly t q l).seq q with early := ((withEarly t q l).seq q).early ++ [e] } = withEarly t q (l ++ [e]) := by
    simp [withEarly]
  rw [ht]
  refine ⟨fun e he pa hp => ?_, State.task?_setTask .., .inr ?_⟩
  · rcases List.mem_append.mp he with he | he
    · exact h.fresh e he pa hp
    · obtain rfl := List.mem_singleton.mp he
      obtain rfl := Place.hbm.inj hp
      exact h.read (.hbm g) 16
  · rcases h.state with hr | hr
    · rw [hr]
    · rw [hr, State.setTask_setTask]

/-- The state and the task of a sequencer that finds each granule when it asks for it: nothing of its own is on its way. -/
structure Calm (s : State) (u : Seq) : Prop where
  errs : s.errs = []
  stores : u.stores = []
  pend : u.pend = []

theorem FetchedMore.errs (h : FetchedMore s core q t r l) : r.errs = s.errs := by
  rcases h.state with hr | hr
  · rw [hr]
  · rw [hr]; rfl

theorem FetchedMore.granule (h : FetchedMore s core q t r l) (hc : Calm s (t.seq q)) {a : Nat} {w : Parcel}
    (hw : fetchParcel s core q t (a % 2 ^ 48) = .ok w)
    (hm : isTimed t (t.seq q) = false → ∀ p, checkAccess s core t Ranges.hbmOnly .fetch (a % 2 ^ 48) 4 4 = .ok p → WheelMet s t.part p) :
    ∃ r' l', fetchGranule r core q a = some r' ∧ FetchedMore s core q t r' l' := by
  have hk := h.check (a % 2 ^ 48)
  cases hp : checkAccess s core t Ranges.hbmOnly .fetch (a % 2 ^ 48) 4 4 with
  | error e => rw [fetchParcel, hp] at hw; cases hw
  | ok p =>
    obtain ⟨pa, rfl, ha⟩ := checkAccess_fetch hp
    rw [hp] at hk
    have hT : isTimed (withEarly t q l) ((withEarly t q l).seq q) = isTimed t (t.seq q) := by cases q <;> rfl
    have hst : ((withEarly t q l).seq q).stores = [] := by simpa [withEarly] using hc.stores
    have hpe : ((withEarly t q l).seq q).pend = [] := by simpa [withEarly] using hc.pend
    have hready : ((isTimed t (t.seq q) || portOpen r core (withEarly t q l).part q (.hbm pa)) &&
        readClear r ((withEarly t q l).seq q) ((withEarly t q l).seq q).pend ((withEarly t q l).seq q).nextId (Place.hbm pa).granule 16) = true := by
      have hclear : readClear r ((withEarly t q l).seq q) ((withEarly t q l).seq q).pend ((withEarly t q l).seq q).nextId (Place.hbm pa).granule 16 = true := by
        simp [readClear, hst, hpe, splitStores]
      rw [hclear, withEarly_part]
      cases ht : isTimed t (t.seq q) with
      | true => rfl
      | false => rw [(h.wheelMet (hm ht _ hp)).open]; rfl
    have hserved : (if isTimed t (t.seq q) = true then r else served r (withEarly t q l).part (.hbm pa)) = r := by
      split
      · rfl
      · next ht => rw [withEarly_part, (h.wheelMet (hm (Bool.not_eq_true _ ▸ ht) _ hp)).served pa rfl]
    unfold fetchGranule
    simp only [h.bank, h.task, hk, hT, hready, if_true]
    split
    · exact ⟨r, l, rfl, h⟩
    · rw [drainAt_of_none h.task hst (h.errs.trans hc.errs), hserved]
      simp only [h.task]
      exact ⟨_, _, rfl, h.add _⟩

/-- The parcel at an address is there for a sequencer: it is `w`, and the wheel of its stack stands at a position of the partition. -/
def ParcelMet (s : State) (core : Nat) (q : SeqId) (t : Task) (a : Nat) (w : Parcel) : Prop :=
  fetchParcel s core q t (a % 2 ^ 48) = .ok w
    ∧ (isTimed t (t.seq q) = false → ∀ p, checkAccess s core t Ranges.hbmOnly .fetch (a % 2 ^ 48) 4 4 = .ok p → WheelMet s t.part p)

theorem FetchedMore.all (hc : Calm s (t.seq q)) {as : List Nat} (h : FetchedMore s core q t r l) (ha : ∀ a ∈ as, ∃ w, ParcelMet s core q t a w) :
    ∃ r' l', fetchAll core q as r = (r', true) ∧ FetchedMore s core q t r' l' := by
  induction as generalizing r l with
  | nil => exact ⟨r, l, rfl, h⟩
  | cons a as ih =>
    obtain ⟨w, hw, hm⟩ := ha a List.mem_cons_self
    obtain ⟨r1, l1, h1, hf⟩ := h.granule hc hw hm
    obtain ⟨r2, l2, h2, hf2⟩ := ih hf (fun a ha' => ha a (List.mem_cons_of_mem _ ha'))
    exact ⟨r2, l2, by rw [fetchAll, h1]; exact h2, hf2⟩

theorem FetchedMore.granules (hc : Calm s (t.seq q)) (hp : s.pick = none) {as : List Nat} (h : FetchedMore s core q t r l)
    (ha : ∀ a ∈ as, ∃ w, ParcelMet s core q t a w) : ∃ r' l', fetchGranules core q as r = (r', true) ∧ FetchedMore s core q t r' l' := by
  have hr : r.pick = none := by
    rcases h.state with hr | hr
    · rw [hr, hp]
    · rw [hr]; exact hp
  unfold fetchGranules
  rw [hr]
  exact h.all hc ha

theorem fetchRest_of_parcels (ps : List Parcel) (a : Nat) (h : ∀ (k : Nat) w, ps[k]? = some w → fetchParcel s core q t ((a + 4 * k) % 2 ^ 48) = .ok w) :
    fetchRest s core q t ps.length a = .ok ps := by
  induction ps generalizing a with
  | nil => rfl
  | cons p ps ih =>
    have h0 := h 0 p rfl
    have hrest := ih (a % 2 ^ 48 + 4) (fun k w hk => by
      have := h (k + 1) w (by simpa using hk)
      rw [show (a % 2 ^ 48 + 4 + 4 * k) % 2 ^ 48 = (a + 4 * (k + 1)) % 2 ^ 48 by omega]
      exact this)
    rw [Nat.mul_zero, Nat.add_zero] at h0
    simp only [List.length_cons, fetchRest, h0, hrest]

/-- An instruction whose parcels are there is what they decode to. -/
theorem fetchInstr_of_parcels {h : Parcel} {ps : List Parcel} {ls : List Nat} {i : Instr}
    (hw : ∀ (k : Nat) w, (h :: ps)[k]? = some w → fetchParcel s core q t (((t.seq q).pc.toNat + 4 * k) % 2 ^ 48) = .ok w)
    (hls : opcLens q (hOpc h).toNat = some ls) (hl : (hLen h).toNat ∈ ls) (hn : ps.length = extraParcels (hLen h))
    (hp : (opcPrivileged q (hOpc h).toNat = true ∨ csrwPrivileged q (hOpc h).toNat ps = true) → t.priv = true) (hd : decode q (h :: ps) = .ok i) :
    fetchInstr s core q t = .run i := by
  have h0 := hw 0 h rfl
  rw [Nat.mul_zero, Nat.add_zero, Nat.mod_eq_of_lt (t.seq q).pc.isLt] at h0
  have hrest := fetchRest_of_parcels ps ((t.seq q).pc.toNat + 4) (fun k w hk => by
    have := hw (k + 1) w (by simpa using hk)
    rw [show (t.seq q).pc.toNat + 4 + 4 * k = (t.seq q).pc.toNat + 4 * (k + 1) by omega]
    exact this)
  have hlb : ls.contains (hLen h).toNat = true := List.contains_iff_mem.mpr hl
  have hpo : (opcPrivileged q (hOpc h).toNat && !t.priv) = false := by
    cases ho : opcPrivileged q (hOpc h).toNat with
    | false => rfl
    | true => rw [hp (.inl ho)]; rfl
  have hpc : (csrwPrivileged q (hOpc h).toNat ps && !t.priv) = false := by
    cases ho : csrwPrivileged q (hOpc h).toNat ps with
    | false => rfl
    | true => rw [hp (.inr ho)]; rfl
  rw [hn] at hrest
  unfold fetchInstr
  simp only [h0, hls, hlb, hpo, hrest, hpc, hd, Bool.not_true, Bool.false_eq_true, if_false]

/-- The parcels after the head that begin another granule are among those of the instruction. -/
theorem granulesAfter_met {h : Parcel} {ps : List Parcel} {ls : List Nat} (hf : FetchedMore s core q t r l)
    (hw : ∀ (k : Nat) w, (h :: ps)[k]? = some w → ParcelMet s core q t ((t.seq q).pc.toNat + 4 * k) w)
    (hls : opcLens q (hOpc h).toNat = some ls) (hl : (hLen h).toNat ∈ ls) (hn : ps.length = extraParcels (hLen h)) :
    ∀ a ∈ granulesAfter r core q, ∃ w, ParcelMet s core q t a w := by
  intro a ha
  have h0 := (hw 0 h rfl).1
  rw [Nat.mul_zero, Nat.add_zero, Nat.mod_eq_of_lt (t.seq q).pc.isLt] at h0
  have hpc : ((withEarly t q l).seq q).pc = (t.seq q).pc := by simp [withEarly]
  have hlb : ls.contains (hLen h).toNat = true := List.contains_iff_mem.mpr hl
  have hk : parcelsAfter r core q (withEarly t q l) = ps.length := by
    simp only [parcelsAfter, hpc, hf.parcel h0, hls, Option.getD_some, hlb, if_true, hn]
  have ha := List.mem_of_mem_filter ha
  rw [hf.coreTask, hk, hpc] at ha
  obtain ⟨k, hk, rfl⟩ := List.mem_map.mp ha
  have hk := List.mem_range.mp hk
  exact ⟨ps[k], hw (k + 1) ps[k] (by simp [hk])⟩

/-- The fetch of an instruction all of whose parcels are there. -/
theorem fetchNow_of_parcels {h : Parcel} {ps : List Parcel} {ls : List Nat} {i : Instr} (ht : s.task? core (s.bankOf core) = some t)
    (hc : Calm s (t.seq q)) (hp : s.pick = none) (hw : ∀ (k : Nat) w, (h :: ps)[k]? = some w → ParcelMet s core q t ((t.seq q).pc.toNat + 4 * k) w)
    (hls : opcLens q (hOpc h).toNat = some ls) (hl : (hLen h).toNat ∈ ls) (hn : ps.length = extraParcels (hLen h))
    (hpriv : (opcPrivileged q (hOpc h).toNat = true ∨ csrwPrivileged q (hOpc h).toNat ps = true) → t.priv = true) (hd : decode q (h :: ps) = .ok i) :
    ∃ r l, fetchNow s core q = (r, some (.run i)) ∧ FetchedMore s core q t r l := by
  have hstart := FetchedMore.start (q := q) ht
  have hfirst : ∀ a ∈ [(t.seq q).pc.toNat], ∃ w, ParcelMet s core q t a w := by
    intro a ha
    obtain rfl := List.mem_singleton.mp ha
    exact ⟨h, hw 0 h rfl⟩
  obtain ⟨r1, l1, h1, hf1⟩ := hstart.granules hc hp hfirst
  obtain ⟨r2, l2, h2, hf2⟩ := hf1.granules hc hp (granulesAfter_met hf1 hw hls hl hn)
  have ht0 : coreTask s core = t := by simp [Machine.coreTask, ht]
  have hpc : ((withEarly t q l2).seq q).pc = (t.seq q).pc := by simp [withEarly]
  have hi : fetchInstr r2 core q (withEarly t q l2) = .run i :=
    fetchInstr_of_parcels (fun k w hk => hf2.parcel (by rw [hpc]; exact (hw k w hk).1)) hls hl hn (fun ho => by rw [withEarly_priv]; exact hpriv ho) hd
  refine ⟨r2, l2, ?_, hf2⟩
  unfold fetchNow
  simp only [ht0, h1, h2, if_true, hf2.coreTask, hi]

end fetch

section turn
variable {s : State} {core : Nat} {q : SeqId}

theorem onTurn_task {s : State} {core : Nat} {q : SeqId} {x : State} (h : onTurn s core q = some x) :
    ∃ t, (turnOf s core q).task? core (s.bankOf core) = some t := by
  unfold onTurn at h
  dsimp only at h
  split at h
  · next hc =>
    simp only [Bool.and_eq_true] at hc
    exact Option.isSome_iff_exists.mp hc.1.1.1
  · cases h

theorem runSeq_single (h : onTurn s core q = some (turnOf s core q)) (hp : (turnOf s core q).me.prog.isSome = true) :
    runSeq core q s = exec (.recordSingleIssue core q) (turnOf s core q) := by
  unfold runSeq
  simp only [h, hp, if_true]

theorem runSeq_fetched (h : onTurn s core q = some (turnOf s core q)) (hp : (turnOf s core q).me.prog = none) {r : State} {i : Instr}
    (hf : fetchNow (turnOf s core q) core q = (r, some (.run i))) : runSeq core q s = exec i r := by
  unfold runSeq
  simp only [h, hp, hf, Option.isSome_none, Bool.false_eq_true, if_false]

theorem runSeq_trap (h : onTurn s core q = some (turnOf s core q)) (hp : (turnOf s core q).me.prog = none) {r : State} {c : Cause} {faddr flags : Nat}
    (hf : fetchNow (turnOf s core q) core q = (r, some (.trap c faddr flags))) :
    runSeq core q s = takeTrap r core (s.bankOf core) q.num c faddr flags (turnOf s core q).me.pc.toNat := by
  have hk := fetchNow_samePc (core := core) (q := q) (turnOf s core q)
  rw [hf] at hk
  have hcur : r.cur = { core := core, q := q } := hk.cur
  have hbank : r.bankOf core = s.bankOf core := hk.bank core
  obtain ⟨t, ht⟩ := onTurn_task h
  have hpc : r.me.pc = (turnOf s core q).me.pc := by
    have hk := hk.pc
    have hb : (turnOf s core q).bankOf core = s.bankOf core := rfl
    rw [hb, ht, Option.map_some] at hk
    obtain ⟨k, hk, hkpc⟩ := Option.map_eq_some_iff.mp hk
    have hme : (turnOf s core q).me = t.seq q := by
      show (((turnOf s core q).task? core (s.bankOf core)).getD Task.reset).seq q = t.seq q
      rw [ht]; rfl
    have hrm : r.me = k.seq q := by
      simp only [State.me, State.here, hcur, hbank, hk, Option.getD_some]
    rw [hme, hrm, hkpc]
  unfold runSeq
  simp only [h, hp, hf, Option.isSome_none, Bool.false_eq_true, if_false, trapHere, hcur, hbank, hpc]

end turn

/-- Settles O55: each turn of the agenda is its own operation; the turn of a sequencer fetches. -/
theorem stepRunsDecoded : Obligations.StepRunsDecoded := by
  unfold Obligations.StepRunsDecoded
  refine ⟨?_, fun s h => by unfold step; rw [h]⟩
  intro s turn rest ha s0
  have hstep : step s = runTurn turn s0 := by unfold step; rw [ha]
  rw [hstep]
  refine ⟨?_, ?_, ?_, ?_, ?_, ?_, ?_, ?_, ?_, ?_, ?_, ?_, ?_, ?_⟩
  · rintro core q rfl hon s1 t bank
    refine ⟨runSeq_single hon, fun r i hp hf => runSeq_fetched hon hp hf, fun r c faddr flags hp hf => runSeq_trap hon hp hf,
      fun hp hpick hst hpe her h ps ls i hw hls hl hn hpriv hd => ?_⟩
    obtain ⟨k, hk⟩ := onTurn_task hon
    have ht : t = k := by
      show ((s1.task? core bank).getD Task.reset) = k
      rw [show s1.task? core bank = some k from hk]; rfl
    obtain ⟨r, l, hf, hmore⟩ := fetchNow_of_parcels (s := s1) (t := t) (ht ▸ hk) ⟨her, hst, hpe⟩ hpick hw hls hl hn hpriv hd
    exact ⟨r, runSeq_fetched hon hp hf, hmore.state.imp_right (fun h => ⟨_, h⟩)⟩
  · rintro i rfl hi
    simp only [runTurn, hi, if_true]
  · rintro cycles ns rfl; rfl
  · rintro n rfl; rfl
  · rintro core q n t rfl ht
    have ht : s0.task? core (s0.bankOf core) = some t := ht
    refine ⟨fun hT => ?_, fun x hT hx => ?_⟩
    · simp only [runTurn, turnEarly, ht, hT, if_true]
    · simp only [runTurn, turnEarly, ht, hT, Bool.false_eq_true, if_false, hx, unpicked]
  all_goals
    intros
    subst_vars
    rfl

end Sys2Proof

/-! ### Results, loads and stores at their time (O44) -/

namespace Sys2Proof

open Sys2Proof.Machine

/-! #### A sequencer is changed by an event -/

section onSeq
variable {s : State} {core : Nat} {q : SeqId} {t : Task}

/-- A change of one sequencer: but for its tokens and for what is in flight, nothing else of the task is changed. -/
theorem onSeq_eq (h : s.task? core (s.bankOf core) = some t) (f : Seq → Seq) :
    ∃ t' fl, onSeq s core q f = s.setTask core (s.bankOf core) (some t') ∧ TokensOnly (t.setSeq q { f (t.seq q) with flights := fl }) t' := by
  obtain ⟨t', fl, h1, h2⟩ := settle_eq (s.setTask core (s.bankOf core) (some (t.setSeq q (f (t.seq q))))) core (s.bankOf core) q _ (State.task?_setTask ..)
  refine ⟨t', fl, ?_, by simpa using h2⟩
  unfold onSeq
  simp only [h, h1, State.setTask_setTask]

/-- What is in flight, and the tokens, are no part of what `bareTask` keeps. -/
theorem Machine.TokensOnly.bare_flights {t' : Task} {u : Seq} {fl : List Flight} (h : TokensOnly (t.setSeq q { u with flights := fl }) t') :
    bareTask t' q = bareTask (t.setSeq q u) q := by
  rw [h.bare]; cases q <;> rfl

end onSeq

/-! #### The sequencer's own earlier stores (R295) -/

section drain
variable {s : State} {core bank : Nat} {q : SeqId} {t : Task}

/-- A store to a granule of the read is among those that the read comes after. -/
theorem mem_splitStores {pl : Place} {n : Nat} {l : List PStore} {st : PStore} (hm : st ∈ l)
    (hg : sameGranule st.place st.bytes.length pl n = true) : st ∈ (splitStores pl n l).1 := by
  induction l with
  | nil => cases hm
  | cons a l ih =>
    unfold splitStores
    dsimp only
    rcases List.mem_cons.mp hm with rfl | hm
    · rw [if_pos (by rw [hg]; rfl)]
      exact List.mem_cons_self
    · split
      · exact List.mem_cons_of_mem _ (ih hm)
      · exact ih hm

theorem splitStores_none {pl : Place} {n : Nat} {l : List PStore} (h : ∀ st ∈ l, sameGranule st.place st.bytes.length pl n = false) :
    (splitStores pl n l).1 = [] := by
  induction l with
  | nil => rfl
  | cons a l ih =>
    have hl := ih (fun st hs => h st (List.mem_cons_of_mem _ hs))
    unfold splitStores
    dsimp only
    rw [if_neg (by rw [h a List.mem_cons_self, hl]; exact Bool.false_ne_true)]
    exact hl

/-- A store of the sequencer with an earlier id that touches a granule of the read. -/
def nearStore (id : Nat) (pl : Place) (n : Nat) (st : PStore) : Bool := decide (st.id < id) && sameGranule st.place st.bytes.length pl n

theorem drainAt_of_none_near (ht : s.task? core bank = some t) {id : Nat} {pl : Place} {n : Nat} (h : (t.seq q).stores.any (nearStore id pl n) = false) :
    drainAt s core bank q id pl n = correctAt s pl n := by
  have hd : (splitStores pl n ((t.seq q).stores.filter (fun st => decide (st.id < id)))).1 = [] := by
    refine splitStores_none (fun st hs => ?_)
    obtain ⟨hm, hi⟩ := List.mem_filter.mp hs
    have := (List.any_eq_false.mp h) st hm
    simpa [nearStore, hi] using this
  unfold drainAt
  simp only [ht, hd, List.isEmpty_nil, if_true]
  rfl

/-- What a drain leaves of the task: the stores that the read comes after are performed. -/
theorem drainAt_task (ht : s.task? core bank = some t) (id : Nat) (pl : Place) (n : Nat) :
    ∃ l : List PStore, (drainAt s core bank q id pl n).task? core bank = some (t.setSeq q { t.seq q with stores := (t.seq q).stores.filter (fun st => !l.contains st) })
      ∧ ∀ st ∈ (t.seq q).stores, nearStore id pl n st = true → st ∈ l := by
  refine ⟨(splitStores pl n ((t.seq q).stores.filter (fun st => decide (st.id < id)))).1, ?_, fun st hm hn => ?_⟩
  · unfold drainAt
    simp only [ht]
    generalize splitStores pl n ((t.seq q).stores.filter (fun st => decide (st.id < id))) = d
    have h := performStores_sameTasks s d.1
    by_cases hd : d.1 = []
    · simp only [hd, List.isEmpty_nil, if_true, (correctAt_sameTasks _ _ _).task]
      have hk : (t.seq q).stores.filter (fun st => !([] : List PStore).contains st) = (t.seq q).stores := List.filter_eq_self.mpr (fun _ _ => rfl)
      rw [hk, Task.setSeq_seq]
      exact ht
    · have hk : (performStores s d.1).task? core bank = some t := (h.task core bank).trans ht
      simp only [List.isEmpty_iff, hd, if_false, hk, (correctAt_sameTasks _ _ _).task, State.task?_setTask]
  · simp only [nearStore, Bool.and_eq_true] at hn
    exact mem_splitStores (List.mem_filter.mpr ⟨hm, hn.1⟩) hn.2

theorem drainAt_clears (ht : s.task? core bank = some t) (id : Nat) (pl : Place) (n : Nat) {t1 : Task}
    (h1 : (drainAt s core bank q id pl n).task? core bank = some t1) : (t1.seq q).stores.any (nearStore id pl n) = false := by
  obtain ⟨l, hl, hn⟩ := drainAt_task (q := q) ht id pl n
  obtain rfl := Option.some.inj (h1.symm.trans hl)
  rw [Task.seq_setSeq]
  refine List.any_eq_false.mpr (fun st hs hnear => ?_)
  obtain ⟨hm, hc⟩ := List.mem_filter.mp hs
  have := List.contains_iff_mem.mpr (hn st hm hnear)
  rw [this] at hc
  cases hc

end drain

section events
variable {s : State} {core : Nat} {q : SeqId} {t : Task}

/-- An engine's result is produced (R29, R363). -/
def producedBy (mcc id : Nat) (p : Pend) : Pend := if p.id = id ∧ p.loads = [] ∧ p.since + p.lat ≤ mcc then { p with produced := true } else p

theorem result_written (ha : alive s = true) (ht : s.task? core (s.bankOf core) = some t) {id : Nat}
    (hp : ∃ p ∈ (t.seq q).pend, p.id = id ∧ p.produced = false ∧ p.loads = [] ∧ p.since + p.lat ≤ s.mcc) :
    ∃ t', exec (.engineResultWrite core q id) s = .next (s.setTask core (s.bankOf core) (some t')) ∧ (t'.seq q).pc = (t.seq q).pc
      ∧ (t'.seq q).wait = (t.seq q).wait
      ∧ bareTask t' q = bareTask (t.setSeq q { t.seq q with pend := (t.seq q).pend.map (producedBy s.mcc id) }) q := by
  obtain ⟨p, hm, hi, hpr, hl, hlat⟩ := hp
  have hany : (seqOf s core q).pend.any (fun p => p.id == id && resultReady s p) = true := by
    have hs : seqOf s core q = t.seq q := by simp [seqOf, ht]
    rw [hs]
    exact List.any_eq_true.mpr ⟨p, hm, by simp [hi, resultReady, hpr, hl, hlat]⟩
  have hmap : (t.seq q).pend.map (fun p => if p.id = id && resultReady s p then { p with produced := true } else p)
      = (t.seq q).pend.map (producedBy s.mcc id) := by
    refine List.map_congr_left (fun p _ => ?_)
    unfold producedBy resultReady
    cases p with
    | mk _ _ _ _ loads produced =>
      cases produced <;> simp [List.isEmpty_iff]
  obtain ⟨t', fl, h1, h2⟩ := onSeq_eq (q := q) ht
    (fun u => { u with pend := u.pend.map (fun p => if p.id = id && resultReady s p then { p with produced := true } else p) })
  have hs := h2.seq q
  rw [Task.seq_setSeq] at hs
  refine ⟨t', ?_, by rw [hs], by rw [hs], ?_⟩
  · rw [exec_engineResultWrite, execEngineResultWrite, hany, event_true ha, h1]
  · rw [h2.bare_flights, hmap]

/-! #### A piece of a load -/

/-- The load of `p` is gone, and what was in flight with it. -/
theorem failLoad_eq (p : Pend) :
    bareTask (failLoad t q p) q = bareTask (t.setSeq q { t.seq q with pend := (t.seq q).pend.filter (fun z => z.id != p.id || z.due != p.due) }) q
      ∧ ((failLoad t q p).seq q).flights = (t.seq q).flights.filter (fun f => f.id != p.id)
      ∧ ((failLoad t q p).seq q).pc = if q = .c then p.pc else (t.seq q).pc := by
  unfold failLoad
  dsimp only
  generalize hu : (if (q == .c) = true then _ else _ : Seq) = u
  have h := TokensOnly.fold (fun t f => dropFlight t q f) (fun t f => dropFlight_only t q f) ((t.seq q).flights.filter (fun f => f.id == p.id)) (t.setSeq q u)
  rw [h.bare, h.seq, Task.seq_setSeq]
  by_cases hq : q = .c
  · subst hq
    rw [if_pos (beq_self_eq_true SeqId.c)] at hu
    subst hu
    exact ⟨rfl, rfl, rfl⟩
  · rw [if_neg (by simpa using hq)] at hu
    subst hu
    rw [if_neg hq]
    exact ⟨by cases q <;> rfl, rfl, rfl⟩

/-- A piece of a load of a task that may be read: its event reads it, or finds the error in it. -/
theorem exec_loadDataArrival_ready (ha : alive s = true) (ht : s.task? core (s.bankOf core) = some t) {x : LoadAt} {p : Pend} {l : LoadPiece}
    (hp : (t.seq q).pend.find? (fun p => p.isAt x) = some p) (hl : p.loads[x.piece]? = some l) (hr : loadReady s core t q x = true)
    (hn : loadNow s core t q p l = true) :
    exec (.loadDataArrival core q x) s =
      if placeBad s l.place l.len then
        takeTrap (s.setTask core (s.bankOf core) (some (failLoad t q p))) core (s.bankOf core) q.num .eccUncorrectable l.addr 0 p.pc.toNat
      else .next (onSeq (readPiece s core (s.bankOf core) q x) core q (fun u => u)) := by
  rw [exec_loadDataArrival, execLoadDataArrival]
  simp only [ht, hp, hl, Option.bind_some, Option.map_some, hr, hn, Bool.and_self, event_true ha]

/-- The piece that has been read is what its load writes, and it is no longer to be read. -/
def pieceRead (x : LoadAt) (ws : List Write) (p : Pend) : Pend :=
  if p.id = x.id ∧ p.due = x.due then { p with writes := p.writes ++ ws, loads := p.loads.eraseIdx x.piece } else p

/-- The task with the piece read. -/
def withPiece (t : Task) (q : SeqId) (x : LoadAt) (ws : List Write) : Task := t.setSeq q { t.seq q with pend := (t.seq q).pend.map (pieceRead x ws) }

theorem served_sameOutside (s : State) (part : Nat) (p : Place) : SameOutside s (served s part p) := by
  have same : SameOutside s s := ⟨rfl, rfl, rfl, rfl, rfl, fun _ => ⟨rfl, rfl⟩⟩
  cases p with
  | hbm a =>
    show SameOutside s (serveWheel s _ part)
    unfold serveWheel
    split
    · exact same
    · exact ⟨rfl, rfl, rfl, rfl, rfl, fun _ => ⟨rfl, rfl⟩⟩
  | spad c off =>
    unfold served
    dsimp only
    split
    · exact same
    · exact ⟨rfl, rfl, rfl, rfl, rfl, fun _ => ⟨rfl, rfl⟩⟩
  | tx a => exact same

theorem served_poison (s : State) (part : Nat) (p : Place) : (served s part p).poison = s.poison := by
  cases p with
  | hbm a =>
    show (serveWheel s _ part).poison = s.poison
    unfold serveWheel
    split <;> rfl
  | spad c off =>
    unfold served
    dsimp only
    split <;> rfl
  | tx a => rfl

theorem SameOutside.setTask {s' : State} (h : SameOutside s s') (n b : Nat) (x : Option Task) : SameOutside s (s'.setTask n b x) := by
  obtain ⟨hm, he, hp, hf, hl, hc⟩ := h
  exact ⟨hm, he, hp, hf, hl, fun n => by rw [State.spad_setTask, State.tags_setTask]; exact hc n⟩

theorem SameOutside.readPlace {s' : State} (h : SameOutside s s') (p : Place) (n : Nat) : readPlace s' p n = readPlace s p n := by
  obtain ⟨hm, -, -, -, -, hc⟩ := h
  cases p with
  | spad c off => simp only [Machine.readPlace, (hc c).1]
  | hbm a => simp only [Machine.readPlace, hm]
  | tx a => rfl

/-- A piece that is read: the sequencer's own earlier stores to its granules come first. -/
theorem readPiece_eq {bank : Nat} (ht : s.task? core bank = some t) {x : LoadAt} {p : Pend} {l : LoadPiece}
    (hp : (t.seq q).pend.find? (fun p => p.isAt x) = some p) (hl : p.loads[x.piece]? = some l) {t1 : Task}
    (h1 : (drainAt s core bank q x.id l.place l.len).task? core bank = some t1) :
    readPiece s core bank q x = (served (drainAt s core bank q x.id l.place l.len) t.part l.place).setTask core bank
      (some (withPiece t1 q x (pieceWrites l (readPlace (drainAt s core bank q x.id l.place l.len) l.place l.len)))) := by
  have hs := (served_sameTasks (drainAt s core bank q x.id l.place l.len) t.part l.place).task core bank
  have hr := (served_sameOutside (drainAt s core bank q x.id l.place l.len) t.part l.place).readPlace l.place l.len
  have hmap (ws : List Write) (ps : List Pend) :
      ps.map (fun p => if p.isAt x then { p with writes := p.writes ++ ws, loads := p.loads.eraseIdx x.piece } else p) = ps.map (pieceRead x ws) :=
    List.map_congr_left (fun p _ => by simp [pieceRead, Pend.isAt])
  unfold readPiece withPiece
  simp only [ht, hp, hl, Option.bind_some, hs, h1, hr, hmap]

theorem piece_read (ha : alive s = true) (ht : s.task? core (s.bankOf core) = some t) {x : LoadAt} {p : Pend} {l : LoadPiece}
    (hp : (t.seq q).pend.find? (fun p => p.isAt x) = some p) (hl : p.loads[x.piece]? = some l) (hr : loadReady s core t q x = true)
    (hn : loadNow s core t q p l = true) (hb : placeBad s l.place l.len = false) :
    let z := drainAt s core (s.bankOf core) q x.id l.place l.len
    ∃ s' t1 t', exec (.loadDataArrival core q x) s = .next s' ∧ SameOutside z s' ∧ z.task? core (s.bankOf core) = some t1
      ∧ s'.task? core (s.bankOf core) = some t'
      ∧ bareTask t' q = bareTask (withPiece t1 q x (pieceWrites l (readPlace z l.place l.len))) q := by
  intro z
  obtain ⟨t1, hz⟩ : ∃ t1, z.task? core (s.bankOf core) = some t1 := (drainAt_task (q := q) ht x.id l.place l.len).elim (fun _ h => ⟨_, h.1⟩)
  have hread := readPiece_eq ht hp hl hz
  have hbank : (readPiece s core (s.bankOf core) q x).bankOf core = s.bankOf core := by
    rw [hread, State.bankOf_setTask, (served_sameTasks _ _ _).bank]
    exact (drainAt_samePc s x.id l.place l.len).bank core
  have htask : (readPiece s core (s.bankOf core) q x).task? core ((readPiece s core (s.bankOf core) q x).bankOf core)
      = some (withPiece t1 q x (pieceWrites l (readPlace z l.place l.len))) := by
    rw [hbank, hread, State.task?_setTask]
  obtain ⟨t', fl, h1, h2⟩ := onSeq_eq (q := q) htask (fun u => u)
  rw [hbank] at h1
  refine ⟨(readPiece s core (s.bankOf core) q x).setTask core (s.bankOf core) (some t'), t1, t', ?_, ?_, hz, State.task?_setTask .., ?_⟩
  · rw [exec_loadDataArrival_ready ha ht hp hl hr hn, hb, if_neg Bool.false_ne_true, h1]
  · rw [hread]
    exact ((served_sameOutside z _ _).setTask _ _ _).setTask _ _ _
  · rw [h2.bare_flights, Task.setSeq_seq]

/-! #### A store -/

/-- A store whose bytes are all named writes them at its place, and no other byte. -/
theorem performStore_eq {st : PStore} {bs : List Byte} (hu : st.upd = none) (hb : st.bytes = bs.map some) (hne : bs ≠ []) :
    performStore s st = performPiece s st.place bs st.whole := by
  unfold performStore
  simp only [hu, hb, performNamed_all _ _ _ _ hne]

theorem performStore_nil {st : PStore} (hu : st.upd = none) (hb : st.bytes = []) : performStore s st = s := by
  unfold performStore
  simp only [hu, hb]
  rfl

theorem performStore_spad {st : PStore} {bs : List Byte} {c off : Nat} (hu : st.upd = none) (hb : st.bytes = bs.map some) (hp : st.place = .spad c off) :
    (performStore s st).hbm = s.hbm ∧ ∀ k a, getByte ((performStore s st).core k).spad a
      = if k = c ∧ off ≤ a ∧ a < off + bs.length then bs.getD (a - off) 0 else getByte (s.core k).spad a := by
  by_cases hne : bs = []
  · subst hne
    rw [performStore_nil hu hb]
    exact ⟨rfl, fun k a => by rw [if_neg (by simp)]⟩
  · rw [performStore_eq hu hb hne, hp]
    exact performAt_spad s c off bs

theorem performStore_hbm {st : PStore} {bs : List Byte} {pa : Nat} (hu : st.upd = none) (hb : st.bytes = bs.map some) (hp : st.place = .hbm pa)
    (hpo : s.poison = []) (he : s.errs = []) : performStore s st = { s with hbm := putBytes s.hbm pa bs } := by
  by_cases hne : bs = []
  · subst hne
    exact performStore_nil hu hb
  · rw [performStore_eq hu hb hne, hp]
    exact storeHbm_bytes _ _ s pa bs hpo he (by omega)

/-- The store has the turn: it is performed, and it leaves its queue. -/
theorem store_performed (ha : alive s = true) (ht : s.task? core (s.bankOf core) = some t) {n : Nat} {st : PStore} (hs : (t.seq q).stores[n]? = some st)
    (hr : storeReady s core t q n = true) (hf : recordFirst s core t q = false ∨ overdue s t.part = true) :
    ∃ t', exec (.storePerformed core q n) s = .next ((performStore (served s t.part st.place) st).setTask core (s.bankOf core) (some t'))
      ∧ (t'.seq q).stores = (t.seq q).stores.eraseIdx n := by
  have hsame := (served_sameTasks s t.part st.place).trans (performStore_sameTasks _ st)
  obtain ⟨t', fl, h1, h2⟩ := onSeq_eq (q := q) (by rw [hsame.bank, hsame.task]; exact ht) (fun u => { u with stores := u.stores.eraseIdx n })
  rw [hsame.bank] at h1
  have hcond : (storeReady s core t q n && (!recordFirst s core t q || overdue s t.part)) = true := by
    rcases hf with hf | hf <;> simp [hr, hf]
  refine ⟨t', ?_, by rw [h2.seq, Task.seq_setSeq]⟩
  rw [exec_storePerformed, execStorePerformed]
  simp only [ht, hs, hcond, event_true ha, h1]

theorem store_waits (ht : s.task? core (s.bankOf core) = some t) {n : Nat} {st : PStore} (hs : (t.seq q).stores[n]? = some st)
    (hr : storeReady s core t q n = false) : exec (.storePerformed core q n) s = .next s := by
  rw [exec_storePerformed, execStorePerformed]
  simp [ht, hs, hr, event]

theorem storeReady_of_early {n : Nat} {st : PStore} (hs : (t.seq q).stores[n]? = some st) (h : s.mcc < st.since + st.lat) : storeReady s core t q n = false := by
  have : ¬ st.since + st.lat ≤ s.mcc := by omega
  simp [storeReady, hs, committed, this]

theorem storeReady_of_after {n m : Nat} {st e : PStore} (hs : (t.seq q).stores[n]? = some st) (hm : m < n) (he : (t.seq q).stores[m]? = some e)
    (h : storeAfter e st = true) : storeReady s core t q n = false := by
  have : ((t.seq q).stores.take n).any (fun o => storeAfter o st) = true :=
    List.any_eq_true.mpr ⟨e, List.mem_of_getElem? (i := m) (by rw [List.getElem?_take_of_lt hm, he]), h⟩
  simp [storeReady, hs, this]

end events

/-- Settles O44: each event is the operation of its sequencer's queue, and what it does to memory. -/
theorem sequencerEvents : Obligations.SequencerEvents := by
  unfold Obligations.SequencerEvents
  intro s core q t ha ht u bank
  refine ⟨fun id hp => result_written ha ht hp, fun pl n id => ?_,
    fun x p l hp hl hr hn => ⟨fun hb => ?_, fun hb => ?_⟩, fun n st hs hr hf => ?_, fun n st hs hw => ?_⟩
  · exact ⟨drainAt_of_none_near ht, fun t1 => drainAt_clears ht id pl n⟩
  · have hx := List.find?_some hp
    simp only [Bool.and_eq_true, beq_iff_eq] at hx
    obtain ⟨hid, hdue⟩ := hx
    obtain ⟨hbare, hfl, hpc⟩ := failLoad_eq (t := t) (q := q) p
    rw [hid, hdue] at hbare
    rw [hid] at hfl
    refine ⟨failLoad t q p, ?_, hbare, hfl, hpc⟩
    rw [exec_loadDataArrival_ready ha ht hp hl hr hn, if_pos hb]
  · intro z bs ws
    have hws : ws = pieceWrites l bs := by
      unfold pieceWrites
      cases hd : l.dest <;> simp only [ws, hd] <;> rfl
    rw [hws]
    exact piece_read ha ht hp hl hr hn hb
  · obtain ⟨t', hx, hst⟩ := store_performed ha ht hs hr hf
    obtain ⟨hhbm, herr, -, -, -, hcores⟩ := served_sameOutside s t.part st.place
    refine ⟨(performStore (served s t.part st.place) st).setTask core bank (some t'), t', hx, State.task?_setTask .., hst, fun bs c off hu hb hp => ?_, fun bs pa hu hb hp hpo he => ?_⟩
    · obtain ⟨hm, hsp⟩ := performStore_spad (s := served s t.part st.place) hu hb hp
      refine ⟨fun a => ?_, fun k a => ?_⟩
      · rw [State.setTask_hbm, hm, hhbm]
      · rw [State.spad_setTask, hsp, (hcores k).1]
    · have hs := performStore_hbm hu hb hp ((served_poison s t.part st.place).trans hpo) (herr.trans he)
      rw [hs]
      refine ⟨fun k a => ?_, fun a => ?_⟩
      · rw [State.spad_setTask]
        exact congrArg (getByte · a) (hcores k).1
      · rw [State.setTask_hbm]
        show getByte (putBytes (served s t.part st.place).hbm pa bs) a = _
        rw [getByte_putBytes, hhbm]
  · rcases hw with hw | ⟨m, hm, e, he, hc⟩
    · exact store_waits ht hs (storeReady_of_early hs hw)
    · refine store_waits ht hs (storeReady_of_after hs hm he ?_)
      rcases hc with ⟨hc, hcc⟩ | hc
      · simp [storeAfter, ← hcc, hc]
      · simp [storeAfter, hc]

end Sys2Proof

/-! ### The records of V (O34) -/

namespace Sys2Proof

open Sys2Proof.Machine

/-! #### A record begins (R39) -/

theorem bareTask_setSeq (t : Task) (q : SeqId) (u : Seq) : bareTask (t.setSeq q u) q = (bareTask t q).setSeq q (bareSeq u) := by
  cases q <;> rfl

/-- A sequencer that differs in the bookkeeping of issue alone. -/
theorem bareTask_of_bareSeq {t : Task} {q : SeqId} {u v : Seq} (h : bareSeq u = bareSeq v) : bareTask (t.setSeq q u) q = bareTask (t.setSeq q v) q := by
  rw [bareTask_setSeq, bareTask_setSeq, h]

/-- A record at whose head nothing is checked begins, with its counters at 0. -/
theorem begins_of {s : State} {i : Instr} {y : Syn} {t : Task} (h : Ready s i y t) (hx : exec i s = startRecord i y (fun s p => .ok (s, p)) s) :
    Begins s i t := by
  obtain ⟨k, w, he, hk⟩ := entered_spec s i y t 0
  have hprog : (k.seq s.cur.q).prog = none := hk.prog.trans h.prog
  have hid : curId (s.setHere k) = w.id := by simp [curId, hprog, hk.wait]
  obtain ⟨t', fl, n, hfin, htok⟩ := finish_ok s s.me.pc
    (k.setSeq s.cur.q { k.seq s.cur.q with
      pc := s.me.pc, prog := some (RecProg.start i s.me.pc (w.id + 1)), nextId := w.id + 2,
      flights := (k.seq s.cur.q).flights ++ [{ id := w.id, sig := 0, took := w.took, region := (k.seq s.cur.q).regionNo }],
      wait := some { w with id := w.id + 1, took := 0 } }) (by simp [hk.stream, h.stream]) (by simp)
  have hseq := htok.seq s.cur.q
  rw [Task.seq_setSeq, Task.seq_setSeq] at hseq
  refine ⟨t', RecProg.start i s.me.pc (w.id + 1), ?_, by rw [hseq], trivial, rfl, rfl, rfl, rfl, rfl, rfl, rfl, ?_, by rw [hseq], ?_⟩
  · rw [hx, startRecord, run_ok h, he]
    simp only [hk.headPc, hid, State.me_setHere, hk.wait, State.setMe_setHere]
    exact hfin
  · have hbare : bareTask (k.setSeq s.cur.q { k.seq s.cur.q with prog := none }) s.cur.q = bareTask t s.cur.q := by
      rw [← hprog, Task.setSeq_seq, hk.bare]
    rw [(htok.setSeq s.cur.q _).bare, hseq, Task.setSeq_setSeq, Task.setSeq_setSeq, ← hbare]
    exact bareTask_of_bareSeq rfl
  · rw [hseq]
    exact hk.seqno

/-! #### A single issue is performed (R39) -/

section single
variable {s : State} {core : Nat} {q : SeqId} {p : RecProg} {t : Task}

/-- The PC once the point at which `h` stands is performed: it passes the record after the last one. -/
def passedPc (h : RecProg) : BitVec 48 :=
  match h.next with
  | some _ => h.pc
  | none => h.pc + 64

theorem passedPc_eq (h : RecProg) : passedPc h = if h.next.isSome then h.pc else h.pc + 64 := by
  unfold passedPc
  cases h.next <;> rfl

/-- What follows a single issue that left `x`: the record goes on, and what has completed has sent its tokens. -/
theorem advanceRecord_eq (x : State) (h : RecProg) :
    ∃ t' fl, advanceRecord x h = x.setHere t'
      ∧ TokensOnly (x.here.setSeq x.cur.q { x.me with
          prog := h.next, pc := passedPc h, wait := none, early := [], seqno := x.me.seqno + 1, lastIssue := x.mcc, nextFree := x.mcc + 1, armed := false,
          tickAt := x.mcc + 1, head := h.pc, flights := fl }) t' := by
  have hn := noteFirst_only x x.here
  have hme : (noteFirst x x.here).seq x.cur.q = x.me := hn.seq x.cur.q
  unfold advanceRecord
  simp only [State.setMe_setHere, State.me_setHere, hme, State.bankOf_setHere, State.setHere_cur]
  obtain ⟨t', fl, h1, h2⟩ := settle_eq _ x.cur.core (x.bankOf x.cur.core) x.cur.q _ (State.task?_setHere x _)
  refine ⟨t', fl, h1.trans ?_, (hn.setSeq x.cur.q _).trans ?_⟩
  · simp only [State.setHere_eq, State.setTask_setTask]
  · rw [Task.setSeq_setSeq, Task.seq_setSeq] at h2
    exact h2

/-- The task in which a single issue runs: its tick is counted, and the record holds what it has read. -/
def runningTask (t : Task) (q : SeqId) (h : RecProg) : Task := t.setSeq q { t.seq q with tick := (t.seq q).tick + 1, prog := some h }

/-- The state in which the body of a single issue runs. -/
def runningState (s : State) (core : Nat) (q : SeqId) (t : Task) (h : RecProg) : State := (turnOf s core q).setHere (runningTask t q h)

/-- In `x` sequencer `q` of a core executes the record that stands as `h`. -/
structure Runs (s : State) (core : Nat) (q : SeqId) (h : RecProg) (x : State) : Prop where
  cur : x.cur = { core := core, q := q }
  bank : x.bankOf core = s.bankOf core
  prog : x.me.prog = some h

theorem exec_single (hr : ReadySingle s core q p t) :
    exec (.recordSingleIssue core q) s = singleIssue (singleOf p.instr) p (singleState s core q t) := by
  have hd : dueWrites (turnOf s core q).here (turnOf s core q).cur.q (turnOf s core q).me.tick = some t := hr.due
  rw [exec_recordSingleIssue, execRecordSingleIssue]
  simp only [hr.turn, hr.prog, recordStep, hr.fetched, Bool.false_eq_true, if_false, hr.cycle, hd]
  rfl

theorem singleIssue_ok (hr : ReadySingle s core q p t) {x : State}
    (hx : singleOf p.instr (heldBy p t q) ((singleState s core q t).setMe { (singleState s core q t).me with tick := (t.seq q).tick + 1 }) = .ok x)
    (hk : Runs s core q (heldBy p t q) x) :
    ∃ t' fl, exec (.recordSingleIssue core q) s = .next (x.setTask core (s.bankOf core) (some t'))
      ∧ TokensOnly (x.here.setSeq q { x.me with
          prog := (heldBy p t q).next, pc := passedPc (heldBy p t q), wait := none, early := [], seqno := x.me.seqno + 1, lastIssue := x.mcc,
          nextFree := x.mcc + 1, armed := false, tickAt := x.mcc + 1, head := (heldBy p t q).pc, flights := fl }) t' := by
  obtain ⟨t', fl, h1, h2⟩ := advanceRecord_eq x (heldBy p t q)
  rw [hk.cur] at h2
  refine ⟨t', fl, ?_, h2⟩
  have hhere : (singleState s core q t).here = t := State.here_setHere ..
  have hme : (singleState s core q t).me = t.seq q := State.me_setHere ..
  have hheld : p.held (singleState s core q t).here (singleState s core q t).me = heldBy p t q := by rw [hhere, hme]; rfl
  have htick : (singleState s core q t).me.tick = (t.seq q).tick := by rw [hme]
  rw [exec_single hr]
  unfold singleIssue
  simp only [hheld, htick, hx, hk.prog, Option.getD_some, h1, State.setHere_eq, hk.cur, hk.bank]

/-- A single issue whose body leaves the executing task `k` in place of `t`, with nothing else changed. -/
theorem singleEffect_of (hr : ReadySingle s core q p t) {k t2 : Task}
    (hx : singleOf p.instr (heldBy p t q) ((singleState s core q t).setMe { (singleState s core q t).me with tick := (t.seq q).tick + 1 })
      = .ok ((turnOf s core q).setHere k))
    (hp : (k.seq q).prog = some (heldBy p t q)) (htick : (k.seq q).tick = (t2.seq q).tick + 1) (hseq : (k.seq q).seqno = (t2.seq q).seqno)
    (hb : bareTask (k.setSeq q { k.seq q with prog := (heldBy p t q).next }) q = bareTask (t2.setSeq q { t2.seq q with prog := (heldBy p t q).next }) q) :
    SingleEffect s core q (heldBy p t q) t2 := by
  have hme : ((turnOf s core q).setHere k).me = k.seq q := State.me_setHere ..
  obtain ⟨t', fl, h1, h2⟩ := singleIssue_ok hr hx ⟨rfl, State.bankOf_setHere .., by rw [hme, hp]⟩
  rw [State.here_setHere, hme] at h2
  have hs := h2.seq q
  rw [Task.seq_setSeq] at hs
  refine ⟨t', ?_, ?_, by rw [hs]; exact passedPc_eq _, by rw [hs, ← hseq], by rw [hs, ← htick], by rw [hs]⟩
  · rw [h1]
    exact congrArg Host.Outcome.next (State.setTask_setTask (turnOf s core q) core (s.bankOf core) (some t') (some k))
  · rw [h2.bare, ← hb]
    exact bareTask_of_bareSeq rfl

theorem singleState_running (s : State) (core : Nat) (q : SeqId) (t : Task) (h : RecProg) :
    setProg ((singleState s core q t).setMe { (singleState s core q t).me with tick := (t.seq q).tick + 1 }) h = runningState s core q t h := by
  have hcur : (turnOf s core q).cur.q = q := rfl
  simp only [setProg, singleState, runningState, runningTask, State.me_setHere, State.setMe_setHere, hcur, Task.seq_setSeq, Task.setSeq_setSeq]

end single

section pend
variable {s : State} {core : Nat} {q : SeqId} {p : RecProg} {t : Task}

theorem heldBy_instr (p : RecProg) (t : Task) (q : SeqId) : (heldBy p t q).instr = p.instr := by
  unfold heldBy RecProg.held
  split <;> rfl

theorem heldBy_fields {i : Instr} {r : Rec} (hi : p.instr = i) (hr : i.record? = some r) : (heldBy p t q).fields = r := by
  simp [RecProg.fields, heldBy_instr, hi, hr]

/-- The results of a single issue are noted with its id, its tick and its head. -/
theorem pendLoads_running (s : State) (core : Nat) (q : SeqId) (t : Task) (h : RecProg) (lat : Nat) (ws : List Write) (fl : Flags) (ordered : Bool)
    (loads : List LoadPiece) :
    pendLoads (runningState s core q t h) lat ws fl ordered loads
      = (turnOf s core q).setHere (withPendAt (runningTask t q h) q (t.seq q).head h.issueId s.mcc (t.seq q).tick lat ws fl ordered loads) := by
  have hcur : (turnOf s core q).cur.q = q := rfl
  have hmcc : (turnOf s core q).mcc = s.mcc := rfl
  simp [pendLoads, runningState, runningTask, withPendAt, curId, hcur, hmcc]

/-- A single issue that sets a result on its way, or a load. -/
theorem singleEffect_pend (hr : ReadySingle s core q p t) {lat : Nat} {ws : List Write} {fl : Flags} {ordered : Bool} {loads : List LoadPiece}
    (hx : singleOf p.instr (heldBy p t q) ((singleState s core q t).setMe { (singleState s core q t).me with tick := (t.seq q).tick + 1 })
      = .ok (pendLoads (runningState s core q t (heldBy p t q)) lat ws fl ordered loads)) :
    SingleEffect s core q (heldBy p t q) (withPendAt t q (t.seq q).head (heldBy p t q).issueId s.mcc (t.seq q).tick lat ws fl ordered loads) := by
  rw [pendLoads_running] at hx
  refine singleEffect_of hr hx ?_ ?_ ?_ ?_
  · simp [withPendAt, runningTask]
  · simp [withPendAt, runningTask]
  · simp [withPendAt, runningTask]
  · simp only [withPendAt, runningTask, Task.seq_setSeq, Task.setSeq_setSeq]
    exact bareTask_of_bareSeq rfl

end pend

/-! #### What a single issue of V reads -/

section running
variable {s : State} {core : Nat} {t : Task} {h : RecProg}

theorem b8p_running : b8p (runningTask t .v h) = b8p t := rfl
theorem physV_running (n : Nat) : physV (runningTask t .v h) n = physV t n := rfl
theorem vAccess_running (m : VMode) (w pred base : Nat) (stride : Int) (idx : Nat) :
    vAccess (runningTask t .v h) m w pred base stride idx = vAccess t m w pred base stride idx := rfl

theorem here_running (q : SeqId) : (runningState s core q t h).here = runningTask t q h := State.here_setHere ..

/-- An access of the running record is checked as one of its task. -/
theorem checkAccess_running (rs : Ranges) (k : AccKind) (a size align : Nat) :
    checkAccess (runningState s core .v t h) core (runningTask t .v h) rs k a size align = checkAccess (turnOf s core .v) core t rs k a size align :=
  checkAccess_congr (.inr ⟨_, _, _, rfl⟩) rfl rfl _ _ _ _ _

theorem checkEach_running (rs : Ranges) (k : AccKind) (w : Nat) (l : List (Nat × Nat)) :
    checkEach (runningState s core .v t h) rs k w l = checkEach (singleState s core .v t) rs k w l := by
  have hone (a : Nat) : checkAccess (runningState s core .v t h) core (runningState s core .v t h).here rs k a w w
      = checkAccess (singleState s core .v t) core (singleState s core .v t).here rs k a w w := by
    rw [here_running, checkAccess_running]
    exact (checkAccess_congr (.inr ⟨_, _, _, rfl⟩) (by rw [singleState, State.here_setHere]) (by rw [singleState, State.here_setHere]) _ _ _ _ _).symm
  induction l with
  | nil => rfl
  | cons x l ih =>
    obtain ⟨e, a⟩ := x
    have h1 := hone a
    simp only [checkEach, ih]
    rw [show myCore (runningState s core .v t h) = core from rfl, show myCore (singleState s core .v t) = core from rfl, h1]

/-- Checked elements stand in their order. -/
theorem checkEach_fst {rs : Ranges} {k : AccKind} {w : Nat} {l : List (Nat × Nat)} {ps : List (Nat × Place)} (hc : checkEach s rs k w l = .ok ps) :
    ps.map Prod.fst = l.map Prod.fst := by
  induction l generalizing ps with
  | nil => cases hc; rfl
  | cons x l ih =>
    obtain ⟨e, a⟩ := x
    simp only [checkEach] at hc
    split at hc
    · cases hc
    · split at hc
      · cases hc
      · next l' hl =>
        cases hc
        simp [ih hl]

end running

/-! #### Vector loads (R157 to R160) -/

theorem wrap64_mod (z : Int) : wrap 64 z % 2 ^ 48 = (z % 2 ^ 48).toNat := by
  unfold wrap
  omega

theorem wrap48_wrap64 (z y : Int) : wrap 48 (wrap 64 z + y) = ((z + y) % 2 ^ 48).toNat := by
  unfold wrap
  omega

section running
variable {s : State} {core : Nat} {p : RecProg} {t : Task} {h : RecProg}

theorem timedHere_running (q : SeqId) (h : RecProg) : timedHere (runningState s core q t h) = timedHere (singleState s core q t) := by
  simp only [timedHere, runningState, singleState, State.here_setHere, State.me_setHere]
  cases q <;> rfl

/-- A timed task stays one when its results are written. -/
theorem ReadySingle.timed {q : SeqId} (hr : ReadySingle s core q p t) : timedHere (singleState s core q t) = timedHere (turnOf s core q) := by
  have hs : timedHere (singleState s core q t) = isTimed t (t.seq q) := by
    simp only [timedHere, singleState, State.here_setHere, State.me_setHere]
    rfl
  rw [hs, dueWrites_only hr.due]
  cases q <;> rfl

/-- An access whose wheel stands at a position of its partition may issue. -/
theorem wheelKept_running {q : SeqId} {pl : Place} (hm : timedHere (singleState s core q t) = true → WheelMet s t.part pl) :
    wheelKept (runningState s core q t h) pl = true := by
  unfold wheelKept
  rw [timedHere_running]
  cases ht : timedHere (singleState s core q t) with
  | false => rfl
  | true =>
    cases pl with
    | hbm a =>
      have hw : WheelMet (runningState s core q t h) t.part (.hbm a) := hm ht
      have hpart : (runningState s core q t h).here.part = t.part := by rw [here_running]; cases q <;> rfl
      show (false || open1 _ _) = true
      rw [open1, hpart]
      exact WheelMet.open (core := core) (q := q) hw
    | spad c off => rfl
    | tx a => rfl

theorem loadIssue_ok {x : State} {lat : Nat} {ordered : Bool} {ps : List LoadPiece} (hw : ∀ l ∈ ps, wheelKept x l.place = true) :
    loadIssue x lat ordered ps = .ok (pendLoads x lat [] 0 ordered ps) := by
  unfold loadIssue
  rw [if_pos (List.all_eq_true.mpr hw)]

/-- Granules of one block lie in the stack of the block. -/
theorem WheelMet.granule {part pa : Nat} (hw : WheelMet s part (.hbm pa)) (ha : pa % 256 = 0) {g : Nat} (hg : g < 16) :
    WheelMet s part (.hbm (pa + 16 * g)) := by
  intro a he
  obtain rfl := Place.hbm.inj he
  rw [show (pa + 16 * g) / 2 ^ 37 = pa / 2 ^ 37 by omega]
  exact hw pa rfl

/-- The lanes of a piece. -/
theorem lanesOf_all (lane n : Nat) : lanesOf lane n (fun _ => true) = BitVec.ofNat 256 (((List.range n).map (lane + ·)).map (2 ^ ·)).sum := by
  unfold lanesOf upTo
  rw [List.filter_eq_self.mpr (fun _ _ => rfl)]

/-- A block load. -/
theorem vLoad_block (hr : ReadySingle s core .v p t) {w reg a : Nat} {pl : Place} (hc : checkAccess (turnOf s core .v) core t Ranges.noTx .load a 256 256 = .ok pl)
    (hm : timedHere (turnOf s core .v) = true → WheelMet s t.part pl) :
    vLoad (runningState s core .v t h) w 0 reg (.block a)
      = .ok (pendLoads (runningState s core .v t h) 14 [] 0 false (blockPieces t w 0 reg pl a)) := by
  have hk : checkAccess (runningState s core .v t h) (myCore (runningState s core .v t h)) (runningTask t .v h) Ranges.noTx .load a 256 256 = .ok pl :=
    (checkAccess_running (h := h) Ranges.noTx .load a 256 256).trans hc
  unfold vLoad
  simp only [here_running, hk]
  refine loadIssue_ok (fun l hl => ?_)
  obtain ⟨g, hg, rfl⟩ := List.mem_map.mp hl
  have hg := List.mem_range.mp hg
  refine wheelKept_running (fun hT => ?_)
  rw [hr.timed] at hT
  cases pl with
  | hbm pa => exact (hm hT).granule (checkAccess_hbm_aligned (by decide) hc) hg
  | spad c off => intro a he; cases he
  | tx b => intro a he; cases he

/-- The loads of the elements of one access. -/
theorem vLoad_each (hr : ReadySingle s core .v p t) {w reg : Nat} {sel : List Nat} {addr : Nat → Nat} {ps : List (Nat × Place)}
    (hc : checkEach (singleState s core .v t) Ranges.noTx .load w (sel.map (fun e => (e, addr e))) = .ok ps)
    (hm : ∀ z ∈ ps, timedHere (turnOf s core .v) = true → WheelMet s t.part z.2) :
    vLoad (runningState s core .v t h) w 0 reg (.each (sel.map (fun e => (e, addr e))))
      = .ok (pendLoads (runningState s core .v t h) 14 [] 0 true (ps.map (fun z =>
        { place := z.2, len := w, dest := .v (physV t reg) (z.1 * w) (lanesOf (z.1 * w) w (fun _ => true)), addr := addr z.1 }))) := by
  have hk := (checkEach_running (h := h) Ranges.noTx .load w (sel.map (fun e => (e, addr e)))).trans hc
  have hzip : (ps.zip (sel.map (fun e => (e, addr e)))).map (fun x =>
      ({ place := x.1.2, len := w, dest := .v (physV t reg) (x.1.1 * w) (lanesOf (x.1.1 * w) w (fun _ => true)), addr := x.2.2 } : LoadPiece))
      = ps.map (fun z => { place := z.2, len := w, dest := .v (physV t reg) (z.1 * w) (lanesOf (z.1 * w) w (fun _ => true)), addr := addr z.1 }) := by
    have hf : ps.map Prod.fst = sel := by simpa [Function.comp_def] using checkEach_fst hc
    subst hf
    rw [List.map_map]
    clear hc hk hm
    induction ps with
    | nil => rfl
    | cons z ps ih => simp [ih]
  unfold vLoad
  simp only [here_running, hk, physV_running, hzip]
  refine loadIssue_ok (fun l hl => ?_)
  obtain ⟨z, hz, rfl⟩ := List.mem_map.mp hl
  exact wheelKept_running (fun hT => hm z hz (hr.timed ▸ hT))

end running

section single
variable {s : State} {core : Nat} {p : RecProg} {t : Task} {h : RecProg} {r : Rec}

/-- An access of a record whose registers exist. -/
theorem vMemSingle_eq {isLoad : Bool} {m : VMode} (hf : h.fields = r) {reg n : Nat} (hreg : recName (if isLoad then r.d else r.a) h = reg) (hr : reg < 1024)
    (hidx : (if m = .indexed then recName r.b h else 0) = (n : Int)) (hn : n < 1024) :
    vMemSingle isLoad m h ((singleState s core .v t).setMe { (singleState s core .v t).me with tick := (t.seq .v).tick + 1 })
      = vMem (runningState s core .v t h) h.pc.toNat r.opm.toNat 0 reg (m.idx n) isLoad
          (vAccess t m (typeBytes r.opm.toNat) 0
            (wrap 64 ((if isLoad then h.baseA else h.baseD).toNat + recSteps (if isLoad then r.a else r.d) h.i0 h.i1 h.i2 h.i3
              * (if m = .block then 256 else typeBytes r.opm.toNat : Nat))) r.aux0.toInt n) := by
  unfold vMemSingle
  rw [singleState_running]
  simp only [hf, hreg, hidx, here_running, vAccess_running]
  rw [if_pos (by simp; omega)]
  rfl

theorem readsBad_nil (t : Task) : readsBad t [] = false := by simp [readsBad]

/-- An access of which no source is in error. -/
theorem vMem_eq {reg head ty : Nat} {idx : Option Nat} {isLoad : Bool} {acc : VAcc} (hb : isB8 ty = true → b8p t ≠ 0)
    (hs : readsBad t ((if isLoad then [] else [.v (physV t reg)]) ++ idx.toList.map (fun n => .v (physV t n))) = false) :
    vMem (runningState s core .v t h) head ty 0 reg idx isLoad acc
      = if isLoad then vLoad (runningState s core .v t h) (typeBytes ty) 0 reg acc else vStore (runningState s core .v t h) (typeBytes ty) 0 reg acc := by
  have hb : (isB8 ty && b8p (runningTask t .v h) == 0) = false := by
    cases hty : isB8 ty with
    | false => rfl
    | true => simpa [b8p_running] using hb hty
  have hs : readsBad (runningTask t .v h) ((if isLoad then [] else spanRegs (runningTask t .v h) reg 1)
      ++ idx.toList.flatMap (fun n => spanRegs (runningTask t .v h) n 1)) = false := by
    cases idx <;> exact hs
  unfold vMem
  simp only [here_running, hb, hs, Bool.false_eq_true, if_false]

theorem vMem_load {reg head ty : Nat} {idx : Option Nat} {acc : VAcc} (hb : isB8 ty = true → b8p t ≠ 0)
    (hs : readsBad t (idx.toList.map (fun n => .v (physV t n))) = false) :
    vMem (runningState s core .v t h) head ty 0 reg idx true acc = vLoad (runningState s core .v t h) (typeBytes ty) 0 reg acc :=
  vMem_eq hb hs

theorem vMem_store {reg head ty : Nat} {idx : Option Nat} {acc : VAcc} (hb : isB8 ty = true → b8p t ≠ 0)
    (hs : readsBad t (.v (physV t reg) :: idx.toList.map (fun n => .v (physV t n))) = false) :
    vMem (runningState s core .v t h) head ty 0 reg idx false acc = vStore (runningState s core .v t h) (typeBytes ty) 0 reg acc :=
  vMem_eq hb hs

/-- The address of a 256-byte access of a record, and those of its elements (R157, R160). -/
def wideAddr (h : RecProg) (base : Word) (x : RecOperand) : Nat := ((base.toNat + recSteps x h.i0 h.i1 h.i2 h.i3 * 256) % 2 ^ 48).toNat
def stridedAddr (h : RecProg) (w : Nat) (stride : Int) (base : Word) (x : RecOperand) (e : Nat) : Nat :=
  ((base.toNat + recSteps x h.i0 h.i1 h.i2 h.i3 * w + e * stride) % 2 ^ 48).toNat
def indexedAddr (h : RecProg) (t : Task) (w : Nat) (base : Word) (x : RecOperand) (n e : Nat) : Nat :=
  ((base.toNat + recSteps x h.i0 h.i1 h.i2 h.i3 * w + sbits (spanElem t n w e) 0 (8 * w) * w) % 2 ^ 48).toNat

theorem vAccess_block (t : Task) (w : Nat) (base : Word) (x : RecOperand) (stride : Int) (n : Nat) :
    vAccess t .block w 0 (wrap 64 (base.toNat + recSteps x h.i0 h.i1 h.i2 h.i3 * (256 : Nat))) stride n = .block (wideAddr h base x) :=
  congrArg VAcc.block (wrap64_mod _)

theorem vAccess_strided (t : Task) (w : Nat) (base : Word) (x : RecOperand) (stride : Int) (n : Nat) :
    vAccess t .strided w 0 (wrap 64 (base.toNat + recSteps x h.i0 h.i1 h.i2 h.i3 * w)) stride n
      = .each ((selElems t 0 w).map (fun e => (e, stridedAddr h w stride base x e))) :=
  congrArg VAcc.each (List.map_congr_left (fun _ _ => by rw [wrap48_wrap64]; rfl))

theorem vAccess_indexed (t : Task) (w : Nat) (base : Word) (x : RecOperand) (stride : Int) (n : Nat) :
    vAccess t .indexed w 0 (wrap 64 (base.toNat + recSteps x h.i0 h.i1 h.i2 h.i3 * w)) stride n
      = .each ((selElems t 0 w).map (fun e => (e, indexedAddr h t w base x n e))) :=
  congrArg VAcc.each (List.map_congr_left (fun _ _ => by rw [wrap48_wrap64]; rfl))

end single

section loads
variable {s : State} {core : Nat} {p : RecProg} {t : Task} {y : Syn} {r : Rec} {reg : Nat}

theorem vld_single (hr : ReadySingle s core .v p t) (hi : p.instr = .vld y (.record r)) (hreg : reg < 1024) (hb : isB8 r.opm.toNat = true → b8p t ≠ 0)
    (hd : recName r.d (heldBy p t .v) = reg) {pl : Place}
    (hc : checkAccess (turnOf s core .v) core t Ranges.noTx .load (wideAddr (heldBy p t .v) (heldBy p t .v).baseA r.a) 256 256 = .ok pl)
    (hm : timedHere (turnOf s core .v) = true → WheelMet s t.part pl) :
    SingleEffect s core .v (heldBy p t .v) (withPendAt t .v t.v.head (heldBy p t .v).issueId s.mcc t.v.tick 14 [] 0 false
      (blockPieces t (typeBytes r.opm.toNat) 0 reg pl (wideAddr (heldBy p t .v) (heldBy p t .v).baseA r.a))) := by
  refine singleEffect_pend hr ?_
  have hsingle : singleOf p.instr = vMemSingle true .block := by rw [hi]; rfl
  rw [hsingle, vMemSingle_eq (isLoad := true) (heldBy_fields hi rfl) hd hreg (n := 0) (by rfl) (by decide), vMem_load (idx := VMode.block.idx 0) hb (readsBad_nil t)]
  have := vAccess_block (h := heldBy p t .v) t (typeBytes r.opm.toNat) (heldBy p t .v).baseA r.a r.aux0.toInt 0
  simp only [if_true, this]
  exact vLoad_block hr hc hm

/-- The pieces of the elements of a load. -/
def elemPieces (t : Task) (w reg : Nat) (addr : Nat → Nat) (ps : List (Nat × Place)) : List LoadPiece :=
  ps.map (fun z => { place := z.2, len := w, dest := .v (physV t reg) (z.1 * w) (lanesOf (z.1 * w) w (fun _ => true)), addr := addr z.1 })

/-- A load of single elements, each at its own address. -/
theorem each_load (hr : ReadySingle s core .v p t) {m : VMode} (hs : singleOf p.instr = vMemSingle true m) (hf : (heldBy p t .v).fields = r)
    (hreg : reg < 1024) (hb : isB8 r.opm.toNat = true → b8p t ≠ 0) (hd : recName r.d (heldBy p t .v) = reg) {n : Nat} (hn : n < 1024)
    (hidx : (if m = .indexed then recName r.b (heldBy p t .v) else 0) = (n : Int))
    (hbad : readsBad t ((m.idx n).toList.map (fun n => .v (physV t n))) = false) (hm : m ≠ .block) {addr : Nat → Nat}
    (ha : vAccess t m (typeBytes r.opm.toNat) 0 (wrap 64 ((heldBy p t .v).baseA.toNat
      + recSteps r.a (heldBy p t .v).i0 (heldBy p t .v).i1 (heldBy p t .v).i2 (heldBy p t .v).i3 * typeBytes r.opm.toNat)) r.aux0.toInt n
      = .each ((selElems t 0 (typeBytes r.opm.toNat)).map (fun e => (e, addr e)))) {ps : List (Nat × Place)}
    (hc : checkEach (singleState s core .v t) Ranges.noTx .load (typeBytes r.opm.toNat)
      ((selElems t 0 (typeBytes r.opm.toNat)).map (fun e => (e, addr e))) = .ok ps)
    (hw : ∀ z ∈ ps, timedHere (turnOf s core .v) = true → WheelMet s t.part z.2) :
    SingleEffect s core .v (heldBy p t .v) (withPendAt t .v t.v.head (heldBy p t .v).issueId s.mcc t.v.tick 14 [] 0 true
      (elemPieces t (typeBytes r.opm.toNat) reg addr ps)) := by
  refine singleEffect_pend hr ?_
  rw [hs, vMemSingle_eq (isLoad := true) hf hd hreg hidx hn, vMem_load hb hbad]
  simp only [if_true, if_neg hm, ha]
  exact vLoad_each hr hc hw

end loads

/-! #### What neither reads nor changes a core

A store into a window may be written into the module's own ring (R227, R245). That reads no core: it is the same whatever the tick of the sequencer that
sends it. -/

/-- A state with another turn and other cores. -/
def withCores (s : State) (u : Ctx) (c : Sparse Core) : State := { s with cur := u, cores := c }

/-- An operation that neither reads nor changes the cores or the turn. -/
def CoresBlind (f : State → State) : Prop := ∀ s u c, f (withCores s u c) = withCores (f s) u c

theorem CoresBlind.same {f : State → State} (hf : CoresBlind f) (s : State) : f s = withCores (f s) s.cur s.cores := hf s s.cur s.cores
theorem CoresBlind.cur {f : State → State} (hf : CoresBlind f) (s : State) : (f s).cur = s.cur := (congrArg State.cur (hf.same s)).trans rfl
theorem CoresBlind.cores {f : State → State} (hf : CoresBlind f) (s : State) : (f s).cores = s.cores := (congrArg State.cores (hf.same s)).trans rfl

theorem CoresBlind.fold {α : Type} {f : State → α → State} (hf : ∀ a, CoresBlind (f · a)) (l : List α) : CoresBlind (fun s => l.foldl f s) := by
  intro s u c
  induction l generalizing s with
  | nil => rfl
  | cons a l ih =>
    have h1 := hf a s u c
    have h2 := ih (f s a)
    exact (congrArg (fun x => l.foldl f x) h1).trans h2

theorem findErrors_blind (a n : Nat) : CoresBlind (findErrors · a n) := fun s u c => by
  refine CoresBlind.fold (f := fun s (e : Nat × Nat) => if errKind e.2 == 1 then correctLine s e.1 else poisonLine s e.1) (fun e s u c => ?_) _ s u c
  dsimp only
  split <;> rfl

theorem storeLine_blind (a : Nat) (bs : List Byte) (whole : Bool) : CoresBlind (storeLine · a bs whole) := fun s u c => by
  have hf := findErrors_blind (64 * (a / 64)) 64 s u c
  dsimp only at hf
  unfold storeLine
  dsimp only
  rw [hf]
  split
  · rfl
  · split
    · rfl
    · show (if Sparse.get 0 (findErrors s (64 * (a / 64)) 64).poison (a / 64) != 0 then _ else _) = _
      split <;> rfl

theorem storeHbm_blind (whole : Bool) (n a : Nat) (bs : List Byte) : CoresBlind (storeHbm whole n · a bs) := fun s u c => by
  induction n generalizing s a bs with
  | zero => rfl
  | succ n ih =>
    cases bs with
    | nil => rfl
    | cons b bs =>
      exact (congrArg (storeHbm whole n · _ _) (storeLine_blind a _ whole s u c)).trans (ih _ _ _)

theorem ringWrite_blind (off : Nat) (r : BitVec 256) : CoresBlind (ringWrite · off r) := fun s u c => by
  have hb : ringBase (withCores s u c) = ringBase s := rfl
  dsimp only
  unfold ringWrite
  rw [hb]
  cases ringBase s with
  | none => rfl
  | some b => exact storeHbm_blind false _ _ _ s u c

theorem ringTable_blind (t : SorStep) (m : Option Nat) (off : Nat) (r : BitVec 256) : CoresBlind (ringTable · t m off r) := fun s u c => by
  have hw := ringWrite_blind off r s u c
  have ho : ringRec (withCores s u c) off = ringRec s off := rfl
  dsimp only at hw ⊢
  unfold ringTable
  rw [ho, hw]
  cases m <;> dsimp only <;> split_ifs <;> rfl

theorem sorus_withCores (s : State) (u : Ctx) (c : Sparse Core) : (withCores s u c).sorus = s.sorus := rfl
theorem ringBase_withCores (s : State) (u : Ctx) (c : Sparse Core) : ringBase (withCores s u c) = ringBase s := rfl
theorem ringRec_withCores (s : State) (u : Ctx) (c : Sparse Core) (off : Nat) : ringRec (withCores s u c) off = ringRec s off := rfl

theorem findSealer_withCores (s : State) (u : Ctx) (c : Sparse Core) (t : SorStep) : findSealer (withCores s u c) t = findSealer s t := by
  have ha : isAbsent (withCores s u c) = isAbsent s := by
    funext step o
    rw [isAbsent, isAbsent, ringRec_withCores]
  unfold findSealer
  rw [ha]
  rfl

theorem stepFull_withCores (s : State) (u : Ctx) (c : Sparse Core) (t : SorStep) : stepFull (withCores s u c) t = stepFull s t := by
  simp only [stepFull, ringRec_withCores]

/-- The mark of a step that is complete. -/
def markStep (n : Nat) (s : State) : State :=
  { s with sorus := s.sorus.mapStep n (fun t => { t with complete := t.complete || stepFull s t }) }

theorem markStep_blind (n : Nat) : CoresBlind (markStep n) := fun s u c => by
  simp only [markStep, stepFull_withCores, sorus_withCores]
  rfl

/-- The sealer of a step is noted, and the records that waited for it are taken out. -/
def sealStep (n : Nat) (m : Option Nat) (s : State) : State :=
  { s with sorus := s.sorus.mapStep n (fun t => { t with sealer := m, held := if m.isSome then [] else t.held }) }

theorem reviewStep_none {s : State} {n : Nat} (h : s.sorus.step? n = none) : reviewStep s n = s := by
  unfold reviewStep
  rw [h]

theorem reviewStep_some {s : State} {n : Nat} {t : SorStep} {m : Option Nat} (h : s.sorus.step? n = some t) (hm : findSealer s t = m) :
    reviewStep s n = markStep n (if m.isSome then t.held.foldl (fun s h => ringTable s t m h.1 h.2.1) (sealStep n m s) else sealStep n m s) := by
  unfold reviewStep
  rw [h]
  dsimp only
  rw [hm]
  rfl

theorem reviewStep_blind (n : Nat) : CoresBlind (reviewStep · n) := fun s u c => by
  dsimp only
  cases h : s.sorus.step? n with
  | none => rw [reviewStep_none h, reviewStep_none (s := withCores s u c) h]
  | some t =>
    obtain ⟨m, hm⟩ : ∃ m, findSealer s t = m := ⟨_, rfl⟩
    rw [reviewStep_some h hm, reviewStep_some (s := withCores s u c) h ((findSealer_withCores s u c t).trans hm)]
    have hfold := CoresBlind.fold (f := fun s (h : Nat × BitVec 256 × Nat) => ringTable s t m h.1 h.2.1) (fun h => ringTable_blind t m h.1 h.2.1) t.held
      (sealStep n m s) u c
    cases m with
    | none => exact markStep_blind n (sealStep n none s) u c
    | some m => exact (congrArg (markStep n) hfold).trans (markStep_blind n _ u c)

theorem review_blind (n : Nat) : CoresBlind (review n) := fun s u c => by
  induction n generalizing s with
  | zero => rfl
  | succ n ih =>
    have hfold := CoresBlind.fold (f := fun s (t : SorStep) => reviewStep s t.step) (fun t => reviewStep_blind t.step) s.sorus.steps s u c
    dsimp only at hfold
    have hr (x : State) (l : List SorStep) (hl : x.sorus.steps = l) : review (n + 1) x
        = if (l.foldl (fun s t => reviewStep s t.step) x).sorus = x.sorus then l.foldl (fun s t => reviewStep s t.step) x
          else review n (l.foldl (fun s t => reviewStep s t.step) x) := by subst hl; rfl
    rw [hr (withCores s u c) s.sorus.steps rfl, hr s s.sorus.steps rfl, hfold, ih]
    show (if (List.foldl (fun s t => reviewStep s t.step) s s.sorus.steps).sorus = s.sorus then _ else _) = _
    split <;> rfl

/-- A step takes its row of the log. -/
def rowTaken (n : Nat) (s : State) : State :=
  { s with sorus := { s.sorus with
      steps := s.sorus.steps.filter (fun t => t.step % 4096 != n % 4096)
        ++ [{ step := n, openGt := s.gt, mem := s.sorus.memFor n, sealer := none, complete := false, sealSent := false, asked := [], recoverGt := 0,
              recovering := false, notRet := false, held := [] }],
      spored := s.sorus.spored.filter (fun k => k % 4096 != n % 4096 || k == n) } }

theorem openStep_new {s : State} {n : Nat} (h : ¬ (s.sorus.step? n).isSome = true) :
    openStep s n = match ringBase s with
      | none => rowTaken n s
      | some b => clearHbm (clearHbm (rowTaken n s) (b + n % 4096 * 16384) 16384) (b + sealOff n) 32 := by
  unfold openStep
  dsimp only
  rw [if_neg h]
  rfl

theorem openStep_open {s : State} {n : Nat} (h : (s.sorus.step? n).isSome = true) : openStep s n = s := by
  unfold openStep
  dsimp only
  rw [if_pos h]

theorem openStep_blind (n : Nat) : CoresBlind (openStep · n) := fun s u c => by
  dsimp only
  by_cases h : (s.sorus.step? n).isSome = true
  · rw [openStep_open h, openStep_open (s := withCores s u c) h]
  · rw [openStep_new h, openStep_new (s := withCores s u c) h, ringBase_withCores]
    cases ringBase s <;> rfl

/-- A record whose first row holds is put into its step. -/
def intoStep (off : Nat) (r : BitVec 256) (s : State) : State :=
  match s.sorus.step? (recStep r) with
  | none => bad s
  | some t => if recFlags r != 2 && !t.mem.getLsbD (recOrigin r) then bad s else reviewAll (ringTable s t (findSealer s t) off r)

theorem reviewAll_blind : CoresBlind reviewAll := fun s u c => review_blind (s.sorus.steps.length + 1) s u c

theorem intoStep_blind (off : Nat) (r : BitVec 256) : CoresBlind (intoStep off r) := fun s u c => by
  unfold intoStep
  rw [sorus_withCores]
  cases s.sorus.step? (recStep r) with
  | none => rfl
  | some t =>
    dsimp only
    rw [findSealer_withCores]
    split
    · rfl
    · exact (congrArg reviewAll (ringTable_blind t (findSealer s t) off r s u c)).trans (reviewAll_blind _ u c)

/-- The first row of R245: what is no record of the ring. -/
def notRecord (s : State) (off : Nat) (r : BitVec 256) (direct : Option Nat) : Bool :=
  !sorEn s || (ringBase s).isNone || !recCheckOk r || 2 < recFlags r
    || !(if recFlags r = 2 then off == sealOff (recStep r) else recOrigin r < 512 && off == slotOff (recStep r) (recOrigin r) : Bool)
    || !s.sorus.openable (recStep r) || (recFlags r = 0 && (match direct with | some m => m != recOrigin r | none => false))

theorem ringArrive_eq (s : State) (off : Nat) (r : BitVec 256) (direct : Option Nat) :
    ringArrive s off r direct = if notRecord s off r direct then bad s else intoStep off r (openStep s (recStep r)) := rfl

theorem ringArrive_blind (off : Nat) (r : BitVec 256) (direct : Option Nat) : CoresBlind (ringArrive · off r direct) := fun s u c => by
  have hn : notRecord (withCores s u c) off r direct = notRecord s off r direct := rfl
  dsimp only
  rw [ringArrive_eq, ringArrive_eq, hn]
  split
  · rfl
  · exact (congrArg (intoStep off r) (openStep_blind (recStep r) s u c)).trans (intoStep_blind off r _ u c)

theorem ringFlit_blind (off : Nat) (mask : BitVec 64) (data : BitVec 512) (m : Nat) : CoresBlind (ringFlit · off mask data m) := fun s u c => by
  refine CoresBlind.fold (fun k s u c => ?_) [0, 1] s u c
  dsimp only
  split
  · rfl
  · split
    · exact ringArrive_blind _ _ _ s u c
    · rfl

theorem landWindow_blind (src path rx off : Nat) (mask : BitVec 64) (data : BitVec 512) (order : List Nat) :
    CoresBlind (landWindow · src path rx off false mask data order) := fun s u c => by
  have hr : isRing (withCores s u c) rx = isRing s rx := rfl
  dsimp only
  unfold landWindow
  rw [hr]
  split
  · exact ringFlit_blind off mask data src s u c
  · rfl

theorem loopBack_blind (f : Flit) : CoresBlind (loopBack · f) := fun s u c => by
  have hw : (withCores s u c).txWin f.win = s.txWin f.win := rfl
  have hx (w : Nat) : (withCores s u c).rxWin w = s.rxWin w := rfl
  have hn : (withCores s u c).modNum = s.modNum := rfl
  dsimp only
  unfold loopBack
  simp only [hw, hx, hn]
  split
  · exact landWindow_blind _ _ _ _ _ _ _ s u c
  · rfl

/-! #### A store does not depend on the tick of its sequencer -/

/-- The state with another tick of the executing sequencer. -/
def atTick (n : Nat) (s : State) : State := s.setMe { s.me with tick := n }

theorem atTick_eq (n : Nat) (s : State) : atTick n s = withCores s s.cur (atTick n s).cores := rfl

/-- What reads no core is the same at every tick. -/
theorem CoresBlind.atTick {f : State → State} (hf : CoresBlind f) (n : Nat) (s : State) : f (atTick n s) = Sys2Proof.atTick n (f s) := by
  have h := hf s s.cur (Sys2Proof.atTick n s).cores
  have h2 : withCores (f s) s.cur (Sys2Proof.atTick n s).cores = Sys2Proof.atTick n (withCores (f s) s.cur s.cores) := rfl
  rw [atTick_eq, h, h2, ← hf.same]

section tick
variable {s : State} {n : Nat}

theorem me_atTick : (atTick n s).me = { s.me with tick := n } := State.me_setMe ..
theorem here_atTick : (atTick n s).here = s.here.setSeq s.cur.q { s.me with tick := n } := by simp [atTick, State.setMe_eq]
theorem setMe_atTick (u : Seq) : (atTick n s).setMe u = s.setMe u := by simp [atTick, State.setMe_eq]
theorem curId_atTick : curId (atTick n s) = curId s := by simp [curId, me_atTick]
theorem curSent_atTick : curSent (atTick n s) = curSent s := by simp [curSent, me_atTick]

theorem dropEarly_tick (u : Seq) (p : Place) (m : Nat) : ({ u with tick := n } : Seq).dropEarly p m = { u.dropEarly p m with tick := n } := by
  unfold Seq.dropEarly
  split <;> rfl

/-- A store that joins the queue: it changes the executing sequencer alone. -/
theorem queueChained_atTick (id : Nat) (p : Place) (bs : List (Option Byte)) (upd : Option ScUpdate) (chain : Nat) (whole : Bool) :
    queueChained (atTick n s) id p bs upd chain whole = atTick n (queueChained s id p bs upd chain whole) := by
  unfold queueChained
  simp only [setMe_atTick, me_atTick, dropEarly_tick]
  simp [atTick]

theorem queueAll_atTick (chain : Place → Nat) (us : List (Place × List (Option Byte))) : queueAll chain us (atTick n s) = atTick n (queueAll chain us s) := by
  unfold queueAll
  generalize hw : wholeLine us = w
  clear hw
  induction us generalizing s with
  | nil => rfl
  | cons u us ih =>
    simp only [List.foldl_cons, curId_atTick, queueChained_atTick]
    exact ih

/-- What becomes of a store, at another tick. -/
def TxRes.atTick (n : Nat) : TxRes → TxRes
  | .sent s => .sent (Sys2Proof.atTick n s)
  | .stall => .stall
  | .deadPeer m s => .deadPeer m (Sys2Proof.atTick n s)

/-- A store joins the open flit of its block. -/
def joinFlit (win core lo : Nat) (o : Owner) (ps : List (Nat × Byte)) (s : State) : State :=
  s.mapFlits (fun f => f.isOpen && f.core == core && f.win == win) (fun f =>
    { f with mask := maskWith lo f.mask ps, data := dataWith lo f.data ps, order := orderWith lo f.order ps,
             owners := if f.owners.contains o then f.owners else f.owners ++ [o] })

/-- The flit that a store opens, and the state with it. -/
def newFlit (win core block lo : Nat) (o : Owner) (ps : List (Nat × Byte)) (s : State) : Flit :=
  { id := s.nextFlit, win := win, core := core, block := block, mask := maskWith lo 0 ps, data := dataWith lo 0 ps, order := orderWith lo [] ps,
    isOpen := (s.txWin win).mask &&& ~~~ (s.txWin win).dead != 0, lost := (s.txWin win).dead, copies := (s.txWin win).mask &&& ~~~ (s.txWin win).dead,
    departed := (s.txWin win).mask &&& ~~~ (s.txWin win).dead == 0, departGt := s.gt, owners := [o] }

def openFlit (win core block lo : Nat) (o : Owner) (ps : List (Nat × Byte)) (s : State) : State :=
  let x := s.mapFlits (fun f => f.isOpen && f.core == core && f.win == win) (fun f => { f with isOpen := false })
  { x with flits := x.flits ++ [newFlit win core block lo o ps s], nextFlit := s.nextFlit + 1 }

/-- A store into a window that lets it pass (R224, R225). -/
def sendInto (win core block lo : Nat) (o : Owner) (ps : List (Nat × Byte)) (s : State) : TxRes :=
  if s.flits.any (fun f => f.isOpen && f.core == core && f.win == win && f.block == block) then .sent (joinFlit win core lo o ps s)
  else if s.txCount win ≥ (s.txWin win).allowance then .stall
  else .sent (if (s.txWin win).mask &&& ~~~ (s.txWin win).dead == 0 && (s.txWin win).loop == 2
      then loopBack (openFlit win core block lo o ps s) (newFlit win core block lo o ps s) else openFlit win core block lo o ps s)

theorem txStore_eq {id part addr win : Nat} {ps : List (Nat × Byte)} (hw : findTx s part addr = some win) (hd : Machine.deadPeer (s.txWin win) = none) :
    txStore s s.cur.core (s.bankOf s.cur.core) s.cur.q id part addr ps
      = sendInto win s.cur.core ((addr - (s.txWin win).lbase) / 64) ((s.txWin win).lbase + 64 * ((addr - (s.txWin win).lbase) / 64))
          { bank := s.bankOf s.cur.core, q := s.cur.q, id := id, pc := s.me.head, since := s.mcc } ps s := by
  unfold txStore
  rw [hw]
  dsimp only
  rw [hd]
  cases ht : s.task? s.cur.core (s.bankOf s.cur.core) with
  | some t =>
    have hm : s.me.head = (t.seq s.cur.q).head := by simp [State.me, State.here, ht]
    rw [hm]
    rfl
  | none =>
    have hm : s.me.head = 0 := by
      simp only [State.me, State.here, ht, Option.getD_none]
      cases s.cur.q <;> rfl
    rw [hm]
    rfl

theorem sendInto_atTick (win core block lo : Nat) (o : Owner) (ps : List (Nat × Byte)) :
    sendInto win core block lo o ps (atTick n s) = TxRes.atTick n (sendInto win core block lo o ps s) := by
  have hflits : (atTick n s).flits = s.flits := rfl
  have hcount : (atTick n s).txCount win = s.txCount win := rfl
  have hwin : (atTick n s).txWin win = s.txWin win := rfl
  have hopen : openFlit win core block lo o ps (atTick n s) = atTick n (openFlit win core block lo o ps s) := rfl
  have hnew : newFlit win core block lo o ps (atTick n s) = newFlit win core block lo o ps s := rfl
  unfold sendInto
  rw [hflits, hcount, hwin, hopen, hnew, (loopBack_blind _).atTick]
  split
  · rfl
  · split
    · rfl
    · split <;> rfl

theorem txStore_atTick (id part addr : Nat) (ps : List (Nat × Byte)) :
    txStore (atTick n s) s.cur.core (s.bankOf s.cur.core) s.cur.q id part addr ps
      = TxRes.atTick n (txStore s s.cur.core (s.bankOf s.cur.core) s.cur.q id part addr ps) := by
  have hfind : findTx (atTick n s) part addr = findTx s part addr := rfl
  cases hw : findTx s part addr with
  | none => simp only [txStore, hfind, hw, TxRes.atTick]
  | some win =>
    cases hd : Machine.deadPeer (s.txWin win) with
    | some m =>
      have hd2 : Machine.deadPeer ((atTick n s).txWin win) = some m := hd
      simp only [txStore, hfind, hw, hd, hd2, TxRes.atTick]
      rfl
    | none =>
      rw [txStore_eq hw hd, ← sendInto_atTick]
      have hbank : (atTick n s).bankOf s.cur.core = s.bankOf s.cur.core := by simp [atTick]
      have h := txStore_eq (s := atTick n s) (id := id) (ps := ps) (hfind.trans hw) hd
      rw [me_atTick] at h
      rw [← hbank]
      exact h

/-- The turn, and what the executing sequencer stands at, are the same. -/
structure SameRecord (s s' : State) : Prop where
  cur : s'.cur = s.cur
  bank : s'.bankOf s.cur.core = s.bankOf s.cur.core
  prog : s'.me.prog = s.me.prog

theorem SameRecord.refl (s : State) : SameRecord s s := ⟨rfl, rfl, rfl⟩

theorem SameRecord.trans {u v : State} (h : SameRecord s u) (k : SameRecord u v) : SameRecord s v := by
  have hb := k.bank
  rw [h.cur] at hb
  exact ⟨k.cur.trans h.cur, hb.trans h.bank, k.prog.trans h.prog⟩

theorem SameRecord.of_cores {s' : State} (hc : s'.cur = s.cur) (hk : s'.cores = s.cores) : SameRecord s s' := by
  have h := SameTasks.of_cores hc hk
  refine ⟨hc, h.bank _, ?_⟩
  simp only [State.me, State.here, hc, h.bank, h.task]

theorem SameRecord.setMe {u : Seq} (h : u.prog = s.me.prog) : SameRecord s (s.setMe u) := ⟨rfl, State.bankOf_setMe .., by rw [State.me_setMe, h]⟩

theorem queueChained_sameRecord (id : Nat) (p : Place) (bs : List (Option Byte)) (upd : Option ScUpdate) (chain : Nat) (whole : Bool) :
    SameRecord s (queueChained s id p bs upd chain whole) := by
  unfold queueChained
  refine .setMe ?_
  unfold Seq.dropEarly
  dsimp only
  split <;> rfl

theorem queueAll_sameRecord (chain : Place → Nat) (us : List (Place × List (Option Byte))) : SameRecord s (queueAll chain us s) := by
  unfold queueAll
  exact List.foldlRecOn (motive := SameRecord s) us _ (.refl s) (fun _ h u _ => h.trans (queueChained_sameRecord ..))

theorem sendInto_sameRecord {win core block lo : Nat} {o : Owner} {ps : List (Nat × Byte)} {s' : State}
    (h : sendInto win core block lo o ps s = .sent s') : SameRecord s s' := by
  unfold sendInto at h
  split at h
  · obtain rfl := TxRes.sent.inj h
    exact .of_cores rfl rfl
  · split at h
    · cases h
    · obtain rfl := TxRes.sent.inj h
      split
      · exact .of_cores ((loopBack_blind _).cur _) ((loopBack_blind _).cores _)
      · exact .of_cores rfl rfl

theorem txStore_sameRecord {id part addr : Nat} {ps : List (Nat × Byte)} {s' : State}
    (h : txStore s s.cur.core (s.bankOf s.cur.core) s.cur.q id part addr ps = .sent s') : SameRecord s s' := by
  cases hw : findTx s part addr with
  | none => simp [txStore, hw] at h
  | some win =>
    cases hd : Machine.deadPeer (s.txWin win) with
    | some m => simp [txStore, hw, hd] at h
    | none => exact sendInto_sameRecord (txStore_eq hw hd ▸ h)

/-- One store event at another tick. -/
theorem storeNamed_atTick (p : Place) (bs : List (Option Byte)) : storeNamed (atTick n s) p bs = TxRes.atTick n (storeNamed s p bs) := by
  cases p with
  | tx a =>
    have hbank : myBank (atTick n s) = s.bankOf s.cur.core := by simp [myBank, atTick]
    have hpart : (atTick n s).here.part = s.here.part := by rw [here_atTick]; cases s.cur.q <;> rfl
    simp only [storeNamed, curId_atTick, hbank, hpart]
    exact txStore_atTick ..
  | spad c off => exact congrArg TxRes.sent (by rw [curId_atTick]; exact queueChained_atTick ..)
  | hbm a => exact congrArg TxRes.sent (by rw [curId_atTick]; exact queueChained_atTick ..)

theorem storeNamed_sameRecord {p : Place} {bs : List (Option Byte)} {s' : State} (h : storeNamed s p bs = .sent s') : SameRecord s s' := by
  cases p with
  | tx a => exact txStore_sameRecord h
  | spad c off =>
    obtain rfl := TxRes.sent.inj h
    exact queueChained_sameRecord ..
  | hbm a =>
    obtain rfl := TxRes.sent.inj h
    exact queueChained_sameRecord ..

/-- Stores that all pass do so at every tick. -/
theorem sendUnits_atTick {last : State → State} (hl : ∀ x, last (atTick n x) = atTick n (last x)) (hk : ∀ x, SameRecord x (last x))
    (us : List (Place × List (Option Byte))) (k : Nat) {s' : State} (h : sendUnits last k us s = .ok s') :
    sendUnits last k us (atTick n s) = .ok (atTick n s') ∧ SameRecord s s' := by
  induction us generalizing s k with
  | nil =>
    obtain rfl := Res.ok.inj h
    exact ⟨congrArg Res.ok (hl s), hk s⟩
  | cons u us ih =>
    obtain ⟨p, bs⟩ := u
    have hs := storeNamed_atTick (n := n) (s := s) p bs
    cases hr : storeNamed s p bs with
    | sent x =>
      simp only [sendUnits, hr] at h
      obtain ⟨h1, h2⟩ := ih (k + 1) h
      rw [hr] at hs
      simp only [sendUnits, hs, TxRes.atTick]
      exact ⟨h1, (storeNamed_sameRecord hr).trans h2⟩
    | stall => simp [sendUnits, hr] at h
    | deadPeer m x => simp [sendUnits, hr] at h

/-- An entry that is listed stands once among the others. -/
theorem any_set {α : Type} [DecidableEq α] {d v : α} (hv : v ≠ d) (k : Nat) (m : List (Nat × α)) (P : Nat × α → Bool) :
    (Sparse.set d k v m).any P = (P (k, v) || (Sparse.erase k m).any P) := by
  have hs := List.takeWhile_append_dropWhile (p := fun p : Nat × α => decide (p.1 ≤ k)) (l := Sparse.erase k m)
  rw [Sparse.set, if_neg hv, Sparse.insert_eq]
  conv_rhs => rw [← hs]
  simp only [List.any_append, List.any_cons]
  rw [Bool.or_left_comm]

theorem setTask_ne_reset (c : Core) (b : Nat) (k : Task) : c.setTask b (some k) ≠ Core.reset := by
  intro h
  unfold Core.setTask at h
  split at h
  · exact absurd (congrArg Core.bank0 h) (by simp [Core.reset])
  · exact absurd (congrArg Core.bank1 h) (by simp [Core.reset])

/-- What is asked of every core, where a task of one of them is replaced by another that answers the same. -/
theorem cores_any_setTask (x : State) (c b : Nat) (k k' : Task) (P : Nat × Core → Bool)
    (h : P (c, (x.core c).setTask b (some k')) = P (c, (x.core c).setTask b (some k))) :
    (x.setTask c b (some k')).cores.any P = (x.setTask c b (some k)).cores.any P := by
  show (Sparse.set Core.reset c ((x.core c).setTask b (some k')) x.cores).any P = (Sparse.set Core.reset c ((x.core c).setTask b (some k)) x.cores).any P
  rw [any_set (setTask_ne_reset _ _ _), any_set (setTask_ne_reset _ _ _), h]

/-- A task at another tick. -/
def tickTask (k : Task) (q : SeqId) (n : Nat) : Task := k.setSeq q { k.seq q with tick := n }

theorem atTick_setHere (x : State) (k : Task) : atTick n (x.setHere k) = x.setHere (tickTask k x.cur.q n) := by
  simp [atTick, tickTask]

theorem wantsStack_tick (x : State) (k : Task) (q : SeqId) (d part : Nat) :
    wantsStack (x.setHere (tickTask k q n)) d part = wantsStack (x.setHere k) d part := by
  unfold wantsStack
  dsimp only
  rw [State.setHere_eq, State.setHere_eq, cores_any_setTask x _ _ k (tickTask k q n)]
  · rfl
  · unfold Core.setTask
    split <;> cases q <;> rfl

theorem wheelOpen_tick (x : State) (k : Task) (q : SeqId) (w part : Nat) :
    wheelOpen (x.setHere (tickTask k q n)) w part = wheelOpen (x.setHere k) w part := by
  have hw (part : Nat) : wantsWheel (x.setHere (tickTask k q n)) w part = wantsWheel (x.setHere k) w part := by
    unfold wantsWheel
    rw [wantsStack_tick]
    rfl
  unfold wheelOpen
  simp only [hw]
  rfl

theorem mayStore_tick (x : State) (k : Task) (p : Place) : mayStore (x.setHere (tickTask k x.cur.q n)) p = mayStore (x.setHere k) p := by
  have ht : timedHere (x.setHere (tickTask k x.cur.q n)) = timedHere (x.setHere k) := by
    simp only [timedHere, State.here_setHere, State.me_setHere]
    cases x.cur.q <;> rfl
  have hpart : (tickTask k x.cur.q n).part = k.part := by cases x.cur.q <;> rfl
  have hkept : wheelKept (x.setHere (tickTask k x.cur.q n)) p = wheelKept (x.setHere k) p := by
    cases p with
    | hbm a => simp only [wheelKept, ht, open1, portOpen, State.here_setHere, hpart, wheelOpen_tick]
    | spad c off => simp only [wheelKept, ht]
    | tx a => simp only [wheelKept, ht]
  unfold mayStore
  rw [hkept]
  rfl

/-- The stores into windows that are left, and the others. -/
def windowUnits (s : State) (us : List (Place × List (Option Byte))) : List (Place × List (Option Byte)) := (us.filter isTxUnit).drop (curSent s)
def ownUnits (us : List (Place × List (Option Byte))) : List (Place × List (Option Byte)) := us.filter (fun u => !isTxUnit u)

/-- The stores of one instruction all go where no dead member stops one and none of them has to wait. -/
theorem sendChained_ok_iff {chain : Place → Nat} {us : List (Place × List (Option Byte))} {s' : State} :
    sendChained chain s us = .ok s' ↔ deadUnits s (windowUnits s us) = none ∧ (ownUnits us).all (fun u => mayStore s u.1) = true
      ∧ sendUnits (queueAll chain (ownUnits us)) (curSent s) (windowUnits s us) s = .ok s' := by
  show (match deadUnits s (windowUnits s us) with
    | some x => Res.trap .invalidPeer x.2 0 (markTrapped s x.1)
    | none => if (ownUnits us).all (fun u => mayStore s u.1) then sendUnits (queueAll chain (ownUnits us)) (curSent s) (windowUnits s us) s
      else .wait 5 (storeWait s (ownUnits us)) 0 (curSent s) s) = .ok s' ↔ _
  cases deadUnits s (windowUnits s us) with
  | some x => simp
  | none =>
    cases (ownUnits us).all (fun u => mayStore s u.1) with
    | true => simp
    | false => simp

theorem sendChained_tick (x : State) (k : Task) {chain : Place → Nat} {us : List (Place × List (Option Byte))} {s' : State}
    (h : sendChained chain (x.setHere k) us = .ok s') :
    sendChained chain (x.setHere (tickTask k x.cur.q n)) us = .ok (atTick n s') ∧ SameRecord (x.setHere k) s' := by
  rw [← atTick_setHere]
  have hdead (us : List (Place × List (Option Byte))) : deadUnits (atTick n (x.setHere k)) us = deadUnits (x.setHere k) us := by
    have hpart : (atTick n (x.setHere k)).here.part = (x.setHere k).here.part := by rw [here_atTick]; cases (x.setHere k).cur.q <;> rfl
    unfold deadUnits
    rw [hpart]
    rfl
  have hmay (us : List (Place × List (Option Byte))) :
      us.all (fun u => mayStore (atTick n (x.setHere k)) u.1) = us.all (fun u => mayStore (x.setHere k) u.1) := by
    rw [atTick_setHere]
    simp only [mayStore_tick]
  have hwin : windowUnits (atTick n (x.setHere k)) us = windowUnits (x.setHere k) us := by rw [windowUnits, curSent_atTick]; rfl
  obtain ⟨hd, ha, hs⟩ := sendChained_ok_iff.mp h
  obtain ⟨h1, h2⟩ := sendUnits_atTick (n := n) (fun x => queueAll_atTick chain _) (fun x => queueAll_sameRecord chain _) _ _ hs
  refine ⟨sendChained_ok_iff.mpr ⟨?_, ?_, ?_⟩, h2⟩
  · rw [hwin, hdead, hd]
  · rw [hmay, ha]
  · rw [hwin, curSent_atTick, h1]

end tick

section sends
variable {s : State} {core : Nat} {q : SeqId} {p : RecProg} {t : Task}

/-- A store of a list, as it joins the queue. -/
def queuedStore (core : Nat) (q : SeqId) (head : BitVec 48) (since id : Nat) (chain : Place → Nat) (w : Place × List (Option Byte) → Bool)
    (x : Place × List (Option Byte)) : PStore :=
  { id := id, place := x.1, bytes := x.2, upd := none, since := since, lat := commitLat core q x.1, pc := head, chain := chain x.1, whole := w x }

theorem storeLat_eq (core : Nat) (q : SeqId) (pl : Place) : storeLat core q pl = commitLat core q pl := by
  cases q <;> cases pl <;> rfl

theorem queueChained_setHere (x : State) (k : Task) (id : Nat) (pl : Place) (bs : List (Option Byte)) (chain : Place → Nat)
    (w : Place × List (Option Byte) → Bool) :
    ∃ e, queueChained (x.setHere k) id pl bs none (chain pl) (w (pl, bs)) = x.setHere (k.setSeq x.cur.q { k.seq x.cur.q with
      stores := (k.seq x.cur.q).stores ++ [queuedStore x.cur.core x.cur.q (k.seq x.cur.q).head x.mcc id chain w (pl, bs)], early := e }) := by
  have hd : ∃ e, (k.seq x.cur.q).dropEarly pl bs.length = { k.seq x.cur.q with early := e } := by
    unfold Seq.dropEarly
    split
    · exact ⟨(k.seq x.cur.q).early, rfl⟩
    · exact ⟨_, rfl⟩
  obtain ⟨e, he⟩ := hd
  refine ⟨e, ?_⟩
  unfold queueChained
  simp only [State.me_setHere, he, State.setMe_setHere, State.setHere_cur, storeLat_eq]
  rfl

/-- The stores of a single issue join those of its sequencer, in their order. -/
theorem queueAll_running (us : List (Place × List (Option Byte))) (w : Place × List (Option Byte) → Bool) (chain : Place → Nat) {h : RecProg} {k : Task}
    (hp : (k.seq q).prog = some h) :
    ∃ e, us.foldl (fun s u => queueChained s (curId s) u.1 u.2 none (chain u.1) (w u)) ((turnOf s core q).setHere k)
      = (turnOf s core q).setHere (k.setSeq q { k.seq q with
          stores := (k.seq q).stores ++ us.map (queuedStore core q (k.seq q).head s.mcc h.issueId chain w), early := e }) := by
  induction us generalizing k with
  | nil =>
    refine ⟨(k.seq q).early, ?_⟩
    rw [List.map_nil, List.append_nil]
    exact congrArg (turnOf s core q).setHere (Task.setSeq_seq k q).symm
  | cons u us ih =>
    have hid : curId ((turnOf s core q).setHere k) = h.issueId := by
      have hme : ((turnOf s core q).setHere k).me = k.seq q := State.me_setHere ..
      simp only [curId, hme, hp]
    obtain ⟨e, he⟩ := queueChained_setHere (turnOf s core q) k h.issueId u.1 u.2 chain w
    have he : queueChained ((turnOf s core q).setHere k) h.issueId u.1 u.2 none (chain u.1) (w u) = (turnOf s core q).setHere (k.setSeq q { k.seq q with
      stores := (k.seq q).stores ++ [queuedStore core q (k.seq q).head s.mcc h.issueId chain w u], early := e }) := he
    obtain ⟨e2, he2⟩ := ih (k := k.setSeq q { k.seq q with
      stores := (k.seq q).stores ++ [queuedStore core q (k.seq q).head s.mcc h.issueId chain w u], early := e }) (by rw [Task.seq_setSeq]; exact hp)
    refine ⟨e2, ?_⟩
    rw [List.foldl_cons, hid, he, he2, Task.seq_setSeq, Task.setSeq_setSeq, List.map_cons, List.append_assoc]
    rfl

/-- Stores of which none goes into a window, and each may issue. -/
theorem sendChained_own {chain : Place → Nat} {us : List (Place × List (Option Byte))} (hw : ∀ u ∈ us, notWindow u.1 = true)
    (hm : ∀ u ∈ us, mayStore s u.1 = true) : sendChained chain s us = .ok (queueAll chain us s) := by
  have hno : ∀ u ∈ us, isTxUnit u = false := by
    intro u hu
    have := hw u hu
    unfold isTxUnit
    cases hp : u.1 with
    | tx a => rw [hp] at this; cases this
    | spad c off => rfl
    | hbm a => rfl
  have hwin : windowUnits s us = [] := by
    rw [windowUnits, List.filter_eq_nil_iff.mpr (fun u hu => by simp [hno u hu]), List.drop_nil]
  have hown : ownUnits us = us := List.filter_eq_self.mpr (fun u hu => by simp [hno u hu])
  refine sendChained_ok_iff.mpr ⟨by rw [hwin]; rfl, ?_, ?_⟩
  · rw [hown]
    exact List.all_eq_true.mpr hm
  · rw [hwin, hown]
    rfl

theorem mayStore_running {h : RecProg} {pl : Place} (hp : PortMet (turnOf s core q) pl)
    (hm : timedHere (singleState s core q t) = true → WheelMet s t.part pl) : mayStore (runningState s core q t h) pl = true := by
  have hpeer : peerOpen (runningState s core q t h) pl = true := by
    cases pl with
    | spad c off =>
      by_cases hc : c = core
      · subst hc
        exact Bool.or_eq_true_iff.mpr (.inl (beq_self_eq_true _))
      · have hno : core ∉ s.ports := hp c off rfl hc
        have : (runningState s core q t h).ports.contains (myCore (runningState s core q t h)) = false := by
          rw [List.contains_eq_mem]
          exact decide_eq_false hno
        simp only [peerOpen, this, Bool.not_false, Bool.or_true]
    | hbm a => rfl
    | tx a => rfl
  rw [mayStore, hpeer, wheelKept_running hm]
  rfl

/-- A single issue whose body is a list of stores. -/
theorem singleSends_of (hr : ReadySingle s core q p t) {chain : Place → Nat} {us : List (Place × List (Option Byte))}
    (hx : singleOf p.instr (heldBy p t q) ((singleState s core q t).setMe { (singleState s core q t).me with tick := (t.seq q).tick + 1 })
      = sendChained chain (runningState s core q t (heldBy p t q)) us) :
    SingleSends s core q (heldBy p t q) t chain us := by
  have hcur : (turnOf s core q).cur.q = q := rfl
  refine ⟨fun hu => ?_, fun s1 h1 => ?_⟩
  · have hprog : ((runningTask t q (heldBy p t q)).seq q).prog = some (heldBy p t q) := by simp [runningTask]
    obtain ⟨e, he⟩ := queueAll_running (s := s) (core := core) us (wholeLine us) chain hprog
    have hok := sendChained_own (s := runningState s core q t (heldBy p t q)) (chain := chain) (fun u hu' => (hu u hu').1)
      (fun u hu' => mayStore_running (hu u hu').2.1 (hu u hu').2.2)
    refine singleEffect_of hr (hx.trans (hok.trans (congrArg Res.ok he))) ?_ ?_ ?_ ?_
    · rw [Task.seq_setSeq]
      exact hprog
    · simp [runningTask, withStoresOf]
    · simp [runningTask, withStoresOf]
    · simp only [runningTask, withStoresOf, Task.seq_setSeq, Task.setSeq_setSeq]
      exact bareTask_of_bareSeq rfl
  · have hstart : setProg (singleState s core q t) (heldBy p t q) = (turnOf s core q).setHere (t.setSeq q { t.seq q with prog := some (heldBy p t q) }) := by
      simp only [setProg, singleState, State.me_setHere, State.setMe_setHere, hcur]
    have hrun : runningState s core q t (heldBy p t q)
        = (turnOf s core q).setHere (tickTask (t.setSeq q { t.seq q with prog := some (heldBy p t q) }) (turnOf s core q).cur.q ((t.seq q).tick + 1)) := by
      simp only [runningState, runningTask, tickTask, hcur, Task.seq_setSeq, Task.setSeq_setSeq]
    rw [hstart] at h1
    obtain ⟨h2, hsame⟩ := sendChained_tick (n := (t.seq q).tick + 1) (turnOf s core q) _ h1
    rw [← hrun] at h2
    have hs1 : s1.cur = { core := core, q := q } := hsame.cur
    have hs1q : s1.cur.q = q := by rw [hs1]
    have hbank : s1.bankOf core = s.bankOf core := hsame.bank.trans (State.bankOf_setHere ..)
    have hruns : Runs s core q (heldBy p t q) (atTick ((t.seq q).tick + 1) s1) := by
      refine ⟨hs1, ?_, ?_⟩
      · rw [atTick, State.bankOf_setMe, hbank]
      · rw [me_atTick, hsame.prog, State.me_setHere, hcur, Task.seq_setSeq]
    obtain ⟨t', fl, h3, h4⟩ := singleIssue_ok hr (hx.trans h2) hruns
    have same : SameOutside s1 s1 := ⟨rfl, rfl, rfl, rfl, rfl, fun _ => ⟨rfl, rfl⟩⟩
    refine ⟨_, t', h3, (same.setTask _ _ _).setTask _ _ _, State.task?_setTask .., ?_⟩
    rw [h4.bare, here_atTick, me_atTick, hs1q, Task.setSeq_setSeq]
    have hme : s1.me = s1.here.seq q := by rw [State.me, hs1q]
    rw [hme]
    exact bareTask_of_bareSeq rfl

end sends

/-! #### Vector stores (R157 to R160) -/

section stores
variable {s : State} {core : Nat} {p : RecProg} {t : Task} {h : RecProg} {y : Syn} {r : Rec} {reg : Nat}

/-- Byte `b` of the register that a record stores. -/
def storedByte (t : Task) (reg b : Nat) : Byte := (t.vget reg).extractLsb' (8 * b) 8

theorem vStore_block {w a : Nat} {pl : Place} (hc : checkAccess (turnOf s core .v) core t Ranges.all .store a 256 256 = .ok pl) :
    vStore (runningState s core .v t h) w 0 reg (.block a) = sendChained (fun _ => 0) (runningState s core .v t h)
      (blockUnits pl ((List.range 256).map (fun b => if selected t 0 w (b / w) then some (storedByte t reg b) else none))) := by
  have hk : checkAccess (runningState s core .v t h) (myCore (runningState s core .v t h)) (runningTask t .v h) Ranges.all .store a 256 256 = .ok pl :=
    (checkAccess_running (h := h) Ranges.all .store a 256 256).trans hc
  unfold vStore
  simp only [here_running, hk]
  rfl

theorem vStore_each {w : Nat} {l : List (Nat × Nat)} {ps : List (Nat × Place)} (hc : checkEach (singleState s core .v t) Ranges.all .store w l = .ok ps) :
    vStore (runningState s core .v t h) w 0 reg (.each l) = sendChained (fun _ => 0) (runningState s core .v t h)
      (ps.map (fun z => (z.2, (List.range w).map (fun b => some (storedByte t reg (z.1 * w + b)))))) := by
  have hk := (checkEach_running (h := h) Ranges.all .store w l).trans hc
  unfold vStore
  simp only [hk, here_running]
  rfl

theorem vst_single (hr : ReadySingle s core .v p t) (hi : p.instr = .vst y (.record r)) (hreg : reg < 1024) (hb : isB8 r.opm.toNat = true → b8p t ≠ 0)
    (ha : recName r.a (heldBy p t .v) = reg) (hbad : readsBad t [.v (physV t reg)] = false) {pl : Place}
    (hc : checkAccess (turnOf s core .v) core t Ranges.all .store (wideAddr (heldBy p t .v) (heldBy p t .v).baseD r.d) 256 256 = .ok pl) :
    SingleSends s core .v (heldBy p t .v) t (fun _ => 0) (blockUnits pl ((List.range 256).map (fun b =>
      if selected t 0 (typeBytes r.opm.toNat) (b / typeBytes r.opm.toNat) then some (storedByte t reg b) else none))) := by
  refine singleSends_of hr ?_
  have hsingle : singleOf p.instr = vMemSingle false .block := by rw [hi]; rfl
  rw [hsingle, vMemSingle_eq (isLoad := false) (heldBy_fields hi rfl) ha hreg (n := 0) (by rfl) (by decide), vMem_store (idx := VMode.block.idx 0) hb hbad]
  have := vAccess_block (h := heldBy p t .v) t (typeBytes r.opm.toNat) (heldBy p t .v).baseD r.d r.aux0.toInt 0
  simp only [if_true, Bool.false_eq_true, if_false, this]
  exact vStore_block hc

/-- A store of single elements, each at its own address. -/
theorem each_store (hr : ReadySingle s core .v p t) {m : VMode} (hs : singleOf p.instr = vMemSingle false m) (hf : (heldBy p t .v).fields = r)
    (hreg : reg < 1024) (hb : isB8 r.opm.toNat = true → b8p t ≠ 0) (hd : recName r.a (heldBy p t .v) = reg) {n : Nat} (hn : n < 1024)
    (hidx : (if m = .indexed then recName r.b (heldBy p t .v) else 0) = (n : Int))
    (hbad : readsBad t (.v (physV t reg) :: (m.idx n).toList.map (fun n => .v (physV t n))) = false) (hm : m ≠ .block) {addr : Nat → Nat}
    (ha : vAccess t m (typeBytes r.opm.toNat) 0 (wrap 64 ((heldBy p t .v).baseD.toNat
      + recSteps r.d (heldBy p t .v).i0 (heldBy p t .v).i1 (heldBy p t .v).i2 (heldBy p t .v).i3 * typeBytes r.opm.toNat)) r.aux0.toInt n
      = .each ((selElems t 0 (typeBytes r.opm.toNat)).map (fun e => (e, addr e)))) {ps : List (Nat × Place)}
    (hc : checkEach (singleState s core .v t) Ranges.all .store (typeBytes r.opm.toNat)
      ((selElems t 0 (typeBytes r.opm.toNat)).map (fun e => (e, addr e))) = .ok ps) :
    SingleSends s core .v (heldBy p t .v) t (fun _ => 0) (ps.map (fun z =>
      (z.2, (List.range (typeBytes r.opm.toNat)).map (fun b => some (storedByte t reg (z.1 * typeBytes r.opm.toNat + b)))))) := by
  refine singleSends_of hr ?_
  rw [hs, vMemSingle_eq (isLoad := false) hf hd hreg hidx hn, vMem_store hb hbad]
  simp only [Bool.false_eq_true, if_false, if_neg hm, ha]
  exact vStore_each hc

end stores

/-! #### Draws (R196 to R200) -/

section draws
variable {s : State} {core : Nat} {p : RecProg} {t : Task} {h : RecProg} {r : Rec} {reg : Nat}

/-- The position of a record's draw: x31 moved on by the positions of A (R200). -/
def drawPos (t : Task) (h : RecProg) (a : RecOperand) : Word := t.v.reg 31 + BitVec.ofInt 64 (a.base.toNat + recSteps a h.i0 h.i1 h.i2 h.i3)

theorem rndSources_running (k : RndKind) (o : VRndOp) (n : Nat) : rndSources (runningTask t .v h) k o n = rndSources t k o n := by
  cases k <;> rfl

/-- One element of a draw, under the key of the record. -/
theorem rndElem_running (key : Word) (k : RndKind) (o : VRndOp) (n : Nat) (pos : Word) (e : Nat) :
    rndElem (runningState s core .v t h) key k o n pos e = rndElem (singleState s core .v t) key k o n pos e := by
  have hreg (x : Nat) : (runningState s core .v t h).reg x = (singleState s core .v t).reg x := by
    rw [runningState, singleState, State.reg_setHere, State.reg_setHere]
    rfl
  have hhere : (singleState s core .v t).here = t := State.here_setHere ..
  unfold rndElem rndKey rndStream
  simp only [hreg, here_running, hhere]
  cases k <;> rfl

theorem rndSingle_eq {k : RndKind} (hf : h.fields = r) (hreg : recName r.d h = reg) (hr : reg < 1024)
    (hbad : readsBad t (rndSources t k (rndOpOf r.aux0) reg) = false) :
    rndSingle k h ((singleState s core .v t).setMe { (singleState s core .v t).me with tick := (t.seq .v).tick + 1 })
      = .ok (rndIssue (runningState s core .v t h) h.key k (rndOpOf r.aux0) reg (drawPos t h r.a)) := by
  unfold rndSingle
  rw [singleState_running]
  simp only [hf, hreg]
  rw [if_pos (by simp; omega)]
  unfold rndRun
  have hb : readsBad (runningState s core .v t h).here (rndSources (runningState s core .v t h).here k (rndOpOf r.aux0) (Int.toNat reg)) = false := by
    rw [here_running, rndSources_running]
    exact hbad
  have hx : (runningState s core .v t h).here.x31 = t.v.reg 31 := by rw [here_running]; rfl
  rw [if_neg (by rw [hb]; exact Bool.false_ne_true), hx]
  rfl

end draws

section drawn
variable {s : State} {core : Nat} {p : RecProg} {t : Task} {r : Rec} {reg : Nat}

/-- The word of Lichen that element `e` of a draw takes at position `pos` (R191, R196). -/
def drawWord (t : Task) (key : Word) (o : VRndOp) (pos : Word) (e : Nat) : BitVec 32 :=
  lichen (if o.xk = 0 then key else t.v.reg o.xk.toNat) ((t.v.reg o.xs.toNat).setWidth 32) (pos + BitVec.ofNat 64 e)

/-- The source of element `e` of a draw, and the value that its destination holds. -/
def drawSource (t : Task) (o : VRndOp) (e : Nat) : FVal :=
  (wideFmt o.ty.toNat).decode (vsrc t (if o.kb then .kbank o.vb else .reg o.vb) false (typeBytes o.ty.toNat) e)
def drawOld (t : Task) (o : VRndOp) (reg e : Nat) : FVal := (wideFmt o.ty.toNat).decode (spanElem t reg (typeBytes o.ty.toNat) e)

/-- A drawn value as it is rounded for element `e`. -/
def drawRounded (t : Task) (key : Word) (o : VRndOp) (pos : Word) (e : Nat) (v : FVal × Flags) : Nat × Flags :=
  rounded (wideFmt o.ty.toNat) (vmode { t with key := key } o.rm.toNat pos e) false v

theorem reg_singleState (x : Nat) : (singleState s core .v t).reg x = t.v.reg x := by
  rw [singleState, State.reg_setHere]
  rfl

theorem rndElem_z (key : Word) (o : VRndOp) (pos : Word) (e : Nat) :
    rndElem (singleState s core .v t) key .z o reg pos e
      = (drawRounded t key o pos e (fMul (drawVal (o.opx.getLsbD 0) (drawWord t key o pos e)) (drawSource t o e)), true) := by
  have hhere : (singleState s core .v t).here = t := State.here_setHere ..
  unfold rndElem rndKey rndStream
  simp only [reg_singleState, hhere]
  rfl

theorem rndElem_zacc (key : Word) (o : VRndOp) (pos : Word) (e : Nat) :
    rndElem (singleState s core .v t) key .zacc o reg pos e
      = (drawRounded t key o pos e (fFma (drawVal (o.opx.getLsbD 0) (drawWord t key o pos e)) (drawSource t o e) (drawOld t o reg e)), true) := by
  have hhere : (singleState s core .v t).here = t := State.here_setHere ..
  unfold rndElem rndKey rndStream
  simp only [reg_singleState, hhere]
  rfl

theorem rndElem_unif (key : Word) (o : VRndOp) (pos : Word) (e : Nat) :
    rndElem (singleState s core .v t) key .unif o reg pos e
      = (drawRounded t key o pos e (fMul (unifVal (drawWord t key o pos e)) (drawSource t o e)), true) := by
  have hhere : (singleState s core .v t).here = t := State.here_setHere ..
  unfold rndElem rndKey rndStream
  simp only [reg_singleState, hhere]
  rfl

theorem rndElem_drop (key : Word) (o : VRndOp) (pos : Word) (e : Nat) :
    rndElem (singleState s core .v t) key .drop o reg pos e
      = if kept (drawWord t key o pos e) (fp32.decode (t.kget o.vb.toNat).toNat) then
          (drawRounded t key o pos e (fMul (drawOld t o reg e) (fp32.decode (t.kget (o.vb.toNat + 1)).toNat)), true)
        else ((0, 0), false) := by
  have hhere : (singleState s core .v t).here = t := State.here_setHere ..
  unfold rndElem rndKey rndStream
  simp only [reg_singleState, hhere]
  rfl

/-- One single issue of a draw: its elements are `c`, and `keep` is what VDROP keeps. -/
theorem draw_single (hr : ReadySingle s core .v p t) {k : RndKind} (hs : singleOf p.instr = rndSingle k) (hf : (heldBy p t .v).fields = r) (hreg : reg < 1024)
    (hd : recName r.d (heldBy p t .v) = reg) (hbad : readsBad t (rndSources t k (rndOpOf r.aux0) reg) = false) {c : Nat → Nat × Flags} {keep : Nat → Bool}
    (hc : ∀ e, rndElem (singleState s core .v t) (heldBy p t .v).key k (rndOpOf r.aux0) reg (drawPos t (heldBy p t .v) r.a) e = (c e, keep e)) :
    let w := typeBytes (rndOpOf r.aux0).ty.toNat
    let sel := selElems t 0 w
    SingleEffect s core .v (heldBy p t .v) (withPendAt t .v t.v.head (heldBy p t .v).issueId s.mcc t.v.tick 8
      (elemWrites t reg w (sel.map (fun e => (e, (c e).1)))
        ++ (if k = .drop && (rndOpOf r.aux0).opx != 0 then [predWrite t (rndOpOf r.aux0).opx.toNat w (sel.map (fun e => (e, keep e)))] else []))
      (sel.foldl (fun fl e => fl ||| (c e).2) 0) false []) := by
  intro w sel
  refine singleEffect_pend hr ?_
  rw [hs, rndSingle_eq hf hd hreg hbad]
  unfold rndIssue pendWrites allFlags
  simp only [rndElem_running, hc, here_running, List.map_map, List.foldl_map]
  rfl

end drawn

/-! #### The obligation -/

/-- The record forms of V check nothing at their head. -/
theorem vRecords_begin (s : State) (y : Syn) (r : Rec) (t : Task) :
    let Starts (i : Instr) : Prop := Ready s i y t → Begins s i t
    Starts (.vld y (.record r)) ∧ Starts (.vst y (.record r)) ∧ Starts (.vlds y (.record r)) ∧ Starts (.vsts y (.record r))
      ∧ Starts (.vgath y (.record r)) ∧ Starts (.vscat y (.record r)) ∧ Starts (.vz y (.record r)) ∧ Starts (.vzacc y (.record r))
      ∧ Starts (.vunif y (.record r)) ∧ Starts (.vdrop y (.record r)) := by
  intro Starts
  exact ⟨fun h => begins_of h (exec_vld ..), fun h => begins_of h (exec_vst ..), fun h => begins_of h (exec_vlds ..),
    fun h => begins_of h (exec_vsts ..), fun h => begins_of h (exec_vgath ..), fun h => begins_of h (exec_vscat ..),
    fun h => begins_of h (exec_vz ..), fun h => begins_of h (exec_vzacc ..), fun h => begins_of h (exec_vunif ..),
    fun h => begins_of h (exec_vdrop ..)⟩

theorem elemPieces_eq (t : Task) (w reg : Nat) (addr : Nat → Nat) (ps : List (Nat × Place)) :
    elemPieces t w reg addr ps = ps.map (fun z =>
      { place := z.2, len := w, dest := .v (physV t reg) (z.1 * w) (BitVec.ofNat 256 (((List.range w).map (z.1 * w + ·)).map (2 ^ ·)).sum), addr := addr z.1 }) := by
  simp only [elemPieces, lanesOf_all]

/-- Settles O34: a record of V begins with its counters at 0, and each of its single issues is the load, the store or the draw of
the point at which it stands. -/
theorem vectorRecords : Obligations.VectorRecords := by
  unfold Obligations.VectorRecords
  refine ⟨fun s y r t => vRecords_begin s y r t, ?_⟩
  intro s core p t y r reg hr _ hreg h st steps name ty w sel lanes OnTime wide strided indexed index Loads Sends Reads byte Writes B8
  refine ⟨?vld, ?vlds, ?vgath, ?vst, ?vsts, ?vscat, ?draws⟩
  case vld =>
    intro pl hi hb hd d mask hc hm
    exact vld_single hr hi hreg hb hd hc hm
  case vlds =>
    intro hi hb hd ps hc hm
    have := each_load hr (m := .strided) (by rw [hi]; rfl) (heldBy_fields hi rfl) hreg hb hd (n := 0) (by decide) rfl (readsBad_nil t) (by decide)
      (vAccess_strided (h := heldBy p t .v) ..) hc hm
    rwa [elemPieces_eq] at this
  case vgath =>
    intro n hi hb hd hn hlt hbad ps hc hm
    have := each_load hr (m := .indexed) (by rw [hi]; rfl) (heldBy_fields hi rfl) hreg hb hd hlt hn hbad (by decide)
      (vAccess_indexed (h := heldBy p t .v) ..) hc hm
    rwa [elemPieces_eq] at this
  case vst =>
    intro pl hi hb ha hbad hc
    exact vst_single hr hi hreg hb ha hbad hc
  case vsts =>
    intro hi hb ha hbad ps hc
    exact each_store hr (m := .strided) (by rw [hi]; rfl) (heldBy_fields hi rfl) hreg hb ha (n := 0) (by decide) rfl hbad (by decide)
      (vAccess_strided (h := heldBy p t .v) ..) hc
  case vscat =>
    intro n hi hb ha hn hlt hbad ps hc
    exact each_store hr (m := .indexed) (by rw [hi]; rfl) (heldBy_fields hi rfl) hreg hb ha hlt hn hbad (by decide)
      (vAccess_indexed (h := heldBy p t .v) ..) hc
  case draws =>
    intro hd o f wz pos key word z b old pdrop keep Draws
    refine ⟨?vz, ?vzacc, ?vunif, ?vdrop⟩
    case vz =>
      intro hi hbad c sel
      exact draw_single hr (k := .z) (by rw [hi]; rfl) (heldBy_fields hi rfl) hreg hd hbad (fun e => rndElem_z ..)
    case vzacc =>
      intro hi hbad c sel
      exact draw_single hr (k := .zacc) (by rw [hi]; rfl) (heldBy_fields hi rfl) hreg hd hbad (fun e => rndElem_zacc ..)
    case vunif =>
      intro hi hbad c sel
      exact draw_single hr (k := .unif) (by rw [hi]; rfl) (heldBy_fields hi rfl) hreg hd hbad (fun e => rndElem_unif ..)
    case vdrop =>
      intro hi hbad c sel
      have hc (e : Nat) : rndElem (singleState s core .v t) h.key .drop o reg pos e = (c e, keep e) := by
        refine (rndElem_drop ..).trans ?_
        have hk : kept (drawWord t h.key o pos e) (fp32.decode (t.kget o.vb.toNat).toNat) = keep e := rfl
        rw [hk]
        cases hke : keep e with
        | false => simp only [c, hke]; rfl
        | true => simp only [c, hke]; rfl
      have := draw_single hr (k := .drop) (by rw [hi]; rfl) (heldBy_fields hi rfl) hreg hd hbad hc
      by_cases hx : o.opx = 0
      · simpa [hx, o] using this
      · simpa [hx, o] using this

end Sys2Proof

/-! ### Number formats, rounding and accumulation (O43) -/

namespace Sys2Proof

open Sys2Proof.Machine

/-! #### Lengths and roots -/

theorem bitLen_le_iff (m k : Nat) : bitLen m ≤ k ↔ m < 2 ^ k := by
  unfold bitLen
  split
  case isTrue h => simp [h]
  case isFalse h => exact Nat.log2_lt h

theorem lt_two_pow_bitLen (m : Nat) : m < 2 ^ bitLen m := (bitLen_le_iff m _).mp le_rfl

theorem bitLen_pos {m : Nat} (h : m ≠ 0) : 0 < bitLen m := by
  simp [bitLen, h]

theorem two_pow_le_of_bitLen {m k : Nat} (h : k < bitLen m) : 2 ^ k ≤ m := by
  by_contra hlt
  exact absurd ((bitLen_le_iff m k).mpr (by omega)) (by omega)

theorem bitLen_two_pow (k : Nat) : bitLen (2 ^ k) = k + 1 := by
  simp [bitLen]

/-- Bit by bit, the root keeps r * r ≤ x < (r + 2^n)². -/
theorem isqrtFrom_spec (x : Nat) : ∀ n r, r * r ≤ x → x < (r + 2 ^ n) * (r + 2 ^ n) →
    isqrtFrom x n r * isqrtFrom x n r ≤ x ∧ x < (isqrtFrom x n r + 1) * (isqrtFrom x n r + 1)
  | 0, _, hlo, hhi => ⟨hlo, hhi⟩
  | n + 1, r, hlo, hhi => by
    rw [isqrtFrom]
    split
    case isTrue h => exact isqrtFrom_spec x n _ h (by rwa [add_assoc, ← two_mul, ← pow_succ'])
    case isFalse h => exact isqrtFrom_spec x n _ hlo (not_le.mp h)

theorem isqrt_spec (x : Nat) : isqrt x * isqrt x ≤ x ∧ x < (isqrt x + 1) * (isqrt x + 1) := by
  refine isqrtFrom_spec x _ 0 (Nat.zero_le x) ?_
  rw [zero_add, ← pow_add]
  exact (bitLen_le_iff x _).mp (by omega)

/-! #### Magnitudes as rational numbers -/

/-- The magnitude n * 2^x. -/
def magRat (n : Nat) (x : Int) : ℚ := n * 2 ^ x

/-- The order of magnitudes as O43 states it. -/
def AtMost (m : Nat) (a : Int) (n : Nat) (b : Int) : Prop := m * 2 ^ (a - min a b).toNat ≤ n * 2 ^ (b - min a b).toNat

theorem magRat_shift (m : Nat) {a b : Int} (h : b ≤ a) : magRat (m * 2 ^ (a - b).toNat) b = magRat m a := by
  have hp : ((2 : ℚ) ^ (a - b).toNat) * 2 ^ b = 2 ^ a := by
    rw [← zpow_natCast, Int.toNat_of_nonneg (by omega), ← zpow_add₀ two_ne_zero, sub_add_cancel]
  simp only [magRat, Nat.cast_mul, Nat.cast_pow, Nat.cast_ofNat, mul_assoc, hp]

theorem magRat_le_iff (m n : Nat) (b : Int) : magRat m b ≤ magRat n b ↔ m ≤ n := by
  unfold magRat
  rw [mul_le_mul_iff_left₀ (by positivity), Nat.cast_le]

theorem atMost_iff (m : Nat) (a : Int) (n : Nat) (b : Int) : AtMost m a n b ↔ magRat m a ≤ magRat n b := by
  rw [AtMost, ← magRat_le_iff _ _ (min a b), magRat_shift _ (min_le_left a b), magRat_shift _ (min_le_right a b)]

theorem magRat_double (n : Nat) (x : Int) : magRat (2 * n) x = magRat n (x + 1) := by
  rw [mul_comm, ← magRat_shift n (show x ≤ x + 1 by omega)]
  simp

/-! #### The magnitudes that a format holds (R61, R67, R69) -/

section formats
variable {f : Fmt}

/-- The magnitude that a code without its sign stands for. -/
def codeMag (f : Fmt) (c : Nat) : ℚ := magRat (f.magOf c).1 (f.magOf c).2

theorem magOf_subnormal {c : Nat} (h : c < 2 ^ (f.p - 1)) : f.magOf c = (c, f.emin - (f.p - 1 : Nat)) := by
  simp [Fmt.magOf, Nat.div_eq_of_lt h, Nat.mod_eq_of_lt h]

theorem magOf_normal {e fr : Nat} (he : e ≠ 0) (h : fr < 2 ^ (f.p - 1)) :
    f.magOf (e * 2 ^ (f.p - 1) + fr) = (2 ^ (f.p - 1) + fr, (e : Int) - f.bias - (f.p - 1 : Nat)) := by
  have hdiv : (e * 2 ^ (f.p - 1) + fr) / 2 ^ (f.p - 1) = e := by
    rw [mul_comm, Nat.mul_add_div (by positivity), Nat.div_eq_of_lt h, add_zero]
  have hmod : (e * 2 ^ (f.p - 1) + fr) % 2 ^ (f.p - 1) = fr := by
    rw [mul_comm, Nat.mul_add_mod, Nat.mod_eq_of_lt h]
  simp only [Fmt.magOf, hdiv, hmod, if_neg he]

/-- A code of a normal number, cut into its exponent and its fraction. -/
theorem code_split {c : Nat} (h : 2 ^ (f.p - 1) ≤ c) :
    ∃ e fr, e ≠ 0 ∧ fr < 2 ^ (f.p - 1) ∧ c = e * 2 ^ (f.p - 1) + fr :=
  ⟨c / 2 ^ (f.p - 1), c % 2 ^ (f.p - 1), (Nat.div_pos h (by positivity)).ne', Nat.mod_lt _ (by positivity), (Nat.div_add_mod' c _).symm⟩

theorem magOf_fst_lt_iff (c : Nat) : (f.magOf c).1 < 2 ^ (f.p - 1) ↔ c < 2 ^ (f.p - 1) := by
  rcases lt_or_ge c (2 ^ (f.p - 1)) with h | h
  · rw [magOf_subnormal h]
  · obtain ⟨e, fr, he, hfr, rfl⟩ := code_split h
    rw [magOf_normal he hfr]
    simp only
    omega

/-- The next code stands for the next value of the grid. -/
theorem codeMag_succ (c : Nat) : codeMag f (c + 1) = magRat ((f.magOf c).1 + 1) (f.magOf c).2 := by
  rcases lt_or_ge (c + 1) (2 ^ (f.p - 1)) with h | h
  · rw [codeMag, magOf_subnormal h, magOf_subnormal (by omega)]
  · obtain ⟨e, fr, he, hfr, hc⟩ := code_split h
    rcases Nat.eq_zero_or_pos fr with rfl | hpos
    · obtain ⟨e, rfl⟩ := Nat.exists_eq_succ_of_ne_zero he
      have hP : 0 < 2 ^ (f.p - 1) := by positivity
      rw [codeMag, hc, magOf_normal he hfr]
      rw [Nat.succ_mul] at hc
      obtain rfl : c = e * 2 ^ (f.p - 1) + (2 ^ (f.p - 1) - 1) := by omega
      rcases Nat.eq_zero_or_pos e with rfl | he
      · rw [magOf_subnormal (by omega)]
        simp [Fmt.emin, Nat.sub_add_cancel hP]
      · rw [magOf_normal he.ne' (by omega), show 2 ^ (f.p - 1) + (2 ^ (f.p - 1) - 1) + 1 = 2 * 2 ^ (f.p - 1) by omega, magRat_double]
        congr 1
        push_cast
        ring
    · obtain ⟨fr, rfl⟩ : ∃ k, fr = k + 1 := ⟨fr - 1, by omega⟩
      obtain rfl : c = e * 2 ^ (f.p - 1) + fr := by omega
      rw [codeMag, hc, magOf_normal he hfr, magOf_normal he (by omega)]
      rfl

theorem codeMag_strictMono : StrictMono (codeMag f) := by
  refine strictMono_nat_of_lt_succ (fun c => ?_)
  rw [codeMag_succ, codeMag, lt_iff_not_ge, magRat_le_iff]
  omega

theorem magOf_fst_normal {c : Nat} (h : 2 ^ (f.p - 1) ≤ c) : 2 ^ (f.p - 1) ≤ (f.magOf c).1 :=
  not_lt.mp (fun hlt => absurd ((magOf_fst_lt_iff c).mp hlt) (by omega))

/-- The exponent of the subnormal numbers of a format: no grid is finer. -/
def subExp (f : Fmt) : Int := f.emin - (f.p - 1 : Nat)

/-- M * 2^q is a value of the grid of its binade: M has at most `p` bits, or is the least value of the next binade, and has all `p` above the
subnormal numbers. -/
structure OnGrid (f : Fmt) (M : Nat) (q : Int) : Prop where
  le : M ≤ 2 ^ f.p
  finest : subExp f ≤ q
  full : q = subExp f ∨ 2 ^ (f.p - 1) ≤ M

theorem magCode_le_p {M : Nat} {q : Int} (h0 : M ≠ 0) (h : M < 2 ^ f.p) :
    f.magCode M q = if M < 2 ^ (f.p - 1) then M else (q + (f.p - 1 : Nat) + f.bias).toNat * 2 ^ (f.p - 1) + (M - 2 ^ (f.p - 1)) := by
  have hk : ¬ bitLen M > f.p := not_lt.mpr ((bitLen_le_iff M f.p).mpr h)
  simp only [Fmt.magCode, if_neg h0, if_neg hk]

theorem magCode_next_binade (hp : 1 ≤ f.p) (q : Int) : f.magCode (2 ^ f.p) q = f.magCode (2 ^ (f.p - 1)) (q + 1) := by
  have hlt : 2 ^ (f.p - 1) < 2 ^ f.p := Nat.pow_lt_pow_right (by omega) (by omega)
  have hhalf : 2 ^ f.p / 2 = 2 ^ (f.p - 1) := by rw [← Nat.pow_div hp two_pos, pow_one]
  rw [magCode_le_p (by positivity) hlt]
  simp only [Fmt.magCode, bitLen_two_pow, if_neg (show 2 ^ f.p ≠ 0 by positivity), if_pos (show f.p + 1 > f.p by omega), Nat.add_sub_cancel_left, pow_one,
    hhalf, Nat.cast_one]

/-- The code of a value of the grid stands for that value. -/
theorem codeMag_magCode (hp : 1 ≤ f.p) {M : Nat} {q : Int} (h : OnGrid f M q) : codeMag f (f.magCode M q) = magRat M q := by
  have hpow : 2 ^ f.p = 2 * 2 ^ (f.p - 1) := by rw [← pow_succ', Nat.sub_add_cancel hp]
  have hP : 0 < 2 ^ (f.p - 1) := by positivity
  have normal {M : Nat} {q : Int} (hle : 2 ^ (f.p - 1) ≤ M) (hlt : M < 2 ^ f.p) (hq : subExp f ≤ q) : codeMag f (f.magCode M q) = magRat M q := by
    unfold subExp Fmt.emin at hq
    rw [magCode_le_p (by omega) hlt, if_neg (by omega), codeMag, magOf_normal (by omega) (by omega)]
    simp only
    rw [Nat.add_sub_cancel' hle]
    congr 1
    omega
  rcases eq_or_lt_of_le h.le with rfl | hlt
  · rw [magCode_next_binade hp, normal le_rfl (by omega) (by have := h.finest; omega), hpow, magRat_double]
  · rcases lt_or_ge M (2 ^ (f.p - 1)) with hsub | hnorm
    · have hq : q = subExp f := h.full.resolve_right (by omega)
      rcases Nat.eq_zero_or_pos M with rfl | hpos
      · simp [Fmt.magCode, codeMag, magRat, Fmt.magOf]
      · rw [magCode_le_p hpos.ne' hlt, if_pos hsub, codeMag, magOf_subnormal hsub, hq, subExp]
    · exact normal hnorm hlt h.finest

theorem magCode_le_iff (hp : 1 ≤ f.p) {M : Nat} {q : Int} (h : OnGrid f M q) (c : Nat) : f.magCode M q ≤ c ↔ magRat M q ≤ codeMag f c := by
  rw [← codeMag_magCode hp h, codeMag_strictMono.le_iff_le]

theorem magCode_ne_zero (hp : 1 ≤ f.p) {M : Nat} {q : Int} (h : OnGrid f M q) (hM : M ≠ 0) : f.magCode M q ≠ 0 := by
  intro h0
  have hmag := codeMag_magCode hp h
  rw [h0, codeMag, magOf_subnormal (by positivity)] at hmag
  simp [magRat, hM] at hmag
  exact absurd hmag.symm (by positivity)

/-! #### Rounding a magnitude (R64, R65) -/

theorem roundMag_exact (mode : Mode) (neg : Bool) (m : Nat) {e q : Int} (h : q ≤ e) : roundMag mode neg m e false q = (m * 2 ^ (e - q).toNat, false) := by
  simp [roundMag, h]

/-- Between two neighbours the mode picks one. -/
theorem roundMag_between (mode : Mode) (neg : Bool) (m : Nat) {e q : Int} (h : e < q) :
    let d := (q - e).toNat
    let lo := m / 2 ^ d
    let rem := m % 2 ^ d
    roundMag mode neg m e false q = (if rem ≠ 0 ∧ roundUp mode neg lo rem d false = true then lo + 1 else lo, decide (rem ≠ 0)) := by
  intro d lo rem
  rw [roundMag, if_neg (not_le.mpr h)]
  show (if (rem == 0 && !false) = true then (lo, false) else (if roundUp mode neg lo rem d false = true then lo + 1 else lo, true)) = _
  by_cases h0 : rem = 0 <;> simp [h0]

theorem roundMag_le_succ (mode : Mode) (neg : Bool) (m : Nat) {e q : Int} (h : e < q) :
    m / 2 ^ (q - e).toNat ≤ (roundMag mode neg m e false q).1 ∧ (roundMag mode neg m e false q).1 ≤ m / 2 ^ (q - e).toNat + 1 := by
  rw [roundMag_between mode neg m h]
  simp only
  split <;> omega

theorem roundMag_onGrid (hp : 1 ≤ f.p) (mode : Mode) (neg : Bool) {m : Nat} (hm : m ≠ 0) (e : Int) :
    OnGrid f (roundMag mode neg m e false (gridExp f m e)).1 (gridExp f m e) := by
  have hpos := bitLen_pos hm
  have hlen : e + bitLen m - f.p ≤ gridExp f m e := by unfold gridExp; omega
  have hfull : gridExp f m e = subExp f ∨ gridExp f m e = e + bitLen m - f.p := by unfold gridExp subExp; omega
  have hfinest : subExp f ≤ gridExp f m e := by unfold gridExp subExp; omega
  have hlow : 2 ^ (bitLen m - 1) ≤ m := two_pow_le_of_bitLen (by omega)
  generalize gridExp f m e = q at *
  rcases le_or_gt q e with hq | hq
  · rw [roundMag_exact mode neg m hq]
    refine ⟨?le, hfinest, hfull.imp_right fun hq' => ?full⟩
    case le =>
      calc m * 2 ^ (e - q).toNat ≤ 2 ^ bitLen m * 2 ^ (e - q).toNat := Nat.mul_le_mul_right _ (lt_two_pow_bitLen m).le
        _ = 2 ^ (bitLen m + (e - q).toNat) := (pow_add ..).symm
        _ ≤ 2 ^ f.p := Nat.pow_le_pow_right two_pos (by omega)
    case full =>
      calc 2 ^ (f.p - 1) ≤ 2 ^ (bitLen m - 1 + (e - q).toNat) := Nat.pow_le_pow_right two_pos (by omega)
        _ = 2 ^ (bitLen m - 1) * 2 ^ (e - q).toNat := pow_add ..
        _ ≤ m * 2 ^ (e - q).toNat := Nat.mul_le_mul_right _ hlow
  · obtain ⟨hlo, hhi⟩ := roundMag_le_succ mode neg m hq
    refine ⟨?le, hfinest, hfull.imp_right fun hq' => ?full⟩
    case le =>
      have : m / 2 ^ (q - e).toNat < 2 ^ f.p := by
        rw [Nat.div_lt_iff_lt_mul (by positivity), ← pow_add]
        exact (bitLen_le_iff m _).mp (by omega)
      omega
    case full =>
      refine le_trans ?_ hlo
      rw [Nat.le_div_iff_mul_le (by positivity), ← pow_add]
      exact two_pow_le_of_bitLen (by omega)

/-! #### What a code stands for (R61, R67, R69) -/

/-- A signed IEEE format. -/
theorem decode_ieee {i : Nat} (hi : f.ieee = true) (hs : f.signed = true) (hinf : f.infMag = some i) (c : Nat) :
    f.decode c =
      let mag := c % 2 ^ (f.width - 1)
      let neg := c.testBit (f.width - 1)
      if i < mag then .nan else if mag = i then .inf neg else .fin neg (f.magOf mag).1 (f.magOf mag).2 false := by
  simp only [Fmt.decode, hi, hs, hinf, if_true, Bool.true_and, decide_eq_true_eq, gt_iff_lt, Option.some.injEq, eq_comm (a := i)]

/-- A binary8 format has one NaN. -/
theorem decode_binary8 (hi : f.ieee = false) (c : Nat) :
    f.decode c =
      let mag := if f.signed then c % 2 ^ (f.width - 1) else c
      let neg := f.signed && c.testBit (f.width - 1)
      if c = f.nanCode then .nan else if f.infMag = some mag then .inf neg else .fin neg (f.magOf mag).1 (f.magOf mag).2 false := by
  simp only [Fmt.decode, hi, Bool.false_eq_true, if_false, beq_iff_eq]

theorem signCode_mod (hs : f.signed = true) (neg : Bool) {mag : Nat} (h : mag < 2 ^ (f.width - 1)) :
    f.signCode neg mag % 2 ^ (f.width - 1) = mag := by
  cases neg <;> simp [Fmt.signCode, hs, Nat.mod_eq_of_lt h]

theorem signCode_testBit (hs : f.signed = true) (neg : Bool) {mag : Nat} (h : mag < 2 ^ (f.width - 1)) :
    (f.signCode neg mag).testBit (f.width - 1) = neg := by
  cases neg <;> simp [Fmt.signCode, hs, Nat.testBit_two_pow_add_eq, Nat.testBit_lt_two_pow h]

theorem signCode_pos (mag : Nat) : f.signCode false mag = mag := rfl

/-- What rounding needs of a format: its largest finite value is a normal number, and the codes that a rounding may give decode as they should. -/
structure Faithful (f : Fmt) : Prop where
  p_pos : 1 ≤ f.p
  max_normal : 2 ^ (f.p - 1) ≤ f.maxMag
  decode_nan : f.decode f.nanCode = .nan
  decode_inf : ∀ neg i, f.infMag = some i → (neg = true → f.signed = true) → f.decode (f.signCode neg i) = .inf neg
  decode_fin : ∀ neg mag, mag ≤ f.maxMag → (neg = true → f.signed = true ∧ (mag ≠ 0 ∨ f.negZero = true)) →
    f.decode (f.signCode neg mag) = .fin neg (f.magOf mag).1 (f.magOf mag).2 false

theorem Faithful.max_ne_zero (hf : Faithful f) : f.maxMag ≠ 0 :=
  (Nat.lt_of_lt_of_le (by positivity) hf.max_normal).ne'

theorem faithful_ieee {i : Nat} (hi : f.ieee = true) (hs : f.signed = true) (hinf : f.infMag = some i) (hp : 1 ≤ f.p)
    (hnorm : 2 ^ (f.p - 1) ≤ f.maxMag) (hmax : f.maxMag < i) (hfit : i < 2 ^ (f.width - 1)) (hnan : i < f.nanCode % 2 ^ (f.width - 1)) : Faithful f where
  p_pos := hp
  max_normal := hnorm
  decode_nan := by rw [decode_ieee hi hs hinf]; exact if_pos hnan
  decode_inf neg j hj _ := by
    obtain rfl : i = j := by simpa [hinf] using hj
    rw [decode_ieee hi hs hinf]
    simp [signCode_mod hs neg hfit, signCode_testBit hs neg hfit]
  decode_fin neg mag hmag _ := by
    have hlt : mag < 2 ^ (f.width - 1) := by omega
    rw [decode_ieee hi hs hinf]
    simp only [signCode_mod hs neg hlt, signCode_testBit hs neg hlt]
    rw [if_neg (by omega), if_neg (by omega)]

theorem decode_b8s (p : Nat) (inf : Bool) (c : Nat) :
    (b8s p inf).decode c =
      if c = 0x80 then .nan else if inf = true ∧ c % 128 = 0x7F then .inf (c.testBit 7)
      else .fin (c.testBit 7) ((b8s p inf).magOf (c % 128)).1 ((b8s p inf).magOf (c % 128)).2 false := by
  have hinf : (b8s p inf).infMag = some (c % 128) ↔ inf = true ∧ c % 128 = 0x7F := by
    cases inf <;> simp [b8s, eq_comm]
  rw [decode_binary8 rfl]
  exact ite_congr rfl (fun _ => rfl) (fun _ => ite_congr (propext hinf) (fun _ => rfl) (fun _ => rfl))

theorem decode_b8s_signCode (p : Nat) (inf neg : Bool) {mag : Nat} (h : mag < 2 ^ 7) :
    (b8s p inf).decode ((b8s p inf).signCode neg mag) =
      if neg = true ∧ mag = 0 then .nan else if inf = true ∧ mag = 0x7F then .inf neg
      else .fin neg ((b8s p inf).magOf mag).1 ((b8s p inf).magOf mag).2 false := by
  have hm : (b8s p inf).signCode neg mag % 128 = mag := signCode_mod rfl neg h
  have ht : ((b8s p inf).signCode neg mag).testBit 7 = neg := signCode_testBit rfl neg h
  have hnan : (b8s p inf).signCode neg mag = 0x80 ↔ neg = true ∧ mag = 0 := by
    cases neg <;> simp [Fmt.signCode, b8s]
    omega
  simp only [decode_b8s, hm, ht, hnan]

theorem decode_b8u (p : Nat) (inf : Bool) (c : Nat) :
    (b8u p inf).decode c =
      if c = 0xFF then .nan else if inf = true ∧ c = 0xFE then .inf false
      else .fin false ((b8u p inf).magOf c).1 ((b8u p inf).magOf c).2 false := by
  have hinf : (b8u p inf).infMag = some c ↔ inf = true ∧ c = 0xFE := by
    cases inf <;> simp [b8u, eq_comm]
  rw [decode_binary8 rfl]
  exact ite_congr rfl (fun _ => rfl) (fun _ => ite_congr (propext hinf) (fun _ => rfl) (fun _ => rfl))

theorem faithful_b8s {p : Nat} (inf : Bool) (h1 : 1 ≤ p) (h7 : p ≤ 7) : Faithful (b8s p inf) where
  p_pos := h1
  max_normal := (Nat.pow_le_pow_right two_pos (show p - 1 ≤ 6 by omega)).trans (show 64 ≤ (if inf then 0x7E else 0x7F) by cases inf <;> decide)
  decode_nan := by rw [decode_b8s]; rfl
  decode_inf neg i hi _ := by
    have hinf : inf = true ∧ i = 0x7F := by cases inf <;> simp_all [b8s]
    obtain ⟨rfl, rfl⟩ := hinf
    rw [decode_b8s_signCode _ _ _ (by decide), if_neg (by simp), if_pos ⟨rfl, rfl⟩]
  decode_fin neg mag hmag hneg := by
    have hlt : mag < 2 ^ 7 := by cases inf <;> simp [b8s] at hmag <;> omega
    have hnan : ¬ (neg = true ∧ mag = 0) := fun ⟨hn, hz⟩ => (hneg hn).2.elim (absurd hz) Bool.false_ne_true
    have hinf : ¬ (inf = true ∧ mag = 0x7F) := by
      rintro ⟨rfl, rfl⟩
      exact absurd hmag (by simp [b8s])
    rw [decode_b8s_signCode _ _ _ hlt, if_neg hnan, if_neg hinf]

theorem faithful_b8u {p : Nat} (inf : Bool) (h1 : 1 ≤ p) (h7 : p ≤ 7) : Faithful (b8u p inf) where
  p_pos := h1
  max_normal := (Nat.pow_le_pow_right two_pos (show p - 1 ≤ 6 by omega)).trans (show 64 ≤ (if inf then 0xFD else 0xFE) by cases inf <;> decide)
  decode_nan := by rw [decode_b8u]; rfl
  decode_inf neg i hi hneg := by
    have hinf : inf = true ∧ i = 0xFE := by cases inf <;> simp_all [b8u]
    obtain ⟨rfl, rfl⟩ := hinf
    obtain rfl : neg = false := by simpa [b8u] using hneg
    rw [decode_b8u]
    rfl
  decode_fin neg mag hmag hneg := by
    obtain rfl : neg = false := by simpa [b8u] using hneg
    have hnan : mag ≠ 0xFF := by
      rintro rfl
      cases inf <;> simp [b8u] at hmag
    have hinf : ¬ (inf = true ∧ mag = 0xFE) := by
      rintro ⟨rfl, rfl⟩
      exact absurd hmag (by simp [b8u])
    rw [signCode_pos, decode_b8u, if_neg hnan, if_neg hinf]

/-- A binary8 format (R67, R69). -/
def binary8 (unsigned inf : Bool) (p : Nat) : Fmt := if unsigned then b8u p inf else b8s p inf

/-- The formats of R61, R67 and R69. -/
def KnownFmt (f : Fmt) : Prop := f = fp32 ∨ f = fp16 ∨ f = bf16 ∨ ∃ u inf p, 1 ≤ p ∧ p ≤ 7 ∧ f = binary8 u inf p

theorem KnownFmt.faithful (h : KnownFmt f) : Faithful f := by
  obtain rfl | rfl | rfl | ⟨u, inf, p, h1, h7, rfl⟩ := h
  · exact faithful_ieee rfl rfl rfl (by decide) (by decide) (by decide) (by decide) (by decide)
  · exact faithful_ieee rfl rfl rfl (by decide) (by decide) (by decide) (by decide) (by decide)
  · exact faithful_ieee rfl rfl rfl (by decide) (by decide) (by decide) (by decide) (by decide)
  · cases u
    · exact faithful_b8s inf h1 h7
    · exact faithful_b8u inf h1 h7

theorem KnownFmt.nanCode_of_unsigned (h : KnownFmt f) (hs : f.signed = false) : f.nanCode = 0xFF := by
  obtain rfl | rfl | rfl | ⟨u, inf, p, -, -, rfl⟩ := h
  · cases hs
  · cases hs
  · cases hs
  · cases u
    · cases hs
    · rfl

/-! #### RoundToFormat (R64) -/

/-- The model's test for an overflow. -/
theorem above_iff {M n : Nat} {q x : Int} (hn : 2 ^ (f.p - 1) ≤ n) (hM : M ≤ 2 ^ f.p) (hp : 1 ≤ f.p) :
    (if q ≥ x then decide (M * 2 ^ (q - x).toNat > n) else false) = true ↔ ¬ AtMost M q n x := by
  rw [atMost_iff]
  split
  case isTrue h => rw [← magRat_shift M h, magRat_le_iff, decide_eq_true_eq, not_le]
  case isFalse h =>
    have hle : magRat M q ≤ magRat n x := by
      calc magRat M q ≤ magRat (2 ^ f.p) q := (magRat_le_iff _ _ q).mpr hM
        _ = magRat (2 ^ (f.p - 1)) (q + 1) := by rw [← magRat_double, ← pow_succ', Nat.sub_add_cancel hp]
        _ ≤ magRat (2 ^ (f.p - 1) * 2 ^ (x - (q + 1)).toNat) (q + 1) := (magRat_le_iff ..).mpr (Nat.le_mul_of_pos_right _ (by positivity))
        _ = magRat (2 ^ (f.p - 1)) x := magRat_shift _ (by omega)
        _ ≤ magRat n x := (magRat_le_iff ..).mpr hn
    simp [hle]

/-- Infinity, or what stands for it. -/
theorem decode_infOrLimit (hf : Faithful f) {neg : Bool} (hs : neg = true → f.signed = true) (sat : Bool) :
    f.decode (infOrLimit f neg sat).1 = (if sat then .fin neg (f.magOf f.maxMag).1 (f.magOf f.maxMag).2 false else if f.infMag.isSome then .inf neg else .nan)
      ∧ (infOrLimit f neg sat).2 = if sat then 1 else 0 := by
  have hmax := hf.max_ne_zero
  have h : (!f.signed && neg) = false := by cases neg <;> simp_all
  unfold infOrLimit
  rw [h, if_neg Bool.false_ne_true]
  cases sat
  case true => exact ⟨hf.decode_fin neg _ le_rfl fun hn => ⟨hs hn, .inl hmax⟩, rfl⟩
  case false =>
    cases hi : f.infMag with
    | some i => exact ⟨hf.decode_inf neg i hi hs, rfl⟩
    | none => exact ⟨hf.decode_nan, rfl⟩

/-- A finite value that a format can take, its sign with it. -/
theorem roundTo_finite (mode : Mode) (sat : Bool) {neg : Bool} {m : Nat} (e : Int) (hm : m ≠ 0) (hs : neg = true → f.signed = true) (hf : Faithful f) :
    let q := gridExp f m e
    let r := roundMag mode neg m e false q
    let top := f.magOf f.maxMag
    (¬ AtMost r.1 q top.1 top.2 → roundTo f mode sat (.fin neg m e false)
        = (if mode = .rtz || sat then f.signCode neg f.maxMag else (infOrLimit f neg false).1, 5))
      ∧ (AtMost r.1 q top.1 top.2 → roundTo f mode sat (.fin neg m e false)
        = (f.signCode (neg && (r.1 != 0 || f.negZero)) (f.magCode r.1 q),
            if r.2 then (if r.1 ≠ 0 ∧ f.magCode r.1 q < 2 ^ (f.p - 1) then 3 else 1) else 0)) := by
  intro q r top
  have hgrid : OnGrid f r.1 q := roundMag_onGrid hf.p_pos mode neg hm e
  have habove := above_iff (q := q) (x := top.2) (magOf_fst_normal hf.max_normal) hgrid.le hf.p_pos
  have h : (!f.signed && neg) = false := by cases neg <;> simp_all
  simp only [roundTo, beq_eq_false_iff_ne.mpr hm, Bool.false_and, Bool.false_eq_true, if_false, h]
  refine ⟨fun hover => ?_, fun hfit => ?_⟩
  · rw [if_pos (habove.mpr hover)]
    rfl
  · rw [if_neg (fun hab => habove.mp hab hfit)]
    refine Prod.ext rfl ?_
    show (if r.2 then (if (r.1 != 0 && decide (f.magCode r.1 q < 2 ^ (f.p - 1))) = true then fNX ||| fUF else fNX) else 0) = _
    simp only [Bool.and_eq_true, bne_iff_ne, decide_eq_true_eq]
    rfl

/-! #### The statement's formats (R61, R67, R69) -/

theorem fin_magOf (f : Fmt) (neg : Bool) (c : Nat) :
    FVal.fin neg (f.magOf c).1 (f.magOf c).2 false =
      if c / 2 ^ (f.p - 1) = 0 then .fin neg (c % 2 ^ (f.p - 1)) (1 - (f.bias : Int) - (f.p - 1 : Nat)) false
      else .fin neg (2 ^ (f.p - 1) + c % 2 ^ (f.p - 1)) ((c / 2 ^ (f.p - 1) : Nat) - (f.bias : Int) - (f.p - 1 : Nat)) false := by
  by_cases h : c / 2 ^ (f.p - 1) = 0 <;> simp [Fmt.magOf, Fmt.emin, h]

/-- A signed format of IEEE 754 with `k` bits of fraction and `x` of exponent. -/
def ieeeFmt (k x B maxMag nanCode : Nat) : Fmt := ⟨k + 1, B, k + x + 1, maxMag, some ((2 ^ x - 1) * 2 ^ k), nanCode, true, true, true⟩

theorem decode_ieeeFmt (k x B maxMag nanCode c : Nat) :
    let fr := c % 2 ^ k
    let ex := c / 2 ^ k % 2 ^ x
    let neg := c.testBit (k + x)
    (ieeeFmt k x B maxMag nanCode).decode c = if ex = 2 ^ x - 1 then (if fr = 0 then .inf neg else .nan)
      else if ex = 0 then .fin neg fr (1 - (B : Int) - k) false else .fin neg (2 ^ k + fr) (ex - (B : Int) - k) false := by
  intro fr ex neg
  have hmod : c % 2 ^ (k + x) % 2 ^ k = fr := Nat.mod_mod_of_dvd _ (pow_dvd_pow 2 (by omega))
  have hdiv : c % 2 ^ (k + x) / 2 ^ k = ex := by rw [pow_add, Nat.mod_mul_right_div_self]
  have hmag : c % 2 ^ (k + x) = ex * 2 ^ k + fr := by rw [← hmod, ← hdiv, Nat.div_add_mod']
  have hfr : fr < 2 ^ k := Nat.mod_lt _ (by positivity)
  have hex : ex < 2 ^ x := Nat.mod_lt _ (by positivity)
  rw [decode_ieee rfl rfl rfl]
  simp only [fin_magOf]
  simp only [ieeeFmt, Nat.add_sub_cancel, hmod, hdiv]
  rw [hmag]
  by_cases hlast : ex = 2 ^ x - 1
  · rw [if_pos hlast, hlast]
    by_cases h0 : fr = 0
    · rw [if_neg (by omega), if_pos (by omega), if_pos h0]
    · rw [if_pos (by omega), if_neg h0]
  · have hlt : ex * 2 ^ k + 2 ^ k ≤ (2 ^ x - 1) * 2 ^ k := by
      rw [← Nat.succ_mul]
      exact Nat.mul_le_mul_right _ (by omega)
    rw [if_neg hlast, if_neg (by omega), if_neg (by omega)]

theorem decode_ieee_fields : ∀ (f : Fmt) (k x B : Nat), (f, k, x, B) ∈ [(fp32, 23, 8, 127), (fp16, 10, 5, 15), (bf16, 7, 8, 127)] → ∀ c : Nat, c < 2 ^ (k + x + 1) →
    let fr := c % 2 ^ k
    let ex := c / 2 ^ k % 2 ^ x
    let neg := c.testBit (k + x)
    f.decode c = if ex = 2 ^ x - 1 then (if fr = 0 then .inf neg else .nan)
      else if ex = 0 then .fin neg fr (1 - (B : Int) - k) false else .fin neg (2 ^ k + fr) (ex - (B : Int) - k) false := by
  intro f k x B h c _
  simp only [List.mem_cons, List.not_mem_nil, or_false, Prod.mk.injEq] at h
  obtain ⟨rfl, rfl, rfl, rfl⟩ | ⟨rfl, rfl, rfl, rfl⟩ | ⟨rfl, rfl, rfl, rfl⟩ := h
  · exact decode_ieeeFmt 23 8 127 0x7F7FFFFF 0x7FC00000 c
  · exact decode_ieeeFmt 10 5 15 0x7BFF 0x7E00 c
  · exact decode_ieeeFmt 7 8 127 0x7F7F 0x7FC0 c

theorem decode_binary8_fields (unsigned inf : Bool) (p c : Nat) (hc : c < 256) :
    let w := if unsigned then 8 else 7
    let B := 2 ^ (w - p)
    let mag := c % 2 ^ w
    let fr := mag % 2 ^ (p - 1)
    let ex := mag / 2 ^ (p - 1)
    let neg := !unsigned && c.testBit 7
    (binary8 unsigned inf p).decode c = if c = (if unsigned then 0xFF else 0x80) then .nan
      else if inf = true ∧ mag = (if unsigned then 0xFE else 0x7F) then .inf neg
      else if ex = 0 then .fin neg fr (1 - (B : Int) - (p - 1 : Nat)) false else .fin neg (2 ^ (p - 1) + fr) (ex - (B : Int) - (p - 1 : Nat)) false := by
  intro w B mag fr ex neg
  cases unsigned
  case false => exact (decode_b8s p inf c).trans (by rw [fin_magOf]; rfl)
  case true =>
    have hmag : c % 2 ^ 8 = c := Nat.mod_eq_of_lt hc
    simp only [w, B, mag, fr, ex, neg, if_true, hmag]
    exact (decode_b8u p inf c).trans (by rw [fin_magOf]; rfl)

/-! #### The neighbour that a mode picks (R64, R65) -/

theorem roundMag_rtz (neg : Bool) (m : Nat) {e q : Int} (h : e < q) :
    roundMag .rtz neg m e false q = (m / 2 ^ (q - e).toNat, decide (m % 2 ^ (q - e).toNat ≠ 0)) :=
  (roundMag_between .rtz neg m h).trans (Prod.ext (if_neg (fun hup => Bool.false_ne_true hup.2)) rfl)

theorem roundMag_rne (neg : Bool) (m : Nat) {e q : Int} (h : e < q) :
    let d := (q - e).toNat
    let lo := m / 2 ^ d
    let rem := m % 2 ^ d
    roundMag .rne neg m e false q = (if 2 * rem < 2 ^ d then lo else if 2 ^ d < 2 * rem then lo + 1 else lo + lo % 2, decide (rem ≠ 0)) := by
  intro d lo rem
  have hup : roundUp .rne neg lo rem d false = true ↔ 2 ^ d < 2 * rem ∨ 2 * rem = 2 ^ d ∧ lo % 2 = 1 := by simp [roundUp]
  have hd : 0 < 2 ^ d := by positivity
  refine (roundMag_between .rne neg m h).trans (Prod.ext ?_ rfl)
  show (if rem ≠ 0 ∧ roundUp .rne neg lo rem d false = true then lo + 1 else lo) = _
  simp only [hup]
  split_ifs <;> omega

/-- The draw, f > u: on signed values a negative number goes to its smaller magnitude. -/
theorem roundUp_sto (neg : Bool) (u lo : Nat) {rem d : Nat} (h : rem < 2 ^ d) :
    roundUp (.sto u) neg lo rem d false = true ↔ if neg then ¬ u * 2 ^ d < 2 ^ 24 * (2 ^ d - rem) else u * 2 ^ d < 2 ^ 24 * rem := by
  cases neg
  case false => simp [roundUp, mul_comm]
  case true =>
    simp only [roundUp, if_true, Bool.false_eq_true, if_false, Bool.not_eq_true', decide_eq_false_iff_not, not_iff_not, Nat.mul_sub]
    rw [Nat.mul_comm (2 ^ d) u, Nat.mul_comm rem, Nat.mul_comm (2 ^ d)]
    omega

theorem roundMag_sto (neg : Bool) (m u : Nat) {e q : Int} (h : e < q) :
    let d := (q - e).toNat
    let lo := m / 2 ^ d
    let rem := m % 2 ^ d
    roundMag (.sto u) neg m e false q = (if rem = 0 then lo
      else if neg then (if u * 2 ^ d < 2 ^ 24 * (2 ^ d - rem) then lo else lo + 1) else (if u * 2 ^ d < 2 ^ 24 * rem then lo + 1 else lo), decide (rem ≠ 0)) := by
  intro d lo rem
  have hrem : rem < 2 ^ d := Nat.mod_lt _ (by positivity)
  refine (roundMag_between (.sto u) neg m h).trans (Prod.ext ?_ rfl)
  show (if rem ≠ 0 ∧ roundUp (.sto u) neg lo rem d false = true then lo + 1 else lo) = _
  simp only [roundUp_sto neg u lo hrem]
  by_cases h0 : rem = 0
  · simp [h0]
  · cases neg <;> simp only [h0, ne_eq, not_false_eq_true, true_and, if_true, if_false, Bool.false_eq_true, ite_not]

/-! #### The rounded value (R63, R64) -/

theorem atMost_of_eq {m n : Nat} {a b : Int} (h : magRat m a = magRat n b) : AtMost m a n b := (atMost_iff ..).mpr h.le

theorem roundTo_fits (hk : KnownFmt f) (mode : Mode) (sat : Bool) {neg : Bool} {m : Nat} (e : Int) (hm : m ≠ 0) (hs : f.signed = true ∨ neg = false) :
    let q := gridExp f m e
    let r := roundMag mode neg m e false q
    let top := f.magOf f.maxMag
    let c := roundTo f mode sat (.fin neg m e false)
    AtMost r.1 q top.1 top.2 → ∃ neg1 n x, f.decode c.1 = .fin neg1 n x false ∧ AtMost r.1 q n x ∧ AtMost n x r.1 q
      ∧ (neg1 = (neg && (r.1 != 0 || f.negZero)))
      ∧ c.2 = if r.2 = false then 0 else if r.1 ≠ 0 ∧ n < 2 ^ (f.p - 1) then 3 else 1 := by
  intro q r top c hfit
  have hf := hk.faithful
  have hsign : neg = true → f.signed = true := fun hn => hs.resolve_right (by simp [hn])
  have hgrid : OnGrid f r.1 q := roundMag_onGrid hf.p_pos mode neg hm e
  have hc : c = _ := (roundTo_finite mode sat e hm hsign hf).2 hfit
  have hmag : codeMag f (f.magCode r.1 q) = magRat r.1 q := codeMag_magCode hf.p_pos hgrid
  have hle : f.magCode r.1 q ≤ f.maxMag := (magCode_le_iff hf.p_pos hgrid _).mpr ((atMost_iff ..).mp hfit)
  refine ⟨_, _, _, ?decoded, atMost_of_eq hmag.symm, atMost_of_eq hmag, rfl, ?flags⟩
  case decoded =>
    rw [hc]
    refine hf.decode_fin _ _ hle fun hneg => ?_
    obtain ⟨hn, hz⟩ : neg = true ∧ (r.1 ≠ 0 ∨ f.negZero = true) := by simpa using hneg
    exact ⟨hsign hn, hz.imp_left (magCode_ne_zero hf.p_pos hgrid)⟩
  case flags =>
    rw [hc]
    simp only [magOf_fst_lt_iff]
    cases r.2 <;> rfl

theorem roundTo_overflows (hk : KnownFmt f) (mode : Mode) (sat : Bool) {neg : Bool} {m : Nat} (e : Int) (hm : m ≠ 0) (hs : f.signed = true ∨ neg = false) :
    let q := gridExp f m e
    let r := roundMag mode neg m e false q
    let top := f.magOf f.maxMag
    let c := roundTo f mode sat (.fin neg m e false)
    ¬ AtMost r.1 q top.1 top.2 → c.2 = 5
      ∧ f.decode c.1 = if mode = .rtz ∨ sat = true then .fin neg top.1 top.2 false else if f.infMag.isSome then .inf neg else .nan := by
  intro q r top c hover
  have hf := hk.faithful
  have hsign : neg = true → f.signed = true := fun hn => hs.resolve_right (by simp [hn])
  have hc : c = _ := (roundTo_finite mode sat e hm hsign hf).1 hover
  refine ⟨by rw [hc], ?_⟩
  rw [hc]
  by_cases hlim : mode = .rtz ∨ sat = true
  · rw [if_pos hlim, if_pos (by simpa using hlim)]
    exact hf.decode_fin neg _ le_rfl fun hn => ⟨hsign hn, .inl hf.max_ne_zero⟩
  · rw [if_neg hlim, if_neg (by simpa using hlim)]
    exact (decode_infOrLimit hf hsign false).1

/-- A negative value into an unsigned format. -/
theorem roundTo_unsigned_negative (hk : KnownFmt f) (hs : f.signed = false) (mode : Mode) (sat : Bool) {m : Nat} (e : Int) (hm : m ≠ 0) :
    roundTo f mode sat (.fin true m e false)
      = if (roundMag mode false m e false (gridExp f m e)).1 = 0 then (0, 1) else if sat then (0, 17) else (0xFF, 16) := by
  simp [roundTo, infOrLimit, hm, hs, hk.nanCode_of_unsigned hs]
  rfl

theorem roundTo_fzero (f : Fmt) (mode : Mode) (sat neg : Bool) : roundTo f mode sat (fzero neg) = (f.signCode (neg && f.negZero) 0, 0) := rfl

/-! #### Conversion to integers (R66) -/

theorem roundToInt_finite (w : Nat) (sgn : Bool) (mode : Mode) (neg : Bool) (m : Nat) (e : Int) :
    let lo : Int := if sgn then -(2 ^ (w - 1) : Nat) else 0
    let hi : Int := if sgn then (2 ^ (w - 1) : Nat) - 1 else (2 ^ w : Nat) - 1
    let r := roundMag mode neg m e false 0
    let z : Int := if neg then -(r.1 : Int) else r.1
    let lim := max lo (min hi z)
    roundToInt w sgn mode (.fin neg m e false) = (wrap w lim, if lim ≠ z then 17 else if r.2 then 1 else 0) := by
  intro lo hi r z lim
  have hlohi : lo ≤ hi := by
    have h1 : 0 < 2 ^ (w - 1) := by positivity
    have h2 : 0 < 2 ^ w := by positivity
    cases sgn <;> simp only [lo, hi, if_true, Bool.false_eq_true, if_false] <;> omega
  show (if z > hi then (wrap w hi, 17) else if z < lo then (wrap w lo, 17) else (wrap w z, if r.2 then 1 else 0)) = _
  rcases lt_or_ge hi z with hz | hz
  · have hlim : lim = hi := by omega
    rw [if_pos hz, hlim, if_pos hz.ne]
  · rw [if_neg (not_lt.mpr hz)]
    rcases lt_or_ge z lo with hz' | hz'
    · have hlim : lim = lo := by omega
      rw [if_pos hz', hlim, if_pos hz'.ne']
    · have hlim : lim = z := by omega
      rw [if_neg (not_lt.mpr hz'), hlim, if_neg (not_not.mpr rfl)]

end formats

/-! #### Exact operations (R62, R63, R71) -/

theorem scaled_eq (n : Bool) (m : Nat) (e e' : Int) : scaled n m e e' = (if n then -1 else 1) * (m * 2 ^ (e - e').toNat) := by
  cases n <;> simp [scaled]

theorem fAdd_finite (n1 : Bool) (m1 : Nat) (e1 : Int) (n2 : Bool) (m2 : Nat) (e2 : Int) :
    let e := min e1 e2
    let sum : Int := (if n1 then -1 else 1) * (m1 * 2 ^ (e1 - e).toNat) + (if n2 then -1 else 1) * (m2 * 2 ^ (e2 - e).toNat)
    fAdd (.fin n1 m1 e1 false) (.fin n2 m2 e2 false)
      = (if sum = 0 then fzero (decide (n1 = true ∧ n2 = true ∧ m1 = 0 ∧ m2 = 0)) else .fin (decide (sum < 0)) sum.natAbs e false, 0) := by
  intro e sum
  have hsign : (n1 && n2 && m1 == 0 && m2 == 0) = decide (n1 = true ∧ n2 = true ∧ m1 = 0 ∧ m2 = 0) := by
    rw [Bool.eq_iff_iff]
    simp [and_assoc]
  simp only [fAdd, finAdd, scaled_eq, hsign]
  rfl

theorem fDiv_finite {m1 m2 : Nat} (h1 : m1 ≠ 0) (h2 : m2 ≠ 0) (n1 : Bool) (e1 : Int) (n2 : Bool) (e2 : Int) :
    ∃ k n st, fDiv (.fin n1 m1 e1 false) (.fin n2 m2 e2 false) = (.fin (n1 != n2) n (e1 - e2 - (k : Nat)) st, 0) ∧ 200 ≤ k
      ∧ n * m2 ≤ m1 * 2 ^ k ∧ m1 * 2 ^ k < (n + 1) * m2 ∧ (st = true ↔ n * m2 ≠ m1 * 2 ^ k) := by
  refine ⟨200 + bitLen m2, m1 * 2 ^ (200 + bitLen m2) / m2, m1 * 2 ^ (200 + bitLen m2) % m2 != 0, ?_, by omega, Nat.div_mul_le_self _ _, ?_, ?_⟩
  · simp [fDiv, divMag, h1, h2]
  · rw [Nat.mul_comm _ m2]
    exact Nat.lt_mul_div_succ _ (Nat.pos_of_ne_zero h2)
  · exact bne_iff_ne.trans (not_congr ((Nat.dvd_iff_mod_eq_zero ..).symm.trans (Nat.dvd_iff_div_mul_eq ..)))

/-- The places by which VSQRT shifts its operand, so that the exponent left is even. -/
def sqrtShift (e : Int) : Nat := if (e - 200) % 2 = 0 then 200 else 201

theorem sqrtShift_spec (e : Int) : 2 * ((e - sqrtShift e) / 2) + sqrtShift e = e ∧ 200 ≤ sqrtShift e := by
  unfold sqrtShift
  split <;> omega

theorem fSqrt_finite {m : Nat} (h : m ≠ 0) (e : Int) :
    ∃ k n x st, fSqrt (.fin false m e false) = (.fin false n x st, 0) ∧ 2 * x + (k : Nat) = e ∧ 200 ≤ k ∧ n * n ≤ m * 2 ^ k ∧ m * 2 ^ k < (n + 1) * (n + 1)
      ∧ (st = true ↔ n * n ≠ m * 2 ^ k) := by
  obtain ⟨hexp, hk⟩ := sqrtShift_spec e
  obtain ⟨hlo, hhi⟩ := isqrt_spec (m * 2 ^ sqrtShift e)
  refine ⟨sqrtShift e, isqrt (m * 2 ^ sqrtShift e), (e - sqrtShift e) / 2, _, ?_, hexp, hk, hlo, hhi, bne_iff_ne⟩
  simp [fSqrt, h, sqrtShift]

/-- The exponent of the power of two that VRSQ divides by its operand. -/
def rsqShift (m : Nat) (e : Int) : Nat := 300 + bitLen m + (if (e + 300 + bitLen m) % 2 = 0 then 0 else 1)

theorem rsqShift_spec (m : Nat) (e : Int) : 2 * (-(e + rsqShift m e) / 2) + rsqShift m e = -e ∧ 300 ≤ rsqShift m e := by
  unfold rsqShift
  split <;> omega

theorem fRsq_finite {m : Nat} (h : m ≠ 0) (e : Int) :
    ∃ k n x st, fRsq (.fin false m e false) = (.fin false n x st, 0) ∧ 2 * x + (k : Nat) = -e ∧ 300 ≤ k ∧ n * n * m ≤ 2 ^ k ∧ 2 ^ k < (n + 1) * (n + 1) * m
      ∧ (st = true ↔ n * n * m ≠ 2 ^ k) := by
  obtain ⟨hexp, hk⟩ := rsqShift_spec m e
  obtain ⟨hlo, hhi⟩ := isqrt_spec (2 ^ rsqShift m e / m)
  have hm : 0 < m := Nat.pos_of_ne_zero h
  refine ⟨rsqShift m e, isqrt (2 ^ rsqShift m e / m), -(e + rsqShift m e) / 2, _, ?_, hexp, hk,
    (Nat.le_div_iff_mul_le hm).mp hlo, (Nat.div_lt_iff_lt_mul hm).mp hhi, bne_iff_ne⟩
  simp [fRsq, h, rsqShift]

theorem fLog2_two_pow (k : Nat) (e : Int) : fLog2 (.fin false (2 ^ k) e false) = (.fin (decide (e + k < 0)) (e + k).natAbs 0 false, 0) := by
  have hE : e + ((k + 1 : Nat) : Int) - 1 = e + k := by omega
  have hpow : ¬ 2 ^ k = 0 := by positivity
  simp only [fLog2, FVal.ofInt, bitLen_two_pow, hE, Nat.add_sub_cancel, beq_self_eq_true, if_true, beq_iff_eq, hpow, if_false, Bool.false_eq_true]

theorem fExp2_integer {k : Nat} (hk : k < 2048) (neg : Bool) : fExp2 (.fin neg k 0 false) = (.fin false 1 (if neg then -(k : Int) else k) false, 0) := by
  have hlen : bitLen k ≤ 12 := (bitLen_le_iff k 12).mpr (by omega)
  by_cases h0 : k = 0
  · subst h0
    cases neg <;> rfl
  · simp [fExp2, h0, scaled, not_lt.mpr hlen]

/-! #### Accumulation (R73) -/

theorem align96_eq (alsb : Int) (neg : Bool) (m : Nat) (x : Int) :
    let z : Int := if neg then -(m : Int) else m
    align96 alsb neg m x = if alsb ≤ x then z * 2 ^ (x - alsb).toNat else z / 2 ^ (alsb - x).toNat := by
  simp [align96]

/-- A value held between the bounds of a signed number. -/
def limit (n : Nat) (v : Int) : Int := max (-(2 ^ n)) (min (2 ^ n - 1) v)

theorem limit_eq_iff (n : Nat) (v : Int) : limit n v = v ↔ -(2 ^ n) ≤ v ∧ v ≤ 2 ^ n - 1 := by
  have : (0 : Int) < 2 ^ n := by positivity
  unfold limit
  omega

theorem toInt_limit_95 (v : Int) : (BitVec.ofInt 96 (limit 95 v)).toInt = limit 95 v := by
  rw [BitVec.toInt_ofInt, Int.bmod_eq_of_le] <;> simp [limit]

theorem accumulate_finite (alsb : Int) (e : Elem) (neg : Bool) (m : Nat) (x : Int) (st : Bool) (h3 : e.s ≠ 3) (h2 : e.s ≠ 2) :
    let q := align96 alsb neg m x
    let sum := e.v.toInt + limit 80 q
    accumulate alsb { e := e, prange := false, ovf := false } (.fin neg m x st)
      = { e := { v := BitVec.ofInt 96 (limit 95 sum), s := if limit 95 sum = sum then e.s else 1 },
          prange := decide (limit 80 q ≠ q), ovf := decide (limit 95 sum ≠ sum) } := by
  intro q sum
  have hq : (decide (q > (2 ^ 80 : Nat) - 1) || decide (q < -(2 ^ 80 : Nat))) = decide (limit 80 q ≠ q) := by
    rw [← Bool.decide_or, decide_eq_decide, Ne, limit_eq_iff]
    push_cast
    omega
  have hsum : (decide (sum > accMax) || decide (sum < accMin)) = decide (limit 95 sum ≠ sum) := by
    rw [← Bool.decide_or, decide_eq_decide, Ne, limit_eq_iff, accMax, accMin]
    push_cast
    omega
  show (if e.s = stNan then _ else if e.s = stInf then _ else _) = _
  rw [if_neg (show e.s ≠ stNan from h3), if_neg (show e.s ≠ stInf from h2)]
  show AccRes.mk ⟨BitVec.ofInt 96 (limit 95 sum), if (decide (sum > accMax) || decide (sum < accMin)) = true then 1 else e.s⟩
    (false || (decide (q > (2 ^ 80 : Nat) - 1) || decide (q < -(2 ^ 80 : Nat)))) (false || (decide (sum > accMax) || decide (sum < accMin))) = _
  simp only [hq, hsum, Bool.false_or, decide_eq_true_eq, ite_not]

/-- An element that is NaN stays as it is. -/
theorem accumulate_nan_state (alsb : Int) {r : AccRes} (h : r.e.s = 3) (p : FVal) : accumulate alsb r p = r := if_pos h

theorem accumulate_nan (alsb : Int) {r : AccRes} (h : r.e.s ≠ 3) : (accumulate alsb r .nan).e.s = 3 :=
  congrArg (fun r : AccRes => r.e.s) (if_neg h)

/-- No finite product changes an infinite element. -/
theorem accumulate_inf_state (alsb : Int) {r : AccRes} (h : r.e.s = 2) (neg : Bool) (m : Nat) (x : Int) (st : Bool) :
    accumulate alsb r (.fin neg m x st) = r := by
  unfold accumulate
  rw [if_neg (show r.e.s ≠ stNan by rw [h]; decide)]
  exact if_pos h

theorem accumulate_inf_of_finite (alsb : Int) {r : AccRes} (h3 : r.e.s ≠ 3) (h2 : r.e.s ≠ 2) (neg : Bool) :
    (accumulate alsb r (.inf neg)).e.s = 2 ∧ (accumulate alsb r (.inf neg)).e.v.msb = neg := by
  have hacc : accumulate alsb r (.inf neg) = { r with e := { v := BitVec.ofInt 96 (if neg then accMin else accMax), s := stInf } } := by
    unfold accumulate
    rw [if_neg (show r.e.s ≠ stNan from h3)]
    exact if_neg h2
  rw [hacc]
  refine ⟨rfl, ?_⟩
  show (BitVec.ofInt 96 (if neg then accMin else accMax)).msb = neg
  cases neg <;> decide

theorem accumulate_inf_of_opposite (alsb : Int) {r : AccRes} (h2 : r.e.s = 2) {neg : Bool} (hneg : r.e.v.msb ≠ neg) :
    (accumulate alsb r (.inf neg)).e.s = 3 := by
  have hsign : (decide (r.e.v.toInt < 0) != neg) = true := by rwa [← BitVec.msb_eq_toInt, bne_iff_ne]
  unfold accumulate
  rw [if_neg (show r.e.s ≠ stNan by rw [h2]; decide)]
  simp only [h2, hsign, stInf, if_true, stNan]

/-! #### Infinities, zeros and NaNs of the exact operations (R62, R63, R71) -/

theorem special_operands (neg : Bool) : fSqrt (fzero neg) = (fzero neg, 0) ∧ fRsq (fzero neg) = (.inf neg, 8) ∧ fLog2 (fzero neg) = (.inf true, 8)
    ∧ fSqrt (.inf neg) = (if neg then (.nan, 16) else (.inf false, 0)) ∧ fRsq (.inf neg) = (if neg then (.nan, 16) else (fzero false, 0))
    ∧ fLog2 (.inf neg) = (if neg then (.nan, 16) else (.inf false, 0)) ∧ fExp2 (.inf neg) = (if neg then fzero false else .inf false, 0)
    ∧ fRcp (.inf neg) = (fzero neg, 0) := by
  cases neg <;> exact ⟨rfl, rfl, rfl, rfl, rfl, rfl, rfl, rfl⟩

theorem infinite_operands (neg n : Bool) : fDiv (.inf neg) (.inf n) = (.nan, 16) ∧ fAdd (.inf neg) (.inf n) = (if neg = n then (.inf n, 0) else (.nan, 16))
    ∧ fMul (.inf neg) (fzero n) = (.nan, 16) ∧ fMul (fzero n) (.inf neg) = (.nan, 16) ∧ fMul (.inf neg) (.inf n) = (.inf (neg != n), 0) := by
  cases neg <;> cases n <;> exact ⟨rfl, rfl, rfl, rfl, rfl⟩

theorem divide_by_zero {m : Nat} (h : m ≠ 0) (n1 : Bool) (e : Int) (n2 : Bool) :
    fDiv (.fin n1 m e false) (fzero n2) = (.inf (n1 != n2), 8) ∧ fDiv (fzero n1) (fzero n2) = (.nan, 16) ∧ fRcp (fzero n2) = (.inf n2, 8) := by
  refine ⟨?_, rfl, ?_⟩
  · simp [fDiv, fzero, h, fDZ]
  · cases n2 <;> rfl

theorem root_of_negative {m : Nat} (h : m ≠ 0) (e : Int) :
    fSqrt (.fin true m e false) = (.nan, 16) ∧ fRsq (.fin true m e false) = (.nan, 16) ∧ fLog2 (.fin true m e false) = (.nan, 16) := by
  simp [fSqrt, fRsq, fLog2, h, fIV]

theorem nan_operand (x : FVal) : fAdd .nan x = (.nan, 0) ∧ fAdd x .nan = (.nan, 0) ∧ fMul .nan x = (.nan, 0) ∧ fMul x .nan = (.nan, 0)
    ∧ fDiv .nan x = (.nan, 0) ∧ fDiv x .nan = (.nan, 0) := by
  cases x <;> exact ⟨rfl, rfl, rfl, rfl, rfl, rfl⟩

theorem isNan_iff (x : FVal) : x.isNan = true ↔ x = .nan := by
  cases x <;> simp [FVal.isNan]

theorem fFma_nan {x y z : FVal} (h : x = .nan ∨ y = .nan ∨ z = .nan) : fFma x y z = (.nan, 0) :=
  if_pos (by simpa [isNan_iff, or_assoc] using h)

theorem fMul_invalid {x y : FVal} (hx : x ≠ .nan) (hy : y ≠ .nan) (h : (fMul x y).1 = .nan) : fMul x y = (.nan, 16) := by
  have nan_of {zero neg : Bool} (h : (if zero then ((.nan, fIV) : FVal × Flags) else (.inf neg, 0)).1 = .nan) :
      (if zero then ((.nan, fIV) : FVal × Flags) else (.inf neg, 0)) = (.nan, 16) := by
    cases zero
    case false => exact nomatch h
    case true => rfl
  match x, y, hx, hy, h with
  | .inf _, .inf _, _, _, h => exact nan_of h
  | .inf _, .fin .., _, _, h => exact nan_of h
  | .fin .., .inf _, _, _, h => exact nan_of h

theorem fFma_of_numbers {x y z : FVal} (hx : x ≠ .nan) (hy : y ≠ .nan) (hz : z ≠ .nan) :
    fFma x y z = if (fMul x y).1 = .nan then (.nan, 16) else fAdd (fMul x y).1 z := by
  unfold fFma
  rw [if_neg (by simp [isNan_iff, hx, hy, hz])]
  by_cases h : (fMul x y).1 = .nan
  · rw [if_pos h, ← fMul_invalid hx hy h]
    exact if_pos ((isNan_iff _).mpr h)
  · rw [if_neg h]
    exact if_neg (mt (isNan_iff _).mp h)

/-! #### The obligation -/

/-- Settles O43. A rounding answers a code of the grid whose value is the rounded magnitude (`roundTo_fits`), or overflows (`roundTo_overflows`);
the exact operations and the accumulation are compared with the integers of the rules. -/
theorem accumulation : Obligations.Accumulation := by
  unfold Obligations.Accumulation
  intro _ _ _
  refine ⟨⟨fun inf p => ⟨rfl, rfl, rfl, rfl, rfl, rfl, rfl, rfl⟩, decode_ieee_fields⟩, ?binary8, ?exact, ?between, ?finite, ?unsigned, ?special, ?integer,
    ?arithmetic, ?operands, ?nans, fun x z w hx hz hw => fFma_of_numbers hx hz hw, ?acc⟩
  case binary8 => exact fun unsigned inf p c _ _ hc => decode_binary8_fields unsigned inf p c hc
  case exact => exact fun m e q neg h mode => roundMag_exact mode neg m h
  case between => exact fun m e q neg h => ⟨roundMag_rtz neg m h, roundMag_rne neg m h, fun u => roundMag_sto neg m u h⟩
  case finite => exact fun f mode sat neg m e hk hm hs => ⟨roundTo_fits hk mode sat e hm hs, roundTo_overflows hk mode sat e hm hs⟩
  case unsigned => exact fun f mode sat m e hk hs hm => roundTo_unsigned_negative hk hs mode sat e hm
  case special =>
    intro f mode sat hk
    have hf : Faithful f := KnownFmt.faithful hk
    exact ⟨rfl, hf.decode_nan, roundTo_fzero f mode sat, fun neg hs => decode_infOrLimit hf (fun hn => hs.resolve_right (by simp [hn])) sat⟩
  case integer => exact fun w sgn mode neg m e _ => ⟨rfl, rfl, rfl, roundToInt_finite w sgn mode neg m e⟩
  case arithmetic =>
    intro n1 m1 e1 n2 m2 e2
    exact ⟨fAdd_finite n1 m1 e1 n2 m2 e2, rfl, fun h1 h2 => fDiv_finite h1 h2 n1 e1 n2 e2, fun h1 => divide_by_zero h1 n1 e1 n2,
      fun h1 => ⟨fSqrt_finite h1 e1, fRsq_finite h1 e1, root_of_negative h1 e1⟩⟩
  case operands =>
    intro neg k e
    obtain ⟨hsqrt, hrsq, hlog, hsqrtInf, hrsqInf, hlogInf, hexpInf, hrcpInf⟩ := special_operands neg
    exact ⟨hsqrt, hrsq, hlog, hsqrtInf, hrsqInf, hlogInf, hexpInf, hrcpInf, infinite_operands neg, fLog2_two_pow k e, fun hk => fExp2_integer hk neg⟩
  case nans =>
    intro x
    obtain ⟨hadd, hadd', hmul, hmul', hdiv, hdiv'⟩ := nan_operand x
    exact ⟨rfl, rfl, rfl, rfl, hadd, hadd', hmul, hmul', hdiv, hdiv',
      fun z => ⟨fFma_nan (.inl rfl), fFma_nan (.inr (.inl rfl)), fFma_nan (.inr (.inr rfl))⟩⟩
  case acc =>
    intro alsb e neg m x st r0 z q lim sum
    refine ⟨fun h3 h2 => ?finite, fun h3 v => accumulate_nan_state alsb h3 v, fun h3 => accumulate_nan alsb h3, fun h2 => accumulate_inf_state alsb h2 neg m x st,
      fun h3 h2 => accumulate_inf_of_finite alsb h3 h2 neg, fun h2 hneg => accumulate_inf_of_opposite alsb h2 hneg⟩
    have hq : align96 alsb neg m x = q := align96_eq alsb neg m x
    have hacc := accumulate_finite alsb e neg m x st h3 h2
    rw [hq] at hacc
    intro r
    rw [show r = _ from hacc]
    exact ⟨toInt_limit_95 sum, rfl, rfl, rfl⟩

end Sys2Proof

namespace Sys2Proof
open Sys2Proof.Machine

/-! ### What reset leaves (O60) -/

/-- Settles O60: the state after reset is written out, and what it lists nowhere reads as its default. -/
theorem resetState : Obligations.ResetState := by
  refine ⟨MemoryCanonical.reset, rfl, rfl, rfl, fun _ => rfl, fun _ _ => ⟨rfl, rfl⟩, fun n b => ?_, fun _ => rfl, rfl, rfl, rfl,
    fun _ => ⟨rfl, rfl⟩, rfl, rfl, rfl, rfl, rfl, rfl, rfl, rfl, rfl, rfl, rfl, rfl, rfl⟩
  show Core.reset.task? b = none
  unfold Core.task?
  split
  · rfl
  · rfl

end Sys2Proof

/-! ### Every step keeps every memory canonical (O59)

Only HBM and the scratchpads are memories, and a store keeps the form (`MemoryCanonical.performStore`). For each function of
the model that returns a state there is one lemma, in the order of the model, named after the function; `exec_canonical` puts the instructions and the events
together, and the obligation follows for a turn. -/

namespace Sys2Proof.Machine

/-- What a body leaves is canonical, and so is what the rest of its instruction makes of it. -/
def Res.Canonical : Res → Prop
  | .ok s | .wait _ _ _ _ s | .trap _ _ _ s | .halt s | .software _ s | .more s => MemoryCanonical s
  | .after s act => MemoryCanonical s ∧ ∀ x, MemoryCanonical x → MemoryCanonical (act x)
  | .stop _ => True

/-- What a reflected store leaves is canonical. -/
def TxRes.Canonical : TxRes → Prop
  | .sent s | .deadPeer _ s => MemoryCanonical s
  | .stall => True

end Sys2Proof.Machine

namespace Sys2Proof

open Sys2Proof.Machine

/-- What an outcome goes on with is canonical. -/
def NextCanonical : Host.Outcome State Fault Refusal → Prop
  | .next s => MemoryCanonical s
  | _ => True

section canonical
variable {s : State}

theorem MemoryCanonical.ite_fst {α : Type} {a b : State × α} {c : Prop} [Decidable c] (ha : MemoryCanonical a.1) (hb : MemoryCanonical b.1) :
    MemoryCanonical (if c then a else b).1 := by
  split
  · exact ha
  · exact hb

theorem NextCanonical.ite {a b : Host.Outcome State Fault Refusal} {c : Prop} [Decidable c] (ha : NextCanonical a) (hb : NextCanonical b) :
    NextCanonical (if c then a else b) := by
  split
  · exact ha
  · exact hb

theorem Machine.Res.Canonical.ite {a b : Res} {c : Prop} [Decidable c] (ha : a.Canonical) (hb : b.Canonical) : (if c then a else b).Canonical := by
  split
  · exact ha
  · exact hb

/-- A state with the same HBM and the same cores. -/
theorem MemoryCanonical.of_fields {s' : State} (h : MemoryCanonical s) (hh : s'.hbm = s.hbm) (hc : s'.cores = s.cores) : MemoryCanonical s' :=
  h.of_same hh (fun _ => by rw [State.core, hc]; rfl)

theorem MemoryCanonical.ite {a b : State} {c : Prop} [Decidable c] (ha : MemoryCanonical a) (hb : MemoryCanonical b) :
    MemoryCanonical (if c then a else b) := by
  split
  · exact ha
  · exact hb

variable (h : MemoryCanonical s)
include h

/-! #### The ring and flits -/

theorem MemoryCanonical.ringTable {t : SorStep} {sealer : Option Nat} {off : Nat} {r : BitVec 256} : MemoryCanonical (ringTable s t sealer off r) := by
  unfold Machine.ringTable
  dsimp only
  split
  · exact .ite (h.ringWrite _ _) (.ite h h)
  · split
    · split
      · exact h
      · exact .ite h (.ite h (.ite h (h.ringWrite _ _)))
    · split
      · exact h
      · exact .ite h (h.ringWrite _ _)

theorem MemoryCanonical.reviewStep {n : Nat} : MemoryCanonical (reviewStep s n) := by
  unfold Machine.reviewStep
  split
  · exact h
  · next t _ =>
    have hw : ∀ x : Sorus, MemoryCanonical { s with sorus := x } := fun _ => h
    exact MemoryCanonical.ite (MemoryCanonical.fold _ (fun _ _ k => k.ringTable) _ _ (hw _)) (hw _)

omit h in
theorem MemoryCanonical.review {s : State} (h : MemoryCanonical s) {n : Nat} : MemoryCanonical (review n s) := by
  induction n generalizing s with
  | zero => exact h
  | succ n ih =>
    have k := MemoryCanonical.fold (fun s t => Machine.reviewStep s t.step) (fun _ _ k => k.reviewStep) s.sorus.steps s h
    exact .ite k (ih k)

theorem MemoryCanonical.openStep {n : Nat} : MemoryCanonical (openStep s n) := by
  unfold Machine.openStep
  dsimp only
  split
  · exact h
  · split
    · exact h
    · have hw : ∀ x : Sorus, MemoryCanonical { s with sorus := x } := fun _ => h
      exact ((hw _).clearHbm _ _).clearHbm _ _

theorem MemoryCanonical.ringArrive {off : Nat} {r : BitVec 256} {direct : Option Nat} : MemoryCanonical (ringArrive s off r direct) := by
  unfold Machine.ringArrive
  refine .ite h ?_
  dsimp only
  split
  · exact h.openStep
  · exact .ite h.openStep h.openStep.ringTable.review

theorem MemoryCanonical.ringFlit {off sender : Nat} {mask : BitVec 64} {data : BitVec 512} : MemoryCanonical (ringFlit s off mask data sender) :=
  MemoryCanonical.fold _ (fun _ _ k => by exact .ite k (.ite k.ringArrive k)) _ _ h

theorem MemoryCanonical.landWindow {src path rx off : Nat} {ack : Bool} {mask : BitVec 64} {data : BitVec 512} {order : List Nat} :
    MemoryCanonical (landWindow s src path rx off ack mask data order) :=
  .ite (.ite (h.ringFlit.say _) h.ringFlit) h

theorem MemoryCanonical.loopBack {f : Flit} : MemoryCanonical (loopBack s f) := .ite h.landWindow h

theorem MemoryCanonical.departCopy {fid i port : Nat} : MemoryCanonical (departCopy s fid i port) := by
  unfold Machine.departCopy
  split
  · exact h
  · exact .ite ((h.say _).mapFlits _ _).loopBack ((h.say _).mapFlits _ _)

theorem MemoryCanonical.departAll {p : Flit → Bool} : MemoryCanonical (departAll s p) := by
  refine MemoryCanonical.fold _ (fun s f hs => MemoryCanonical.fold _ (fun s i hs => ?_) _ _ hs) _ _ h
  dsimp only
  split
  · exact .ite (hs.serveWheel _ _).departCopy hs
  · exact hs

theorem MemoryCanonical.moveFlits {core bank dst : Nat} : MemoryCanonical (s.moveFlits core bank dst) := h.mapFlits _ _

theorem MemoryCanonical.txStore {core bank id part addr : Nat} {q : SeqId} {ps : List (Nat × Byte)} :
    (txStore s core bank q id part addr ps).Canonical := by
  unfold Machine.txStore
  split
  · exact trivial
  · dsimp only
    split
    · exact h.setTx _ _
    · split
      · exact h.mapFlits _ _
      · split
        · exact trivial
        · have k := fun m l (n : List Flit × Nat) => (h.mapFlits m l).of_fields (s' := { s.mapFlits m l with flits := n.1, nextFlit := n.2 }) rfl rfl
          exact .ite (k _ _ (_, _)).loopBack (k _ _ (_, _))

/-! #### Results, stores and loads of a sequencer -/

theorem MemoryCanonical.readPiece {core bank : Nat} {q : SeqId} {x : LoadAt} : MemoryCanonical (readPiece s core bank q x) := by
  unfold Machine.readPiece
  split
  · exact h
  · split
    · exact h
    · have k := fun n p m => (h.drainAt core bank q x.id p m).served n p
      dsimp only
      split
      · exact k _ _ _
      · exact (k _ _ _).setTask _ _ _

theorem MemoryCanonical.readAll {core bank : Nat} {q : SeqId} {p : Pend → Bool} : MemoryCanonical (readAll s core bank q p) := by
  unfold Machine.readAll
  split
  · exact h
  · exact MemoryCanonical.fold _ (fun _ _ k => MemoryCanonical.fold _ (fun _ _ k => k.readPiece) _ _ k) _ _ h

theorem MemoryCanonical.settle {core bank : Nat} {q : SeqId} : MemoryCanonical (settle s core bank q) := by
  unfold Machine.settle
  split
  · exact h
  · exact h.setTask _ _ _

theorem MemoryCanonical.settleAll {core bank : Nat} : MemoryCanonical (settleAll s core bank) :=
  MemoryCanonical.fold _ (fun _ _ k => k.settle) _ _ h

theorem MemoryCanonical.queueChained {id chain : Nat} {p : Place} {bs : List (Option Byte)} {upd : Option ScUpdate} {whole : Bool} :
    MemoryCanonical (queueChained s id p bs upd chain whole) := h.setMe _

/-! #### The consistent cut -/

theorem MemoryCanonical.dropLaunch {core bank : Nat} {t : Task} : MemoryCanonical (dropLaunch s core bank t) := by
  unfold Machine.dropLaunch
  split
  · exact h
  · exact h.setPart _ _

theorem MemoryCanonical.drainSeq {core bank : Nat} {q : SeqId} : MemoryCanonical (drainSeq s core bank q) := by
  unfold Machine.drainSeq
  have k := h.readAll (core := core) (bank := bank) (q := q) (p := fun _ => true)
  dsimp only
  split
  · exact k
  · split
    · exact k.performStores _
    · exact ((k.performStores _).setTask _ _ _).settle

theorem MemoryCanonical.cutSeq {core bank : Nat} {q : SeqId} : MemoryCanonical (cutSeq s core bank q) := by
  unfold Machine.cutSeq
  have k := h.drainSeq (core := core) (bank := bank) (q := q)
  dsimp only
  split
  · exact k
  · exact MemoryCanonical.settle (.setTask (.ite k.dropLaunch k) _ _ _)

theorem MemoryCanonical.cutV {core bank : Nat} : MemoryCanonical (cutV s core bank).1 := by
  unfold Machine.cutV
  split
  · exact h
  · split
    · have k := h.drainSeq (core := core) (bank := bank) (q := .v)
      dsimp only
      split
      · exact k.setTask _ _ _
      · exact k
    · dsimp only
      split
      · exact h.readAll
      · split
        · exact h.readAll.performStores _
        · have k := fun p l t => (((h.readAll (core := core) (bank := bank) (q := .v) (p := p)).performStores l).setTask core bank t).settle
            (core := core) (bank := bank) (q := .v)
          split
          · exact k _ _ _
          · exact (k _ _ _).setTask _ _ _

theorem MemoryCanonical.freeAsked {win : Nat} : MemoryCanonical (freeAsked s win) := by
  refine MemoryCanonical.setTx (MemoryCanonical.fold _ (fun _ _ k => ?_) _ _ h) win TxWin.free
  exact .ite (k.say _) k

theorem MemoryCanonical.dropWmap {core bank : Nat} : MemoryCanonical (dropWmap s core bank) :=
  MemoryCanonical.fold _ (fun _ _ k => k.freeAsked) _ _ h

theorem MemoryCanonical.leaveSems {core bank : Nat} : MemoryCanonical (leaveSems s core bank) := by
  unfold Machine.leaveSems
  split
  · exact h
  · exact (h.setPart _ _).dropWmap

theorem MemoryCanonical.cutTask {core bank : Nat} : MemoryCanonical (cutTask s core bank).1 :=
  h.settleAll.departAll.cutV.cutSeq.cutSeq.cutSeq.leaveSems

/-! #### Exceptions and the end of a task -/

theorem MemoryCanonical.writeRecord {part slot : Nat} {r : TrapRec} {s' : State} (hr : writeRecord s part slot r = .ok s') : MemoryCanonical s' := by
  simp only [Machine.writeRecord] at hr
  split at hr
  · cases hr
    exact ((h.partStore _ _).setPart _ _).say _
  · cases hr

theorem MemoryCanonical.markFound {t : Task} {c : Cause} {a : Nat} : MemoryCanonical (markFound s t c a) := by
  unfold Machine.markFound
  split
  · split
    · exact .ite (h.poisonLine _) h
    · exact h
  · exact h

/-- A change of a core that leaves its scratchpad. -/
theorem MemoryCanonical.setCoreOf (n : Nat) {c : Core} (hc : c.spad = (s.core n).spad) : MemoryCanonical (s.setCore n c) :=
  h.setCore n c (hc ▸ h.2 n)

theorem MemoryCanonical.setBank {n b : Nat} : MemoryCanonical (s.setCore n { s.core n with bank := b }) := h.setCoreOf n rfl

theorem MemoryCanonical.switchBank {core : Nat} : MemoryCanonical (switchBank s core) := .ite h (.ite h.setBank h)

theorem MemoryCanonical.turnOver {core : Nat} : MemoryCanonical (turnOver s core) := by
  unfold Machine.turnOver
  dsimp only
  split
  · exact .ite h h.switchBank
  · exact h.switchBank

theorem MemoryCanonical.setHold {core bank : Nat} {x : Hold} : MemoryCanonical (s.setHold core bank x) := by
  unfold State.setHold
  split
  · exact h
  · exact h.setTask _ _ _

theorem MemoryCanonical.launchRankOver {part id rank first status : Nat} {host : Bool} :
    MemoryCanonical (launchRankOver s part id rank first status host) := h.setPart _ _

theorem MemoryCanonical.endTask {core bank status : Nat} {host : Bool} : MemoryCanonical (endTask s core bank status host) := by
  unfold Machine.endTask
  split
  · exact h
  · exact (h.leaveSems.setTask _ _ _).moveFlits.launchRankOver.switchBank

theorem MemoryCanonical.endIfOver {core bank : Nat} : MemoryCanonical (endIfOver s core bank) := by
  unfold Machine.endIfOver
  split
  · exact h
  · exact .ite h.endTask h

theorem MemoryCanonical.stopPartition {first : Nat} : MemoryCanonical (stopPartition s first) := by
  refine .setPart (MemoryCanonical.fold _ (fun s n k => MemoryCanonical.fold _ (fun s b k => ?_) _ _ k) _ _ h) _ _
  split
  · exact k
  · exact .ite k.cutTask.setHold.endIfOver k

end canonical

section taken
variable {s : State} (h : MemoryCanonical s)
include h

theorem MemoryCanonical.recordTrap {core bank seq faddr flags fpc slot : Nat} {c : Cause} :
    NextCanonical (recordTrap s core bank seq c faddr flags fpc slot) := by
  have k := h.cutTask (core := core) (bank := bank)
  unfold Machine.recordTrap
  generalize Machine.cutTask s core bank = r at k
  obtain ⟨s, d⟩ := r
  dsimp only
  split
  · exact k
  · split
    · exact k.endTask
    · split
      · next hw => exact (k.writeRecord hw).setHold.switchBank
      · exact trivial

theorem MemoryCanonical.trapNow {core bank seq faddr flags fpc : Nat} {c : Cause} : NextCanonical (trapNow s core bank seq c faddr flags fpc) := by
  unfold Machine.trapNow
  split
  · exact h
  · next t _ =>
    have k := h.markFound (t := t) (c := c) (a := faddr)
    dsimp only
    split
    · exact k.recordTrap
    · split
      · exact k.setTask _ _ _
      · split
        · exact (k.stopPartition.setPart _ _).say _
        · exact k.recordTrap

theorem MemoryCanonical.takeTrap {core bank seq faddr flags fpc : Nat} {c : Cause} : NextCanonical (takeTrap s core bank seq c faddr flags fpc) := by
  unfold Machine.takeTrap
  split
  · exact h
  · dsimp only
    split
    · split
      · exact h.trapNow
      · exact MemoryCanonical.ite (h.setTask _ _ _) h
    · split
      · exact h.setTask _ _ _
      · exact h.trapNow

theorem MemoryCanonical.resumeTask {core bank : Nat} : MemoryCanonical (resumeTask s core bank) := by
  unfold Machine.resumeTask
  split
  · exact h
  · refine .endIfOver (.settleAll (.setBank ?_))
    split
    · exact .setTask (.setHold (.ite h.cutTask.endIfOver h)) _ _ _
    · exact .setHold (.ite h.cutTask.endIfOver h)

/-! #### Issue -/

theorem MemoryCanonical.trapHere {c : Cause} {faddr flags : Nat} : NextCanonical (trapHere s c faddr flags) := h.takeTrap

theorem MemoryCanonical.stallWith {w : Wait} : MemoryCanonical (stallWith s w) := h.setMe _

theorem MemoryCanonical.stallOrMiss {kind : Nat} : NextCanonical (stallOrMiss s kind) := .ite h.trapHere h.stallWith

theorem MemoryCanonical.trapUndone {head : BitVec 48} {c : Cause} {faddr flags : Nat} : NextCanonical (trapUndone s head c faddr flags) := by
  have k := MemoryCanonical.ite (c := (s.cur.q == .c) = true) (h.dropLaunch (core := s.cur.core) (bank := s.bankOf s.cur.core) (t := s.here)) h
  refine MemoryCanonical.trapHere (.setMe (.ite h (.setHere (.ite ?_ ?_) _)) _)
  · exact k.leaveSems
  · exact k

theorem MemoryCanonical.closeWait : MemoryCanonical (closeWait s) := by
  unfold Machine.closeWait
  dsimp only
  split
  · exact h
  · exact h.setMe _

theorem MemoryCanonical.completed : MemoryCanonical (completed s) := h.closeWait.settle.endIfOver

theorem MemoryCanonical.issued : MemoryCanonical (issued s) := by
  unfold Machine.issued
  split
  · exact .ite h (h.setHere _)
  · exact h

theorem MemoryCanonical.issuedWaiting : MemoryCanonical (issuedWaiting s) := by
  unfold Machine.issuedWaiting
  split
  · exact .ite h h.issued
  · exact h

omit h in
theorem NextCanonical.finish {head : BitVec 48} {r : Res} (h : r.Canonical) : NextCanonical (finish head r) := by
  unfold Machine.finish
  cases r with
  | ok s => exact NextCanonical.ite (MemoryCanonical.completed (MemoryCanonical.issued h)) (MemoryCanonical.turnOver h)
  | wait kind op addr sent s =>
    have hs : MemoryCanonical s := h
    have k := hs.setMe { s.me with pc := head }
    dsimp only
    refine .ite ?_ (MemoryCanonical.settle (.issuedWaiting ?_))
    · refine MemoryCanonical.trapUndone ?_
      split
      · exact k.stallWith
      · exact k
    · split
      · exact k.stallWith
      · exact k
  | trap c faddr flags s => exact MemoryCanonical.trapUndone h
  | more s => exact h
  | after s act => exact h.2 _ (MemoryCanonical.completed (MemoryCanonical.issued h.1))
  | halt s => exact (((MemoryCanonical.issued h).closeWait.settle.stopPartition).setPart _ _).say _
  | software code s => exact .ite (MemoryCanonical.trapUndone h) (((MemoryCanonical.issued h).closeWait).setHere _).takeTrap
  | stop f => exact trivial

theorem MemoryCanonical.entered {t : Task} {y : Syn} {len ticks : Nat} : MemoryCanonical (entered s t y len ticks) := h.setHere _

/-- An instruction keeps every memory canonical where its body does. -/
theorem MemoryCanonical.issue {y : Syn} {i : Instr} {known : Bool} {len ticks : Nat} {body : State → Res}
    (hb : ∀ s, MemoryCanonical s → (body s).Canonical) : NextCanonical (issue y i known len ticks body s) := by
  unfold Machine.issue
  refine .ite h (.ite h.trapHere (.ite h.trapHere (.ite h.trapHere (.ite (.finish (hb _ (h.setMe _))) ?_))))
  split
  · exact h
  · exact h.trapHere
  · split
    · exact h.stallOrMiss
    · exact .ite (h.setHere _).settle.stallOrMiss (.finish (hb _ h.entered))

theorem MemoryCanonical.run {i : Instr} {y : Syn} {ticks : Nat} {body : State → Res} (hb : ∀ s, MemoryCanonical s → (body s).Canonical) :
    NextCanonical (run i y ticks body s) := h.issue hb

theorem MemoryCanonical.storeAt {p : Place} {bs : List Byte} : (storeAt s p bs).Canonical := by
  unfold Machine.storeAt
  split
  · exact h.txStore
  · exact h.queueChained

theorem MemoryCanonical.pendLoads {latency : Nat} {ws : List Write} {fl : Flags} {ordered : Bool} {loads : List LoadPiece} :
    MemoryCanonical (pendLoads s latency ws fl ordered loads) := h.setMe _

theorem MemoryCanonical.pendWrites {latency : Nat} {ws : List Write} {fl : Flags} : MemoryCanonical (pendWrites s latency ws fl) := h.pendLoads

theorem MemoryCanonical.event {c : Bool} {f : Host.Outcome State Fault Refusal} (hf : NextCanonical f) : NextCanonical (event s c f) := .ite hf h

theorem MemoryCanonical.completeWaiting {core bank len : Nat} : MemoryCanonical (completeWaiting s core bank len) := by
  unfold Machine.completeWaiting
  split
  · exact h
  · split
    · exact h
    · exact (h.setTask _ _ _).settle

end taken
end Sys2Proof

namespace Sys2Proof

open Sys2Proof.Machine

theorem Machine.ReadsKeep.ok {α : Type} {P : State → Prop} {r : Except ReadStop (State × α)} {x : State × α} (k : ReadsKeep P r)
    (h : r = .ok x) : P x.1 := by
  subst h
  exact k

theorem Machine.ReadsKeep.res {α : Type} {r : Except ReadStop (State × α)} {e : ReadStop} (k : ReadsKeep MemoryCanonical r) (h : r = .error e) :
    e.res.Canonical := by
  subst h
  cases e <;> exact k

theorem Machine.ReadsKeep.map {α β : Type} {P : State → Prop} {r : Except ReadStop (State × α)} (k : ReadsKeep P r) (f : α → β) :
    ReadsKeep P (r.map (fun x => (x.1, f x.2))) := by
  rcases r with e | x
  · cases e <;> exact k
  · exact k

section agent
variable {s : State} (h : MemoryCanonical s)
include h

/-! #### The sorus agent -/

theorem MemoryCanonical.agentFlit {win off : Nat} {r : BitVec 256} : MemoryCanonical (agentFlit s win off r) := by
  have k := fun l n => h.of_fields (s' := { s with flits := l, nextFlit := n }) rfl rfl
  exact .ite (k _ _).loopBack (k _ _)

omit h in
theorem MemoryCanonical.pumpOne {n : Nat} {s : State} {x : SorSend} (h : MemoryCanonical s) : MemoryCanonical (pumpOne n s x).1 := by
  induction n generalizing s x with
  | zero => exact h
  | succ n ih =>
    unfold Machine.pumpOne
    split
    · exact h
    · split
      · exact ih h.agentFlit
      · exact h

omit h in
theorem MemoryCanonical.pumpList {s : State} {l : List SorSend} (h : MemoryCanonical s) : MemoryCanonical (pumpList s l).1 := by
  induction l generalizing s with
  | nil => exact h
  | cons x xs ih =>
    have k : MemoryCanonical (Machine.pumpOne x.waiting.length s x).1 := h.pumpOne
    unfold Machine.pumpList
    dsimp only
    split
    · exact ih k
    · exact k

omit h in
theorem MemoryCanonical.agentWrites {n : Nat} {s : State} (h : MemoryCanonical s) : MemoryCanonical (agentWrites n s) := by
  induction n generalizing s with
  | zero => exact h
  | succ n ih =>
    unfold Machine.agentWrites
    split
    · exact h
    · next xs _ =>
      have k := h.of_fields (s' := { s with sorus := { s.sorus with sends := xs } }) rfl rfl
      exact .ite (ih k.ringArrive) h

theorem MemoryCanonical.agentRun : MemoryCanonical (agentRun s) := by
  have k : MemoryCanonical (agentPump s) := (MemoryCanonical.pumpList h).of_fields rfl rfl
  exact k.agentWrites

theorem MemoryCanonical.agentSend {off : Nat} {r : BitVec 256} : MemoryCanonical (agentSend s off r) :=
  .agentRun (h.of_fields rfl rfl)

theorem MemoryCanonical.agentAcked {fid : Nat} : MemoryCanonical (agentAcked s fid) := .agentRun (h.of_fields rfl rfl)

/-! #### Fetching and the clocks -/

theorem MemoryCanonical.fetchGranule {core a : Nat} {q : SeqId} {s' : State} (hs : fetchGranule s core q a = some s') : MemoryCanonical s' := by
  unfold Machine.fetchGranule at hs
  dsimp only at hs
  split at hs
  · exact Option.some.inj hs ▸ h
  · split at hs
    · exact Option.some.inj hs ▸ h
    · next t _ _ p _ =>
      split at hs
      · exact Option.some.inj hs ▸ h
      · split at hs
        · have k : MemoryCanonical (if isTimed t (t.seq q) then Machine.drainAt s core (s.bankOf core) q (t.seq q).nextId p.granule 16
              else Machine.served (Machine.drainAt s core (s.bankOf core) q (t.seq q).nextId p.granule 16) t.part p) :=
            .ite (h.drainAt ..) ((h.drainAt ..).served _ _)
          split at hs
          · exact Option.some.inj hs ▸ k
          · exact Option.some.inj hs ▸ k.setTask _ _ _
        · cases hs

omit h in
theorem MemoryCanonical.fetchAll {core : Nat} {q : SeqId} {l : List Nat} {s : State} (h : MemoryCanonical s) : MemoryCanonical (fetchAll core q l s).1 := by
  induction l generalizing s with
  | nil => exact h
  | cons a l ih =>
    unfold Machine.fetchAll
    split
    · exact h
    · next hs => exact ih (h.fetchGranule hs)

/-- One read of several that may be made, or none. -/
theorem MemoryCanonical.getD_bind {α : Type} {o : Option α} {f : α → Option State} (hf : ∀ a s', f a = some s' → MemoryCanonical s') :
    MemoryCanonical ((o.bind f).getD s) := by
  cases hb : o.bind f with
  | none => exact h
  | some s' =>
    obtain ⟨a, -, ha⟩ := Option.bind_eq_some_iff.mp hb
    exact hf a s' ha

theorem MemoryCanonical.fetchGranules {core : Nat} {q : SeqId} {l : List Nat} : MemoryCanonical (fetchGranules core q l s).1 := by
  unfold Machine.fetchGranules
  split
  · exact h.fetchAll
  · dsimp only
    split
    · exact h
    · exact h.getD_bind (fun _ _ hs => h.fetchGranule hs)

theorem MemoryCanonical.fetchNow {core : Nat} {q : SeqId} : MemoryCanonical (fetchNow s core q).1 := by
  unfold Machine.fetchNow
  dsimp only
  split
  · exact h.fetchGranules.fetchGranules
  · exact h.fetchGranules

theorem MemoryCanonical.clockTick {cycles ns : Nat} : MemoryCanonical (clockTick s cycles ns) := .ite (h.of_fields rfl rfl) h

theorem MemoryCanonical.onTurn {core : Nat} {q : SeqId} {s' : State} (hs : onTurn s core q = some s') : MemoryCanonical s' := by
  unfold Machine.onTurn at hs
  dsimp only at hs
  split at hs
  · exact Option.some.inj hs ▸ h.of_fields rfl rfl
  · cases hs

end agent

section windows
variable {s : State} (h : MemoryCanonical s)
include h

/-! #### Reads of C -/

theorem ownSpan_canonical {rs : Ranges} {k n a : Nat} {t : Task} {core : Nat} : ReadsKeep MemoryCanonical (readSpan ownReader core t rs k n a s) :=
  readSpan_keeps (fun _ p _ hs hr => Machine.MemoryCanonical.ownRead hs p hr) core t rs k n a s h

theorem ownNums_canonical {k n a : Nat} {t : Task} {core : Nat} : ReadsKeep MemoryCanonical (readNums ownReader core t k n a s) :=
  (ownSpan_canonical h).map _

theorem AccFault.res_canonical {f : AccFault} : (f.res s).Canonical := h

/-! #### Windows -/

theorem MemoryCanonical.askLeases {part d : Nat} {ms : List Nat} : MemoryCanonical (askLeases s part d ms) :=
  MemoryCanonical.fold _ (fun _ _ k => k.say _) _ _ (h.setTx _ _)

theorem MemoryCanonical.mapRx {part d : Nat} {ms : List Nat} : MemoryCanonical (mapRx s part d ms).1 := by
  unfold Machine.mapRx
  dsimp only
  split
  · exact h.setRx _ _
  · split
    · exact h
    · exact MemoryCanonical.fold _ (fun _ _ k => k.say _) _ _ (h.setRx _ _)

theorem MemoryCanonical.returnLeases {win : Nat} : MemoryCanonical (returnLeases s win) := by
  refine MemoryCanonical.fold _ (fun _ _ k => ?_) _ _ h
  exact .ite (k.say _) k

theorem MemoryCanonical.wmapGoOn {win sd : Nat} : (wmapGoOn s win sd).Canonical := by
  unfold Machine.wmapGoOn
  dsimp only
  split
  · exact (h.setTx _ _).setReg _ _
  · split
    · exact h.freeAsked.setReg _ _
    · exact h

theorem MemoryCanonical.wmapBody {o : COp} : (wmapBody o s).Canonical := by
  unfold Machine.wmapBody
  dsimp only
  split
  · exact h.wmapGoOn
  · split
    · next e he => exact (readTask_canonical s _ _ _ _ h).res he
    · next r hr =>
      have k := (readTask_canonical s _ _ _ _ h).ok hr
      split
      · exact k.setReg _ _
      · split
        · next e he => exact (ownNums_canonical k).res he
        · next l hl =>
          have k := (ownNums_canonical k).ok hl
          split
          · exact k.setReg _ _
          · split
            · exact k.mapRx.setReg _ _
            · exact k.askLeases

theorem MemoryCanonical.beginRecall {rx : Nat} : MemoryCanonical (beginRecall s rx) :=
  .ite h (MemoryCanonical.fold _ (fun _ _ k => k.say _) _ _ (h.setRx _ _))

theorem MemoryCanonical.storeFailmap {p : Place} {n : Nat} : MemoryCanonical (storeFailmap s p n) :=
  MemoryCanonical.fold _ (fun _ _ k => k.queueChained) _ _ h

theorem MemoryCanonical.endRecall {rx addr sd : Nat} {unmap : Bool} : (endRecall s rx addr sd unmap).Canonical := by
  unfold Machine.endRecall
  dsimp only
  split
  · exact (h.setRx _ _).setReg _ _
  · split
    · exact h
    · exact (h.setRx _ _).storeFailmap.setReg _ _

theorem MemoryCanonical.recallGoOn {rx addr sd : Nat} {unmap : Bool} : (recallGoOn s rx addr sd unmap).Canonical := by
  unfold Machine.recallGoOn
  split
  · exact h.endRecall
  · exact h

theorem MemoryCanonical.lrecallBody {o : COp} : (lrecallBody o s).Canonical := by
  unfold Machine.lrecallBody
  dsimp only
  split
  · exact h.recallGoOn
  · split
    · next e he => exact (readTask_canonical s _ _ _ _ h).res he
    · next x hx =>
      have k := (readTask_canonical s _ _ _ _ h).ok hx
      split
      · exact k
      · split
        · exact k.setReg _ _
        · split
          · exact k.setReg _ _
          · exact k.beginRecall.recallGoOn

theorem MemoryCanonical.unmapTx {win sd : Nat} : (unmapTx s win sd).Canonical := by
  unfold Machine.unmapTx
  split
  · exact h
  · exact (h.returnLeases.setTx _ _).setReg _ _

theorem MemoryCanonical.wunmapBody {o : COp} : (wunmapBody o s).Canonical := by
  unfold Machine.wunmapBody
  dsimp only
  split
  · exact h.unmapTx
  · exact h.recallGoOn
  · have k := fun w : Word => h.setReg o.sd.toNat w
    split
    · exact k _
    · split
      · split
        · exact k _
        · exact h.unmapTx
      · split
        · exact k _
        · exact h.beginRecall.recallGoOn

theorem execWmap_canonical {y : Syn} {o : COp} : NextCanonical (execWmap y o s) := h.run (fun _ k => k.wmapBody)

/-! #### Leases -/

theorem execLeaseRequest_canonical {src rx need : Nat} : NextCanonical (execLeaseRequest src rx need s) := by
  have k := fun w m => (h.setRx rx w).say m
  exact h.event (.ite (MemoryCanonical.ite ((k _ _).say _) (k _ _)) (h.say _))

theorem execLeaseReturn_canonical {rx src : Nat} : NextCanonical (execLeaseReturn rx src s) := h.event (h.setRx _ _)

theorem execLeaseReleaseArrival_canonical {rx src : Nat} : NextCanonical (execLeaseReleaseArrival rx src s) := h.event (h.setRx _ _)

theorem execLrecallSilentSource_canonical {rx src : Nat} : NextCanonical (execLrecallSilentSource rx src s) := h.event (h.setRx _ _)

theorem execLeaseReply_canonical {tx pos base epoch : Nat} {granted : Bool} : NextCanonical (execLeaseReply tx pos granted base epoch s) := by
  have k := fun l => h.of_fields (s' := { s with orphans := l }) rfl rfl
  unfold execLeaseReply
  dsimp only
  split
  · exact h.event (MemoryCanonical.ite ((k _).say _) (k _))
  · exact h.event (h.setTx _ _)

theorem execLeaseRecall_canonical {tx pos : Nat} : NextCanonical (execLeaseRecall tx pos s) :=
  h.event (MemoryCanonical.fold _ (fun _ _ k => k.setTx _ _) _ _ h)

theorem execLeaseRelease_canonical {tx pos : Nat} : NextCanonical (execLeaseRelease tx pos s) := by
  unfold execLeaseRelease
  dsimp only
  split
  · exact h
  · exact h.event ((MemoryCanonical.fold _ (fun _ _ k => k.setTx _ _) _ _ h).say _)

theorem execLeaseRegrant_canonical {tx pos base epoch : Nat} : NextCanonical (execLeaseRegrant tx pos base epoch s) :=
  h.event (MemoryCanonical.fold _ (fun _ _ k => k.setTx _ _) _ _ h).agentRun

theorem waitingC_canonical {core : Nat} {f : Instr → State → Option (Host.Outcome State Fault Refusal)}
    (hf : ∀ i t r, MemoryCanonical t → f i t = some r → NextCanonical r) : NextCanonical (waitingC s core f) := by
  unfold waitingC
  split
  · exact h
  · next t ht =>
    split
    · next i _ =>
      cases hr : f i t with
      | none => exact h
      | some r => exact hf i t r (h.onTurn ht) hr
    · exact h

theorem execWmapMemberTimeout_canonical {tx : Nat} : NextCanonical (execWmapMemberTimeout tx s) := by
  refine h.event (waitingC_canonical h (fun i t r k hr => ?_))
  split at hr
  · split at hr
    · exact Option.some.inj hr ▸ execWmap_canonical k
    · cases hr
  · cases hr

/-! #### Flits and acknowledgements -/

theorem MemoryCanonical.settleFlit {f : Flit} : MemoryCanonical (settleFlit s f) :=
  .ite h (MemoryCanonical.fold _ (fun _ _ k => k.settleAll) _ _ h)

theorem execFlitDeparture_canonical {flit : Nat} {copy : FlitExit} : NextCanonical (execFlitDeparture flit copy s) := by
  unfold execFlitDeparture
  split
  · exact h
  · exact h.event (h.serveWheel _ _).departCopy.settleFlit

theorem MemoryCanonical.killMembers {win : Nat} {m : BitVec 64} : MemoryCanonical (killMembers s win m) := by
  refine MemoryCanonical.fold _ (fun s f k => ?_) _ _ (h.setTx _ _)
  exact .settleFlit (.ite (k.mapFlits _ _).loopBack (k.mapFlits _ _))

theorem MemoryCanonical.noteFailure {f : Flit} {b : BitVec 64} : MemoryCanonical (noteFailure s f b) := by
  refine MemoryCanonical.fold _ (fun s x k => ?_) _ _ h
  dsimp only
  split
  · split
    · exact k
    · exact k.setTask _ _ _
  · exact k.setPart _ _

theorem MemoryCanonical.ackFlit {f : Flit} {bitmap : BitVec 64} : MemoryCanonical (ackFlit s f bitmap) := by
  have k := fun l m => (h.of_fields (s' := { s with flits := l }) rfl rfl).killMembers (win := f.win) (m := m)
  have n := fun l m => MemoryCanonical.ite (c := (f.core == agentCore) = true) ((k l m).agentAcked (fid := f.id))
    ((k l m).noteFailure (f := f) (b := (bitmap &&& (s.txWin f.win).mask) ||| f.lost))
  exact .agentRun (.ite (n _ _).loopBack (n _ _))

theorem MemoryCanonical.withSorus {x : Sorus} : MemoryCanonical { s with sorus := x } := h.of_fields rfl rfl

theorem execFlitAckArrival_canonical {flit : Nat} {bitmap : BitVec 64} : NextCanonical (execFlitAckArrival flit bitmap s) := by
  unfold execFlitAckArrival
  split
  · exact h.event h.ackFlit
  · exact h.event h.withSorus
  · exact h

theorem execAckTimeout_canonical {flit : Nat} {missing : BitVec 64} : NextCanonical (execAckTimeout flit missing s) := by
  unfold execAckTimeout
  split
  · exact h.event h.ackFlit
  · exact h.event h.withSorus
  · exact h

theorem execMemberDisabled_canonical {m : Nat} : NextCanonical (execMemberDisabled m s) := by
  have k := h.of_fields (s' := { s with disabled := s.disabled ||| BitVec.ofNat 512 (2 ^ m) }) rfl rfl
  refine h.event (MemoryCanonical.agentRun (MemoryCanonical.fold _ (fun s e k => ?_) _ _ k))
  split
  · exact k.killMembers
  · exact k

theorem execFlitDelivery_canonical {f : InFlit} : NextCanonical (execFlitDelivery f s) := h.event (MemoryCanonical.ite h.landWindow (h.say _))

theorem execPartitionDestroy_canonical {first : Nat} : NextCanonical (execPartitionDestroy first s) := by
  have a := fun l => h.of_fields (s' := { s with flits := l }) rfl rfl
  have b := fun l m => MemoryCanonical.fold (fun s w => Machine.freeAsked s w) (fun _ _ k => k.freeAsked) m _ (a l)
  refine h.event (MemoryCanonical.fold _ (fun s f k => k.agentAcked) _ _ (MemoryCanonical.fold _ (fun s n k => k.setCore n _ rfl) _ _ (.setPart ?_ _ _)))
  exact (b _ _).of_fields rfl rfl

end windows
end Sys2Proof

namespace Sys2Proof

open Sys2Proof.Machine

section coll
variable {s : State} (h : MemoryCanonical s)
include h

/-! #### Collectives -/

theorem MemoryCanonical.withPick {p : Option Nat} : MemoryCanonical { s with pick := p } := h.of_fields rfl rfl

theorem MemoryCanonical.mapPend {part n : Nat} {g : CollPend → CollPend} : MemoryCanonical (mapPend s part n g) := h.setPart _ _

theorem MemoryCanonical.updateColl {part : Nat} {old c : Coll} : MemoryCanonical (updateColl s part old c) :=
  .ite (h.setPart _ _) (MemoryCanonical.fold _ (fun _ _ k => k.say _) _ _ (h.setPart _ _))

/-- A reader whose reads keep every memory canonical. -/
def KeepsCanonical (rd : Reader) : Prop := ∀ s p s', MemoryCanonical s → rd.read s p = some s' → MemoryCanonical s'

omit h in
theorem ownReader_keeps : KeepsCanonical ownReader := fun _ p _ hs hr => Machine.MemoryCanonical.ownRead hs p hr

omit h in
theorem pendReader_keeps {part n : Nat} : KeepsCanonical (pendReader part n) := fun _ p _ hs hr => Machine.MemoryCanonical.pendRead hs p hr

theorem KeepsCanonical.readAs {rd : Reader} (hr : KeepsCanonical rd) {core k n a : Nat} {t : Task} {rs : Ranges} :
    ReadsKeep MemoryCanonical (readAs rd core t rs k n a s) :=
  (readSpan_keeps hr core t rs k n a s h).map _

theorem KeepsCanonical.readNums {rd : Reader} (hr : KeepsCanonical rd) {core k n a : Nat} {t : Task} :
    ReadsKeep MemoryCanonical (readNums rd core t k n a s) :=
  (readSpan_keeps hr core t _ k n a s h).map _

end coll

/-- What an attempt at a COLL leaves is canonical. -/
def Machine.CollTry.Canonical : CollTry → Prop
  | .go s _ | .hold s _ | .wait _ s | .bad _ _ s => MemoryCanonical s

/-- What a search for a COLL leaves is canonical. -/
def FoundCanonical : Except CollTry (State × Coll) → Prop
  | .ok r => MemoryCanonical r.1
  | .error e => e.Canonical

theorem Machine.ReadsKeep.coll {α : Type} {r : Except ReadStop (State × α)} {e : ReadStop} (k : ReadsKeep MemoryCanonical r) (h : r = .error e) :
    e.coll.Canonical := by
  subst h
  cases e <;> exact k

section coll
variable {s : State} (h : MemoryCanonical s)
include h

theorem findColl_canonical {part core a : Nat} {t : Task} {rd : Reader} (hr : KeepsCanonical rd) :
    FoundCanonical (findColl s part core t rd a) := by
  unfold findColl
  split
  · exact h
  · split
    · next e he => exact (hr.readAs h).coll he
    · next r hx =>
      have k := (hr.readAs h).ok hx
      dsimp only
      split
      · exact k
      · split
        · next e he => exact (hr.readNums k).coll he
        · next ms hm =>
          have k := (hr.readNums k).ok hm
          split
          · exact k
          · split
            · exact k
            · exact k.setPart _ _

theorem collTry_canonical {part core a : Nat} {t : Task} {rd : Reader} (hr : KeepsCanonical rd) : (collTry s part core t rd a).Canonical := by
  have hf := findColl_canonical h (part := part) (core := core) (t := t) (a := a) hr
  unfold collTry
  split
  · next e he => rw [he] at hf; exact hf
  · next s c hc =>
    rw [hc] at hf
    have k : MemoryCanonical s := hf
    dsimp only
    split
    · exact k
    · split
      · next e he => exact (hr.readAs k).coll he
      · next r hr' => exact ((hr.readAs k).ok hr').updateColl.setPart _ _

theorem MemoryCanonical.departPacket {part n port : Nat} : MemoryCanonical (departPacket s part n port) := by
  unfold Machine.departPacket
  split
  · exact h
  · exact ((h.serveWheel _ _).say _).setPart _ _

theorem turnPacket_canonical {part n port : Nat} : NextCanonical (turnPacket part n port s) := h.event h.departPacket

theorem MemoryCanonical.collGoOn {part a g sd : Nat} : (collGoOn s part a g sd).Canonical := by
  have k : MemoryCanonical (match sendIndex s part a g with
      | some n => (match sendPorts s part n with | port :: _ => Machine.departPacket s part n port | [] => s)
      | none => s) := by
    split
    · split
      · exact h.departPacket
      · exact h
    · exact h
  exact .ite k (k.setReg _ _)

theorem execColl_canonical {y : Syn} {o : COp} : NextCanonical (execColl y o s) := by
  refine h.run (fun s h => ?_)
  dsimp only
  split
  · exact h.collGoOn
  · have k := collTry_canonical h (part := s.here.part) (core := myCore s) (t := s.here) (a := opAddr s o) ownReader_keeps
    split <;> rename_i e <;> rw [e] at k
    · exact MemoryCanonical.collGoOn k
    all_goals exact k

theorem collwBody_canonical {i : Instr} {o : COp} {retire : Bool} : (collwBody i o retire s).Canonical := by
  unfold collwBody
  dsimp only
  split
  · exact h
  · have k := fun w p => (MemoryCanonical.ite (c := retire = true) (h.setPart s.here.part p) h).setReg o.sd.toNat w
    split
    · exact k _ _
    · split
      · exact k _ _
      · exact h

theorem execCollw_canonical {y : Syn} {o : COp} : NextCanonical (execCollw y o s) := h.run (fun _ k => collwBody_canonical k)

theorem execCollwRetire_canonical {y : Syn} {o : COp} : NextCanonical (execCollwRetire y o s) := h.run (fun _ k => collwBody_canonical k)

theorem execCollwTimeout_canonical {core : Nat} : NextCanonical (execCollwTimeout core s) := by
  refine waitingC_canonical h (fun i t r k hr => ?_)
  split at hr
  · split at hr
    · exact Option.some.inj hr ▸ execCollw_canonical k
    · cases hr
  · split at hr
    · exact Option.some.inj hr ▸ execCollwRetire_canonical k
    · cases hr
  · cases hr

theorem MemoryCanonical.countApplied {part : Nat} {p : CollPacket} : MemoryCanonical (countApplied s part p) := by
  unfold Machine.countApplied
  dsimp only
  split
  · exact h.updateColl
  · exact h.setPart _ _

theorem MemoryCanonical.passOn {p : CollPacket} {data : BitVec 512} : MemoryCanonical (passOn s p data) := .ite (h.say _) (h.say _)

theorem MemoryCanonical.packetIn {p : CollPacket} : MemoryCanonical (packetIn s p) := by
  unfold Machine.packetIn
  refine .ite h.passOn (.ite h ?_)
  split
  · exact h
  · exact .ite h.ringFlit.countApplied.passOn (h.of_fields rfl rfl)

theorem coreless_canonical {part faddr : Nat} {c : Cause} {s' : State} (hs : coreless s part c faddr = some (.ok s')) : MemoryCanonical s' := by
  unfold coreless at hs
  dsimp only at hs
  split at hs
  · exact h.writeRecord (Option.some.inj hs)
  · split at hs
    · cases hs
    · split at hs
      · cases hs
        exact (h.stopPartition.setPart _ _).say _
      · exact h.writeRecord (Option.some.inj hs)

theorem MemoryCanonical.dropArm {part bar a : Nat} : MemoryCanonical (dropArm s part bar a) := .ite (h.setPart _ _) h

theorem MemoryCanonical.endPend {part n : Nat} : MemoryCanonical (endPend s part n) := h.setPart _ _

theorem MemoryCanonical.pendFault {part n faddr : Nat} {x : CollPend} {c : Cause} : NextCanonical (pendFault s part n x c faddr) := by
  unfold Machine.pendFault
  split
  · exact h.mapPend
  · exact trivial
  · next hs => exact (coreless_canonical h hs).endPend.dropArm

theorem MemoryCanonical.flipColl {part : Nat} {x : CollPend} : MemoryCanonical (flipColl s part x) := h.setPart _ _

theorem tryPend_canonical {part n : Nat} {x : CollPend} {pick : Option Nat} : NextCanonical (tryPend s part n x pick) := by
  unfold tryPend
  split
  · split
    · exact h.pendFault
    · exact h.endPend
  · next t _ =>
    have k := collTry_canonical (h.withPick (p := pick)) (part := part) (core := x.core) (t := t) (a := x.addr) (pendReader_keeps (part := part) (n := n))
    split <;> rename_i e <;> rw [e] at k
    · exact (MemoryCanonical.withPick k).endPend
    · exact MemoryCanonical.withPick k
    · exact (MemoryCanonical.withPick k).mapPend
    · exact (MemoryCanonical.withPick k).pendFault

theorem turnColl_canonical {part n : Nat} {pick : Option Nat} : NextCanonical (turnColl part n pick s) := by
  unfold turnColl
  split
  · exact h
  · exact h.event (tryPend_canonical h)

theorem latePend_canonical {part : Nat} : NextCanonical (latePend part s) := by
  unfold latePend
  dsimp only
  split
  · refine h.event ?_
    split
    · next hs => exact (h.endPend.writeRecord hs).dropArm
    · exact trivial
  · exact h

theorem execCollPacketArrival_canonical {p : CollPacket} : NextCanonical (execCollPacketArrival p s) := h.event h.packetIn

theorem MemoryCanonical.withLandings {l : List Landing} : MemoryCanonical { s with landings := l } := h.of_fields rfl rfl

theorem MemoryCanonical.landDone {l : Landing} : MemoryCanonical (landDone s l) := by
  unfold Machine.landDone
  split
  · exact .ite (h.say _) h
  · exact h.countApplied.passOn

theorem turnLand_canonical {n : Nat} : NextCanonical (turnLand n s) := by
  unfold turnLand
  split
  · exact h
  · next l _ =>
    refine h.event ?_
    split
    · exact h.withLandings.landDone
    · next g _ _ =>
      have k : MemoryCanonical (match l.coll with
          | none => (Machine.landGranule s l.base l.mask l.data g, l.data)
          | some p => combineGranule s l.base (p.ops.extractLsb' 0 4).toNat g l.data).1 := by
        split
        · exact h.landGranule _ _ _ _
        · exact h.landGranule _ _ _ _
      dsimp only
      split
      · exact k.withLandings.landDone
      · exact k.withLandings

theorem execCollPacketAck_canonical {part cid gen : Nat} : NextCanonical (execCollPacketAck part cid gen s) := by
  unfold execCollPacketAck
  split
  · exact h
  · exact h.event h.updateColl

theorem execCollFinishCount_canonical {part cid member count : Nat} : NextCanonical (execCollFinishCount part cid member count s) := by
  unfold execCollFinishCount
  split
  · exact h
  · split
    · exact h
    · exact h.event (h.setPart _ _)

theorem execCollOverrun_canonical {core : Nat} : NextCanonical (execCollOverrun core s) := by
  unfold execCollOverrun
  split
  · split
    · exact h
    · next t ht =>
      split
      · exact h
      · exact h.event (h.onTurn ht).trapUndone
  · dsimp only
    split
    · exact h
    · exact h.event h.pendFault

/-! #### Loop-nest records -/

/-- What the head of a record leaves is canonical. -/
def HeadCanonical : Except Res (State × RecProg) → Prop
  | .error r => r.Canonical
  | .ok x => MemoryCanonical x.1

omit h in
theorem HeadCanonical.ite {a b : Except Res (State × RecProg)} {c : Prop} [Decidable c] (ha : HeadCanonical a) (hb : HeadCanonical b) :
    HeadCanonical (if c then a else b) := by
  split
  · exact ha
  · exact hb

theorem startRecord_canonical {i : Instr} {y : Syn} {prep : State → RecProg → Except Res (State × RecProg)}
    (hp : ∀ s p, MemoryCanonical s → HeadCanonical (prep s p)) :
    NextCanonical (startRecord i y prep s) := by
  refine h.run (fun s h => ?_)
  have k := hp s (RecProg.start i (headPc s i) (curId s + 1)) h
  dsimp only
  split
  · next r hr => rw [hr] at k; exact k
  · next s p hr =>
    rw [hr] at k
    replace k : MemoryCanonical s := k
    split
    · exact k
    · exact k.setMe _

theorem MemoryCanonical.setProg {p : RecProg} : MemoryCanonical (setProg s p) := h.setMe _

theorem readOperand_canonical {pl : Place} {size : Nat} {r : State × List Byte} (hr : readOperand s pl size = some r) : MemoryCanonical r.1 := by
  unfold readOperand at hr
  split at hr
  · cases hr
    exact h.setMe _
  · split at hr
    · cases hr
      exact h.readNow _ _
    · cases hr

theorem gather_canonical {p : RecProg} {size : Nat} {ps : List (Option Place)} {next : State → List Nat → Res}
    (hn : ∀ l, (next s l).Canonical) : (gather p s size ps next).Canonical := by
  unfold gather
  dsimp only
  split
  · split
    · next hr => exact Machine.MemoryCanonical.ownRead h _ hr
    · exact h
  · split
    · exact hn _
    · exact h.setProg
    · split
      · next hr => exact (readOperand_canonical h hr).setProg
      · exact h

theorem MemoryCanonical.advanceRecord {p : RecProg} : MemoryCanonical (advanceRecord s p) := ((h.setHere _).setMe _).settle

theorem refetchRecord_canonical {p : RecProg} : NextCanonical (refetchRecord p s) := by
  have k := h.fetchNow (core := s.cur.core) (q := s.cur.q)
  unfold refetchRecord
  dsimp only
  split
  · exact k
  · exact k.trapHere
  · split
    · exact k.setMe _
    · exact k.setHere _
  · exact k.trapHere

theorem singleIssue_canonical {single : RecProg → State → Res} {p : RecProg} (hs : ∀ p s, MemoryCanonical s → (single p s).Canonical) :
    NextCanonical (singleIssue single p s) := by
  have k := hs (p.held s.here s.me) _ (h.setMe { s.me with tick := s.me.tick + 1 })
  unfold singleIssue
  dsimp only
  split <;> rename_i e <;> rw [e] at k
  · exact MemoryCanonical.advanceRecord k
  · exact (MemoryCanonical.setMe k _).settle
  · exact .ite (MemoryCanonical.setMe k _).trapHere (MemoryCanonical.setMe k _).setProg.stallWith.settle
  · exact (MemoryCanonical.setMe k _).trapHere
  · exact k
  · exact k.1
  · exact k
  · exact trivial

theorem recordStep_canonical {single : RecProg → State → Res} (hs : ∀ p s, MemoryCanonical s → (single p s).Canonical) :
    NextCanonical (recordStep single s) := by
  unfold recordStep
  split
  · exact h
  · split
    · exact refetchRecord_canonical h
    · split
      · exact h
      · exact h.trapHere
      · split
        · exact h.stallOrMiss
        · exact singleIssue_canonical (h.setHere _) hs

end coll
end Sys2Proof

namespace Sys2Proof

open Sys2Proof.Machine

section vector
variable {s : State} (h : MemoryCanonical s)
include h

/-! #### Vector instructions and memory -/

theorem vrun_canonical {i : Instr} {y : Syn} {tys : List Nat} {body : Task → State → State}
    (hb : ∀ t s, MemoryCanonical s → MemoryCanonical (body t s)) : NextCanonical (vrun i y tys body s) :=
  h.run (fun _ k => .ite k (.ite k (hb _ _ k)))

theorem MemoryCanonical.vput {t : Task} {lat n w : Nat} {res : List (Nat × (Nat × Flags))} : MemoryCanonical (vput s t lat n w res) := h.pendWrites

theorem vElem_canonical {i : Instr} {y : Syn} {o : VOp} {isInt : Bool} {lat : Nat} {f : Task → Nat → Nat → Nat → Nat → Nat → Nat × Flags} :
    NextCanonical (vElem i y o isInt lat f s) := vrun_canonical h (fun _ _ k => k.vput)

theorem MemoryCanonical.loadIssue {lat : Nat} {ordered : Bool} {ps : List LoadPiece} : (loadIssue s lat ordered ps).Canonical :=
  .ite h.pendLoads h

theorem MemoryCanonical.vLoad {w pred reg : Nat} {acc : VAcc} : (vLoad s w pred reg acc).Canonical := by
  unfold Machine.vLoad
  dsimp only
  split
  · split
    · exact h
    · exact h.loadIssue
  · split
    · exact h
    · exact h.loadIssue

theorem MemoryCanonical.storeNamed {p : Place} {bs : List (Option Byte)} : (storeNamed s p bs).Canonical := by
  unfold Machine.storeNamed
  split
  · exact h.txStore
  · exact h.queueChained

theorem MemoryCanonical.queueAll {chain : Place → Nat} {us : List (Place × List (Option Byte))} : MemoryCanonical (queueAll chain us s) :=
  MemoryCanonical.fold _ (fun _ _ k => k.queueChained) _ _ h

omit h in
theorem sendUnits_canonical {last : State → State} (hl : ∀ s, MemoryCanonical s → MemoryCanonical (last s)) {us : List (Place × List (Option Byte))}
    {n : Nat} {s : State} (h : MemoryCanonical s) : (sendUnits last n us s).Canonical := by
  induction us generalizing n s with
  | nil => exact hl s h
  | cons u us ih =>
    have k := h.storeNamed (p := u.1) (bs := u.2)
    unfold sendUnits
    split <;> rename_i e <;> rw [e] at k
    · exact ih k
    · exact h
    · exact k

theorem MemoryCanonical.sendChained {chain : Place → Nat} {us : List (Place × List (Option Byte))} : (sendChained chain s us).Canonical := by
  unfold Machine.sendChained
  dsimp only
  split
  · exact h.setTx _ _
  · exact .ite (sendUnits_canonical (fun _ k => k.queueAll) h) h

theorem MemoryCanonical.putChained {chain : Place → Nat} {us : List (Place × List (Option Byte))} : (putChained chain s us).Canonical := by
  have k := h.sendChained (chain := chain) (us := us)
  unfold Machine.putChained
  split
  · next e =>
    rw [e] at k
    split
    · exact MemoryCanonical.setProg k
    · exact k
  · exact k

theorem MemoryCanonical.vStore {w pred reg : Nat} {acc : VAcc} : (vStore s w pred reg acc).Canonical := by
  unfold Machine.vStore
  dsimp only
  split
  · split
    · exact h
    · exact h.sendChained
  · split
    · exact h
    · exact h.sendChained

theorem MemoryCanonical.vMem {head ty pred reg : Nat} {idx : Option Nat} {isLoad : Bool} {acc : VAcc} :
    (vMem s head ty pred reg idx isLoad acc).Canonical :=
  .ite h (.ite h (.ite h.vLoad h.vStore))

theorem vMemExec_canonical {i : Instr} {y : Syn} {isLoad : Bool} {m : VMode} {f : VMemForm} : NextCanonical (vMemExec i y isLoad m f s) := by
  unfold vMemExec
  split
  · exact h.run (fun _ k => k.vMem)
  · exact startRecord_canonical h (fun _ _ k => k)

theorem vMemSingle_canonical {isLoad : Bool} {m : VMode} {p : RecProg} : (vMemSingle isLoad m p s).Canonical :=
  .ite h.setProg.vMem h.setProg

theorem execKld_canonical {y : Syn} {o : VMemOp} : NextCanonical (execKld y o s) := by
  refine h.run (fun s k => ?_)
  dsimp only
  split
  · exact k
  · exact k.loadIssue

/-! #### A2A -/

/-- What planning an A2A leaves is canonical. -/
def PlanCanonical : Except Res A2aPlan → Prop
  | .error r => r.Canonical
  | .ok x => MemoryCanonical x.state

theorem a2aPlan_canonical {i : Instr} {a : Nat} : PlanCanonical (a2aPlan s i a) := by
  unfold a2aPlan
  dsimp only
  split
  · next he => exact (ownReader_keeps.readAs h).res he
  · next hx =>
    have k := (ownReader_keeps.readAs h).ok hx
    split
    · exact h
    · split
      · next he => exact (ownReader_keeps.readNums k).res he
      · next hw =>
        have k := (ownReader_keeps.readNums k).ok hw
        split
        · exact h
        · split
          · next he => exact (ownReader_keeps.readNums k).res he
          · next hd =>
            have k := (ownReader_keeps.readNums k).ok hd
            split
            · exact h
            · split
              · exact h
              · split
                · exact h
                · exact k

theorem a2aEnd_canonical {o : COp} {v : Word} : (a2aEnd o v s).Canonical := .ite h (h.setReg _ _)

theorem a2aStore_canonical {x : A2aStore} {r : TxRes} (hr : a2aStore s x = some r) : r.Canonical := by
  unfold a2aStore at hr
  split at hr
  · obtain ⟨y, hy, rfl⟩ := Option.map_eq_some_iff.mp hr
    exact (readOperand_canonical h hy).storeNamed
  · split at hr
    · exact Option.some.inj hr ▸ h.storeNamed
    · cases hr

omit h in
theorem a2aGo_canonical {o : COp} {v : Word} {l : List A2aStore} {n : Nat} {s : State} (h : MemoryCanonical s) : (a2aGo o v n l s).Canonical := by
  induction l generalizing n s with
  | nil => exact a2aEnd_canonical h
  | cons x l ih =>
    unfold a2aGo
    split
    · exact h
    · next hr => exact ih (a2aStore_canonical h hr)
    · exact h
    · next hr => exact a2aStore_canonical h hr

theorem execA2a_canonical {y : Syn} {o : COp} : NextCanonical (execA2a y o s) := by
  refine h.run (fun s h => ?_)
  split
  · exact a2aEnd_canonical h
  · exact a2aGo_canonical h
  · have k := a2aPlan_canonical h (i := .a2a y o) (a := opAddr s o)
    split <;> rename_i e <;> rw [e] at k
    · exact k
    · exact a2aGo_canonical k

/-! #### Barriers and branches -/

theorem MemoryCanonical.barPut {n : Nat} {b : Barrier} : MemoryCanonical (barPut s n b) := h.setPart _ _

theorem execBinit_canonical {y : Syn} {o : COp} : NextCanonical (execBinit y o s) := h.run (fun _ k => .ite k k.barPut)

theorem execBarm_canonical {y : Syn} {o : COp} : NextCanonical (execBarm y o s) := h.run (fun _ k => .ite k.barPut (.ite k.barPut k))

theorem arriveAt_canonical {n : Nat} : (arriveAt s n).Canonical := by
  have k := fun t => h.setHere t
  unfold arriveAt
  dsimp only
  split
  · split
    · exact (k _).barPut
    · exact (k _).barPut.flipColl
  · exact (k _).barPut

theorem execArrive_canonical {y : Syn} {n : BitVec 6} : NextCanonical (execArrive y n s) := h.run (fun _ k => .ite k (.ite (arriveAt_canonical k) k))

theorem execBwait_canonical {y : Syn} {n : BitVec 6} : NextCanonical (execBwait y n s) := h.run (fun _ k => .ite k (.ite k k))

theorem branch_canonical {i : Instr} {y : Syn} {o : COp} {taken : Word → Word → Bool} : NextCanonical (branch i y o taken s) :=
  h.run (fun _ k => MemoryCanonical.ite (k.setMe _) k)

theorem execJal_canonical {y : Syn} {o : COp} : NextCanonical (execJal y o s) := h.run (fun _ k => (k.setReg _ _).setMe _)

theorem execJr_canonical {y : Syn} {o : COp} : NextCanonical (execJr y o s) := h.run (fun _ k => .ite k ((k.setReg _ _).setMe _))

/-! #### The common group -/

theorem execNop_canonical {y : Syn} : NextCanonical (execNop y s) := h.run (fun _ k => k)

theorem execIdle_canonical {y : Syn} {n : BitVec 14} : NextCanonical (execIdle y n s) := h.run (fun _ k => k)

theorem execJmp_canonical {y : Syn} {off : BitVec 32} : NextCanonical (execJmp y off s) := h.run (fun _ k => k.setMe _)

theorem execBnzd_canonical {y : Syn} {r : CountReg} {off : BitVec 32} : NextCanonical (execBnzd y r off s) := by
  refine h.run (fun s k => ?_)
  cases r with
  | s r => exact MemoryCanonical.ite ((k.setReg _ _).setMe _) (k.setReg _ _)
  | x r => exact MemoryCanonical.ite (k.pendWrites.setMe _) k.pendWrites

theorem execPop_canonical {y : Syn} {xd : BitVec 5} : NextCanonical (execPop y xd s) := by
  refine h.run (fun s k => ?_)
  split
  · exact .ite k (k.setHere _).pendWrites
  · exact k

theorem execXadd_canonical {y : Syn} {o : E2} : NextCanonical (execXadd y o s) := h.run (fun _ k => k.pendWrites)

theorem execRegion_canonical {y : Syn} : NextCanonical (execRegion y s) := by
  refine .ite (h.setMe _) (h.run (fun s k => ?_))
  dsimp only
  split
  · exact k.setHere _
  · exact k.setMe _

theorem execEndStream_canonical {y : Syn} : NextCanonical (execEndStream y s) := by
  refine h.run (fun s k => .ite ?_ k)
  have k := fun u => k.setMe u
  dsimp only
  split
  · exact (k _).setHere _
  · exact (k _).setHere _
  · exact k _

/-! #### Transfers -/

theorem tSkip_canonical {p : RecProg} : (tSkip p s).Canonical := by
  unfold tSkip
  dsimp only
  split
  · exact MemoryCanonical.ite h h.pendWrites
  · exact h

theorem tStore_canonical {p : Place} {bs : List Byte} : (tStore s p bs).Canonical := h.putChained

theorem tCopy_canonical {k : TKind} {p : RecProg} : (tCopy k p s).Canonical := by
  unfold tCopy
  dsimp only
  split
  · exact tSkip_canonical h
  · exact h
  · split
    · exact tSkip_canonical h
    · exact h
    · exact gather_canonical h (fun _ => tStore_canonical h)

theorem tFill_canonical {p : RecProg} : (tFill p s).Canonical := by
  unfold tFill
  dsimp only
  split
  · exact tSkip_canonical h
  · exact h
  · exact tStore_canonical h

theorem tMulticast_canonical {p : RecProg} : (tMulticast p s).Canonical := by
  unfold tMulticast
  dsimp only
  split
  · exact tSkip_canonical h
  · exact h
  · split
    · exact tSkip_canonical h
    · exact h
    · exact gather_canonical h (fun _ => h.putChained)

theorem tGather_canonical {p : RecProg} : (tGather p s).Canonical := by
  unfold tGather
  dsimp only
  split
  · exact tSkip_canonical h
  · exact h
  · split
    · exact tSkip_canonical h
    · exact h
    · refine gather_canonical h (fun _ => ?_)
      split
      · exact tStore_canonical h
      · split
        · exact tSkip_canonical h
        · exact h
        · exact gather_canonical h (fun _ => tStore_canonical h)

theorem tScatter_canonical {k : TKind} {access : AccKind} {put : State → Place → List Byte → Res} {p : RecProg}
    (hp : ∀ d bs, (put s d bs).Canonical) : (tScatter k access put p s).Canonical := by
  have source : ∀ next : Place → Res, (∀ a, (next a).Canonical) →
      (match tOperand s (tAddr p p.fields.a p.baseA (esBytes p.fields.opm) false) k.aRange .load (esBytes p.fields.opm) with
        | .skip => tSkip p s
        | .fault f => f.res s
        | .at a => next a).Canonical := by
    intro next hn
    split
    · exact tSkip_canonical h
    · exact h
    · exact hn _
  unfold tScatter
  dsimp only
  split
  · exact tSkip_canonical h
  · exact source _ (fun _ => h)
  · refine gather_canonical h (fun _ => ?_)
    split
    · exact source _ (fun _ => h)
    · split
      · exact tSkip_canonical h
      · exact h
      · exact source _ (fun _ => gather_canonical h (fun _ => hp _ _))

theorem tUpdate_canonical {p : RecProg} {d : Place} {bs : List Byte} : (tUpdate p s d bs).Canonical := .ite h.queueChained h

theorem tagCheck_canonical {p : RecProg} {r : Res} (hr : tagCheck s p = some r) : r.Canonical := by
  unfold tagCheck at hr
  dsimp only at hr
  split at hr
  · split at hr
    · exact Option.some.inj hr ▸ h
    · exact Option.some.inj hr ▸ h
    · split at hr
      · exact Option.some.inj hr ▸ h
      · split at hr
        · cases hr
        · exact Option.some.inj hr ▸ h
  · cases hr

theorem tHead_canonical {p : RecProg} : HeadCanonical (tHead s p) := by
  unfold tHead
  dsimp only
  split
  · exact h
  · split
    · next hr => exact tagCheck_canonical h hr
    · exact h

theorem execTransfer_canonical {i : Instr} {y : Syn} : NextCanonical (startRecord i y tHead s) := startRecord_canonical h (fun _ _ k => tHead_canonical k)

theorem tSingle_canonical {k : TKind} {p : RecProg} : (tSingle k p s).Canonical := by
  have k1 := fun p => h.setProg (p := p)
  unfold tSingle
  dsimp only
  split
  · next hr =>
    split at hr
    · exact tagCheck_canonical (k1 _) hr
    · cases hr
  · refine .ite (MemoryCanonical.putChained (k1 _).setProg) ?_
    have k2 := fun p p' => (k1 p).setProg (p := p')
    cases k
    case ldx | stx | cpx | bmx => exact tCopy_canonical (k2 _ _)
    case mcx => exact tMulticast_canonical (k2 _ _)
    case zfx => exact tFill_canonical (k2 _ _)
    case gthx => exact tGather_canonical (k2 _ _)
    case sctx => exact tScatter_canonical (k2 _ _) (fun _ _ => tStore_canonical (k2 _ _))
    case scacc => exact tScatter_canonical (k2 _ _) (fun _ _ => tUpdate_canonical (k2 _ _))

theorem execBmld_canonical {y : Syn} {o : E2} : NextCanonical (execBmld y o s) := by
  refine h.run (fun s k => ?_)
  dsimp only
  split
  · exact k
  · exact k.loadIssue

theorem execSccfg_canonical {y : Syn} {o : E2} : NextCanonical (execSccfg y o s) := h.run (fun _ k => k.setHere _)

theorem execTagx_canonical {y : Syn} {o : E2} : NextCanonical (execTagx y o s) := by
  refine h.run (fun s k => .ite ?_ k)
  dsimp only
  split
  · exact k
  · split
    · exact .ite (k.setCoreOf _ rfl) k
    · exact k

end vector
end Sys2Proof

namespace Sys2Proof

open Sys2Proof.Machine

section matrix
variable {s : State} (h : MemoryCanonical s)
include h

/-! #### The matrix sequencer -/

theorem versionTrap_canonical {p : RecProg} {r : Res} (hr : versionTrap s p = some r) : r.Canonical := by
  unfold versionTrap at hr
  dsimp only at hr
  split at hr
  · exact Option.some.inj hr ▸ h
  · cases hr

theorem mmaTag_canonical {p : RecProg} {last : Option Nat} {r : Res} (hr : mmaTag s p last = .error r) : r.Canonical := by
  unfold mmaTag at hr
  dsimp only at hr
  split at hr
  · split at hr
    · exact Except.error.inj hr ▸ h
    · split at hr
      · exact Except.error.inj hr ▸ h
      · cases hr
    · split at hr
      · split at hr
        · cases hr
        · split at hr
          · cases hr
          · exact Except.error.inj hr ▸ h
      · exact Except.error.inj hr ▸ h
  · cases hr

theorem mHead_canonical {k : MKind} {p : RecProg} : HeadCanonical (mHead k s p) := by
  have hs := fun t => h.setHere t
  unfold mHead
  refine HeadCanonical.ite h (HeadCanonical.ite h ?_)
  dsimp only
  split
  · exact .ite h h
  · refine HeadCanonical.ite h (HeadCanonical.ite h (HeadCanonical.ite h ?_))
    split
    · split
      · exact h
      · split
        · next he => exact (readPlaces_keeps ownReader_keeps _ _ s h).res he
        · next hx => exact ((readPlaces_keeps ownReader_keeps _ _ s h).ok hx).setHere _
    · split
      · next hr => exact versionTrap_canonical h hr
      · split
        · next hr => exact mmaTag_canonical h hr
        · exact hs _
    · split
      · next hr => exact versionTrap_canonical h hr
      · split
        · exact h
        · exact hs _
    · exact hs _

theorem execMatrixRecord_canonical {i : Instr} {y : Syn} {k : MKind} : NextCanonical (startRecord i y (mHead k) s) :=
  startRecord_canonical h (fun _ _ k => mHead_canonical k)

theorem wldSingle_canonical {p : RecProg} : (wldSingle p s).Canonical := by
  unfold wldSingle
  refine .ite h ?_
  dsimp only
  split
  · exact h
  · refine gather_canonical h (fun _ => ?_)
    exact h.setHere _

theorem mmaSingle_canonical {p : RecProg} : (mmaSingle p s).Canonical := by
  unfold mmaSingle
  dsimp only
  split
  · exact h
  · split
    · next hr =>
      split at hr
      · exact mmaTag_canonical h hr
      · cases hr
    · split
      · exact h
      · exact gather_canonical h (fun _ => (h.setHere _).setProg)

theorem adrnSingle_canonical {p : RecProg} : (adrnSingle p s).Canonical := by
  unfold adrnSingle
  dsimp only
  split
  · exact h
  · split
    · exact h
    · split
      · exact h
      · exact h.putChained

theorem gateSingle_canonical {p : RecProg} : (gateSingle p s).Canonical := by
  unfold gateSingle
  dsimp only
  split
  · exact h
  · refine gather_canonical h (fun _ => ?_)
    split
    · exact h
    · split
      · exact h
      · exact h.putChained

theorem asaveSingle_canonical {p : RecProg} : (asaveSingle p s).Canonical := by
  unfold asaveSingle
  dsimp only
  split
  · exact h
  · exact h
  · exact h.putChained

theorem aloadSingle_canonical {p : RecProg} : (aloadSingle p s).Canonical := by
  unfold aloadSingle
  dsimp only
  split
  · exact h
  · exact h
  · exact gather_canonical h (fun _ => h.setHere _)

theorem mResumed_canonical {k : MKind} {p : RecProg} {r : Res} (hr : mResumed k s p = .error r) : r.Canonical := by
  unfold mResumed at hr
  split at hr
  · cases hr
  · split at hr
    · next hv =>
      split at hv
      · exact Except.error.inj hr ▸ versionTrap_canonical h hv
      · cases hv
    · split at hr
      · cases ht : mmaTag s p none with
        | error e =>
          rw [ht] at hr
          exact Except.error.inj hr ▸ mmaTag_canonical h ht
        | ok b =>
          rw [ht] at hr
          cases hr
      · cases hr

theorem mSingle_canonical {k : MKind} {p : RecProg} : (mSingle k p s).Canonical := by
  have k1 := fun p => h.setProg (p := p)
  unfold mSingle
  split
  · next hr => exact mResumed_canonical (k1 _) hr
  · refine .ite (MemoryCanonical.putChained (k1 _)) ?_
    cases k with
    | wld => exact wldSingle_canonical (k1 _)
    | mma => exact mmaSingle_canonical (k1 _)
    | gate => exact gateSingle_canonical (k1 _)
    | adrn => exact adrnSingle_canonical (k1 _)
    | asave => exact asaveSingle_canonical (k1 _)
    | aload => exact aloadSingle_canonical (k1 _)

theorem execAswap_canonical {y : Syn} {acc : BitVec 2} : NextCanonical (execAswap y acc s) := h.run (fun _ k => k.setHere _)

theorem execAzero_canonical {y : Syn} {bank acc : BitVec 2} : NextCanonical (execAzero y bank acc s) := h.run (fun _ k => k.setHere _)

theorem execAchk_canonical {y : Syn} {bank acc : BitVec 2} : NextCanonical (execAchk y bank acc s) := by
  refine h.run (fun s k => ?_)
  split
  · exact k
  · exact k

theorem execAvset_canonical {y : Syn} {o : E2} : NextCanonical (execAvset y o s) := h.run (fun _ k => k.setHere _)

theorem execFdrop_canonical {y : Syn} {n : BitVec 5} : NextCanonical (execFdrop y n s) :=
  h.run (fun _ k => .ite (.ite k k) (.ite k (k.setHere _)))

theorem execEpsset_canonical {y : Syn} {o : E2} : NextCanonical (execEpsset y o s) := h.run (fun _ k => k.setHere _)

/-! #### Semaphores and fences -/

theorem MemoryCanonical.semPut {k : Nat} {v : BitVec 32} : MemoryCanonical (semPut s k v) := h.setPart _ _

omit h in
theorem MemoryCanonical.grantSem {k : Nat} {ws : List SemWaiter} {s : State} (h : MemoryCanonical s) : MemoryCanonical (grantSem s k ws) := by
  induction ws generalizing s with
  | nil => exact h
  | cons w ws ih =>
    unfold Machine.grantSem
    split
    · exact ih (MemoryCanonical.completeWaiting (h.semPut.setPart _ _))
    · exact ih h

theorem semChange_canonical {i : Instr} {y : Syn} {o : COp} {f : BitVec 32 → BitVec 32 → BitVec 32} : NextCanonical (semChange i y o f s) :=
  h.run (fun _ k => .ite (MemoryCanonical.grantSem k.semPut) k)

theorem execSemwait_canonical {y : Syn} {o : COp} : NextCanonical (execSemwait y o s) :=
  h.run (fun _ k => .ite k (.ite k.semPut (k.setPart _ _)))

theorem execQfence_canonical {y : Syn} {q : BitVec 4} : NextCanonical (execQfence y q s) := h.run (fun _ k => .ite k k)

theorem execFence_canonical {y : Syn} {scope : BitVec 2} : NextCanonical (execFence y scope s) := h.run (fun _ k => .ite k k)

theorem execRfence_canonical {y : Syn} {o : COp} : NextCanonical (execRfence y o s) := h.run (fun _ k => .ite k ((k.setHere _).setReg _ _))

/-! #### Launches -/

theorem MemoryCanonical.setBlk {part o n v : Nat} : MemoryCanonical (setBlk s part o n v) := h.partStore _ _

theorem MemoryCanonical.submitDesc {part parent : Nat} {d : BitVec 2048} {place : Option Nat} {child privOk : Bool} :
    MemoryCanonical (submitDesc s part d place child privOk parent).1 := by
  unfold Machine.submitDesc
  refine .ite_fst h ?_
  split
  · exact h
  · refine .ite_fst h ?_
    exact .ite ((h.setPart _ _).partStore _ _) (h.setPart _ _)

theorem MemoryCanonical.mailDone {host : Bool} {cmd status : Nat} {ops : List Nat} : MemoryCanonical (mailDone s host cmd status ops) := by
  unfold Machine.mailDone
  cases host
  · exact h.of_fields rfl rfl
  · exact h.of_fields rfl rfl

theorem MemoryCanonical.answerEntry {part entry : Nat} {own : Option LqOwn} {v : Word} : MemoryCanonical (answerEntry s part entry own v) := by
  unfold Machine.answerEntry
  dsimp only
  split
  · exact .ite (h.setPart _ _) h
  · exact .ite (h.setPart _ _).mailDone (h.setPart _ _)

theorem MemoryCanonical.takeEntry {part : Nat} : MemoryCanonical (takeEntry s part) := by
  have k := fun o n v => h.setBlk (part := part) (o := o) (n := n) (v := v)
  unfold Machine.takeEntry
  dsimp only
  split
  · exact .ite ((k _ _ _).setPart _ _) (k _ _ _).submitDesc.answerEntry
  · exact (k _ _ _).submitDesc.answerEntry

omit h in
theorem MemoryCanonical.takeEntries {part n : Nat} {s : State} (h : MemoryCanonical s) : MemoryCanonical (takeEntries n s part) := by
  induction n generalizing s with
  | zero => exact h
  | succ n ih =>
    unfold Machine.takeEntries
    split
    · exact ih h.takeEntry
    · exact h

theorem MemoryCanonical.takeQueue {part : Nat} : MemoryCanonical (takeQueue s part) := h.takeEntries

theorem MemoryCanonical.enterQueue {part core bank launch : Nat} {priv : Bool} {d : BitVec 2048} :
    MemoryCanonical (enterQueue s part core bank launch priv d) :=
  MemoryCanonical.takeQueue ((h.partStore _ _).setBlk.setPart _ _)

theorem turnDigest_canonical {part id range : Nat} : NextCanonical (turnDigest part id range s) := by
  unfold turnDigest
  split
  · exact h
  · refine h.event ?_
    exact MemoryCanonical.setPart (MemoryCanonical.fold _ (fun _ _ k => k.findErrors _ _) _ _ (h.serveWheel _ _)) _ _

theorem MemoryCanonical.completeRecord {part : Nat} {l : Launch} : MemoryCanonical (completeRecord s part l) :=
  .setPart (.partStore (.ite (h.partStore _ _) h) _ _) _ _

theorem execLaunchRecordFinal_canonical {part : Nat} : NextCanonical (execLaunchRecordFinal part s) := by
  refine h.event ?_
  split
  · exact MemoryCanonical.ite h.completeRecord h
  · exact h

theorem MemoryCanonical.failLaunch {part id code : Nat} : MemoryCanonical (failLaunch s part id code) := h.setPart _ _

theorem MemoryCanonical.finishPrepare {part : Nat} {l : Launch} : MemoryCanonical (finishPrepare s part l) := by
  unfold Machine.finishPrepare
  split
  · exact h.failLaunch
  · exact h.setPart _ _

theorem MemoryCanonical.takeRecordSlot {part id : Nat} : MemoryCanonical (takeRecordSlot s part id) := by
  have k := fun o n v p => (h.setBlk (part := part) (o := o) (n := n) (v := v)).setPart part p
  unfold Machine.takeRecordSlot
  dsimp only
  split
  · exact (k _ _ _ _).partStore _ _
  · exact k _ _ _ _

theorem prepare_canonical {part : Nat} {l : Launch} : NextCanonical (prepare s part l) := by
  unfold prepare
  dsimp only
  split
  · split
    · exact h.failLaunch.setPart _ _
    · split
      · next hs => exact h.failLaunch.writeRecord hs
      · exact trivial
  · exact MemoryCanonical.finishPrepare (.ite h (h.setPart _ _))

theorem execLaunchPrepare_canonical {part : Nat} : NextCanonical (execLaunchPrepare part s) := by
  unfold execLaunchPrepare
  dsimp only
  split
  · exact h
  · refine h.event ?_
    have k := fun p l m => prepare_canonical (part := part) (l := m) ((h.setPart part p).takeRecordSlot (part := part) (id := l))
    split
    · next hs => exact MemoryCanonical.takeQueue (hs ▸ k _ _ _ : NextCanonical (.next _))
    · exact k _ _ _

theorem execLaunchStart_canonical {part id core : Nat} : NextCanonical (execLaunchStart part id core s) := by
  unfold execLaunchStart
  dsimp only
  split
  · exact h.event (MemoryCanonical.switchBank ((h.setPart _ _).setTask _ _ _))
  · exact h

theorem MemoryCanonical.noteSubmit : MemoryCanonical (noteSubmit s) := h.setPart _ _

theorem launchAnswer_canonical {i sd : Nat} : (launchAnswer s i sd).Canonical := by
  unfold launchAnswer
  split
  · exact (h.setPart _ _).setReg _ _
  · exact h

theorem execLaunch_canonical {y : Syn} {o : COp} : NextCanonical (execLaunch y o s) := by
  refine h.run (fun s h => ?_)
  split
  · exact launchAnswer_canonical h
  · split
    · next he => exact (readTask_canonical s _ _ _ _ h).res he
    · next r hr =>
      have k := (readTask_canonical s _ _ _ _ h).ok hr
      have hn := k.noteSubmit
      refine .ite k (.ite (hn.setReg _ _) ?_)
      have e : MemoryCanonical (Machine.enterQueue (Machine.noteSubmit r.1) r.1.here.part (myCore r.1) (myBank r.1) r.1.here.launch r.1.here.priv
        (BitVec.ofNat 2048 (leNat r.2))) := hn.enterQueue
      dsimp only
      refine launchAnswer_canonical ?_
      exact e

theorem execChild_canonical {y : Syn} {o : COp} : NextCanonical (execChild y o s) := by
  refine h.run (fun s h => ?_)
  split
  · next he => exact (readTask_canonical s _ _ _ _ h).res he
  · next hr =>
    have k := (readTask_canonical s _ _ _ _ h).ok hr
    exact .ite (k.noteSubmit.submitDesc.setReg _ _) k

theorem execTrap_canonical {y : Syn} {code : BitVec 14} : NextCanonical (execTrap y code s) := h.run (fun _ k => k)

theorem execHalt_canonical {y : Syn} : NextCanonical (execHalt y s) := h.run (fun _ k => k)

theorem MemoryCanonical.giveUp {sa n sd : Nat} : MemoryCanonical (giveUp s sa n sd) := by
  unfold Machine.giveUp
  exact .moveFlits (.setTask (.setPart h.departAll _ _) _ _ _)

theorem execYield_canonical {y : Syn} {o : COp} : NextCanonical (execYield y o s) :=
  h.run (fun _ k => .ite (.ite (.ite k k.giveUp) (k.setReg _ _)) k)

/-! #### Saves, records that waited, and answers -/

theorem saveTask_canonical {core bank : Nat} {slot : Option Nat} : NextCanonical (saveTask s core bank slot) := by
  unfold saveTask
  split
  · exact h
  · refine .ite ?_ trivial
    exact MemoryCanonical.turnOver (((h.writeImage _ _).moveFlits.setPart _ _).setTask _ _ _)

theorem MemoryCanonical.markPreempted {part id : Nat} : MemoryCanonical (markPreempted s part id) := h.setPart _ _

theorem execPreboundExpiry_canonical {core bank : Nat} : NextCanonical (execPreboundExpiry core bank s) := by
  unfold execPreboundExpiry
  split
  · exact h
  · refine h.event ?_
    dsimp only
    split
    · exact h.cutTask
    · exact .ite h.cutTask.endTask (saveTask_canonical h.cutTask.markPreempted)

theorem execUnansweredRecordExpiry_canonical {core bank : Nat} : NextCanonical (execUnansweredRecordExpiry core bank s) := by
  unfold execUnansweredRecordExpiry
  split
  · exact h
  · split
    · split
      · exact h
      · exact h.event (saveTask_canonical h.markPreempted)
    · exact h

theorem recordPreempt_canonical {core bank flags slot : Nat} : NextCanonical (recordPreempt s core bank flags slot) := by
  have k : NextCanonical (recordTrap s core bank 15 .preempt s.gt flags 0 slot) := h.recordTrap
  unfold recordPreempt
  split
  · next hs => exact saveTask_canonical (hs ▸ k : NextCanonical (.next _))
  · exact k

theorem execLateTrapRecord_canonical {core bank : Nat} : NextCanonical (execLateTrapRecord core bank s) := by
  unfold execLateTrapRecord
  split
  · exact latePend_canonical h
  · split
    · exact h
    · split
      · split
        · exact h.event h.trapNow
        · split
          · exact h.event (.ite (recordPreempt_canonical h) h.recordTrap)
          · exact h
      · exact h

end matrix
end Sys2Proof

namespace Sys2Proof

open Sys2Proof.Machine

section preempt
variable {s : State} (h : MemoryCanonical s)
include h

/-! #### Answers and restores -/

theorem MemoryCanonical.freeTqSlot {part slot : Nat} : MemoryCanonical (freeTqSlot s part slot) := (h.setPart _ _).partStore _ _

theorem MemoryCanonical.endSaved {part status : Nat} {x : Saved} {host : Bool} : MemoryCanonical (endSaved s part x status host) :=
  (h.setPart _ _).launchRankOver.moveFlits

theorem MemoryCanonical.actOn {part : Nat} {x : TqSlot} {resume : Bool} : MemoryCanonical (actOn s part x resume) := by
  unfold Machine.actOn
  dsimp only
  split
  · exact .ite (h.setPart _ _) h.endSaved
  · split
    · exact h
    · exact .ite h (.ite (.ite h.setHold h.resumeTask) h.endTask)

theorem MemoryCanonical.doorbell {part slot : Nat} : MemoryCanonical (doorbell s part slot) := by
  unfold Machine.doorbell
  dsimp only
  split
  · exact h
  · exact .ite h.actOn.freeTqSlot h

theorem MemoryCanonical.answer {part slot : Nat} {a : Byte} : MemoryCanonical (answer s part slot a) := (h.partStore _ _).doorbell

theorem execAnswerResume_canonical {part slot : Nat} : NextCanonical (execAnswerResume part slot s) := h.event h.answer

theorem execAnswerEnd_canonical {part slot : Nat} : NextCanonical (execAnswerEnd part slot s) := h.event h.answer

theorem refuseRestore_canonical {part : Nat} {x : Saved} {r : TrapRec} : NextCanonical (refuseRestore s part x r) := by
  unfold refuseRestore
  dsimp only
  split
  · split
    · exact trivial
    · next hs => exact ((h.writeRecord hs).setPart _ _).endSaved
  · split
    · exact (h.endSaved.stopPartition.setPart _ _).say _
    · split
      · exact trivial
      · next hs => exact ((h.writeRecord hs).setPart _ _).endSaved

theorem restoreSaved_canonical {part bank : Nat} {l : Launch} {x : Saved} : NextCanonical (restoreSaved s part bank l x) := by
  unfold restoreSaved
  dsimp only
  split
  · exact refuseRestore_canonical (.ite h (h.poisonLine _))
  · split
    · exact refuseRestore_canonical h
    · exact (((h.correctAt _ _).setPart _ _).setTask _ _ _).moveFlits.endIfOver.switchBank

theorem MemoryCanonical.restoreYielded {part core bank : Nat} {l : Launch} {y : Yielded} : MemoryCanonical (restoreYielded s part core bank l y) :=
  MemoryCanonical.switchBank ((h.setPart _ _).setTask _ _ _)

theorem execTaskRestore_canonical {core bank : Nat} : NextCanonical (execTaskRestore core bank s) := by
  unfold execTaskRestore
  split
  · exact h
  · refine h.event ?_
    split
    · exact restoreSaved_canonical h
    · exact h.restoreYielded
    · exact h

/-! #### The mailbox -/

theorem command_canonical {host : Bool} {cmd status : Nat} {ops : List Nat} {f : State → Host.Outcome State Fault Refusal}
    (hf : ∀ s, MemoryCanonical s → NextCanonical (f s)) : NextCanonical (command s host cmd ops status f) :=
  h.event (.ite (hf _ h.mailDone) h.mailDone)

theorem MemoryCanonical.createPartition {first size addr : Nat} : MemoryCanonical (createPartition s first size addr) :=
  MemoryCanonical.fold _ (fun _ _ k => k.setCore _ _ rfl) _ _ (h.setPart _ _)

theorem execRegpart_canonical {first size addr : Nat} {host : Bool} : NextCanonical (execRegpart first size addr host s) :=
  command_canonical h (fun _ k => MemoryCanonical.ite (k.setPart _ _) k.createPartition)

theorem execRegtq_canonical {first addr : Nat} {host : Bool} : NextCanonical (execRegtq first addr host s) :=
  command_canonical h (f := fun s => .next (s.setPart first { s.part first with tqBlock := addr })) (fun _ k => k.setPart _ _)

theorem cutByCommand_canonical {core bank : Nat} {t : Task} : NextCanonical (cutByCommand s core bank t) := by
  unfold cutByCommand
  split
  · exact h.setTask _ _ _
  · exact recordPreempt_canonical h

theorem execCut_canonical {core bank : Nat} {host : Bool} : NextCanonical (execCut core bank host s) := by
  have k := fun n => h.mailDone (host := host) (cmd := 3) (status := n) (ops := [core, bank])
  refine h.event (.ite (k _) ?_)
  split
  · exact k _
  · exact .ite (k _) (.ite (k _) (cutByCommand_canonical (k _)))

theorem execReadbank_canonical {core bank dst : Nat} {host : Bool} : NextCanonical (execReadbank core bank dst host s) := by
  have no := fun n => command_canonical h (host := host) (cmd := 4) (ops := [core, bank, dst]) (status := n) (f := fun s => .next s) (fun _ k => k)
  refine .ite (no _) ?_
  dsimp only
  split
  · exact no _
  · exact .ite (no _) (command_canonical h (fun _ k => .ite (k.writeImage _ _) trivial))

theorem MemoryCanonical.endLaunchOf {part id : Nat} : MemoryCanonical (endLaunchOf s part id) := by
  have cores : ∀ (l : List Nat) (s : State), MemoryCanonical s → MemoryCanonical (l.foldl (fun s n => [0, 1].foldl (fun s b =>
      match s.task? n b with
      | some t => if t.launch == id && t.part == part then Machine.endTask ((Machine.cutTask s n b).1) n b 8 true else s
      | none => s) s) s) := fun l s k =>
    MemoryCanonical.fold _ (fun s n k => MemoryCanonical.fold _ (fun s b k => by
      split
      · exact .ite k.cutTask.endTask k
      · exact k) _ _ k) _ _ k
  unfold Machine.endLaunchOf
  refine MemoryCanonical.fold _ (fun _ _ k => k.switchBank) _ _ (.takeQueue (.setPart ?_ _ _))
  refine MemoryCanonical.fold _ (fun _ _ k => k.launchRankOver) _ _ (MemoryCanonical.fold _ (fun _ _ k => k.endSaved) _ _ ?_)
  exact cores _ _ (.ite h.takeRecordSlot h)

theorem execEndlaunch_canonical {id : Nat} {host : Bool} : NextCanonical (execEndlaunch id host s) := by
  unfold execEndlaunch
  dsimp only
  split
  · exact command_canonical h (fun _ k => k)
  · exact command_canonical h (fun _ k => k.endLaunchOf)

theorem execSubmit_canonical {first desc : Nat} {host : Bool} : NextCanonical (execSubmit first desc host s) := by
  unfold execSubmit
  refine command_canonical h (fun s k => ?_)
  split
  · exact k.mailDone
  · split
    · exact k.mailDone
    · exact MemoryCanonical.enterQueue k.mailDone

theorem execLqtailWrite_canonical {first : Nat} {tail : BitVec 32} : NextCanonical (execLqtailWrite first tail s) :=
  h.event (MemoryCanonical.ite (h.setPart _ _) h.setBlk.takeQueue)

theorem mailCommand_canonical {host : Bool} : NextCanonical (mailCommand host s) := by
  unfold mailCommand
  refine .ite h ?_
  dsimp only
  split
  · exact execRegpart_canonical h
  · exact execRegtq_canonical h
  · exact execCut_canonical h
  · exact execReadbank_canonical h
  · exact execEndlaunch_canonical h
  · exact execSubmit_canonical h
  · exact h.event h.mailDone

/-! #### The sorus -/

theorem sendSpore_canonical {n img sd : Nat} : (sendSpore s n img sd).Canonical := by
  unfold sendSpore
  dsimp only
  split
  · exact h
  · have k := fun x off r => (h.withSorus (x := x)).agentSend (off := off) (r := r)
    exact .ite (k _ _ _) ((k _ _ _).setReg _ _)

theorem sporeBody_canonical {i : Instr} {o : COp} : (sporeBody i o s).Canonical := by
  unfold sporeBody
  dsimp only
  split
  · exact .ite h (h.setReg _ _)
  · refine .ite h ?_
    split
    · next he => exact (readTask_canonical s _ _ _ _ h).res he
    · next hx =>
      have k := (readTask_canonical s _ _ _ _ h).ok hx
      exact .ite k (.ite (k.setReg _ _) (.ite (k.setReg _ _) (.ite (k.setReg _ _) (sendSpore_canonical k))))

theorem execSpore_canonical {y : Syn} {o : COp} : NextCanonical (execSpore y o s) := h.run (fun _ k => sporeBody_canonical k)

theorem sorwBody_canonical {i : Instr} {o : COp} : (sorwBody i o s).Canonical := by
  unfold sorwBody
  refine .ite h (.ite (h.setReg _ _) (.ite (h.setReg _ _) ?_))
  have k : ∀ n, MemoryCanonical (if (s.sorus.step? n).isSome = true then s else reviewAll (Machine.openStep s n)) := fun _ => .ite h h.openStep.review
  dsimp only
  split
  · exact k _
  · exact .ite ((k _).withSorus.setReg _ _) (k _)

theorem execSorw_canonical {y : Syn} {o : COp} : NextCanonical (execSorw y o s) := h.run (fun _ k => sorwBody_canonical k)

theorem execSorusRecordArrival_canonical {off sender : Nat} {record : BitVec 256} : NextCanonical (execSorusRecordArrival off record sender s) :=
  h.event (MemoryCanonical.ite (h.ringArrive.say _) h.ringArrive)

theorem MemoryCanonical.gapPost {step dst : Nat} {m : GapMsg} : MemoryCanonical (gapPost s step dst m) := h.of_fields rfl rfl

theorem turnGap_canonical {id port : Nat} : NextCanonical (turnGap id port s) := by
  unfold turnGap
  split
  · exact h
  · exact h.event ((h.serveWheel _ _).say _).withSorus

theorem MemoryCanonical.askNext {t : SorStep} : MemoryCanonical (askNext s t) := by
  unfold Machine.askNext
  dsimp only
  split
  · exact .ite h.withSorus (h.withSorus.say _)
  · split
    · exact h.withSorus.gapPost
    · exact h.withSorus

theorem execSorusStepDeadline_canonical {step : Nat} : NextCanonical (execSorusStepDeadline step s) := by
  unfold execSorusStepDeadline
  split
  · exact h
  · exact h.event h.askNext

theorem MemoryCanonical.sealStep {t : SorStep} : MemoryCanonical (Machine.sealStep s t) :=
  .agentSend (MemoryCanonical.fold _ (fun _ _ k => k.agentSend) _ _ h.withSorus)

theorem execSorusSeal_canonical {step : Nat} : NextCanonical (execSorusSeal step s) := by
  unfold execSorusSeal
  split
  · exact h
  · exact h.event h.sealStep

theorem MemoryCanonical.serveGap {req : BitVec 1024} : MemoryCanonical (serveGap s req) := by
  unfold Machine.serveGap
  dsimp only
  split
  · exact h.gapPost
  · split
    · exact h.gapPost
    · refine MemoryCanonical.fold _ (fun _ _ k => ?_) _ _ h
      exact k.gapPost

theorem execGapRequestArrival_canonical {req : BitVec 1024} : NextCanonical (execGapRequestArrival req s) := by
  unfold execGapRequestArrival
  dsimp only
  split
  · exact h.event (h.say _)
  · exact h.event ((h.performAt _ _).say _).serveGap

theorem MemoryCanonical.takeGapReply {rep : BitVec 512} : MemoryCanonical (takeGapReply s rep) := by
  unfold Machine.takeGapReply
  refine .ite ?_ (.ite h h.ringArrive)
  split
  · exact h
  · exact .ite h.withSorus h.withSorus.askNext

theorem execGapReplyArrival_canonical {rep : BitVec 512} : NextCanonical (execGapReplyArrival rep s) := h.event (h.takeGapReply.say _)

theorem execGapRetransmit_canonical {step : Nat} : NextCanonical (execGapRetransmit step s) :=
  h.event (MemoryCanonical.fold _ (fun _ _ k => k.gapPost) _ _ h.withSorus)

theorem execSorusGapBound_canonical {core : Nat} : NextCanonical (execSorusGapBound core s) := by
  unfold execSorusGapBound
  split
  · exact h
  · next ht =>
    split
    · exact h
    · split
      · exact h
      · exact h.event (h.onTurn ht).trapUndone

theorem MemoryCanonical.sorfirst {v : BitVec 32} : MemoryCanonical (sorfirst s v) := by
  unfold Machine.sorfirst
  dsimp only
  split
  · exact h.withSorus
  · exact h.withSorus.clearHbm _ _

theorem execSorfirstWrite_canonical {v : BitVec 64} : NextCanonical (execSorfirstWrite v s) := h.event h.sorfirst

/-! #### CSRs and the feeding of the engines -/

theorem MemoryCanonical.gtadjWrite {v : Word} : MemoryCanonical (gtadjWrite s v) := .ite (h.of_fields rfl rfl) h

theorem MemoryCanonical.pstatClear {first : Nat} {v : Word} : MemoryCanonical (pstatClear s first v) := h.setPart _ _

theorem MemoryCanonical.pstatRing {first : Nat} {v : Word} : MemoryCanonical (pstatRing s first v) := .ite h.doorbell h

theorem MemoryCanonical.partCsrWrite {first n : Nat} {v : Word} : MemoryCanonical (partCsrWrite s first n v) :=
  .ite h.pstatClear.pstatRing (.ite h (h.setPart _ _))

theorem MemoryCanonical.moduleCsrWrite {n : Nat} {v : Word} : MemoryCanonical (moduleCsrWrite s n v) :=
  .ite h.gtadjWrite (.ite h.withSorus (.ite h.sorfirst (.ite h.withSorus (.ite h.withSorus (.ite h.withSorus (.ite h.withSorus
    (.ite (h.of_fields rfl rfl) h)))))))

theorem MemoryCanonical.coreCsrWrite {core n : Nat} {v : Word} : MemoryCanonical (coreCsrWrite s core n v) := .ite (h.setCoreOf _ rfl) h

theorem MemoryCanonical.csrWrite {n : Nat} {v : Word} : MemoryCanonical (csrWrite s n v) := by
  unfold Machine.csrWrite
  split
  · exact h.partCsrWrite
  · exact h.moduleCsrWrite
  · exact h.coreCsrWrite
  · exact .ite (h.setHere _) h

theorem execCsrr_canonical {y : Syn} {o : COp} : NextCanonical (execCsrr y o s) := h.run (fun _ k => k.setReg _ _)

theorem execCsrw_canonical {y : Syn} {o : COp} : NextCanonical (execCsrw y o s) :=
  h.run (fun _ k => .ite ⟨k.pstatClear.setReg _ _, fun _ k => k.pstatRing⟩ (k.csrWrite.setReg _ _))

theorem execSetkey_canonical {y : Syn} {o : COp} : NextCanonical (execSetkey y o s) := h.run (fun _ k => ((k.setPart _ _).setHere _).setReg _ _)

theorem execStart_canonical {y : Syn} {m v t : Bool} : NextCanonical (execStart y m v t s) := h.run (fun _ k => k.setHere _)

theorem execParam_canonical {y : Syn} {o : COp} : NextCanonical (execParam y o s) := h.run (fun _ k => .ite (k.setHere _) k)

theorem execFmtq_canonical {y : Syn} {o : COp} : NextCanonical (execFmtq y o s) := h.run (fun _ k => .ite (k.setHere _) k)

theorem execSig_canonical {y : Syn} {e : BitVec 2} {n : BitVec 8} : NextCanonical (execSig y e n s) := h.run (fun _ k => .ite (k.setHere _) k)

theorem execWait_canonical {y : Syn} {e : BitVec 2} {n : BitVec 8} : NextCanonical (execWait y e n s) := h.run (fun _ k => .ite (k.setHere _) k)

end preempt

section external
variable {s : State} (h : MemoryCanonical s)
include h

/-! #### What comes from outside -/

theorem MemoryCanonical.lockTime {jump : Nat} : MemoryCanonical (lockTime s jump) := h.of_fields rfl rfl

theorem execTimingMessage_canonical {corr : Int} : NextCanonical (execTimingMessage corr s) := h.event (MemoryCanonical.of_fields h rfl rfl)

theorem execTimelockReady_canonical {jump : Nat} : NextCanonical (execTimelockReady jump s) := h.event h.lockTime

theorem execTimelockLost_canonical : NextCanonical (execTimelockLost s) := h.event (MemoryCanonical.of_fields h rfl rfl)

theorem execPatrolScrub_canonical {line : Nat} {find : ScrubFind} : NextCanonical (execPatrolScrub line find s) := by
  cases find with
  | clean => exact h
  | correctable raced => exact h.event (MemoryCanonical.ite (h.noteEcc ..) (h.correctLine _))
  | uncorrectable => exact h.event (MemoryCanonical.say (.ite (h.poisonLine _) (h.noteEcc ..)) _)

theorem turnLineUpset_canonical {line symbols : Nat} : NextCanonical (turnLineUpset line symbols s) :=
  h.event (MemoryCanonical.of_fields h rfl rfl)

theorem MemoryCanonical.upsetTask {core bank : Nat} {w : BadWord} : MemoryCanonical (upsetTask s core bank w) := by
  unfold Machine.upsetTask
  split
  · exact h
  · exact .ite h (h.setTask _ _ _)

theorem MemoryCanonical.upsetAcc {core bank a b k : Nat} {flip : BitVec 96} : MemoryCanonical (upsetAcc s core bank a b k flip) := by
  unfold Machine.upsetAcc
  split
  · exact h
  · exact h.setTask _ _ _

theorem turnWordUpset_canonical {w : UpsetAt} : NextCanonical (turnWordUpset w s) := by
  refine h.event ?_
  cases w with
  | spad core k => exact MemoryCanonical.ite (h.setCoreOf _ rfl) h
  | v | k | pq | fq => exact MemoryCanonical.ite h.upsetTask h
  | acc core bank a b k flip => exact MemoryCanonical.ite h.upsetAcc h

theorem turnFecDiscard_canonical {port : Nat} : NextCanonical (turnFecDiscard port s) := h.event (MemoryCanonical.of_fields h rfl rfl)

theorem turnPort_canonical {core : Nat} {busy : Bool} : NextCanonical (turnPort core busy s) := h.event (MemoryCanonical.of_fields h rfl rfl)

theorem execBar2Read_canonical {off len : Nat} : NextCanonical (execBar2Read off len s) :=
  h.event (MemoryCanonical.ite (h.say _) ((h.findErrors _ _).say _))

theorem execBar2Write_canonical {off : Nat} {bytes : List Byte} : NextCanonical (execBar2Write off bytes s) :=
  h.event (MemoryCanonical.ite (h.of_fields rfl rfl) (h.partStore _ _))

theorem MemoryCanonical.writeExtent {core bank entry : Nat} {e : Extent} : MemoryCanonical (writeExtent s core bank entry e) := by
  refine .ite ?_ (h.of_fields rfl rfl)
  split
  · exact .ite h (h.setTask _ _ _)
  · exact h

theorem MemoryCanonical.writeReg {r : MgmtReg} {v : BitVec 256} : MemoryCanonical (writeReg s r v) := by
  unfold Machine.writeReg
  cases r
  case bar0 | mbdoor => exact h
  case moduleNumber | domainShape | mailbox | slotWheel | slotOwner | slotMask => exact .ite (h.of_fields rfl rfl) h
  case measure =>
    have k : ∀ i d, MemoryCanonical (extendMeas s i d) := fun i d => by
      unfold extendMeas
      exact h.of_fields rfl rfl
    exact .ite (k _ _) h
  case islandVoltage => exact .ite h (h.of_fields rfl rfl)
  case partCsr => exact .ite h.partCsrWrite h
  case moduleCsr => exact .ite h.moduleCsrWrite h
  case coreCsr => exact .ite h.coreCsrWrite h
  case hostDrop => exact h.of_fields rfl rfl
  case extent => exact .ite h.writeExtent h

theorem writeBar0_canonical {off : Nat} {w : Word} : NextCanonical (writeBar0 off w s) :=
  .ite (MemoryCanonical.ite (h.of_fields rfl rfl) h) (.ite (MemoryCanonical.of_fields h rfl rfl)
    (.ite (MemoryCanonical.of_fields h rfl rfl) (.ite (mailCommand_canonical h) (.ite (execLqtailWrite_canonical h) h))))

theorem execRegisterWrite_canonical {r : MgmtReg} {v : BitVec 256} : NextCanonical (execRegisterWrite r v s) := by
  unfold execRegisterWrite
  split
  · exact h.event (mailCommand_canonical h)
  · exact h.event (writeBar0_canonical h)
  · exact h.event h.writeReg

theorem turnBar0Read_canonical {off : Nat} : NextCanonical (turnBar0Read off s) := h.event (h.say _)

theorem execAttestationReport_canonical {nonce : BitVec 256} : NextCanonical (execAttestationReport nonce s) := h.event (h.say _)

omit h in
/-- A state that lists no byte and no core is canonical. -/
theorem MemoryCanonical.of_empty (hh : s.hbm = []) (hc : s.cores = []) : MemoryCanonical s :=
  ⟨by rw [hh]; rfl, fun n => by rw [State.core, hc]; rfl⟩

theorem MemoryCanonical.bootAt {stage err : Nat} : MemoryCanonical (bootAt s stage err) := h.of_fields rfl rfl

theorem MemoryCanonical.bootVerify {image : List Byte} {readOk : Bool} : MemoryCanonical (bootVerify s image readOk) := by
  unfold Machine.bootVerify
  refine .ite h.bootAt (.ite h.bootAt (.ite h.bootAt (.ite h.bootAt ?_)))
  have k : ∀ m, MemoryCanonical { s with meas := m } := fun _ => h.of_fields rfl rfl
  exact (k _).bootAt.say _

theorem execModuleReset_canonical {hostBoot : Bool} {image : List Byte} {readOk : Bool} : NextCanonical (execModuleReset hostBoot image readOk s) := by
  have k : MemoryCanonical { powerReset s with bootsrc := hostBoot, modNum := s.modNum, domshape := s.domshape } := .of_empty rfl rfl
  exact h.event (MemoryCanonical.ite k.bootAt k.bootVerify)

theorem execBootHostBuffer_canonical {addr : BitVec 64} {image : List Byte} {readOk : Bool} : NextCanonical (execBootHostBuffer addr image readOk s) := by
  have k : ∀ b, MemoryCanonical { s with bootstat := b } := fun _ => h.of_fields rfl rfl
  exact h.event (k _).bootVerify

theorem execPwrok_canonical : NextCanonical (execPwrok s) := .ite h (MemoryCanonical.of_fields h rfl rfl)

theorem execRailLoss_canonical {rail : Nat} : NextCanonical (execRailLoss rail s) :=
  .ite (MemoryCanonical.of_empty rfl rfl) h

theorem MemoryCanonical.setIsland {island f : Nat} : MemoryCanonical (setIsland s island f) := .ite h (h.of_fields rfl rfl)

theorem execIslandFrequencyChange_canonical {island f : Nat} : NextCanonical (execIslandFrequencyChange island f s) := h.event h.setIsland

theorem execThermalThrottle_canonical {die f : Nat} : NextCanonical (execThermalThrottle die f s) := by
  refine h.event (MemoryCanonical.say (.ite ?_ h) _)
  have slow : ∀ (s : State) (i : Nat), MemoryCanonical s → MemoryCanonical (if f < Sparse.get 940 s.island i then Machine.setIsland s i f else s) :=
    fun _ _ k => .ite k.setIsland k
  exact slow _ _ (slow _ _ h)

theorem execThermtrip_canonical {die : Nat} : NextCanonical (execThermtrip die s) :=
  h.event (MemoryCanonical.of_empty rfl rfl)

theorem execFunctionReady_canonical {f : ReadyFn} : NextCanonical (execFunctionReady f s) := by
  have put : ∀ k : Nat, MemoryCanonical { s with ready := s.ready ||| BitVec.ofNat 64 (2 ^ k) } := fun _ => h.of_fields rfl rfl
  refine h.event ?_
  cases f
  case mgmt | port | stack => exact .ite (put _) h
  case host | sorus | digest | crypto => exact put _
  case timelock => exact .ite h h.lockTime
  case cluster => exact .ite (MemoryCanonical.of_fields h rfl rfl) h

theorem execDriveDma_canonical {addr : Nat} {bytes : List Byte} : NextCanonical (execDriveDma addr bytes s) := h.event (.ite (h.partStore _ _) trivial)

theorem execSpdmMessage_canonical {stream : Nat} {key : BitVec 256} : NextCanonical (execSpdmMessage stream key s) :=
  h.event (MemoryCanonical.of_fields h rfl rfl)

end external
end Sys2Proof

namespace Sys2Proof

open Sys2Proof.Machine

section instructions
variable {s : State} (h : MemoryCanonical s)
include h

/-! #### The integer group, loads and stores, and time -/

theorem alu_canonical {i : Instr} {y : Syn} {o : COp} {ticks : Nat} {f : Word → Word → Word} : NextCanonical (alu i y o ticks f s) :=
  h.run (fun _ k => k.setReg _ _)

theorem execBins_canonical {y : Syn} {o : COp} : NextCanonical (execBins y o s) := h.run (fun _ k => k.setReg _ _)

theorem loadC_canonical {i : Instr} {y : Syn} {o : COp} {n : Nat} {sgn : Bool} : NextCanonical (loadC i y o n sgn s) := by
  refine h.run (fun s k => ?_)
  dsimp only
  split
  · exact k
  · split
    · exact .ite (k.pendLoads.setMe _) k.pendLoads
    · split
      · exact (k.readNow _ _).setReg _ _
      · exact k

theorem storeC_canonical {i : Instr} {y : Syn} {o : COp} {n : Nat} : NextCanonical (storeC i y o n s) := by
  refine h.run (fun s k => ?_)
  dsimp only
  split
  · exact k
  · next p _ =>
    refine .ite ?_ k
    have ks := k.storeAt (p := p) (bs := leBytes n (srcD s o).toNat)
    split <;> rename_i e <;> rw [e] at ks
    · exact ks
    · exact k
    · exact ks

theorem execLdsc_canonical {y : Syn} {o : COp} : NextCanonical (execLdsc y o s) := by
  refine h.run (fun s k => ?_)
  dsimp only
  split
  · exact k
  · split
    · exact k
    · exact MemoryCanonical.setReg (.ite ((k.readNow _ _).setMe _) (k.readNow _ _)) _ _

theorem execStsc_canonical {y : Syn} {o : COp} : NextCanonical (execStsc y o s) := by
  refine h.run (fun s k => ?_)
  split
  · exact k
  · split
    · exact k
    · exact (k.served _ _).performAt _ _

theorem execRdcc_canonical {y : Syn} {o : COp} : NextCanonical (execRdcc y o s) := h.run (fun _ k => k.setReg _ _)

theorem execRdgt_canonical {y : Syn} {o : COp} : NextCanonical (execRdgt y o s) := h.run (fun _ k => k.setReg _ _)

theorem execWaitt_canonical {y : Syn} {o : COp} : NextCanonical (execWaitt y o s) := h.run (fun _ k => .ite (k.setReg _ _) k)

theorem MemoryCanonical.alignRelease {mask : BitVec 32} : MemoryCanonical (alignRelease s mask) := by
  have free : ∀ (n b : Nat) (x : State), MemoryCanonical x → MemoryCanonical (match x.task? n b with
      | some t => if t.part == s.here.part && t.timed then x.setTask n b (some (releaseTask x.mcc mask t)) else x
      | none => x) := by
    intro n b x k
    split
    · exact .ite (k.setTask _ _ _) k
    · exact k
  refine MemoryCanonical.setHere (.ite ?_ (free _ _ _ h)) _
  exact MemoryCanonical.fold _ (fun _ _ k => MemoryCanonical.fold _ (fun _ _ k => free _ _ _ k) _ _ k) _ _ h

theorem alignBody_canonical {o : COp} : (alignBody o s).Canonical := .ite (.ite h (.ite h.alignRelease h)) (.ite h h)

theorem execAlign_canonical {y : Syn} {o : COp} : NextCanonical (execAlign y o s) := h.run (fun _ k => alignBody_canonical k)

/-! #### Vector arithmetic, permutations, draws and predicates -/

theorem vReduce_canonical {i : Instr} {y : Syn} {o : VOp} {wr empty : Nat} {val : Task → Nat → Nat × Flags} {op : Nat → Nat → Nat × Flags} :
    NextCanonical (vReduce i y o wr val op empty s) := vrun_canonical h (fun _ _ k => k.pendWrites)

theorem vPermute_canonical {i : Instr} {y : Syn} {o : VOp} {f : Task → Nat → Nat → Nat → Nat} : NextCanonical (vPermute i y o f s) :=
  vrun_canonical h (fun _ _ k => k.vput)

theorem rndRun_canonical {key x31 : Word} {k : RndKind} {o : VRndOp} {vd : Nat} : (rndRun s key k o vd x31).Canonical := .ite h h.pendWrites

theorem rndSingle_canonical {k : RndKind} {p : RecProg} : (rndSingle k p s).Canonical := .ite (rndRun_canonical h.setProg) h.setProg

theorem rndExec_canonical {i : Instr} {y : Syn} {k : RndKind} {f : VRndForm} : NextCanonical (rndExec i y k f s) := by
  unfold rndExec
  split
  · exact h.run (fun _ k => rndRun_canonical k)
  · exact startRecord_canonical h (fun _ _ k => k)

theorem execVcat_canonical {y : Syn} {o : VRndOp} : NextCanonical (execVcat y o s) := h.run (fun _ k => .ite k k.pendWrites)

theorem vConv_canonical {i : Instr} {y : Syn} {o : VOp} {tys : List Nat} {src dst lat : Nat} {f : Task → Nat → Nat → Nat × Flags} :
    NextCanonical (vConv i y o tys src dst lat f s) := vrun_canonical h (fun _ _ k => k.vput)

theorem vRound_canonical {i : Instr} {y : Syn} {o : VOp} {lat : Nat} {op : FVal → FVal → FVal → FVal × Flags} :
    NextCanonical (vRound i y o lat op s) := vElem_canonical h

theorem vBits_canonical {i : Instr} {y : Syn} {o : VOp} {f : Task → Nat → Nat → Nat → Nat} : NextCanonical (vBits i y o f s) := vElem_canonical h

theorem vInt_canonical {i : Instr} {y : Syn} {o : VOp} {f : Nat → Nat → Nat → Nat} : NextCanonical (vInt i y o f s) := vElem_canonical h

theorem vArith_canonical {i : Instr} {y : Syn} {o : VOp} {f : Int → Int → Int} : NextCanonical (vArith i y o f s) := vInt_canonical h

theorem execLoopv_canonical {y : Syn} {xc : BitVec 5} {off : BitVec 20} : NextCanonical (execLoopv y xc off s) :=
  vrun_canonical h (fun _ _ k => .ite (k.pendWrites.setMe _) k.pendWrites)

theorem predOp_canonical {i : Instr} {y : Syn} {pd : BitVec 4} {f : Task → BitVec 256} : NextCanonical (predOp i y pd f s) :=
  vrun_canonical h (fun _ _ k => k.pendWrites)

end instructions

section events
variable {s : State} (h : MemoryCanonical s)
include h

/-! #### Events of the sequencers -/

theorem singleOf_canonical {i : Instr} {p : RecProg} : (singleOf i p s).Canonical := by
  cases i
  case ldx | stx | cpx | mcx | gthx | sctx | bmx | scacc | zfx => exact tSingle_canonical h
  case wld | mma | gate | adrn | asave | aload => exact mSingle_canonical h
  case vld | vst | vlds | vsts | vgath | vscat => exact vMemSingle_canonical h
  case vz | vzacc | vunif | vdrop => exact rndSingle_canonical h
  all_goals exact h

theorem execRecordSingleIssue_canonical {core : Nat} {q : SeqId} : NextCanonical (execRecordSingleIssue core q s) := by
  unfold execRecordSingleIssue
  split
  · exact h
  · next ht =>
    split
    · exact h
    · exact recordStep_canonical (h.onTurn ht) (fun _ _ k => singleOf_canonical k)

theorem MemoryCanonical.onSeq {core : Nat} {q : SeqId} {f : Seq → Seq} : MemoryCanonical (onSeq s core q f) := by
  unfold Machine.onSeq
  dsimp only
  split
  · exact h
  · exact (h.setTask _ _ _).settle

theorem execEngineResultWrite_canonical {core id : Nat} {q : SeqId} : NextCanonical (execEngineResultWrite core q id s) := h.event h.onSeq

theorem execLoadDataArrival_canonical {core : Nat} {q : SeqId} {load : LoadAt} : NextCanonical (execLoadDataArrival core q load s) := by
  unfold execLoadDataArrival
  dsimp only
  split
  · exact h
  · split
    · exact h
    · exact h.event (.ite (h.setTask _ _ _).takeTrap h.readPiece.onSeq)

theorem execStorePerformed_canonical {core n : Nat} {q : SeqId} : NextCanonical (execStorePerformed core q n s) := by
  unfold execStorePerformed
  split
  · exact h
  · split
    · exact h
    · exact h.event ((h.served _ _).performStore _).onSeq

theorem execWaittTargetReached_canonical {core : Nat} : NextCanonical (execWaittTargetReached core s) := by
  refine waitingC_canonical h (fun i t r k hr => ?_)
  split at hr
  · split at hr
    · exact Option.some.inj hr ▸ execWaitt_canonical k
    · cases hr
  · cases hr

theorem execAlignRelease_canonical {core : Nat} : NextCanonical (execAlignRelease core s) := by
  refine waitingC_canonical h (fun i t r k hr => ?_)
  split at hr
  · split at hr
    · exact Option.some.inj hr ▸ execAlign_canonical k
    · cases hr
  · cases hr

theorem execSchedMiss_canonical {core : Nat} {q : SeqId} : NextCanonical (execSchedMiss core q s) := by
  unfold execSchedMiss
  split
  · exact h
  · next ht =>
    have k := h.onTurn ht
    dsimp only
    split
    · exact h.event (k.setHere _).takeTrap
    · exact h.event k.trapUndone
    · exact h

theorem execWatchdogStall_canonical {core : Nat} {q : SeqId} : NextCanonical (execWatchdogStall core q s) := by
  unfold execWatchdogStall
  split
  · exact h
  · next ht =>
    split
    · exact h
    · exact h.event (h.onTurn ht).trapUndone

theorem execLeaseWaitExpiry_canonical {core : Nat} {q : SeqId} : NextCanonical (execLeaseWaitExpiry core q s) := by
  unfold execLeaseWaitExpiry
  split
  · exact h
  · next ht =>
    split
    · exact h
    · exact h.event ((h.onTurn ht).setMe _).trapUndone

theorem execIllegalOpcode_canonical {core : Nat} {q : SeqId} {head : BitVec 32} : NextCanonical (execIllegalOpcode core q head s) := by
  unfold execIllegalOpcode
  split
  · exact h
  · next ht => exact NextCanonical.ite (h.onTurn ht).fetchNow.trapHere h

/-! ### Every instruction and every event -/

theorem exec_canonical (i : Instr) : NextCanonical (exec i s) := by
  cases i
  all_goals dsimp only [exec]
  case add | sub | and | or | xor | sll | srl | sra | mul | mulh | mulhu | div | divu | rem | remu | min | max | minu | maxu | slt | sltu | seq | li
      | clz | popc | rotl | bext => exact alu_canonical h
  case bins => exact execBins_canonical h
  case j | beq | bne | blt | bge | bltu | bgeu | bbs => exact branch_canonical h
  case jal => exact execJal_canonical h
  case jr => exact execJr_canonical h
  case ldb | ldh | ldw | ldd | ldbu | ldhu | ldwu => exact loadC_canonical h
  case stb | sth | stw | std => exact storeC_canonical h
  case ldsc => exact execLdsc_canonical h
  case stsc => exact execStsc_canonical h
  case start => exact execStart_canonical h
  case param => exact execParam_canonical h
  case fmtq => exact execFmtq_canonical h
  case sig => exact execSig_canonical h
  case wait => exact execWait_canonical h
  case semadd | semset => exact semChange_canonical h
  case semwait => exact execSemwait_canonical h
  case arrive => exact execArrive_canonical h
  case bwait => exact execBwait_canonical h
  case barm => exact execBarm_canonical h
  case binit => exact execBinit_canonical h
  case qfence => exact execQfence_canonical h
  case fence => exact execFence_canonical h
  case rfence => exact execRfence_canonical h
  case waitt => exact execWaitt_canonical h
  case rdcc => exact execRdcc_canonical h
  case rdgt => exact execRdgt_canonical h
  case align => exact execAlign_canonical h
  case launch => exact execLaunch_canonical h
  case child => exact execChild_canonical h
  case yield => exact execYield_canonical h
  case trap => exact execTrap_canonical h
  case csrr => exact execCsrr_canonical h
  case csrw => exact execCsrw_canonical h
  case setkey => exact execSetkey_canonical h
  case halt => exact execHalt_canonical h
  case coll => exact execColl_canonical h
  case collw => exact execCollw_canonical h
  case collwRetire => exact execCollwRetire_canonical h
  case spore => exact execSpore_canonical h
  case sorw => exact execSorw_canonical h
  case a2a => exact execA2a_canonical h
  case wmap => exact execWmap_canonical h
  case wunmap => exact h.run (fun _ k => k.wunmapBody)
  case lrecall => exact h.run (fun _ k => k.lrecallBody)
  case nop => exact execNop_canonical h
  case idle => exact execIdle_canonical h
  case region => exact execRegion_canonical h
  case endStream => exact execEndStream_canonical h
  case jmp => exact execJmp_canonical h
  case bnzd => exact execBnzd_canonical h
  case pop => exact execPop_canonical h
  case xadd => exact execXadd_canonical h
  case vadd | vsub | vmul | vfma | vfms | vdiv | vsqrt | vrcp | vrsq | vlog2 => exact vRound_canonical h
  case vmin | vmax | vabs | vneg | vmov => exact vBits_canonical h
  case viadd | visub | vimul => exact vArith_canonical h
  case vand | vor | vxor | vshl | vshr | vsra | vimin | vimax => exact vInt_canonical h
  case vexp2 | vsel => exact vElem_canonical h
  case vcmp | pcnt | vsetvl | vsetvlReg | rotset => exact vrun_canonical h (fun _ _ k => k.pendWrites)
  case pand | por | pxor | pnot | pset => exact predOp_canonical h
  case vcvt | vqnt | vdqnt | vsrnd => exact vConv_canonical h
  case vrsum | vrmax | vrmin | vdot => exact vReduce_canonical h
  case vperm | vslide | vbcast | vzip | vunzip => exact vPermute_canonical h
  case vld | vst | vlds | vsts | vgath | vscat => exact vMemExec_canonical h
  case kld => exact execKld_canonical h
  case loopv => exact execLoopv_canonical h
  case vz | vzacc | vunif | vdrop => exact rndExec_canonical h
  case vcat => exact execVcat_canonical h
  case ldx | stx | cpx | mcx | gthx | sctx | bmx | scacc | zfx => exact execTransfer_canonical h
  case bmld => exact execBmld_canonical h
  case sccfg => exact execSccfg_canonical h
  case tagx => exact execTagx_canonical h
  case wld | mma | gate | adrn | asave | aload => exact execMatrixRecord_canonical h
  case aswap => exact execAswap_canonical h
  case azero => exact execAzero_canonical h
  case achk => exact execAchk_canonical h
  case avset => exact execAvset_canonical h
  case fdrop => exact execFdrop_canonical h
  case epsset => exact execEpsset_canonical h
  case recordSingleIssue => exact execRecordSingleIssue_canonical h
  case engineResultWrite => exact execEngineResultWrite_canonical h
  case loadDataArrival => exact execLoadDataArrival_canonical h
  case storePerformed => exact execStorePerformed_canonical h
  case waittTargetReached => exact execWaittTargetReached_canonical h
  case alignRelease => exact execAlignRelease_canonical h
  case schedMiss => exact execSchedMiss_canonical h
  case watchdogStall => exact execWatchdogStall_canonical h
  case leaseWaitExpiry => exact execLeaseWaitExpiry_canonical h
  case illegalOpcode => exact execIllegalOpcode_canonical h
  case flitDeparture => exact execFlitDeparture_canonical h
  case flitDelivery => exact execFlitDelivery_canonical h
  case flitAckArrival => exact execFlitAckArrival_canonical h
  case ackTimeout => exact execAckTimeout_canonical h
  case memberDisabled => exact execMemberDisabled_canonical h
  case leaseRequest => exact execLeaseRequest_canonical h
  case leaseReply => exact execLeaseReply_canonical h
  case wmapMemberTimeout => exact execWmapMemberTimeout_canonical h
  case leaseRecall => exact execLeaseRecall_canonical h
  case leaseRelease => exact execLeaseRelease_canonical h
  case leaseReleaseArrival => exact execLeaseReleaseArrival_canonical h
  case lrecallSilentSource => exact execLrecallSilentSource_canonical h
  case leaseRegrant => exact execLeaseRegrant_canonical h
  case leaseReturn => exact execLeaseReturn_canonical h
  case sorusRecordArrival => exact execSorusRecordArrival_canonical h
  case sorusSeal => exact execSorusSeal_canonical h
  case sorusStepDeadline => exact execSorusStepDeadline_canonical h
  case gapRetransmit => exact execGapRetransmit_canonical h
  case gapRequestArrival => exact execGapRequestArrival_canonical h
  case gapReplyArrival => exact execGapReplyArrival_canonical h
  case sorusGapBound => exact execSorusGapBound_canonical h
  case sorfirstWrite => exact execSorfirstWrite_canonical h
  case collPacketArrival => exact execCollPacketArrival_canonical h
  case collPacketAck => exact execCollPacketAck_canonical h
  case collFinishCount => exact execCollFinishCount_canonical h
  case collOverrun => exact execCollOverrun_canonical h
  case collwTimeout => exact execCollwTimeout_canonical h
  case timingMessage => exact execTimingMessage_canonical h
  case timelockReady => exact execTimelockReady_canonical h
  case timelockLost => exact execTimelockLost_canonical h
  case hbmRefresh => exact h
  case patrolScrub => exact execPatrolScrub_canonical h
  case gtadjSetLock | gtadjClearLock | gtadjCorrection => exact h.event h.gtadjWrite
  case launchPrepare => exact execLaunchPrepare_canonical h
  case launchStart => exact execLaunchStart_canonical h
  case launchRecordFinal => exact execLaunchRecordFinal_canonical h
  case lqtailWrite => exact execLqtailWrite_canonical h
  case submit => exact execSubmit_canonical h
  case endlaunch => exact execEndlaunch_canonical h
  case preboundExpiry => exact execPreboundExpiry_canonical h
  case unansweredRecordExpiry => exact execUnansweredRecordExpiry_canonical h
  case taskRestore => exact execTaskRestore_canonical h
  case lateTrapRecord => exact execLateTrapRecord_canonical h
  case answerResume => exact execAnswerResume_canonical h
  case answerEnd => exact execAnswerEnd_canonical h
  case cut => exact execCut_canonical h
  case readbank => exact execReadbank_canonical h
  case regpart => exact execRegpart_canonical h
  case regtq => exact execRegtq_canonical h
  case partitionDestroy => exact execPartitionDestroy_canonical h
  case bar2Read => exact execBar2Read_canonical h
  case bar2Write => exact execBar2Write_canonical h
  case registerWrite => exact execRegisterWrite_canonical h
  case attestationReport => exact execAttestationReport_canonical h
  case moduleReset => exact execModuleReset_canonical h
  case bootHostBuffer => exact execBootHostBuffer_canonical h
  case pwrok => exact execPwrok_canonical h
  case railLoss => exact execRailLoss_canonical h
  case thermalThrottle => exact execThermalThrottle_canonical h
  case thermtrip => exact execThermtrip_canonical h
  case islandFrequencyChange => exact execIslandFrequencyChange_canonical h
  case functionReady => exact execFunctionReady_canonical h
  case driveDma => exact execDriveDma_canonical h
  case spdmMessage => exact execSpdmMessage_canonical h

/-! ### The step -/

theorem runSeq_canonical {core : Nat} {q : SeqId} : NextCanonical (runSeq core q s) := by
  unfold runSeq
  split
  · exact h
  · next ht =>
    have k := h.onTurn ht
    have kf := k.fetchNow (core := core) (q := q)
    dsimp only
    split
    · exact exec_canonical k _
    · split
      · exact NextCanonical.ite kf kf.stallWith
      · exact exec_canonical kf _
      · exact kf.trapHere

theorem turnEarly_canonical {core n : Nat} {q : SeqId} : NextCanonical (turnEarly core q n s) := by
  have k := runSeq_canonical (h.withPick (p := some n)) (core := core) (q := q)
  unfold turnEarly
  split
  · exact h
  · refine .ite h ?_
    unfold unpicked
    split
    · next hs => exact MemoryCanonical.withPick (hs ▸ k : NextCanonical (.next _))
    · exact k

theorem runTurn_canonical (t : Turn) : NextCanonical (runTurn t s) := by
  cases t with
  | seq core q => exact runSeq_canonical h
  | event i => exact .ite (exec_canonical h i) h
  | clock cycles ns => exact h.clockTick
  | early core q n => exact turnEarly_canonical h
  | port core busy => exact turnPort_canonical h
  | land n => exact turnLand_canonical h
  | packet part n port => exact turnPacket_canonical h
  | coll part n pick => exact turnColl_canonical h
  | gap id port => exact turnGap_canonical h
  | digest part id range => exact turnDigest_canonical h
  | lineUpset line symbols => exact turnLineUpset_canonical h
  | wordUpset w => exact turnWordUpset_canonical h
  | fecDiscard port => exact turnFecDiscard_canonical h
  | bar0Read off => exact turnBar0Read_canonical h

theorem step_canonical : NextCanonical (step s) := by
  unfold step
  split
  · refine runTurn_canonical ?_ _
    exact h.of_fields rfl rfl
  · refine runTurn_canonical ?_ _
    exact h.of_fields rfl rfl

end events

/-- Settles O59: what a turn does is an instruction, an event or a change that lists no byte, and each of them keeps the form. -/
theorem stepKeepsMemoryCanonical : Obligations.StepKeepsMemoryCanonical := fun _ _ h hs => (hs ▸ step_canonical h : NextCanonical (.next _))

end Sys2Proof

namespace Sys2Proof

open Sys2Proof.Machine

/-! ### The checks of a C access (O6) -/

/-! #### The ranges of R88 exclude each other -/

theorem inOwn_iff {a : Nat} : inOwn a = true ↔ a < 0x800000 := decide_eq_true_iff

theorem inPeer_iff {a : Nat} : inPeer a = true ↔ 0x8000000 ≤ a ∧ a < 0x8000000 + 8 * 0x800000 := by
  simp only [inPeer, Bool.and_eq_true, decide_eq_true_eq]
  rfl

theorem inTx_iff {a : Nat} : inTx a = true ↔ 0x100000000 ≤ a ∧ a < 0x200000000 := by
  simp only [inTx, Bool.and_eq_true, decide_eq_true_eq]
  rfl

theorem inHbm_iff {a : Nat} : inHbm a = true ↔ 0x100000000000 ≤ a ∧ a < 0x200000000000 := by
  simp only [inHbm, Bool.and_eq_true, decide_eq_true_eq]
  rfl

theorem inOwn_of_inTx {a : Nat} (h : inTx a = true) : inOwn a = false := by
  rw [inTx_iff] at h
  rw [Bool.eq_false_iff, Ne, inOwn_iff]
  omega

theorem inPeer_of_inTx {a : Nat} (h : inTx a = true) : inPeer a = false := by
  rw [inTx_iff] at h
  rw [Bool.eq_false_iff, Ne, inPeer_iff]
  omega

theorem outside_of_inHbm {a : Nat} (h : inHbm a = true) : inOwn a = false ∧ inPeer a = false ∧ inTx a = false := by
  rw [inHbm_iff] at h
  simp only [Bool.eq_false_iff, Ne, inOwn_iff, inPeer_iff, inTx_iff]
  omega

/-! #### The check that fails first (R362) -/

section checks
variable {s : State} {core : Nat} {t : Task} {k : AccKind} {a size align : Nat}

theorem checkAccess_outside {rs : Ranges} (ho : inOwn a = false) (hp : inPeer a = false) (ht : inTx a = false) (hh : inHbm a = false) :
    checkAccess s core t rs k a size align = .error ⟨.extent, a⟩ := by
  simp [checkAccess, ho, hp, ht, hh]

theorem checkAccess_txLoad {rs : Ranges} (ht : inTx a = true) : checkAccess s core t rs .load a size align = .error ⟨.txLoad, a⟩ := by
  simp [checkAccess, inOwn_of_inTx ht, inPeer_of_inTx ht, ht]

/-- An operand in one of the ranges that the access may use is refused for its alignment before anything else is looked at. -/
theorem checkAccess_misaligned {rs : Ranges} (hk : k ≠ .fetch) (hr : rs.own = true ∧ rs.peer = true ∧ rs.hbm = true)
    (hin : inOwn a = true ∨ inPeer a = true ∨ (inTx a = true ∧ k = .store ∧ rs.tx = true) ∨ inHbm a = true) (ha : a % align ≠ 0) :
    checkAccess s core t rs k a size align = .error ⟨.misaligned, a⟩ := by
  obtain ⟨hown, hpeer, hhbm⟩ := hr
  unfold checkAccess
  by_cases ho : inOwn a = true
  · simp [ho, hown, hk, ha]
  by_cases hp : inPeer a = true
  · simp [ho, hp, hpeer, hk, ha]
  by_cases ht : inTx a = true
  · obtain ⟨-, rfl, htx⟩ | hh := (hin.resolve_left ho).resolve_left hp
    · simp [ho, hp, ht, htx, ha]
    · simp [(outside_of_inHbm hh).2.2] at ht
  · have hh : inHbm a = true := ((hin.resolve_left ho).resolve_left hp).resolve_left (fun h => ht h.1)
    simp [ho, hp, ht, hh, hhbm, ha]

theorem checkAccess_untranslated {rs : Ranges} (hr : rs.hbm = true) (hh : inHbm a = true) (ha : a % align = 0)
    (hx : translateIn s t.extents k a = none) : checkAccess s core t rs k a size align = .error ⟨.extent, a⟩ := by
  obtain ⟨ho, hp, ht⟩ := outside_of_inHbm hh
  simp [checkAccess, ho, hp, ht, hh, hr, ha, hx]

theorem checkAccess_unreadable {rs : Ranges} {pa : Nat} (hr : rs.hbm = true) (hh : inHbm a = true) (ha : a % align = 0)
    (hx : translateIn s t.extents .load a = some pa) (hu : unreadable s pa size = true) :
    checkAccess s core t rs .load a size align = .error ⟨.eccUncorrectable, a⟩ := by
  obtain ⟨ho, hp, ht⟩ := outside_of_inHbm hh
  simp [checkAccess, ho, hp, ht, hh, hr, ha, hx, hu]

theorem checkAccess_noWindow {rs : Ranges} (hr : rs.tx = true) (ht : inTx a = true) (ha : a % align = 0) (hx : findTx s t.part a = none) :
    checkAccess s core t rs .store a size align = .error ⟨.extent, a⟩ := by
  simp [checkAccess, inOwn_of_inTx ht, inPeer_of_inTx ht, ht, hr, ha, hx]

end checks

/-! #### The trap -/

section traps
variable {s : State} {i : Instr} {y : Syn} {o : COp} {t : Task} {n : Nat} {f : AccFault}

/-- The check sees the state that the issue leaves as the one before it. -/
theorem checkAccess_entered (i : Instr) (y : Syn) (rs : Ranges) (k : AccKind) (a size align ticks : Nat) :
    checkAccess (entered s t y (encode i).length ticks) (myCore (entered s t y (encode i).length ticks)) (entered s t y (encode i).length ticks).here
        rs k a size align
      = checkAccess s s.cur.core t rs k a size align := by
  obtain ⟨x, w, he, hx⟩ := entered_spec s i y t ticks
  rw [he, State.here_setHere]
  exact checkAccess_congr (.inr ⟨_, _, _, State.setHere_eq s x⟩) (hx.field (·.extents) (fun u => by simp [bareTask])) 
    (hx.field (·.part) (fun u => by simp [bareTask])) _ _ _ _ _

theorem opAddr_of_c (hq : s.cur.q = .c) (ticks : Nat) : opAddr (entered s t y (encode i).length ticks) o = addrC t.c o := by
  rw [opAddr_entered, hq]
  rfl

section load
variable {sgn : Bool} (h : Ready s i y t) (hq : s.cur.q = .c) (hx : exec i s = loadC i y o n sgn s)
include h hq hx

/-- A load whose check fails traps, and has no effect. -/
theorem loadC_traps (hc : checkAccess s s.cur.core t Ranges.noTx .load (addrC t.c o) n n = .error f) : TrapsPrecisely s i t f.cause f.addr := by
  refine trap_of h hx ?_
  have hk := (checkAccess_entered i y Ranges.noTx .load (addrC t.c o) n n 1).trans hc
  simp only [opAddr_of_c hq, hk, AccFault.res]

theorem loadC_checks :
    let a := addrC t.c o
    (inTx a = true → TrapsPrecisely s i t .txLoad a)
      ∧ (inOwn a = false → inPeer a = false → inTx a = false → inHbm a = false → TrapsPrecisely s i t .extent a)
      ∧ ((inOwn a = true ∨ inPeer a = true ∨ inHbm a = true) → a % n ≠ 0 → TrapsPrecisely s i t .misaligned a)
      ∧ (inHbm a = true → a % n = 0 → translateIn s t.extents .load a = none → TrapsPrecisely s i t .extent a)
      ∧ (∀ pa, inHbm a = true → a % n = 0 → translateIn s t.extents .load a = some pa → unreadable s pa n = true →
          TrapsPrecisely s i t .eccUncorrectable a) := by
  refine ⟨fun ht => ?_, fun ho hp ht hh => ?_, fun hin ha => ?_, fun hh ha hn => ?_, fun pa hh ha hn hu => ?_⟩
  · exact loadC_traps h hq hx (checkAccess_txLoad ht)
  · exact loadC_traps h hq hx (checkAccess_outside ho hp ht hh)
  · exact loadC_traps h hq hx (checkAccess_misaligned (by decide) (by decide) (hin.imp_right (Or.imp_right .inr)) ha)
  · exact loadC_traps h hq hx (checkAccess_untranslated rfl hh ha hn)
  · exact loadC_traps h hq hx (checkAccess_unreadable rfl hh ha hn hu)

end load

section store
variable (h : Ready s i y t) (hq : s.cur.q = .c) (hx : exec i s = storeC i y o n s)
include h hq hx

/-- A store whose check fails traps, and has no effect. -/
theorem storeC_traps (hc : checkAccess s s.cur.core t Ranges.all .store (addrC t.c o) n n = .error f) : TrapsPrecisely s i t f.cause f.addr := by
  refine trap_of h hx ?_
  have hk := (checkAccess_entered i y Ranges.all .store (addrC t.c o) n n 1).trans hc
  simp only [opAddr_of_c hq, hk, AccFault.res]

theorem storeC_checks :
    let a := addrC t.c o
    (inOwn a = false → inPeer a = false → inTx a = false → inHbm a = false → TrapsPrecisely s i t .extent a)
      ∧ ((inOwn a = true ∨ inPeer a = true ∨ inTx a = true ∨ inHbm a = true) → a % n ≠ 0 → TrapsPrecisely s i t .misaligned a)
      ∧ (inHbm a = true → a % n = 0 → translateIn s t.extents .store a = none → TrapsPrecisely s i t .extent a)
      ∧ (inTx a = true → a % n = 0 → findTx s t.part a = none → TrapsPrecisely s i t .extent a) := by
  refine ⟨fun ho hp ht hh => ?_, fun hin ha => ?_, fun hh ha hn => ?_, fun ht ha hn => ?_⟩
  · exact storeC_traps h hq hx (checkAccess_outside ho hp ht hh)
  · have hin := hin.imp_right (Or.imp_right (Or.imp_left fun ht => (⟨ht, rfl, rfl⟩ : _ ∧ AccKind.store = .store ∧ Ranges.all.tx = true)))
    exact storeC_traps h hq hx (checkAccess_misaligned (by decide) (by decide) hin ha)
  · exact storeC_traps h hq hx (checkAccess_untranslated rfl hh ha hn)
  · exact storeC_traps h hq hx (checkAccess_noWindow rfl ht ha hn)

end store

end traps

/-- Settles O6: each access is the common load or store of C, whose checks are made one after another. -/
theorem accessChecks : Obligations.AccessChecks := by
  unfold Obligations.AccessChecks
  intro s y o t
  have hc {i : Instr} (h : Ready s i y t) (hi : inSpace s.cur.q i = (s.cur.q == .c)) : s.cur.q = .c := beq_iff_eq.mp (hi ▸ h.space)
  exact ⟨fun h => loadC_checks h (hc h rfl) (exec_ldb y o s), fun h => loadC_checks h (hc h rfl) (exec_ldh y o s),
    fun h => loadC_checks h (hc h rfl) (exec_ldw y o s), fun h => loadC_checks h (hc h rfl) (exec_ldd y o s),
    fun h => loadC_checks h (hc h rfl) (exec_ldbu y o s), fun h => loadC_checks h (hc h rfl) (exec_ldhu y o s),
    fun h => loadC_checks h (hc h rfl) (exec_ldwu y o s), fun h => storeC_checks h (hc h rfl) (exec_stb y o s),
    fun h => storeC_checks h (hc h rfl) (exec_sth y o s), fun h => storeC_checks h (hc h rfl) (exec_stw y o s),
    fun h => storeC_checks h (hc h rfl) (exec_std y o s)⟩

end Sys2Proof

namespace Sys2Proof

open Sys2Proof.Machine

/-! ### Leases (O47) -/

theorem Machine.State.txWin_setTx (s : State) (n m : Nat) (w : TxWin) : (s.setTx n w).txWin m = if m = n then w else s.txWin m := by
  simp [State.txWin, State.setTx, Sparse.get_set]

/-- A non-default entry of a sparse map stands in its list. -/
theorem sparse_mem_of_get_ne {α : Type} {d : α} {l : List (Nat × α)} {k : Nat} (h : Sparse.get d l k ≠ d) : (k, Sparse.get d l k) ∈ l := by
  induction l with
  | nil => exact absurd rfl h
  | cons x l ih =>
    obtain ⟨a, v⟩ := x
    unfold Sparse.get at h ⊢
    split
    · next e => subst e; exact .head _
    · next e =>
      rw [if_neg e] at h
      exact .tail _ (ih h)

/-- What one member of a list establishes in a fold, and none undoes, holds after it. -/
theorem foldl_establishes {α β : Type} {f : β → α → β} {P : β → Prop} {x : α} {l : List α} (h : x ∈ l) (hx : ∀ s, P (f s x))
    (hk : ∀ s a, P s → P (f s a)) (s : β) : P (l.foldl f s) := by
  induction l generalizing s with
  | nil => cases h
  | cons y l ih =>
    rcases List.mem_cons.mp h with rfl | h
    · exact List.foldlRecOn l f (hx s) (fun s hs a _ => hk s a hs)
    · exact ih h _

/-- An event whose conditions hold happens; one whose conditions fail changes nothing. -/
theorem event_of {s : State} {c : Bool} {f : Host.Outcome State Fault Refusal} (ha : alive s = true) (hc : c = true) : event s c f = f := by
  simp [event, ha, hc]

theorem event_not {s : State} {c : Bool} {f : Host.Outcome State Fault Refusal} (hc : c = false) : event s c f = .next s := by
  simp [event, hc]

/-! #### At the target -/

section target
variable {s : State} {rx src : Nat} (ha : alive s = true)
include ha

theorem leaseRequest_granted {need : Nat} (hs : src < 512) (hr : rx < 1024) (h1 : (s.rxWin rx).state = 1) (hx : rxAllows s (s.rxWin rx) src = true)
    (hn : need ≤ (s.rxWin rx).size) :
    let r := s.rxWin rx
    let g := (s.setRx rx { r with leases := r.leases ++ [src] }).say (.leaseAnswer src true r.lbase.toNat r.epoch)
    exec (.leaseRequest src rx need) s = .next (if r.recallGt ≠ 0 then g.say (.recall src rx) else g) := by
  rw [exec_leaseRequest]
  unfold execLeaseRequest
  dsimp only
  rw [event_of ha (by simp [hs, hr]), if_pos (by simp [h1, hx, hn])]
  simp only [bne_iff_ne]

theorem leaseRequest_refused {need : Nat} (hs : src < 512) (hr : rx < 1024)
    (h : (s.rxWin rx).state ≠ 1 ∨ rxAllows s (s.rxWin rx) src = false ∨ (s.rxWin rx).size < need) :
    exec (.leaseRequest src rx need) s = .next (s.say (.leaseAnswer src false 0 0)) := by
  rw [exec_leaseRequest]
  unfold execLeaseRequest
  dsimp only
  rw [event_of ha (by simp [hs, hr]), if_neg]
  rintro hc
  simp only [Bool.and_eq_true, decide_eq_true_eq] at hc
  obtain ⟨⟨h1, hx⟩, hn⟩ := hc
  rcases h with h | h | h
  · exact h h1
  · rw [hx] at h
    cases h
  · omega

theorem leaseReturn_next (h : src ∈ (s.rxWin rx).leases ∨ src ∈ (s.rxWin rx).released) :
    let r := s.rxWin rx
    exec (.leaseReturn rx src) s
      = .next (s.setRx rx (if src ∈ r.leases then { r with leases := r.leases.erase src } else { r with released := r.released.erase src })) := by
  rw [exec_leaseReturn]
  unfold execLeaseReturn
  dsimp only
  rw [event_of ha (by simpa using h)]
  simp only [List.contains_iff_mem]

theorem leaseReleaseArrival_next (hm : src ∈ (s.rxWin rx).leases) (hr : (s.rxWin rx).recallGt ≠ 0) (hg : s.gt ≤ (s.rxWin rx).recallGt - 1 + 10000) :
    let r := s.rxWin rx
    exec (.leaseReleaseArrival rx src) s
      = .next (s.setRx rx { r with leases := r.leases.filter (fun m => m != src), released := r.released ++ r.leases.filter (fun m => m == src) }) := by
  rw [exec_leaseReleaseArrival]
  exact event_of ha (by simp [hm, hr, hg, Config.answerNs])

omit ha in
theorem leaseReleaseArrival_late (hg : (s.rxWin rx).recallGt - 1 + 10000 < s.gt) : exec (.leaseReleaseArrival rx src) s = .next s := by
  rw [exec_leaseReleaseArrival]
  have hg' : ¬ s.gt ≤ (s.rxWin rx).recallGt - 1 + Config.answerNs := Nat.not_le.mpr hg
  exact event_not (by simp [hg'])

theorem lrecallSilentSource_next (hm : src ∈ (s.rxWin rx).leases) (hr : (s.rxWin rx).recallGt ≠ 0) (hg : (s.rxWin rx).recallGt - 1 + 10000 ≤ s.gt) :
    let r := s.rxWin rx
    let once (l : List Nat) : List Nat := if src ∈ l then l else l ++ [src]
    exec (.lrecallSilentSource rx src) s
      = .next (s.setRx rx { r with leases := r.leases.filter (fun m => m != src), silent := once r.silent, barred := once r.barred }) := by
  have hw (l : List Nat) : withSource l src = if src ∈ l then l else l ++ [src] := by
    unfold withSource
    simp only [List.contains_iff_mem]
  rw [exec_lrecallSilentSource]
  dsimp only
  simp only [← hw]
  exact event_of ha (by simp [hm, hr, hg, Config.answerNs])

end target

/-! #### The answers at the source -/

section reply
variable {s : State} {tx pos base epoch : Nat} {granted : Bool}

/-- No WMAP that is over waits for the answer: one that still asks takes it, in time. -/
theorem leaseReply_asked (ho : ∀ x ∈ s.orphans, x.1 = tx → x.2.1 ≠ pos) :
    exec (.leaseReply tx pos granted base epoch) s
      = event s ((s.txWin tx).asker != 0 && pos < (s.txWin tx).members.length && !((s.txWin tx).granted ||| (s.txWin tx).refused).getLsbD pos
          && s.gt ≤ (s.txWin tx).askedGt + Config.answerNs) (.next (takeReply s tx pos granted base epoch)) := by
  rw [exec_leaseReply]
  unfold execLeaseReply
  dsimp only
  rw [List.find?_eq_none.mpr]
  intro x hx
  by_cases e : x.1 = tx
  · simp [e, ho x hx e]
  · simp [e]

theorem leaseReply_inTime (ha : alive s = true) (h0 : (s.txWin tx).asker ≠ 0) (hp : pos < (s.txWin tx).members.length)
    (hg : ((s.txWin tx).granted ||| (s.txWin tx).refused).getLsbD pos = false) (ho : ∀ x ∈ s.orphans, x.1 = tx → x.2.1 ≠ pos)
    (ht : s.gt ≤ (s.txWin tx).askedGt + 10000) : exec (.leaseReply tx pos granted base epoch) s = .next (takeReply s tx pos granted base epoch) :=
  (leaseReply_asked ho).trans (event_of ha (by simp only [h0, hp, hg, ht, Config.answerNs, bne_iff_ne, ne_eq, not_false_eq_true, decide_true,
    Bool.not_false, Bool.and_true]))

theorem leaseReply_late (ho : ∀ x ∈ s.orphans, x.1 = tx → x.2.1 ≠ pos) (ht : (s.txWin tx).askedGt + 10000 < s.gt) :
    exec (.leaseReply tx pos granted base epoch) s = .next s := by
  have hn : ¬ s.gt ≤ (s.txWin tx).askedGt + Config.answerNs := Nat.not_le.mpr ht
  exact (leaseReply_asked ho).trans (event_not (by simp only [hn, decide_false, Bool.and_false]))

/-- The answer that a WMAP which is over still awaited returns what it grants. -/
theorem leaseReply_orphan (ha : alive s = true) {m k : Nat} (h0 : (s.txWin tx).asker = 0)
    (ho : s.orphans.find? (fun x => x.1 == tx && x.2.1 == pos) = some (tx, pos, m, k)) :
    let s1 := { s with orphans := s.orphans.erase (tx, pos, m, k) }
    exec (.leaseReply tx pos granted base epoch) s = .next (if granted then s1.say (.leaseReturn m k) else s1) := by
  rw [exec_leaseReply]
  unfold execLeaseReply
  simp only [h0, bne_self_eq_false, Bool.false_and, Bool.not_false, Bool.and_true, ho]
  exact event_of ha rfl

end reply

/-! #### The windows under a lease -/

/-- A window is among those under its own lease. -/
theorem mem_underLease {s : State} {tx pos m : Nat} (hw : (s.txWin tx).mapped = true) (hm : (s.txWin tx).members[pos]? = some m)
    (hi : (s.txWin tx).members.idxOf? m = some pos) : (tx, pos) ∈ underLease s tx pos := by
  unfold underLease memberAt
  simp only [hm]
  have hne : s.txWin tx ≠ TxWin.free := fun e => by rw [e] at hw; cases hw
  refine List.mem_filterMap.mpr ⟨(tx, s.txWin tx), List.mem_filter.mpr ⟨sparse_mem_of_get_ne hne, by simp [hw]⟩, by simp [hi]⟩

/-- Windows that are changed one after another. -/
def mapWindows (f : TxWin → Nat → TxWin) (l : List (Nat × Nat)) (s : State) : State := l.foldl (fun s x => s.setTx x.1 (f (s.txWin x.1) x.2)) s

theorem mapWindows_frame (f : TxWin → Nat → TxWin) (l : List (Nat × Nat)) (s : State) : ∃ xs, mapWindows f l s = { s with tx := xs } := by
  unfold mapWindows
  refine List.foldlRecOn (motive := fun s' : State => ∃ xs : Sparse TxWin, s' = { s with tx := xs }) l _ ⟨s.tx, rfl⟩ (fun s' hs x _ => ?_)
  obtain ⟨xs, rfl⟩ := hs
  exact ⟨_, rfl⟩

/-- What a change establishes at its own position, and no change undoes, holds of a window that is changed. -/
theorem mapWindows_establishes {f : TxWin → Nat → TxWin} {P : TxWin → Prop} {tx pos : Nat} (hpos : ∀ w, P (f w pos))
    (hkeep : ∀ w n, P w → P (f w n)) {l : List (Nat × Nat)} (s : State) (h : (tx, pos) ∈ l) : P ((mapWindows f l s).txWin tx) := by
  refine foldl_establishes (P := fun s => P (s.txWin tx)) h (fun s => ?_) (fun s x hs => ?_) s
  · rw [State.txWin_setTx, if_pos rfl]
    exact hpos _
  · rw [State.txWin_setTx]
    split
    · next e => exact e ▸ hkeep _ _ hs
    · exact hs

/-- A recall holds the allowance of a window at 0. -/
def recallAt (w : TxWin) (n : Nat) : TxWin := { w with recalled := w.recalled ||| memberBit n, released := w.released &&& ~~~ (memberBit n) }

theorem getLsbD_memberBit {n : Nat} (h : n < 64) : (memberBit n).getLsbD n = true := by
  rw [memberBit, BitVec.getLsbD_ofNat, Nat.testBit_two_pow_self]
  simpa using h

theorem leaseRecall_stops {s : State} {tx pos m : Nat} (ha : alive s = true) (hw : (s.txWin tx).mapped = true) (hp : pos < 64)
    (hm : (s.txWin tx).members[pos]? = some m) (hi : (s.txWin tx).members.idxOf? m = some pos) :
    ∃ s', exec (.leaseRecall tx pos) s = .next s' ∧ (s'.txWin tx).allowance = 0 ∧ s'.flits = s.flits ∧ SameMemory s s' := by
  have hrec : ((mapWindows recallAt (underLease s tx pos) s).txWin tx).recalled.getLsbD pos = true := by
    refine mapWindows_establishes (P := fun w => w.recalled.getLsbD pos = true) (fun w => ?_) (fun w n h => ?_) s (mem_underLease hw hm hi)
    · simp [recallAt, getLsbD_memberBit hp]
    · simp [recallAt, h]
  refine ⟨mapWindows recallAt (underLease s tx pos) s, ?_, ?_, ?_⟩
  · rw [exec_leaseRecall]
    exact event_of ha (by simp [hp, hw])
  · unfold TxWin.allowance
    rw [if_neg]
    intro h0
    rw [h0] at hrec
    simp at hrec
  · obtain ⟨xs, e⟩ := mapWindows_frame recallAt (underLease s tx pos) s
    rw [e]
    exact ⟨rfl, fun _ => rfl, fun _ _ => rfl⟩

theorem leaseRelease_sent {s : State} {tx pos m : Nat} (ha : alive s = true) (hm : (s.txWin tx).members[pos]? = some m)
    (hu : underLease s tx pos = [(tx, pos)]) (hr : (s.txWin tx).recalled.getLsbD pos = true) (hs : (s.txWin tx).released.getLsbD pos = false)
    (hf : ∀ f ∈ s.flits, f.win = tx → sentTo f pos = false) :
    let w := s.txWin tx
    exec (.leaseRelease tx pos) s = .next ((s.setTx tx { w with released := w.released ||| memberBit pos }).say (.released m)) := by
  have hnone : s.flits.any (fun f => f.win == tx && sentTo f pos) = false := by
    rw [List.any_eq_false]
    intro f hmem
    by_cases e : f.win = tx
    · simp [e, hf f hmem e]
    · simp [e]
  rw [exec_leaseRelease]
  unfold execLeaseRelease memberAt
  simp only [hm, hu]
  exact event_of ha (by simp [hr, hs, hnone])

theorem leaseRegrant_restores {s : State} {tx pos base epoch : Nat} (ha : alive s = true) (hw : (s.txWin tx).mapped = true)
    (hr : (s.txWin tx).released.getLsbD pos = true) (hu : underLease s tx pos = [(tx, pos)]) :
    ∃ s', exec (.leaseRegrant tx pos base epoch) s = .next s' ∧ (s'.txWin tx).recalled = (s.txWin tx).recalled &&& ~~~ (memberBit pos)
      ∧ Sparse.get 0 (s'.txWin tx).bases pos = base ∧ Sparse.get 0 (s'.txWin tx).epochs pos = epoch := by
  rw [exec_leaseRegrant]
  unfold execLeaseRegrant
  rw [hu, event_of ha (by simp [hw, hr])]
  refine ⟨_, rfl, ?_⟩
  rw [State.txWin, (agentRun_agentFrame _).tx, ← State.txWin]
  simp only [List.foldl_cons, List.foldl_nil, State.txWin_setTx, if_true, Sparse.get_set_same, and_self]

/-! #### A WMAP whose answers do not come -/

/-- An instruction that waits goes on with its body; the PC passes it meanwhile. -/
theorem run_resumes {s : State} {i : Instr} {y : Syn} {w : Wait} (h : Resumes s i y w) (ticks : Nat) (body : State → Res) :
    run i y ticks body s = finish s.me.pc (body (setPc s (nextPc s i))) := by
  have hp : (instrPrivileged i && !s.here.priv) = false := by
    cases hi : instrPrivileged i
    · rfl
    · simp [h.mode hi]
  have hw : inWait s.me = true := by simp [inWait, h.waiting, h.issued]
  simp only [run, issue, h.turn, h.space, hp, h.fields, h.syn, hw, nextPc]
  simp

/-- What a window that is freed leaves changed: its entry, the messages, and the answers that nobody waits for. -/
theorem freeAsked_frame (s : State) (win : Nat) : ∃ out orphans, freeAsked s win = { s.setTx win TxWin.free with out := out, orphans := orphans } := by
  unfold freeAsked
  dsimp only
  generalize s.txWin win = w
  obtain ⟨out, e⟩ : ∃ out, w.members.zipIdx.foldl (fun s x => if w.granted.getLsbD x.2 then s.say (.leaseReturn x.1 w.rx) else s) s
      = { s with out := out } := by
    refine List.foldlRecOn (motive := fun s' : State => ∃ out, s' = { s with out := out }) _ _ ⟨s.out, rfl⟩ (fun s' hs x _ => ?_)
    obtain ⟨out, rfl⟩ := hs
    split
    · exact ⟨_, rfl⟩
    · exact ⟨_, rfl⟩
  rw [e]
  exact ⟨_, _, rfl⟩

section timeout
variable {s st : State} {y : Syn} {o : COp} {k : Wait} {tx : Nat}

theorem freeAsked_keeps (s : State) (win : Nat) : (freeAsked s win).me = s.me ∧ (freeAsked s win).txWin win = TxWin.free := by
  obtain ⟨out, orphans, e⟩ := freeAsked_frame s win
  rw [e]
  exact ⟨rfl, (State.txWin_setTx s win win TxWin.free).trans (if_pos rfl)⟩

theorem wmapGoOn_due {s : State} {sd : Nat} (hg : (s.txWin tx).granted ≠ (s.txWin tx).mask) (ht : (s.txWin tx).askedGt + 10000 ≤ s.gt) :
    ∃ v, wmapGoOn s tx sd = .ok ((freeAsked s tx).setReg sd v) := by
  unfold wmapGoOn
  dsimp only
  rw [if_neg hg, if_pos (by simp [Config.answerNs, ht])]
  exact ⟨_, rfl⟩

theorem running_of_mayIssue (h : mayIssue s = true) : s.me.stream = .running := by
  simp only [mayIssue, Bool.and_eq_true, beq_iff_eq] at h
  exact h.1.1.2

/-- A body that ends with a register write leaves the windows as it found them. -/
theorem finish_setReg {head : BitVec 48} {r : Nat} {v : Word} (hr : s.me.stream = .running) (hw : s.me.wait.isSome = true) :
    ∃ s', finish head (.ok (s.setReg r v)) = .next s' ∧ s'.tx = s.tx := by
  obtain ⟨t', fl, n, e, -⟩ := finish_ok s head (s.here.setSeq s.cur.q (s.me.setReg r v)) (by simpa using hr) (by simpa using hw)
  exact ⟨_, e, rfl⟩

/-- A WMAP that has not all its answers when they are due frees its window. -/
theorem wmap_times_out (h : Resumes st (.wmap y o) y k) (hk : k.op = .wmap tx) (hg : (st.txWin tx).granted ≠ (st.txWin tx).mask)
    (ht : (st.txWin tx).askedGt + 10000 ≤ st.gt) : ∃ s', exec (.wmap y o) st = .next s' ∧ s'.txWin tx = TxWin.free := by
  rw [exec_wmap]
  unfold execWmap
  rw [run_resumes h]
  generalize he : setPc st (nextPc st (.wmap y o)) = e
  have hme : e.me = { st.me with pc := nextPc st (.wmap y o) } := by rw [← he, setPc, State.me_setMe]
  have hop : curOp e = .wmap tx := by simp only [curOp, hme, h.waiting, hk]
  have htx : e.txWin tx = st.txWin tx := by rw [← he]; rfl
  have hgt : e.gt = st.gt := by rw [← he]; rfl
  obtain ⟨v, hb⟩ := wmapGoOn_due (s := e) (sd := o.sd.toNat) (by rw [htx]; exact hg) (by rw [htx, hgt]; exact ht)
  have hbody : wmapBody o e = .ok ((freeAsked e tx).setReg o.sd.toNat v) := by
    unfold wmapBody
    simp only [hop, hb]
  rw [hbody]
  obtain ⟨hkeep, hfree⟩ := freeAsked_keeps e tx
  obtain ⟨s', hs, hs'⟩ := finish_setReg (s := freeAsked e tx) (head := st.me.pc) (r := o.sd.toNat) (v := v)
    (by rw [hkeep, hme]; exact running_of_mayIssue h.turn) (by rw [hkeep, hme]; simp [h.waiting])
  exact ⟨s', hs, by rw [State.txWin, hs']; exact hfree⟩

/-- The event lets the instruction that waits on C go on, where it is the WMAP of the window. -/
theorem wmapMemberTimeout_goes (ha : alive s = true) (h0 : (s.txWin tx).asker ≠ 0) (ht : (s.txWin tx).askedGt + 10000 ≤ s.gt)
    (hb : s.bankOf (((s.txWin tx).asker - 1) / 2) = ((s.txWin tx).asker - 1) % 2) (hs : onTurn s (((s.txWin tx).asker - 1) / 2) .c = some st)
    (hf : fetchInstr st (((s.txWin tx).asker - 1) / 2) .c st.here = .run (.wmap y o)) (hk : curOp st = .wmap tx) :
    exec (.wmapMemberTimeout tx) s = exec (.wmap y o) st := by
  rw [exec_wmapMemberTimeout, exec_wmap]
  unfold execWmapMemberTimeout
  dsimp only
  rw [event_of ha (by simp [h0, ht, hb, Config.answerNs])]
  unfold waitingC
  simp only [hs, hf, hk, if_true, Option.getD_some]

end timeout

/-- Settles O47: an event of a lease whose conditions hold changes the entry as said, and sends its message. -/
theorem leaseEvents : Obligations.LeaseEvents := by
  unfold Obligations.LeaseEvents
  intro s rx tx src pos ha r w once
  refine ⟨fun need hs hr h1 hx hn => ?_, fun need hs hr h => leaseRequest_refused ha hs hr h, fun hm => ?_, fun hm hl => ?_,
    fun _ _ hg => leaseReleaseArrival_late hg, fun hm hr hg => leaseReleaseArrival_next ha hm hr hg,
    fun hm hr hg => lrecallSilentSource_next ha hm hr hg, fun base epoch h0 hp hg ho => ?_, fun base epoch m k h0 ho => ?_,
    fun m hw hp hm hi => leaseRecall_stops ha hw hp hm hi, fun m hm hu hr hl hf => leaseRelease_sent ha hm hu hr hl hf,
    fun base epoch hw hr hu => leaseRegrant_restores ha hw hr hu, ?_⟩
  · have e := leaseRequest_granted ha hs hr h1 hx hn
    exact ⟨fun h => e.trans (by rw [if_neg (not_not.mpr h)]), fun h => e.trans (by rw [if_pos h])⟩
  · exact (leaseReturn_next ha (.inl hm)).trans (by rw [if_pos hm])
  · exact (leaseReturn_next ha (.inr hl)).trans (by rw [if_neg hm])
  · exact ⟨fun ht => ⟨leaseReply_inTime ha h0 hp hg ho ht, leaseReply_inTime ha h0 hp hg ho ht⟩, fun ht g => leaseReply_late ho ht⟩
  · exact ⟨leaseReply_orphan ha h0 ho, leaseReply_orphan ha h0 ho⟩
  · intro core st y o k h0 ht hb hs hf h hk hg
    have e := wmapMemberTimeout_goes ha h0 ht hb hs hf (by simp only [curOp, h.waiting, hk])
    obtain ⟨s', hs', hfree⟩ := wmap_times_out h hk hg ht
    exact ⟨e, s', e.trans hs', hfree⟩

end Sys2Proof

namespace Sys2Proof

open Sys2Proof.Machine

/-! ### Time, scrubbing, the host and the drives (O50) -/

/-! #### Global time (R236 to R238, R356) -/

section time
variable {s : State} (ha : alive s = true)
include ha

theorem time_servo (hd : s.timedisc = false) :
    (∀ corr, exec (.timingMessage corr) s = .next { s with slew := s.slew + corr })
      ∧ (∀ jump, s.lockedOnce = false →
        exec (.timelockReady jump) s = .next { s with timelock := true, lockedOnce := true, gt := (s.gt + jump) % 2 ^ 64 })
      ∧ (∀ jump, s.lockedOnce = true → exec (.timelockReady jump) s = .next { s with timelock := true })
      ∧ exec .timelockLost s = .next { s with timelock := false, slew := 0 } := by
  have hc : (!s.timedisc) = true := by simp [hd]
  have ready (jump : Nat) : exec (.timelockReady jump) s = .next (lockTime s jump) := (exec_timelockReady jump s).trans (event_of ha hc)
  refine ⟨fun corr => (exec_timingMessage corr s).trans (event_of ha hc), fun jump h => (ready jump).trans ?_, fun jump h => (ready jump).trans ?_,
    (exec_timelockLost s).trans (event_of ha hc)⟩
  · simp only [lockTime, h, Bool.false_eq_true, if_false]
  · simp only [lockTime, h, if_true]

/-- In host-assisted mode GTADJ sets or clears the lock, or corrects. -/
theorem time_gtadj (hd : s.timedisc = true) :
    exec .gtadjSetLock s = .next { s with timelock := true, lockedOnce := true } ∧ exec .gtadjClearLock s = .next { s with timelock := false }
      ∧ ∀ adj : BitVec 32, exec (.gtadjCorrection adj) s = .next { s with slew := s.slew + adj.toInt } := by
  refine ⟨((exec_gtadjSetLock s).trans (event_of ha rfl)).trans ?_, ((exec_gtadjClearLock s).trans (event_of ha rfl)).trans ?_,
    fun adj => ((exec_gtadjCorrection adj s).trans (event_of ha rfl)).trans ?_⟩
  · simp [gtadjWrite, hd]
  · simp [gtadjWrite, hd]
  · have hlock : (adj.setWidth 64).extractLsb' 62 2 = 0#2 := by
      refine BitVec.eq_of_toNat_eq ?_
      have := adj.isLt
      simp only [BitVec.extractLsb'_toNat, BitVec.toNat_setWidth, Nat.shiftRight_eq_div_pow, BitVec.toNat_ofNat]
      omega
    have hadj : (adj.setWidth 64).extractLsb' 0 32 = adj := by
      refine BitVec.eq_of_toNat_eq ?_
      have := adj.isLt
      simp only [BitVec.extractLsb'_toNat, BitVec.toNat_setWidth, Nat.shiftRight_zero]
      omega
    simp [gtadjWrite, hd, hlock, hadj]

end time

/-! #### Errors of HBM (R93 to R95) -/

/-- ECCSTAT of the stack that holds a line. -/
def eccOf (s : State) (line : Nat) : Word := Sparse.get 1 s.eccstat (line * 64 / 2 ^ 37)

theorem eccOf_noteEcc (s : State) (line bit : Nat) : eccOf (noteEcc s line false bit) line = eccOf s line ||| memberBit bit := by
  simp [eccOf, noteEcc, memberBit]

theorem eccOf_noteEcc_line (s : State) (line bit : Nat) :
    eccOf (noteEcc s line true bit) line = ((eccOf s line ||| memberBit bit) &&& ~~~ (BitVec.ofNat 64 (2 ^ 41 - 64))) ||| BitVec.ofNat 64 (line * 64) := by
  simp [eccOf, noteEcc, memberBit]

/-- LASTLINE stands above the bits of ECCSTAT that events set. -/
theorem lastLine_above {k : Nat} (h : k < 6) (v w : Word) :
    ((v &&& ~~~ (BitVec.ofNat 64 (2 ^ 41 - 64))) ||| w).getLsbD k = (v.getLsbD k || w.getLsbD k) := by
  have hm : ∀ k, k < 6 → (~~~ (BitVec.ofNat 64 (2 ^ 41 - 64))).getLsbD k = true := by decide
  rw [BitVec.getLsbD_or, BitVec.getLsbD_and, hm k h, Bool.and_true]

/-- A bit that an event sets is set, and no later event clears one. -/
theorem noteEcc_bit {s : State} {line bit : Nat} {b : Bool} (h : bit < 6) : (eccOf (noteEcc s line b bit) line).getLsbD bit = true := by
  have hb := getLsbD_memberBit (n := bit) (by omega)
  cases b with
  | false => rw [eccOf_noteEcc, BitVec.getLsbD_or, hb, Bool.or_true]
  | true => rw [eccOf_noteEcc_line, lastLine_above h, BitVec.getLsbD_or, hb, Bool.or_true, Bool.true_or]

theorem noteEcc_keeps {s : State} {line other bit k : Nat} {b : Bool} (h : k < 6) (hk : (eccOf s line).getLsbD k = true) :
    (eccOf (noteEcc s other b bit) line).getLsbD k = true := by
  by_cases e : line * 64 / 2 ^ 37 = other * 64 / 2 ^ 37
  · have hs (s : State) : eccOf s line = eccOf s other := by rw [eccOf, e, eccOf]
    rw [hs] at hk ⊢
    cases b with
    | false => rw [eccOf_noteEcc, BitVec.getLsbD_or, hk, Bool.true_or]
    | true => rw [eccOf_noteEcc_line, lastLine_above h, BitVec.getLsbD_or, hk, Bool.true_or, Bool.true_or]
  · rw [eccOf, noteEcc, Sparse.get_set_other _ _ _ _ _ e]
    exact hk

/-- What the controller does with a line in which it finds symbols in error. -/
def foundError (s : State) (e : Nat × Nat) : State := if errKind e.2 == 1 then correctLine s e.1 else poisonLine s e.1

theorem foundError_frame (s : State) (e : Nat × Nat) :
    (foundError s e).hbm = s.hbm ∧ (foundError s e).cores = s.cores ∧ (foundError s e).out = s.out := by
  unfold foundError
  split
  · exact ⟨rfl, rfl, rfl⟩
  · exact ⟨rfl, rfl, rfl⟩

theorem findErrors_frame (s : State) (a n : Nat) :
    (findErrors s a n).hbm = s.hbm ∧ (findErrors s a n).cores = s.cores ∧ (findErrors s a n).out = s.out :=
  List.foldlRecOn (motive := fun s' : State => s'.hbm = s.hbm ∧ s'.cores = s.cores ∧ s'.out = s.out) _ foundError ⟨rfl, rfl, rfl⟩
    (fun s' ⟨hh, hc, ho⟩ e _ => by
      obtain ⟨kh, kc, ko⟩ := foundError_frame s' e
      exact ⟨kh.trans hh, kc.trans hc, ko.trans ho⟩)

/-- A line has no symbols in error. -/
theorem errs_correctLine (s : State) (line k : Nat) : Sparse.get 0 (correctLine s line).errs k = if k = line then 0 else Sparse.get 0 s.errs k :=
  Sparse.get_erase 0 line k s.errs

theorem errs_poisonLine (s : State) (line k : Nat) : Sparse.get 0 (poisonLine s line).errs k = if k = line then 0 else Sparse.get 0 s.errs k :=
  Sparse.get_erase 0 line k s.errs

theorem poison_poisonLine (s : State) (line k : Nat) : Sparse.get 0 (poisonLine s line).poison k = if k = line then 15 else Sparse.get 0 s.poison k :=
  Sparse.get_set 0 15 line k s.poison

/-- An entry of the errors that a read touches. -/
theorem mem_touched {s : State} {a n line k : Nat} (hk : errKind (Sparse.get 0 s.errs line) = k) (h0 : k ≠ 0) (h1 : line * 64 < a + n)
    (h2 : a < line * 64 + 64) : (line, Sparse.get 0 s.errs line) ∈ s.errs.filter (fun e => touchesLine a n e.1) := by
  refine List.mem_filter.mpr ⟨sparse_mem_of_get_ne (fun e => h0 ?_), by simp [touchesLine, h1, h2]⟩
  rw [← hk, e]
  rfl

section found
variable {s : State} {a n line : Nat} (h1 : line * 64 < a + n) (h2 : a < line * 64 + 64)
include h1 h2

/-- A line with one symbol in error is corrected. -/
theorem findErrors_corrects (hk : errKind (Sparse.get 0 s.errs line) = 1) :
    Sparse.get 0 (findErrors s a n).errs line = 0 ∧ (eccOf (findErrors s a n) line).getLsbD 1 = true := by
  refine foldl_establishes (f := foundError) (P := fun s => Sparse.get 0 s.errs line = 0 ∧ (eccOf s line).getLsbD 1 = true)
    (mem_touched hk one_ne_zero h1 h2) (fun s' => ?_) (fun s' e hs => ?_) s
  · rw [foundError, if_pos (by simp [hk])]
    exact ⟨by rw [errs_correctLine, if_pos rfl], noteEcc_bit (by decide)⟩
  · obtain ⟨he, hb⟩ := hs
    unfold foundError
    split
    · exact ⟨by rw [errs_correctLine, he, ite_self], noteEcc_keeps (by decide) hb⟩
    · exact ⟨by rw [errs_poisonLine, he, ite_self], noteEcc_keeps (by decide) hb⟩

/-- A line with two is poisoned. -/
theorem findErrors_poisons (hk : errKind (Sparse.get 0 s.errs line) = 2) :
    Sparse.get 0 (findErrors s a n).poison line = 15 ∧ (eccOf (findErrors s a n) line).getLsbD 2 = true := by
  refine foldl_establishes (f := foundError) (P := fun s => Sparse.get 0 s.poison line = 15 ∧ (eccOf s line).getLsbD 2 = true)
    (mem_touched hk two_ne_zero h1 h2) (fun s' => ?_) (fun s' e hs => ?_) s
  · rw [foundError, if_neg (by simp [hk])]
    exact ⟨by rw [poison_poisonLine, if_pos rfl], noteEcc_bit (by decide)⟩
  · obtain ⟨hp, hb⟩ := hs
    unfold foundError
    split
    · exact ⟨hp, noteEcc_keeps (by decide) hb⟩
    · exact ⟨by rw [poison_poisonLine, hp, ite_self], noteEcc_keeps (by decide) hb⟩

theorem correctAt_corrects (hk : errKind (Sparse.get 0 s.errs line) = 1) :
    (correctAt s (.hbm a) n).hbm = s.hbm ∧ (eccOf (correctAt s (.hbm a) n) line).getLsbD 1 = true := by
  refine ⟨List.foldlRecOn (motive := fun s' : State => s'.hbm = s.hbm) _ correctLine rfl (fun s' hs _ _ => hs), ?_⟩
  have hm : line ∈ (s.errs.filter (fun e => errKind e.2 == 1 && touchesLine a n e.1)).map (·.1) := by
    obtain ⟨hmem, ht⟩ := List.mem_filter.mp (mem_touched hk one_ne_zero h1 h2)
    exact List.mem_map.mpr ⟨_, List.mem_filter.mpr ⟨hmem, by simp only [hk, ht]; rfl⟩, rfl⟩
  exact foldl_establishes (f := correctLine) (P := fun s => (eccOf s line).getLsbD 1 = true) hm (fun s' => noteEcc_bit (by decide))
    (fun s' l hs => noteEcc_keeps (by decide) hs) s

end found

/-! #### The patrol scrubber (R94) -/

theorem sameMemory_of_eq {s s' : State} (hh : s'.hbm = s.hbm) (hc : s'.cores = s.cores) : SameMemory s s' :=
  ⟨fun a => by rw [hh], fun n a => by rw [State.core, State.core, hc]⟩

section scrub
variable {s : State} {line : Nat} (ha : alive s = true) (hp : s.populated (64 * line) 64 = true)
include ha hp

theorem patrolScrub_corrects (hk : errKind (Sparse.get 0 s.errs line) = 1) :
    ∃ s', exec (.patrolScrub line (.correctable false)) s = .next s' ∧ SameMemory s s' ∧ s'.poison = s.poison ∧ Sparse.get 0 s'.errs line = 0
      ∧ eccOf s' line = eccOf s line ||| 2 :=
  ⟨correctLine s line, (exec_patrolScrub line _ s).trans (event_of ha (by simp [hp, hk])), sameMemory_of_eq rfl rfl, rfl,
    (errs_correctLine s line line).trans (if_pos rfl), eccOf_noteEcc s line 1⟩

/-- A store that comes between takes the place of the write-back. -/
theorem patrolScrub_raced (hk : errKind (Sparse.get 0 s.errs line) = 1) :
    ∃ s', exec (.patrolScrub line (.correctable true)) s = .next s' ∧ SameMemory s s' ∧ s'.poison = s.poison ∧ s'.errs = s.errs :=
  ⟨noteEcc s line false 1, (exec_patrolScrub line _ s).trans (event_of ha (by simp [hp, hk])), sameMemory_of_eq rfl rfl, rfl, rfl⟩

theorem patrolScrub_uncorrectable (hk : errKind (Sparse.get 0 s.errs line) = 2 ∨ Sparse.get 0 s.poison line ≠ 0) :
    ∃ s', exec (.patrolScrub line .uncorrectable) s = .next s' ∧ SameMemory s s' ∧ Sparse.get 0 s'.poison line ≠ 0
      ∧ s'.out = s.out ++ [Msg.mgmtInterrupt 2]
      ∧ eccOf s' line = ((eccOf s line ||| 4) &&& ~~~ (0x1FFFFFFFFC0 : Word)) ||| BitVec.ofNat 64 (64 * line) := by
  have hecc : eccOf (noteEcc s line true 2) line = ((eccOf s line ||| 4) &&& ~~~ (0x1FFFFFFFFC0 : Word)) ||| BitVec.ofNat 64 (64 * line) :=
    (eccOf_noteEcc_line s line 2).trans (by rw [Nat.mul_comm line 64]; rfl)
  have hx := (exec_patrolScrub line .uncorrectable s).trans (event_of ha (by simpa [hp] using hk))
  by_cases h2 : errKind (Sparse.get 0 s.errs line) = 2
  · rw [if_pos (by simp [h2])] at hx
    exact ⟨_, hx, sameMemory_of_eq rfl rfl, by rw [State.say, poison_poisonLine, if_pos rfl]; decide, rfl, hecc⟩
  · rw [if_neg (by simp [h2])] at hx
    exact ⟨_, hx, sameMemory_of_eq rfl rfl, hk.resolve_left h2, rfl, hecc⟩

end scrub

/-! #### Words in error (R93, R135, R344) -/

/-- A word that is not yet in error joins those of its task. -/
theorem upsetTask_new {s : State} {core bank : Nat} {t : Task} {w : BadWord} (ht : s.task? core bank = some t) (hw : w ∉ t.bad) :
    upsetTask s core bank w = s.setTask core bank (some { t with bad := t.bad ++ [w] }) := by
  unfold upsetTask
  simp only [ht]
  exact if_neg (by simpa using hw)

section upset
variable {s : State} (ha : alive s = true)
include ha

theorem turnLineUpset_next {line n : Nat} (hp : s.populated (64 * line) 64 = true) (hn : n ≠ 0) (h0 : Sparse.get 0 s.poison line = 0) :
    turnLineUpset line n s = .next { s with errs := Sparse.set 0 line (min 2 (Sparse.get 0 s.errs line % 4 + n)) s.errs } :=
  event_of ha (by simp [hp, hn, h0])

theorem turnWordUpset_spad {core k : Nat} (hc : core < 512) (hk : 8 * k < 0x800000) :
    ∃ s', turnWordUpset (.spad core k) s = .next s' ∧ k ∈ (s'.core core).spadBad ∧ SameMemory s s' := by
  refine ⟨_, event_true ha _, ?_⟩
  dsimp only
  split
  · refine ⟨by simp, fun a => rfl, fun n a => ?_⟩
    rw [State.core_setCore]
    split
    · next e => rw [e]
    · rfl
  · next h => exact ⟨by simpa [hc, hk, Config.spadBytes] using h, fun _ => rfl, fun _ _ => rfl⟩

section task
variable {core bank : Nat} {t : Task} (ht : s.task? core bank = some t)
include ht

theorem turnWordUpset_v {r k : Nat} (hr : r < 1024) (hk : k < 32) (hw : .v r k ∉ t.bad) :
    turnWordUpset (.v core bank r k) s = .next (s.setTask core bank (some { t with bad := t.bad ++ [.v r k] })) :=
  (event_true ha _).trans (congrArg Host.Outcome.next ((if_pos (by simp [hr, hk])).trans (upsetTask_new ht hw)))

theorem turnWordUpset_fq {i : Nat} (hi : i < t.fq.length) (hw : .fq i ∉ t.bad) :
    turnWordUpset (.fq core bank i) s = .next (s.setTask core bank (some { t with bad := t.bad ++ [.fq i] })) :=
  (event_true ha _).trans (congrArg Host.Outcome.next ((if_pos (by simpa [queueDepth, ht] using hi)).trans (upsetTask_new ht hw)))

/-- The checksums of the bank stay, so that its check sees the element that differs. -/
theorem turnWordUpset_acc {a b k : Nat} (flip : BitVec 96) (hx : a < 4) (hb : b < 2) (hk : k < 16384) :
    ∃ s' t', turnWordUpset (.acc core bank a b k flip) s = .next s' ∧ s'.task? core bank = some t'
      ∧ (t'.accBank a b).check = { t.accBank a b with elems := (t'.accBank a b).elems }.check
      ∧ (Sparse.get ⟨0, 0⟩ (t'.accBank a b).elems k).v = (Sparse.get ⟨0, 0⟩ (t.accBank a b).elems k).v ^^^ flip := by
  have hset (x : AccBank) : (t.setAccBank a b x).accBank a b = x := Sparse.get_set_same _ _ _ _
  have he : upsetAcc s core bank a b k flip =
      let x := t.accBank a b
      let e := Sparse.get ⟨0, 0⟩ x.elems k
      s.setTask core bank (some (t.setAccBank a b { x with elems := Sparse.set ⟨0, 0⟩ k { e with v := e.v ^^^ flip } x.elems })) := by
    unfold upsetAcc
    simp only [ht]
  refine ⟨_, _, (event_true ha _).trans (congrArg Host.Outcome.next ((if_pos (by simp [hx, hb, hk])).trans he)),
    State.task?_setTask s core bank _, ?_, ?_⟩
  · rw [hset]
  · rw [hset, Sparse.get_set_same]

end task
end upset

/-! #### BAR2 and the drives (R346) -/

section bar2
variable {s : State} {off : Nat} (ha : alive s = true)
include ha

theorem bar2Read_refused {len : Nat} (hu : hostUp s = true) (hr : hostRefused s off len = true) :
    exec (.bar2Read off len) s = .next (s.say (.hostRead false [])) :=
  ((exec_bar2Read off len s).trans (event_of ha hu)).trans (congrArg Host.Outcome.next (if_pos hr))

theorem bar2Read_done {len : Nat} (hu : hostUp s = true) (hr : hostRefused s off len = false) :
    exec (.bar2Read off len) s = .next ((findErrors s off len).say (.hostRead true (getBytes s.hbm off len))) :=
  ((exec_bar2Read off len s).trans (event_of ha hu)).trans (congrArg Host.Outcome.next (if_neg (by simp [hr])))

theorem bar2Write_refused {bs : List Byte} (hu : hostUp s = true) (hr : hostRefused s off bs.length = true) :
    exec (.bar2Write off bs) s = .next { s with hostdrop := s.hostdrop + 1 } :=
  ((exec_bar2Write off bs s).trans (event_of ha hu)).trans (congrArg Host.Outcome.next (if_pos hr))

theorem bar2Write_done {bs : List Byte} (hu : hostUp s = true) (hr : hostRefused s off bs.length = false) :
    exec (.bar2Write off bs) s = .next (partStore s off bs) :=
  ((exec_bar2Write off bs s).trans (event_of ha hu)).trans (congrArg Host.Outcome.next (if_neg (by simp [hr])))

theorem driveDma_done {bs : List Byte} (hp : s.populated off bs.length = true) : exec (.driveDma off bs) s = .next (partStore s off bs) :=
  ((exec_driveDma off bs s).trans (event_true ha _)).trans (if_pos hp)

theorem driveDma_absent {bs : List Byte} (hp : s.populated off bs.length = false) : exec (.driveDma off bs) s = .fault (.absentMemory off) :=
  ((exec_driveDma off bs s).trans (event_true ha _)).trans (if_neg (by simp [hp]))

omit ha in
/-- A store where no line is in error changes its bytes and no others. -/
theorem partStore_writes {bs : List Byte} (hp : s.poison = []) (he : s.errs = []) :
    (partStore s off bs).cores = s.cores
      ∧ ∀ a, getByte (partStore s off bs).hbm a = if off ≤ a ∧ a < off + bs.length then bs.getD (a - off) 0 else getByte s.hbm a := by
  rw [partStore_bytes s off bs hp he]
  exact ⟨rfl, getByte_putBytes bs s.hbm off⟩

end bar2

/-! #### BAR0 (R347) -/

section bar0
variable {s : State} (ha : alive s = true) (hu : hostUp s = true)
include ha hu

theorem registerWrite_bar0 (off : Nat) (v : BitVec 256) : exec (.registerWrite (.bar0 off) v) s = writeBar0 off (v.setWidth 64) s :=
  (exec_registerWrite (.bar0 off) v s).trans (event_of ha hu)

theorem turnBar0Read_value {off : Nat} {w : Word} (h : readBar0 off s = w) :
    turnBar0Read off s = .next (s.say (.hostRead true (leBytes 8 w.toNat))) := by
  rw [← h]
  exact event_of ha hu

end bar0

/-- The offsets of the registers of a block. -/
theorem inBlock_iff {off lo hi m k : Nat} : (decide (lo ≤ off) && decide (off < hi) && off % m == k) = true ↔ lo ≤ off ∧ off < hi ∧ off % m = k := by
  simp [and_assoc]

section offsets
variable {s : State} {w : Word} {i : Nat}

theorem writeBar0_hostbox (h : i < 8) : writeBar0 (0x100 + 8 * i) w s = .next { s with hostbox := Sparse.set 0 i w s.hostbox } := by
  unfold writeBar0
  rw [if_neg (by omega), if_neg (by omega), if_pos (inBlock_iff.mpr (by omega))]
  rw [show (0x100 + 8 * i - 0x100) / 8 = i by omega]

theorem writeBar0_lqtail (h : i < 64) : writeBar0 (0x10000 + 0x100 * i) w s = execLqtailWrite i (w.setWidth 32) s := by
  unfold writeBar0
  rw [if_neg (by omega), if_neg (by omega), if_neg (mt inBlock_iff.mp (by omega)), if_neg (by omega), if_pos (inBlock_iff.mpr (by omega))]
  rw [show (0x10000 + 0x100 * i - 0x10000) / 0x100 = i by omega]

theorem readBar0_hostbox (h : i < 8) : readBar0 (0x100 + 8 * i) s = Sparse.get 0 s.hostbox i := by
  unfold readBar0
  rw [if_neg (by omega), if_neg (by omega), if_neg (by omega), if_neg (by omega), if_pos (inBlock_iff.mpr (by omega))]
  rw [show (0x100 + 8 * i - 0x100) / 8 = i by omega]

theorem readBar0_lqstat (h : i < 64) : readBar0 (0x10008 + 0x100 * i) s = (s.part i).lqstat := by
  unfold readBar0
  rw [if_neg (by omega), if_neg (by omega), if_neg (by omega), if_neg (by omega), if_neg (mt inBlock_iff.mp (by omega)),
    if_pos (inBlock_iff.mpr (by omega))]
  rw [show (0x10008 + 0x100 * i - 0x10000) / 0x100 = i by omega]

end offsets

/-! #### The mailbox (R350) -/

theorem mailCommand_busy {s : State} {host : Bool} (h : mailRuns s.mailbox = true ∨ mailRuns s.hostbox = true) : mailCommand host s = .next s := by
  unfold mailCommand
  exact if_pos (by simpa using h)

/-- With no command running, the low byte of word 0 names the command. -/
theorem mailCommand_starts {s : State} {host : Bool} {c : Nat} {i : Instr} (hm : mailRuns s.mailbox = false) (hb : mailRuns s.hostbox = false)
    (hc : (Sparse.get 0 (if host then s.hostbox else s.mailbox) 0).toNat % 256 = c) :
    let op (k : Nat) : Nat := (Sparse.get 0 (if host then s.hostbox else s.mailbox) k).toNat
    (c, i) ∈ [(1, Instr.regpart (op 1) (op 2) (op 3) host), (2, .regtq (op 1) (op 2) host), (3, .cut (op 1) (op 2) host),
      (4, .readbank (op 1) (op 2) (op 3) host), (5, .endlaunch (op 1) host), (6, .submit (op 1) (op 2) host)] → mailCommand host s = exec i s := by
  intro op hi
  unfold mailCommand
  simp only [hm, hb, Bool.or_false, Bool.false_eq_true, if_false, hc]
  simp only [List.mem_cons, Prod.mk.injEq, List.not_mem_nil, or_false] at hi
  rcases hi with ⟨rfl, rfl⟩ | ⟨rfl, rfl⟩ | ⟨rfl, rfl⟩ | ⟨rfl, rfl⟩ | ⟨rfl, rfl⟩ | ⟨rfl, rfl⟩ <;> rfl

/-! #### Registers that Milnos writes (R7, R15, R320, R350) -/

theorem registerWrite_reg {s x : State} {r : MgmtReg} {v : BitVec 256} (ha : alive s = true)
    (hr : execRegisterWrite r v s = event s true (.next (writeReg s r v))) (hx : writeReg s r v = x) : exec (.registerWrite r v) s = .next x := by
  rw [exec_registerWrite, hr, hx]
  exact event_true ha _

section registers
variable {s : State} {v : BitVec 256}

theorem bringUp_iff : bringUp s = true ↔ ∀ e ∈ s.parts, e.2.present = false := by simp [bringUp]

theorem bringUp_not (h : ∃ e ∈ s.parts, e.2.present = true) : bringUp s = false := by simpa [bringUp] using h

/-- Ring sizes of 1 to 8, and nothing above them. -/
theorem shapeOk_of {w : Word} (h : ∀ k, k ∈ [0, 4, 8] → 1 ≤ bits w.toNat k 4 ∧ bits w.toNat k 4 ≤ 8) (hw : w.toNat < 2 ^ 12) :
    shapeOk w = true := by
  have hz : bits w.toNat 12 52 = 0 := by rw [bits, Nat.div_eq_of_lt hw, Nat.zero_mod]
  simp only [shapeOk, hz, beq_self_eq_true, Bool.and_true, List.all_eq_true]
  intro k hk
  simpa using h k hk

/-- The extent entry of a task that is stopped in its bank. -/
theorem writeExtent_held {core bank entry : Nat} {e : Extent} {t : Task} (hb : bank < 2) (ht : s.task? core bank = some t) (hh : t.hold ≠ .none) :
    writeExtent s core bank entry e = s.setTask core bank (some { t with extents := Sparse.set Extent.reset entry e t.extents }) := by
  unfold writeExtent
  simp only [hb, if_true, ht]
  exact if_neg (by simpa using hh)

theorem writeExtent_running {core bank entry : Nat} {e : Extent} {t : Task} (hb : bank < 2) (ht : s.task? core bank = some t) (hh : t.hold = .none) :
    writeExtent s core bank entry e = s := by
  unfold writeExtent
  simp only [hb, if_true, ht]
  exact if_pos (by simp [hh])

/-- The extent entry of a saved task. -/
theorem writeExtent_saved {core bank entry : Nat} {ext : Extent} {e : Nat × Partition} {x : Saved} (he : e ∈ s.parts) (hx : x ∈ e.2.saved)
    (hc : x.core = core) (hb : x.bank = bank) :
    ∃ e' x', e' ∈ (writeExtent s core (bank + 2) entry ext).parts ∧ e'.1 = e.1 ∧ x' ∈ e'.2.saved
      ∧ x' = { x with extents := Sparse.set Extent.reset entry ext x.extents } ∧ (writeExtent s core (bank + 2) entry ext).cores = s.cores := by
  unfold writeExtent
  rw [if_neg (by omega)]
  exact ⟨_, _, List.mem_map.mpr ⟨e, he, rfl⟩, rfl, List.mem_map.mpr ⟨x, hx, if_pos (by simp [hc, hb])⟩, rfl, rfl⟩

theorem registerWrite_shape (ha : alive s = true) :
    let w : Word := v.setWidth 64
    ((∀ e ∈ s.parts, e.2.present = false) →
        (w.toNat < 512 → exec (.registerWrite .moduleNumber v) s = .next { s with modNum := w.toNat })
          ∧ ((∀ k, k ∈ [0, 4, 8] → 1 ≤ bits w.toNat k 4 ∧ bits w.toNat k 4 ≤ 8) → w.toNat < 2 ^ 12 →
            exec (.registerWrite .domainShape v) s = .next { s with domshape := w }))
      ∧ ((∃ e ∈ s.parts, e.2.present = true) →
        exec (.registerWrite .moduleNumber v) s = .next s ∧ exec (.registerWrite .domainShape v) s = .next s) := by
  intro w
  refine ⟨fun hn => ⟨fun hw => registerWrite_reg ha rfl (if_pos ?_), fun hk hw => registerWrite_reg ha rfl (if_pos ?_)⟩,
    fun h => ⟨registerWrite_reg ha rfl (if_neg ?_), registerWrite_reg ha rfl (if_neg ?_)⟩⟩
  · rw [bringUp_iff.mpr hn, Bool.true_and]
    exact decide_eq_true hw
  · rw [bringUp_iff.mpr hn, shapeOk_of hk hw]
    rfl
  · simp [bringUp_not h]
  · simp [bringUp_not h]

end registers

/-! #### The obligation -/

section host
variable {s : State} (ha : alive s = true)
include ha

/-- The host gets the bytes, and the lines that it has touched are corrected or poisoned. -/
theorem bar2Read_found {off len : Nat} (hu : hostUp s = true) (hr : hostRefused s off len = false) :
    ∃ s', exec (.bar2Read off len) s = .next s' ∧ SameMemory s s' ∧ s'.out = s.out ++ [Msg.hostRead true (getBytes s.hbm off len)]
      ∧ ∀ line, line * 64 < off + len → off < line * 64 + 64 →
        (errKind (Sparse.get 0 s.errs line) = 1 → Sparse.get 0 s'.errs line = 0 ∧ (eccOf s' line).getLsbD 1 = true)
          ∧ (errKind (Sparse.get 0 s.errs line) = 2 → Sparse.get 0 s'.poison line = 15 ∧ (eccOf s' line).getLsbD 2 = true) := by
  obtain ⟨hh, hc, ho⟩ := findErrors_frame s off len
  refine ⟨_, bar2Read_done ha hu hr, sameMemory_of_eq hh hc, by rw [State.say, ho], fun line h1 h2 => ⟨fun hk => ?_, fun hk => ?_⟩⟩
  · exact findErrors_corrects h1 h2 hk
  · exact findErrors_poisons h1 h2 hk

theorem bar0_writes (hu : hostUp s = true) (v : BitVec 256) :
    let w : Word := v.setWidth 64
    exec (.registerWrite (.bar0 0x18) v) s = .next { s with hostdrop := s.hostdrop &&& ~~~ w }
      ∧ (∀ i, i < 8 → exec (.registerWrite (.bar0 (0x100 + 8 * i)) v) s = .next { s with hostbox := Sparse.set 0 i w s.hostbox })
      ∧ exec (.registerWrite (.bar0 0x140) v) s = mailCommand true s
      ∧ (∀ first, first < 64 → exec (.registerWrite (.bar0 (0x10000 + 0x100 * first)) v) s = exec (.lqtailWrite first (w.setWidth 32)) s)
      ∧ (exec (.registerWrite (.bar0 0x10) v) s = .next (if (s.bootstat.extractLsb' 0 4).toNat = 1 then
          { s with bootstat := (w &&& ~~~ (0xFFFF : Word)) ||| (s.bootstat &&& 0xFFFF) } else s))
      ∧ exec (.registerWrite (.bar0 0) v) s = .next s ∧ exec (.registerWrite (.bar0 8) v) s = .next s := by
  have hw (off : Nat) := registerWrite_bar0 ha hu off v
  exact ⟨hw 0x18, fun i hi => (hw _).trans (writeBar0_hostbox hi), hw 0x140, fun first hf => (hw _).trans (writeBar0_lqtail hf), hw 0x10, hw 0, hw 8⟩

theorem extent_saved {core bank entry : Nat} {v : BitVec 256} {e : Nat × Partition} {x : Saved} (hc : core < 512) (hb : bank < 2) (hn : entry < 32)
    (he : e ∈ s.parts) (hx : x ∈ e.2.saved) (hxc : x.core = core) (hxb : x.bank = bank) :
    ∃ s' e' x', exec (.registerWrite (.extent core (bank + 2) entry) v) s = .next s' ∧ e' ∈ s'.parts ∧ e'.1 = e.1 ∧ x' ∈ e'.2.saved
      ∧ x' = { x with extents := Sparse.set Extent.reset entry (extentOf v) x.extents } ∧ s'.cores = s.cores := by
  obtain ⟨e', x', h⟩ := writeExtent_saved (entry := entry) (ext := extentOf v) he hx hxc hxb
  exact ⟨_, e', x', registerWrite_reg ha rfl (if_pos (by simp [hc, hn, show bank + 2 < 4 by omega])), h⟩

end host

/-- Settles O50: each event writes the fields that are named, and what the controller finds in a line it corrects or poisons. -/
theorem timeAndHostEvents : Obligations.TimeAndHostEvents := by
  unfold Obligations.TimeAndHostEvents
  refine ⟨fun s ha => ?_, fun s ha => ?_⟩
  · intro d stat
    refine ⟨time_servo ha, time_gtadj ha, fun _ => rfl, fun _ => rfl,
      fun line hp hk => ⟨patrolScrub_corrects ha hp hk, patrolScrub_raced ha hp hk⟩, fun line hp hk => patrolScrub_uncorrectable ha hp hk,
      fun line n hp hn h0 => turnLineUpset_next ha hp hn h0, fun a n line hk h1 h2 => correctAt_corrects h1 h2 hk,
      fun port hp => event_of ha (decide_eq_true hp), fun core k hc hk => turnWordUpset_spad ha hc hk,
      fun core bank r k t hr hk ht hw => turnWordUpset_v ha ht hr hk hw, fun core bank i t hi ht hw => turnWordUpset_fq ha ht hi hw,
      fun core bank a b k flip t hx hb hk ht => turnWordUpset_acc ha ht flip hx hb hk⟩
  · refine ⟨fun off len hu hr => bar2Read_refused ha hu hr, fun off len hu hr => ?_, fun off bs hu hr => bar2Write_refused ha hu hr,
      fun off bs hp he => ?_, fun off bs hp => driveDma_absent ha hp, fun hu v => ?_, fun hu => ?_, fun v => ⟨?_, registerWrite_reg ha rfl rfl⟩,
      fun host h => mailCommand_busy h, fun hm hb host c i hc hi => mailCommand_starts hm hb hc hi,
      fun i v hi => registerWrite_reg ha rfl (if_pos hi), fun v => registerWrite_shape ha,
      fun wheel pos v hw hp => registerWrite_reg ha rfl ((if_pos (by simp [hw, hp])).trans ?_),
      fun set v hs => registerWrite_reg ha rfl (if_pos hs), fun set port k v hs hp hk => registerWrite_reg ha rfl (if_pos (by simp [hs, hp, hk])),
      fun core num v hc h1 h2 => registerWrite_reg ha rfl ((if_pos hc).trans (if_pos (by simp [h1, h2]))),
      fun core bank entry v t hc hb he ht hh => registerWrite_reg ha rfl ((if_pos ?_).trans (writeExtent_held hb ht hh)),
      fun core bank entry v t hb ht hh => registerWrite_reg ha rfl ?_, fun core bank entry v e x hc hb hn he hx hxc hxb => ?_,
      fun stream key hu => (exec_spdmMessage stream key s).trans (event_of ha hu)⟩
    · exact bar2Read_found ha hu hr
    · exact ⟨fun hu hr => ⟨_, bar2Write_done ha hu hr, partStore_writes hp he⟩, fun hd => ⟨_, driveDma_done ha hd, partStore_writes hp he⟩⟩
    · exact bar0_writes ha hu v
    · have read {off : Nat} {w : Word} (h : readBar0 off s = w) := turnBar0Read_value ha hu h
      exact ⟨read rfl, read rfl, read rfl, read rfl, fun i hi => read (readBar0_hostbox hi), fun first hf => read (readBar0_lqstat hf), read rfl⟩
    · exact (exec_registerWrite .mbdoor v s).trans (event_true ha _)
    · simp only [wheelByte, Bool.and_eq_true, decide_eq_true_eq]
    · simp [hc, he, show bank < 4 by omega]
    · exact (ite_congr rfl (fun _ => writeExtent_running hb ht hh) (fun _ => rfl)).trans (ite_self s)
    · exact extent_saved ha hc hb hn he hx hxc hxb

end Sys2Proof

/-! ### The single issues of T (O36, O37) -/

namespace Sys2Proof

open Sys2Proof.Machine

/-! #### Two states that differ in their tasks alone -/

/-- Everything outside the cores is the same, and so are the bytes and the tags of every scratchpad. -/
structure TasksDiffer (u v : State) : Prop where
  rest : v = withCores u u.cur v.cores
  spad : ∀ n, (v.core n).spad = (u.core n).spad
  tags : ∀ n, (v.core n).tags = (u.core n).tags

theorem TasksDiffer.refl (u : State) : TasksDiffer u u := ⟨rfl, fun _ => rfl, fun _ => rfl⟩

theorem TasksDiffer.setHere (x : State) (k k' : Task) : TasksDiffer (x.setHere k) (x.setHere k') :=
  ⟨rfl, fun n => by simp, fun n => by simp⟩

section differ
variable {u v : State}

theorem TasksDiffer.same (h : TasksDiffer u v) : SameOutside u v := by
  refine ⟨?_, ?_, ?_, ?_, ?_, fun n => ⟨h.spad n, h.tags n⟩⟩ <;> rw [h.rest] <;> rfl

theorem TasksDiffer.cur (h : TasksDiffer u v) : v.cur = u.cur := by rw [h.rest]; rfl

theorem TasksDiffer.readPlace (h : TasksDiffer u v) (p : Place) (n : Nat) : Machine.readPlace v p n = Machine.readPlace u p n := h.same.readPlace p n

/-- An operation outside the cores does the same to both. -/
theorem TasksDiffer.of_blind (h : TasksDiffer u v) {f : State → State} (hf : CoresBlind f) : TasksDiffer (f u) (f v) := by
  have hv : f v = withCores (f u) u.cur v.cores := by
    conv_lhs => rw [h.rest]
    exact hf u u.cur v.cores
  have hcore (n : Nat) : (f v).core n = v.core n ∧ (f u).core n = u.core n := by simp [State.core, hf.cores]
  refine ⟨?_, fun n => ?_, fun n => ?_⟩
  · rw [hv, hf.cur]
    rfl
  · rw [(hcore n).1, (hcore n).2, h.spad]
  · rw [(hcore n).1, (hcore n).2, h.tags]

theorem TasksDiffer.storeSpad (h : TasksDiffer u v) (c off : Nat) (bs : List Byte) : TasksDiffer (Machine.storeSpad u c off bs) (Machine.storeSpad v c off bs) := by
  have hv : Machine.storeSpad v c off bs
      = withCores (Machine.storeSpad u c off bs) (Machine.storeSpad u c off bs).cur (Machine.storeSpad v c off bs).cores := by
    conv_lhs => rw [Machine.storeSpad, h.rest]
    rfl
  refine ⟨hv, fun n => ?_, fun n => ?_⟩
  · simp only [Machine.storeSpad, State.core_setCore]
    split
    · rw [h.spad]
    · exact h.spad n
  · simp only [Machine.storeSpad, State.core_setCore]
    split
    · exact h.tags c
    · exact h.tags n

theorem TasksDiffer.performPiece (h : TasksDiffer u v) (p : Place) (bs : List Byte) (whole : Bool) :
    TasksDiffer (Machine.performPiece u p bs whole) (Machine.performPiece v p bs whole) := by
  cases p with
  | spad c off => exact h.storeSpad c off bs
  | hbm a => exact h.of_blind (storeHbm_blind whole _ a bs)
  | tx a => exact h

theorem TasksDiffer.fold {α : Type} {f : State → α → State} (hf : ∀ u v a, TasksDiffer u v → TasksDiffer (f u a) (f v a)) (l : List α)
    (h : TasksDiffer u v) : TasksDiffer (l.foldl f u) (l.foldl f v) := by
  induction l generalizing u v with
  | nil => exact h
  | cons a l ih => exact ih (hf u v a h)

theorem TasksDiffer.performStore (h : TasksDiffer u v) (st : PStore) : TasksDiffer (Machine.performStore u st) (Machine.performStore v st) := by
  unfold Machine.performStore
  cases st.upd with
  | none => exact .fold (fun u v r h => h.performPiece (st.place.add r.1) r.2 st.whole) (byteRuns 0 [] st.bytes) h
  | some x =>
    dsimp only
    rw [h.readPlace]
    exact h.performPiece _ _ _

theorem TasksDiffer.correctAt (h : TasksDiffer u v) (p : Place) (n : Nat) : TasksDiffer (Machine.correctAt u p n) (Machine.correctAt v p n) := by
  cases p with
  | spad c off => exact h
  | tx a => exact h
  | hbm a =>
    have he : v.errs = u.errs := by rw [h.rest]; rfl
    unfold Machine.correctAt
    dsimp only
    rw [he]
    exact .fold (fun u v line h => h.of_blind (f := (correctLine · line)) (fun _ _ _ => rfl)) _ h

theorem served_blind (part : Nat) (p : Place) : CoresBlind (served · part p) := fun s u c => by
  cases p with
  | hbm a =>
    show serveWheel (withCores s u c) _ part = withCores (serveWheel s _ part) u c
    unfold serveWheel
    have ho : ownsWheel (withCores s u c) (a / 2 ^ 37) part = ownsWheel s (a / 2 ^ 37) part := rfl
    rw [ho]
    split <;> rfl
  | spad k off =>
    have hs : (withCores s u c).served = s.served := rfl
    unfold served
    dsimp only
    rw [hs]
    split <;> rfl
  | tx a => rfl

theorem TasksDiffer.setTask (h : TasksDiffer u v) (n b : Nat) (x x' : Option Task) : TasksDiffer (u.setTask n b x) (v.setTask n b x') := by
  refine ⟨?_, fun m => by rw [State.spad_setTask, State.spad_setTask, h.spad], fun m => by rw [State.tags_setTask, State.tags_setTask, h.tags]⟩
  conv_lhs => rw [State.setTask, h.rest]
  rfl

/-- A read's own earlier stores are performed in both; the same stores are left. -/
theorem TasksDiffer.drainAt (h : TasksDiffer u v) {core bank : Nat} {q : SeqId} {t t' : Task} (hu : u.task? core bank = some t)
    (hv : v.task? core bank = some t') (hs : (t'.seq q).stores = (t.seq q).stores) (id : Nat) (p : Place) (n : Nat) :
    TasksDiffer (Machine.drainAt u core bank q id p n) (Machine.drainAt v core bank q id p n)
      ∧ ∃ l, (Machine.drainAt u core bank q id p n).task? core bank = some (t.setSeq q { t.seq q with stores := l })
        ∧ (Machine.drainAt v core bank q id p n).task? core bank = some (t'.setSeq q { t'.seq q with stores := l }) := by
  unfold Machine.drainAt
  simp only [hu, hv, hs]
  generalize splitStores p n ((t.seq q).stores.filter (fun st => decide (st.id < id))) = d
  have hd : TasksDiffer (performStores u d.1) (performStores v d.1) := .fold (fun _ _ st h => h.performStore st) d.1 h
  have htu : (performStores u d.1).task? core bank = some t := ((performStores_sameTasks u d.1).task core bank).trans hu
  have htv : (performStores v d.1).task? core bank = some t' := ((performStores_sameTasks v d.1).task core bank).trans hv
  cases he : d.1.isEmpty with
  | true =>
    simp only [if_true]
    refine ⟨hd.correctAt p n, (t.seq q).stores, ?_, ?_⟩
    · rw [(correctAt_sameTasks _ p n).task, htu, Task.setSeq_seq]
    · rw [(correctAt_sameTasks _ p n).task, htv, ← hs, Task.setSeq_seq]
  | false =>
    simp only [Bool.false_eq_true, if_false, htu, htv, hs]
    refine ⟨(hd.setTask _ _ _ _).correctAt p n, (t.seq q).stores.filter (fun st => !d.1.contains st), ?_, ?_⟩
    · rw [(correctAt_sameTasks _ p n).task, State.task?_setTask]
    · rw [(correctAt_sameTasks _ p n).task, State.task?_setTask]

end differ

/-! #### A read does not depend on the point at which its record stands -/

/-- The sequencer asks for the same accesses. -/
structure SameRequests (u v : Seq) : Prop where
  wait : v.wait = u.wait
  stores : v.stores = u.stores
  pend : v.pend = u.pend

section running
variable {s : State} {core : Nat} {q : SeqId} {t : Task} {h : RecProg}

theorem here_singleState : (singleState s core q t).here = t := State.here_setHere ..
theorem me_singleState : (singleState s core q t).me = t.seq q := State.me_setHere ..
theorem me_running : (runningState s core q t h).me = (runningTask t q h).seq q := State.me_setHere ..
theorem part_runningTask : (runningTask t q h).part = t.part := by cases q <;> rfl

theorem runningState_eq : runningState s core q t h = (singleState s core q t).setHere (runningTask t q h) :=
  (State.setHere_setHere (turnOf s core q) (runningTask t q h) t).symm

theorem runningTask_requests (r : SeqId) : SameRequests (t.seq r) ((runningTask t q h).seq r) := by
  by_cases hr : r = q
  · subst hr
    rw [runningTask, Task.seq_setSeq]
    exact ⟨rfl, rfl, rfl⟩
  · rw [runningTask, Task.seq_setSeq_other _ _ _ _ hr]
    exact ⟨rfl, rfl, rfl⟩

/-- What is asked of every core has one answer, where it has one for the executing core. -/
theorem cores_any_running (P : Nat × Core → Bool) (hP : P (core, (s.core core).setTask (s.bankOf core) (some (runningTask t q h)))
      = P (core, (s.core core).setTask (s.bankOf core) (some t))) :
    (runningState s core q t h).cores.any P = (singleState s core q t).cores.any P :=
  cores_any_setTask (turnOf s core q) core (s.bankOf core) t (runningTask t q h) P hP

theorem wantsStack_running (d part : Nat) : wantsStack (runningState s core q t h) d part = wantsStack (singleState s core q t) d part := by
  unfold wantsStack
  dsimp only
  rw [cores_any_running _ ?_]
  · rfl
  · have hseq (r : SeqId) := runningTask_requests (t := t) (q := q) (h := h) r
    have hw (r : SeqId) : waitsFor ((runningTask t q h).seq r) d = waitsFor (t.seq r) d := by simp only [waitsFor, (hseq r).wait]
    unfold Core.setTask
    split <;>
      simp only [List.any_cons, List.any_nil, part_runningTask, show ∀ k : Task, k.c = k.seq .c from fun _ => rfl,
        show ∀ k : Task, k.t = k.seq .t from fun _ => rfl, show ∀ k : Task, k.v = k.seq .v from fun _ => rfl,
        show ∀ k : Task, k.m = k.seq .m from fun _ => rfl, (hseq _).stores, (hseq _).pend, hw]

theorem wheelOpen_running (w part : Nat) : wheelOpen (runningState s core q t h) w part = wheelOpen (singleState s core q t) w part := by
  have hw (part : Nat) : wantsWheel (runningState s core q t h) w part = wantsWheel (singleState s core q t) w part := by
    unfold wantsWheel
    rw [wantsStack_running]
    rfl
  unfold wheelOpen
  simp only [hw]
  rfl

theorem bankAsked_running (c off : Nat) : bankAsked (runningState s core q t h) core q c off = bankAsked (singleState s core q t) core q c off := by
  unfold bankAsked
  refine cores_any_running _ ?_
  have hbank : s.bankOf core = (s.core core).bank := rfl
  have hasks (r : SeqId) : asksBank (runningState s core q t h) ((runningTask t q h).seq r) c off = asksBank (singleState s core q t) (t.seq r) c off := by
    simp only [asksBank, (runningTask_requests (t := t) (q := q) (h := h) r).stores, (runningTask_requests (t := t) (q := q) (h := h) r).pend]
    rfl
  simp only [hbank, Core.setTask_bank, Core.task?_setTask, hasks]
  rfl

theorem open1_running (pl : Place) : open1 (runningState s core q t h) pl = open1 (singleState s core q t) pl := by
  have hpart : (runningState s core q t h).here.part = (singleState s core q t).here.part := by
    rw [here_running, here_singleState, part_runningTask]
  unfold open1
  rw [hpart]
  cases pl with
  | spad c off =>
    simp only [portOpen]
    rw [show (runningState s core q t h).cur.q = q from rfl, show myCore (runningState s core q t h) = core from rfl, bankAsked_running]
    rfl
  | hbm a => exact wheelOpen_running _ _
  | tx a => rfl

theorem ownCommitted_running (pl : Place) (n : Nat) : ownCommitted (runningState s core q t h) pl n = ownCommitted (singleState s core q t) pl n := by
  unfold ownCommitted
  rw [me_running, me_singleState, runningTask, Task.seq_setSeq]
  rfl

theorem readNow_eq (x : State) (pl : Place) (n : Nat) :
    (readNow x pl n).1 = drainAt (served x x.here.part pl) x.cur.core (x.bankOf x.cur.core) x.cur.q x.me.nextId pl n
      ∧ (readNow x pl n).2 = readPlace (readNow x pl n).1 pl n := by
  refine ⟨?_, rfl⟩
  have hs := served_sameTasks x x.here.part pl
  have hme : (served x x.here.part pl).me = x.me := by
    generalize x.here.part = part at hs ⊢
    simp only [State.me, State.here, hs.cur, hs.bank, hs.task]
  show drainAt _ _ _ _ _ pl n = _
  rw [hs.cur, hs.bank, hme]

/-- What a read leaves, whether or not its single issue has begun to run: the own stores that it comes after are performed. -/
structure ReadLeaves (s : State) (core : Nat) (q : SeqId) (t : Task) (h : RecProg) (r r' : State × List Byte) (l : List PStore) : Prop where
  differ : TasksDiffer r.1 r'.1
  bytes : r'.2 = r.2
  here : r.1.here = t.setSeq q { t.seq q with stores := l }
  here' : r'.1.here = (runningTask t q h).setSeq q { (runningTask t q h).seq q with stores := l }
  cur : r'.1.cur = { core := core, q := q }
  bank : r'.1.bankOf core = s.bankOf core

theorem readNow_running (pl : Place) (n : Nat) :
    ∃ l, ReadLeaves s core q t h (readNow (singleState s core q t) pl n) (readNow (runningState s core q t h) pl n) l := by
  obtain ⟨hu, hbu⟩ := readNow_eq (singleState s core q t) pl n
  obtain ⟨hv, hbv⟩ := readNow_eq (runningState s core q t h) pl n
  have hpu := served_sameTasks (singleState s core q t) t.part pl
  have hpv := served_sameTasks (runningState s core q t h) t.part pl
  have hd : TasksDiffer (served (singleState s core q t) t.part pl) (served (runningState s core q t h) t.part pl) :=
    (TasksDiffer.setHere (turnOf s core q) t (runningTask t q h)).of_blind (served_blind t.part pl)
  have hbanku : (served (singleState s core q t) t.part pl).bankOf core = s.bankOf core := (hpu.bank core).trans (State.bankOf_setHere ..)
  have hbankv : (served (runningState s core q t h) t.part pl).bankOf core = s.bankOf core := (hpv.bank core).trans (State.bankOf_setHere ..)
  have hbu' : (singleState s core q t).bankOf core = s.bankOf core := State.bankOf_setHere ..
  have hbv' : (runningState s core q t h).bankOf core = s.bankOf core := State.bankOf_setHere ..
  have htu : (served (singleState s core q t) t.part pl).task? core (s.bankOf core) = some t :=
    (hpu.task core _).trans (State.task?_setHere (turnOf s core q) t)
  have htv : (served (runningState s core q t h) t.part pl).task? core (s.bankOf core) = some (runningTask t q h) :=
    (hpv.task core _).trans (State.task?_setHere (turnOf s core q) (runningTask t q h))
  have hid : (runningState s core q t h).me.nextId = (singleState s core q t).me.nextId := by
    rw [me_running, me_singleState, runningTask, Task.seq_setSeq]
  obtain ⟨hdd, l, h1, h2⟩ := hd.drainAt (q := q) htu htv (runningTask_requests q).stores (singleState s core q t).me.nextId pl n
  rw [here_singleState, show (singleState s core q t).cur = { core := core, q := q } from rfl, hbu'] at hu
  rw [here_running, part_runningTask, show (runningState s core q t h).cur = { core := core, q := q } from rfl, hid, hbv'] at hv
  have hsu := drainAt_samePc (core := core) (q := q) (served (singleState s core q t) t.part pl) (singleState s core q t).me.nextId pl n
  have hsv := drainAt_samePc (core := core) (q := q) (served (runningState s core q t h) t.part pl) (singleState s core q t).me.nextId pl n
  rw [hbanku, ← hu] at hsu
  rw [hbankv, ← hv] at hsv
  rw [← hu] at h1 hdd
  rw [← hv] at h2 hdd
  have hcu : (readNow (singleState s core q t) pl n).1.cur = { core := core, q := q } := hsu.cur.trans hpu.cur
  have hcv : (readNow (runningState s core q t h) pl n).1.cur = { core := core, q := q } := hsv.cur.trans hpv.cur
  refine ⟨l, hdd, by rw [hbu, hbv, hdd.readPlace], ?_, ?_, hcv, (hsv.bank core).trans hbankv⟩
  · rw [State.here, hcu, (hsu.bank core).trans hbanku, h1]
    rfl
  · rw [State.here, hcv, (hsv.bank core).trans hbankv, h2]
    rfl

end running

/-! #### What the body of a single issue answers -/

section answer
variable {s : State} {core : Nat} {q : SeqId} {p : RecProg} {t : Task}

/-- What the body of the next single issue answers. -/
def singleRes (s : State) (core : Nat) (q : SeqId) (p : RecProg) (t : Task) : Res :=
  singleOf p.instr (heldBy p t q) ((singleState s core q t).setMe { (singleState s core q t).me with tick := (t.seq q).tick + 1 })

/-- A single issue that traps does so in the state before it, but for what its record holds. -/
def SingleFails (s : State) (core : Nat) (q : SeqId) (h : RecProg) (t : Task) (f : AccFault) : Prop :=
  ∃ t' : Task, exec (.recordSingleIssue core q) s
      = takeTrap ((turnOf s core q).setTask core (s.bankOf core) (some t')) core (s.bankOf core) q.num f.cause f.addr 0 (t.seq q).pc.toNat
    ∧ bareTask t' q = bareTask (t.setSeq q { t.seq q with prog := some h }) q

theorem singleIssue_held (hr : ReadySingle s core q p t) :
    exec (.recordSingleIssue core q) s = singleIssue (fun _ _ => singleRes s core q p t) p (singleState s core q t) := by
  have hheld : p.held (singleState s core q t).here (singleState s core q t).me = heldBy p t q := by rw [here_singleState, me_singleState]; rfl
  have htick : (singleState s core q t).me.tick = (t.seq q).tick := by rw [me_singleState]
  rw [exec_single hr]
  unfold singleIssue singleRes
  simp only [hheld, htick]

theorem singleFails_of (hr : ReadySingle s core q p t) {f : AccFault} (hx : singleRes s core q p t = f.res (runningState s core q t (heldBy p t q))) :
    SingleFails s core q (heldBy p t q) t f := by
  refine ⟨t.setSeq q { t.seq q with prog := some (heldBy p t q) }, ?_, rfl⟩
  have hback : (runningState s core q t (heldBy p t q)).setMe { (runningState s core q t (heldBy p t q)).me with tick := (singleState s core q t).me.tick }
      = (turnOf s core q).setHere (t.setSeq q { t.seq q with prog := some (heldBy p t q) }) := by
    have hcur : (turnOf s core q).cur.q = q := rfl
    simp only [me_singleState, runningState, runningTask, State.me_setHere, State.setMe_setHere, hcur, Task.seq_setSeq, Task.setSeq_setSeq]
  rw [singleIssue_held hr]
  unfold singleIssue
  simp only [hx, AccFault.res, hback]
  exact trapHere_setHere (turnOf s core q) _ (t.seq q).pc f.cause f.addr 0 (by simp [turnOf])

/-- A single issue that ends without an effect of its own. -/
theorem singleEffect_none (hr : ReadySingle s core q p t) (hx : singleRes s core q p t = .ok (runningState s core q t (heldBy p t q))) :
    SingleEffect s core q (heldBy p t q) t := by
  refine singleEffect_of hr hx ?_ ?_ ?_ ?_
  · simp [runningTask]
  · simp [runningTask]
  · simp [runningTask]
  · simp only [runningTask, Task.seq_setSeq, Task.setSeq_setSeq]
    exact bareTask_of_bareSeq rfl

/-- The next operand of a single issue is read (R103, R293). -/
def readNext (p : RecProg) (s : State) (pl : Place) (size : Nat) : Res :=
  match readOperand s pl size with
  | some r => .more (setProg r.1 { p with got := p.got ++ [leNat r.2] })
  | none => .wait 5 (waitFor pl) 0 0 s

theorem gather_next {h : RecProg} {x : State} {size : Nat} {ps : List (Option Place)} {next : State → List Nat → Res} {pl : Place} (hp : x.pick = none)
    (hg : ps[h.got.length]? = some (some pl)) : gather h x size ps next = readNext h x pl size := by
  unfold gather
  simp only [hp, Option.bind_none, hg]
  rfl

theorem gather_done {h : RecProg} {x : State} {size : Nat} {ps : List (Option Place)} {next : State → List Nat → Res} (hg : ps.length ≤ h.got.length) :
    gather h x size ps next = next x h.got := by
  have hahead (n : Nat) : ((((ps.drop h.got.length).filterMap id).filter (fun pl => (x.me.earlyAt false pl size).isNone))[n]?) = none := by
    rw [List.drop_eq_nil_of_le hg]
    rfl
  have hnone : x.pick.bind (fun n => (((ps.drop h.got.length).filterMap id).filter (fun pl => (x.me.earlyAt false pl size).isNone))[n]?) = none := by
    cases x.pick with
    | none => rfl
    | some n => exact hahead n
  unfold gather
  simp only [hnone, List.getElem?_eq_none hg]

/-- A single issue that goes on with a read leaves what has been read with its record, and neither its tick nor its PC moves. -/
theorem singleIssue_more (hr : ReadySingle s core q p t) {x : State} {k : Task} {hp : RecProg} (hx : singleRes s core q p t = .more (setProg x hp))
    (hc : x.cur = { core := core, q := q }) (hb : x.bankOf core = s.bankOf core) (hk : x.here = k) :
    ∃ t' fl, exec (.recordSingleIssue core q) s = .next (x.setTask core (s.bankOf core) (some t'))
      ∧ TokensOnly (k.setSeq q { k.seq q with prog := some hp, tick := (t.seq q).tick, wait := none, flights := fl }) t' := by
  subst hk
  have hset : (setProg x hp).setMe { (setProg x hp).me with tick := (singleState s core q t).me.tick, wait := none }
      = x.setHere (x.here.setSeq q { x.here.seq q with prog := some hp, tick := (t.seq q).tick, wait := none }) := by
    have hq : x.cur.q = q := by rw [hc]
    simp only [setProg, State.me_setMe, State.setMe_setMe, me_singleState]
    rw [State.setMe_eq, State.me, hq]
  obtain ⟨t', fl, h1, h2⟩ := settle_eq _ core (s.bankOf core) q _ (by
    rw [← hb]
    have := State.task?_setHere x (x.here.setSeq q { x.here.seq q with prog := some hp, tick := (t.seq q).tick, wait := none })
    rwa [hc] at this)
  refine ⟨t', fl, ?_, ?_⟩
  · rw [singleIssue_held hr]
    unfold singleIssue
    simp only [hx, hset, settleMe, State.setHere_cur, State.bankOf_setHere, hc, hb, h1]
    rw [State.setHere_eq, hc, hb, State.setTask_setTask]
  · rw [Task.seq_setSeq, Task.setSeq_setSeq] at h2
    exact h2

/-- The state `x` that a read leaves, in the terms of `ReadsNext`: nothing outside the tasks differs from `z`. -/
theorem singleIssue_takes (hr : ReadySingle s core q p t) {x z : State} {hp : RecProg} (hx : singleRes s core q p t = .more (setProg x hp))
    (hc : x.cur = { core := core, q := q }) (hb : x.bankOf core = s.bankOf core) (hs : SameOutside z x)
    (hbare : bareTask (x.here.setSeq q { x.here.seq q with prog := some hp }) q = bareTask (z.here.setSeq q { z.here.seq q with prog := some hp }) q)
    (hpc : (x.here.seq q).pc = (t.seq q).pc) :
    ∃ s' t', exec (.recordSingleIssue core q) s = .next s' ∧ s'.task? core (s.bankOf core) = some t' ∧ SameOutside z s'
      ∧ bareTask t' q = bareTask (z.here.setSeq q { z.here.seq q with prog := some hp }) q
      ∧ (t'.seq q).tick = (t.seq q).tick ∧ (t'.seq q).pc = (t.seq q).pc := by
  obtain ⟨t', fl, h1, h2⟩ := singleIssue_more hr hx hc hb rfl
  have hseq := h2.seq q
  rw [Task.seq_setSeq] at hseq
  refine ⟨_, t', h1, State.task?_setTask .., hs.setTask _ _ _, ?_, by rw [hseq], by rw [hseq]; exact hpc⟩
  rw [h2.bare, ← hbare]
  exact bareTask_of_bareSeq rfl

/-- The bytes `bs` become the next value of the record, in the terms of `ReadsNext`: `z` is what their read leaves. -/
def TakesNext (s : State) (core : Nat) (q : SeqId) (h : RecProg) (t : Task) (z : State) (bs : List Byte) : Prop :=
  ∃ s' t', exec (.recordSingleIssue core q) s = .next s' ∧ s'.task? core (s.bankOf core) = some t' ∧ SameOutside z s'
    ∧ bareTask t' q = bareTask (z.here.setSeq q { z.here.seq q with prog := some { h with got := h.got ++ [leNat bs] } }) q
    ∧ (t'.seq q).tick = (t.seq q).tick ∧ (t'.seq q).pc = (t.seq q).pc

/-- An operand whose granule has been read ahead. -/
theorem takes_early (hr : ReadySingle s core q p t) {pl : Place} {n : Nat} {bs : List Byte}
    (hx : singleRes s core q p t = readNext (heldBy p t q) (runningState s core q t (heldBy p t q)) pl n)
    (he : (runningState s core q t (heldBy p t q)).me.earlyAt false pl n = some bs) :
    TakesNext s core q (heldBy p t q) t (singleState s core q t) bs := by
  generalize hh : heldBy p t q = h at hx he ⊢
  have hset (u : Seq) : (runningState s core q t h).setMe u = (turnOf s core q).setHere ((runningTask t q h).setSeq q u) := State.setMe_setHere ..
  rw [me_running] at he
  simp only [readNext, readOperand, me_running, he, hset] at hx
  refine singleIssue_takes hr hx rfl (State.bankOf_setHere ..) (TasksDiffer.setHere (turnOf s core q) t _).same ?_ ?_
  · rw [here_singleState, State.here_setHere, Task.setSeq_setSeq, Task.seq_setSeq, runningTask, Task.setSeq_setSeq, Task.seq_setSeq]
    exact bareTask_of_bareSeq rfl
  · rw [State.here_setHere, Task.seq_setSeq, runningTask, Task.seq_setSeq]

/-- An operand that is read of memory. -/
theorem takes_now (hr : ReadySingle s core q p t) {pl : Place} {n : Nat}
    (hx : singleRes s core q p t = readNext (heldBy p t q) (runningState s core q t (heldBy p t q)) pl n)
    (he : (runningState s core q t (heldBy p t q)).me.earlyAt false pl n = none) (ho : open1 (singleState s core q t) pl = true)
    (hc : ownCommitted (singleState s core q t) pl n = true) :
    TakesNext s core q (heldBy p t q) t (readNow (singleState s core q t) pl n).1 (readNow (singleState s core q t) pl n).2 := by
  have hopen : (open1 (runningState s core q t (heldBy p t q)) pl && ownCommitted (runningState s core q t (heldBy p t q)) pl n) = true := by
    rw [open1_running, ownCommitted_running, ho, hc]
    rfl
  obtain ⟨l, hl⟩ := readNow_running (s := s) (core := core) (q := q) (t := t) (h := heldBy p t q) pl n
  simp only [readNext, readOperand, he, hopen, if_true, hl.bytes] at hx
  refine singleIssue_takes hr hx hl.cur hl.bank hl.differ.same ?_ ?_
  · rw [hl.here, hl.here', Task.setSeq_setSeq, Task.setSeq_setSeq, Task.seq_setSeq, Task.seq_setSeq, runningTask, Task.setSeq_setSeq, Task.seq_setSeq]
    exact bareTask_of_bareSeq rfl
  · rw [hl.here', Task.seq_setSeq, runningTask, Task.seq_setSeq]

/-- A single issue whose body reads its next operand. -/
theorem readsNext_of (hr : ReadySingle s core q p t) {pl : Place} {n : Nat}
    (hx : s.pick = none → singleRes s core q p t = readNext (heldBy p t q) (runningState s core q t (heldBy p t q)) pl n) :
    ReadsNext s core q (heldBy p t q) t pl n := by
  have hearly : (runningState s core q t (heldBy p t q)).me.earlyAt false pl n = (singleState s core q t).me.earlyAt false pl n := by
    rw [me_running, me_singleState, runningTask, Task.seq_setSeq]
    rfl
  exact fun hp => ⟨fun _ he => takes_early hr (hx hp) (hearly.trans he), fun he ho hc => takes_now hr (hx hp) (hearly.trans he) ho hc⟩

/-! #### The stores of a single issue -/

/-- The state at which the stores of a single issue begin, before its tick is counted. -/
theorem setProg_singleState (h : RecProg) :
    setProg (singleState s core q t) h = (turnOf s core q).setHere (t.setSeq q { t.seq q with prog := some h }) := by
  have hcur : (turnOf s core q).cur.q = q := rfl
  simp only [setProg, singleState, State.me_setHere, State.setMe_setHere, hcur]

/-- A single issue all of whose stores go (R99, R158). -/
theorem singleSends_any (hr : ReadySingle s core q p t) {chain : Place → Nat} {us : List (Place × List (Option Byte))} {s1 : State}
    (h1 : sendChained chain (setProg (singleState s core q t) (heldBy p t q)) us = .ok s1)
    (hx : ∀ x, sendChained chain (runningState s core q t (heldBy p t q)) us = .ok x → singleRes s core q p t = .ok x) :
    ∃ s' t', exec (.recordSingleIssue core q) s = .next s' ∧ SameOutside s1 s' ∧ s'.task? core (s.bankOf core) = some t'
      ∧ bareTask t' q = bareTask (s1.here.setSeq q { s1.here.seq q with prog := (heldBy p t q).next }) q := by
  have hcur : (turnOf s core q).cur.q = q := rfl
  have hrun : runningState s core q t (heldBy p t q)
      = (turnOf s core q).setHere (tickTask (t.setSeq q { t.seq q with prog := some (heldBy p t q) }) (turnOf s core q).cur.q ((t.seq q).tick + 1)) := by
    simp only [runningState, runningTask, tickTask, hcur, Task.seq_setSeq, Task.setSeq_setSeq]
  rw [setProg_singleState] at h1
  obtain ⟨h2, hsame⟩ := sendChained_tick (n := (t.seq q).tick + 1) (turnOf s core q) _ h1
  rw [← hrun] at h2
  have hs1 : s1.cur = { core := core, q := q } := hsame.cur
  have hs1q : s1.cur.q = q := by rw [hs1]
  have hruns : Runs s core q (heldBy p t q) (atTick ((t.seq q).tick + 1) s1) := by
    refine ⟨hs1, ?_, ?_⟩
    · rw [atTick, State.bankOf_setMe]
      exact hsame.bank.trans (State.bankOf_setHere ..)
    · rw [me_atTick, hsame.prog, State.me_setHere, hcur, Task.seq_setSeq]
  obtain ⟨t', fl, h3, h4⟩ := singleIssue_ok hr (hx _ h2) hruns
  refine ⟨_, t', h3, ?_, State.task?_setTask .., ?_⟩
  · exact (SameOutside.setTask ⟨rfl, rfl, rfl, rfl, rfl, fun _ => ⟨rfl, rfl⟩⟩ _ _ _).setTask _ _ _
  · rw [h4.bare, here_atTick, me_atTick, hs1q, Task.setSeq_setSeq, show s1.me = s1.here.seq q by rw [State.me, hs1q]]
    exact bareTask_of_bareSeq rfl

/-- A single issue that puts its stores: on a stall its record holds them. -/
theorem singleSends_put (hr : ReadySingle s core q p t) {chain : Place → Nat} {us : List (Place × List (Option Byte))}
    (hx : singleRes s core q p t = putChained chain (runningState s core q t (heldBy p t q)) us) : SingleSends s core q (heldBy p t q) t chain us := by
  have hok (x : State) (h : sendChained chain (runningState s core q t (heldBy p t q)) us = .ok x) : singleRes s core q p t = .ok x := by
    rw [hx, putChained, h]
  refine ⟨fun hu => ?_, fun s1 h1 => singleSends_any hr h1 hok⟩
  have hprog : ((runningTask t q (heldBy p t q)).seq q).prog = some (heldBy p t q) := by simp [runningTask]
  obtain ⟨e, he⟩ := queueAll_running (s := s) (core := core) us (wholeLine us) chain hprog
  have hown := sendChained_own (s := runningState s core q t (heldBy p t q)) (chain := chain) (fun u hm => (hu u hm).1)
    (fun u hm => mayStore_running (hu u hm).2.1 (hu u hm).2.2)
  refine singleEffect_of hr ((hok _ hown).trans (congrArg Res.ok he)) ?_ ?_ ?_ ?_
  · rw [Task.seq_setSeq]
    exact hprog
  · simp [runningTask, withStoresOf]
  · simp [runningTask, withStoresOf]
  · simp only [runningTask, withStoresOf, Task.seq_setSeq, Task.setSeq_setSeq]
    exact bareTask_of_bareSeq rfl

end answer
end Sys2Proof

namespace Sys2Proof

open Sys2Proof.Machine

/-! #### The body of a single issue of T -/

section body
variable {s : State} {core : Nat} {q : SeqId} {p : RecProg} {t : Task} {h : RecProg}

theorem heldBy_outs : (heldBy p t q).outs = p.outs := by unfold heldBy RecProg.held; split <;> rfl
theorem heldBy_got : (heldBy p t q).got = p.got := by unfold heldBy RecProg.held; split <;> rfl
theorem heldBy_recheck : (heldBy p t q).recheck = p.recheck := by unfold heldBy RecProg.held; split <;> rfl

theorem setProg_running : setProg (runningState s core q t h) h = runningState s core q t h := by
  have hcur : (turnOf s core q).cur.q = q := rfl
  simp only [setProg, runningState, runningTask, State.me_setHere, State.setMe_setHere, hcur, Task.seq_setSeq, Task.setSeq_setSeq]

/-- What a single issue of each kind does, once no check at its head is repeated and no store is left of it. -/
def tBody : TKind → RecProg → State → Res
  | .ldx => tCopy .ldx
  | .stx => tCopy .stx
  | .cpx => tCopy .cpx
  | .bmx => tCopy .bmx
  | .mcx => tMulticast
  | .zfx => tFill
  | .gthx => tGather
  | .sctx => tScatter .sctx .store tStore
  | .scacc => fun p => tScatter .scacc .load (tUpdate p) p

/-- What follows the tag check of a single issue. -/
def tAfter (k : TKind) (p : RecProg) (s : State) : Res :=
  if !p.outs.isEmpty then putChained (if k = .mcx then Place.space else fun _ => 0) (setProg s p) p.outs else tBody k p (setProg s p)

theorem tSingle_after (k : TKind) (p : RecProg) (s : State) :
    tSingle k p s = match (if p.recheck then tagCheck (setProg s p) p else none) with
      | some e => e
      | none => tAfter k { p with recheck := false } (setProg s p) := by
  cases k <;> rfl

theorem tSingle_eq {k : TKind} {x : State} (hrec : h.recheck = false) (houts : h.outs = []) : tSingle k h x = tBody k h (setProg (setProg x h) h) := by
  have hsame : ({ h with recheck := false } : RecProg) = h := by rw [← hrec]
  rw [tSingle_after, hsame, hrec, tAfter, houts]
  rfl

/-- The body of a single issue of T runs on the record as it is held. -/
theorem tSingle_res (hr : ReadySingle s core .t p t) {k : TKind} (hs : singleOf p.instr = tSingle k) (ho : p.outs = []) :
    singleRes s core .t p t = tBody k (heldBy p t .t) (runningState s core .t t (heldBy p t .t)) := by
  rw [singleRes, hs, tSingle_eq (heldBy_recheck.trans hr.kept) (heldBy_outs.trans ho), singleState_running, setProg_running]

/-- An operand of the running record is checked as one of its task. -/
theorem checkAccess_single (rs : Ranges) (k : AccKind) (a size align : Nat) :
    checkAccess (runningState s core q t h) core (runningTask t q h) rs k a size align = checkAccess (singleState s core q t) core t rs k a size align := by
  have hext : (runningTask t q h).extents = t.extents := by cases q <;> rfl
  rw [runningState_eq]
  exact checkAccess_congr (.inr ⟨_, _, _, rfl⟩) hext part_runningTask _ _ _ _ _

variable {m : MapRes} {rs : Ranges} {k : AccKind} {n a : Nat}

theorem operand_skip (hm : m = .skip) : tOperand (runningState s core q t h) m rs k n = .skip := by rw [hm]; rfl

theorem operand_bad (hm : m = .bad a) : tOperand (runningState s core q t h) m rs k n = .fault ⟨.extent, a⟩ := by rw [hm]; rfl

theorem operand_at {d : Place} (hm : m = .addr a) (hc : checkAccess (singleState s core q t) core t rs k a n n = .ok d) :
    tOperand (runningState s core q t h) m rs k n = .at d := by
  rw [← checkAccess_single (h := h)] at hc
  rw [hm, tOperand, here_running, show myCore (runningState s core q t h) = core from rfl, hc]

theorem operand_fault {f : AccFault} (hm : m = .addr a) (hc : checkAccess (singleState s core q t) core t rs k a n n = .error f) :
    tOperand (runningState s core q t h) m rs k n = .fault f := by
  rw [← checkAccess_single (h := h)] at hc
  rw [hm, tOperand, here_running, show myCore (runningState s core q t h) = core from rfl, hc]

end body

/-! #### LDX, STX, CPX, BMX and ZFX (R106, R115) -/

section copy
variable {s : State} {core : Nat} {p : RecProg} {t : Task} {y : Syn} {r : Rec}

/-- The register in which BMX counts its skipped single issues, or 0 (R115). -/
def skipCount (r : Rec) : Nat := (r.aux2.extractLsb' 0 5).toNat

/-- The task that a skipped single issue leaves: on BMX the count of the record goes up 2 ticks later (R115). -/
def skippedTask (s : State) (p : RecProg) (t : Task) (r : Rec) (isBmx : Bool) : Task :=
  if isBmx = true ∧ skipCount r ≠ 0 then
    withPendAt t .t t.t.head (heldBy p t .t).issueId s.mcc t.t.tick 2 [.xinc (skipCount r)] 0 false []
  else t

/-- The single issue of record `r` is skipped as `isBmx` says. -/
def SkipsAs (h : RecProg) (r : Rec) (isBmx : Bool) : Prop :=
  ∀ x, tSkip h x = .ok (if isBmx = true ∧ skipCount r ≠ 0 then pendWrites x 2 [.xinc (skipCount r)] 0 else x)

theorem tSkip_bmx {h : RecProg} (hi : h.instr = .bmx y r) : SkipsAs h r true := by
  intro x
  have hf : h.fields = r := by simp [RecProg.fields, hi, Instr.record?]
  unfold tSkip skipCount
  rw [hi, hf]
  simp [Config.latSkip]

theorem tSkip_other {h : RecProg} (hi : ∀ y r, h.instr ≠ .bmx y r) : SkipsAs h r false := by
  intro x
  unfold tSkip
  split
  · next y' r' hb => exact absurd hb (hi y' r')
  · rfl

theorem skipped_single (hr : ReadySingle s core .t p t) {isBmx : Bool} (hk : SkipsAs (heldBy p t .t) r isBmx)
    (hx : singleRes s core .t p t = tSkip (heldBy p t .t) (runningState s core .t t (heldBy p t .t))) :
    SingleEffect s core .t (heldBy p t .t) (skippedTask s p t r isBmx) := by
  rw [hk] at hx
  unfold skippedTask
  split
  · next hc =>
    rw [if_pos hc] at hx
    exact singleEffect_pend hr hx
  · next hc =>
    rw [if_neg hc] at hx
    exact singleEffect_none hr hx

/-- A single issue of a record that copies, with the ranges of its operands. -/
theorem copy_single (hr : ReadySingle s core .t p t) (ho : p.outs = []) {k : TKind} {isBmx : Bool} (hf : (heldBy p t .t).fields = r)
    (hs : singleOf p.instr = tSingle k) (hb : tBody k = tCopy k) (hk : SkipsAs (heldBy p t .t) r isBmx) :
    let h := heldBy p t .t
    let es := esBytes r.opm
    let st := singleState s core .t t
    (∀ da d aa a, tAddr h r.d h.baseD es true = .addr da → checkAccess st core t k.dRange .store da es es = .ok d →
        tAddr h r.a h.baseA es false = .addr aa → checkAccess st core t k.aRange .load aa es es = .ok a →
        (p.got = [] → ReadsNext s core .t h t a es)
          ∧ (∀ v, p.got = [v] → SingleSends s core .t h t (fun _ => 0) [(d, (leBytes es v).map some)]))
      ∧ (tAddr h r.d h.baseD es true = .skip → SingleEffect s core .t h (skippedTask s p t r isBmx))
      ∧ (∀ da d, tAddr h r.d h.baseD es true = .addr da → checkAccess st core t k.dRange .store da es es = .ok d →
          tAddr h r.a h.baseA es false = .skip → SingleEffect s core .t h (skippedTask s p t r isBmx))
      ∧ (∀ da f, tAddr h r.d h.baseD es true = .addr da → checkAccess st core t k.dRange .store da es es = .error f → SingleFails s core .t h t f)
      ∧ (∀ da, tAddr h r.d h.baseD es true = .bad da → SingleFails s core .t h t ⟨.extent, da⟩)
      ∧ (∀ da d aa f, tAddr h r.d h.baseD es true = .addr da → checkAccess st core t k.dRange .store da es es = .ok d →
          tAddr h r.a h.baseA es false = .addr aa → checkAccess st core t k.aRange .load aa es es = .error f → SingleFails s core .t h t f) := by
  intro h es st
  have hx : singleRes s core .t p t = tCopy k h (runningState s core .t t h) := (tSingle_res hr hs ho).trans (by rw [hb])
  unfold tCopy at hx
  simp only [show h.fields = r from hf] at hx
  refine ⟨fun da d aa a hda hd haa ha => ?_, fun hda => ?_, fun da d hda hd haa => ?_, fun da f hda hd => ?_, fun da hda => ?_,
    fun da d aa f hda hd haa ha => ?_⟩
  · rw [operand_at hda hd, operand_at haa ha] at hx
    dsimp only at hx
    refine ⟨fun hg => readsNext_of hr (fun hp => hx.trans ?_), fun v hg => singleSends_put hr (hx.trans ?_)⟩
    · exact gather_next hp (by rw [heldBy_got, hg]; rfl)
    · rw [gather_done (by rw [heldBy_got, hg]; rfl), heldBy_got, hg]
      rfl
  · rw [operand_skip hda] at hx
    exact skipped_single hr hk hx
  · rw [operand_at hda hd, operand_skip haa] at hx
    exact skipped_single hr hk hx
  · rw [operand_fault hda hd] at hx
    exact singleFails_of hr hx
  · rw [operand_bad hda] at hx
    exact singleFails_of hr hx
  · rw [operand_at hda hd, operand_fault haa ha] at hx
    exact singleFails_of hr hx

/-- The bytes of the fill word, as many as an element has. -/
theorem fill_bytes (w : Nat) (opm : BitVec 5) : (List.replicate 4 (leBytes 4 w)).flatten.take (esBytes opm)
    = (List.range (esBytes opm)).map (fun k => BitVec.ofNat 8 (w / 2 ^ (8 * (k % 4)))) := by
  have hword : leBytes 4 w = [BitVec.ofNat 8 w, BitVec.ofNat 8 (w / 2 ^ 8), BitVec.ofNat 8 (w / 2 ^ 16), BitVec.ofNat 8 (w / 2 ^ 24)] := by
    simp [leBytes, Nat.div_div_eq_div_mul]
  rw [hword]
  unfold esBytes
  split <;> simp [List.range_succ]

theorem fill_single (hr : ReadySingle s core .t p t) (ho : p.outs = []) (hi : p.instr = .zfx y r) {da : Nat} {d : Place}
    (hda : tAddr (heldBy p t .t) r.d (heldBy p t .t).baseD (esBytes r.opm) true = .addr da)
    (hd : checkAccess (singleState s core .t t) core t Ranges.all .store da (esBytes r.opm) (esBytes r.opm) = .ok d) :
    SingleSends s core .t (heldBy p t .t) t (fun _ => 0) [(d, ((List.range (esBytes r.opm)).map (fun k => BitVec.ofNat 8 (r.aux0.toNat / 2 ^ (8 * (k % 4))))).map some)] := by
  have hx := tSingle_res hr (k := .zfx) (by rw [hi]; rfl) ho
  have hf : (heldBy p t .t).fields = r := heldBy_fields hi rfl
  refine singleSends_put hr (hx.trans ?_)
  show tFill _ _ = _
  unfold tFill
  simp only [hf, operand_at hda hd, fill_bytes]
  rfl

end copy

/-- Settles O36: each single issue is the common copy, or the fill, of its operands. -/
theorem transferCopies : Obligations.TransferCopies := by
  unfold Obligations.TransferCopies
  intro s core p t y r hr _ ho h es st bank c skipped Delivers Fails Copies
  have copies {i : Instr} {k : TKind} {isBmx : Bool} (hrec : i.record? = some r) (hs : singleOf i = tSingle k) (hb : tBody k = tCopy k)
      (hk : p.instr = i → SkipsAs h r isBmx) : Copies i isBmx k.dRange k.aRange := fun hi =>
    copy_single hr ho (heldBy_fields hi hrec) (hi ▸ hs) hb (hk hi)
  have other {i : Instr} (hi : ∀ y r, i ≠ .bmx y r) (hp : p.instr = i) : SkipsAs h r false :=
    tSkip_other (fun y' r' => by rw [heldBy_instr, hp]; exact hi y' r')
  refine ⟨copies (k := .ldx) rfl rfl rfl (other ?_), copies (k := .stx) rfl rfl rfl (other ?_), copies (k := .cpx) rfl rfl rfl (other ?_),
    copies (k := .bmx) rfl rfl rfl (fun hi => tSkip_bmx (y := y) (heldBy_instr .. |>.trans hi)), fun hi da d hda hd => fill_single hr ho hi hda hd⟩
  all_goals exact fun _ _ hn => nomatch hn

end Sys2Proof

namespace Sys2Proof

open Sys2Proof.Machine

/-! #### MCX, GTHX, SCTX and SCACC (R107, R108, R119 to R121) -/

section indexed
variable {s : State} {core : Nat} {p : RecProg} {t : Task} {y : Syn} {r : Rec} {da aa ba : Nat}

theorem mcx_single (hr : ReadySingle s core .t p t) (ho : p.outs = []) (hi : p.instr = .mcx y r) {d a : Place}
    (hda : tAddr (heldBy p t .t) r.d (heldBy p t .t).baseD (esBytes r.opm) true = .addr da)
    (haa : tAddr (heldBy p t .t) r.a (heldBy p t .t).baseA (esBytes r.opm) false = .addr aa)
    (hd : checkAccess (singleState s core .t t) core t (TKind.mcx).dRange .store da (esBytes r.opm) (esBytes r.opm) = .ok d)
    (ha : checkAccess (singleState s core .t t) core t (TKind.mcx).aRange .load aa (esBytes r.opm) (esBytes r.opm) = .ok a) :
    (p.got = [] → ReadsNext s core .t (heldBy p t .t) t a (esBytes r.opm))
      ∧ (∀ v, p.got = [v] → SingleSends s core .t (heldBy p t .t) t Place.space
          (((List.range 8).filter (fun c => r.aux0.getLsbD c)).map (fun c => (Place.spad (8 * (core / 8) + c) d.off, (leBytes (esBytes r.opm) v).map some)))) := by
  have hx : singleRes s core .t p t = tMulticast (heldBy p t .t) (runningState s core .t t (heldBy p t .t)) :=
    tSingle_res hr (k := .mcx) (by rw [hi]; rfl) ho
  have hf : (heldBy p t .t).fields = r := heldBy_fields hi rfl
  unfold tMulticast at hx
  simp only [hf] at hx
  rw [operand_at hda hd, operand_at haa ha] at hx
  dsimp only at hx
  refine ⟨fun hg => readsNext_of hr (fun hp => hx.trans ?_), fun v hg => singleSends_put hr (hx.trans ?_)⟩
  · exact gather_next hp (by rw [heldBy_got, hg]; rfl)
  · rw [gather_done (by rw [heldBy_got, hg]; rfl), heldBy_got, hg, upTo, List.map_id]
    rfl

/-- The index that has been read, the bound of the record that may drop it, and the address that it selects (R108). -/
def indexOf (h : RecProg) : Int := sbits (h.got.headD 0) 0 32
def indexDropped (h : RecProg) (r : Rec) : Prop := r.aux1 ≠ 0 ∧ (indexOf h < 0 ∨ (r.aux1.toNat : Int) ≤ indexOf h)
def rowAddr (h : RecProg) (r : Rec) (x : Nat) : Nat := ((x + indexOf h * r.aux0.toNat) % 2 ^ 48).toNat

theorem indexDropped_iff {h : RecProg} :
    (r.aux1 != 0 && (decide (indexOf h < 0) || decide (indexOf h ≥ r.aux1.toNat))) = true ↔ indexDropped h r := by
  simp only [Bool.and_eq_true, bne_iff_ne, Bool.or_eq_true, decide_eq_true_eq]
  rfl

theorem tIndex_dropped {h : RecProg} (hd : indexDropped h r) : tIndex r (h.got.headD 0) = none := if_pos (indexDropped_iff.mpr hd)

theorem tIndex_kept {h : RecProg} (hd : ¬ indexDropped h r) : tIndex r (h.got.headD 0) = some (indexOf h) := if_neg (mt indexDropped_iff.mp hd)

theorem tIndexed_addr {h : RecProg} {m : MapRes} {x : Nat} (hm : m = .addr x) : tIndexed r m (indexOf h) = .addr (rowAddr h r x) := by
  rw [hm]
  rfl

/-! Two reads of one single issue: the index at B, then the element at A. -/

theorem reads_first (hr : ReadySingle s core .t p t) {n : Nat} {b : Place} {l : List (Option Place)} {next : State → List Nat → Res}
    (hx : singleRes s core .t p t = gather (heldBy p t .t) (runningState s core .t t (heldBy p t .t)) n (some b :: l) next) (hg : p.got = []) :
    ReadsNext s core .t (heldBy p t .t) t b n :=
  readsNext_of hr (fun hp => hx.trans (gather_next hp (by rw [heldBy_got, hg]; rfl)))

theorem reads_second (hr : ReadySingle s core .t p t) {n : Nat} {b a : Place} {next : State → List Nat → Res}
    (hx : singleRes s core .t p t = gather (heldBy p t .t) (runningState s core .t t (heldBy p t .t)) n [some b, some a] next) (hg : p.got.length = 1) :
    ReadsNext s core .t (heldBy p t .t) t a n :=
  readsNext_of hr (fun hp => hx.trans (gather_next hp (by rw [heldBy_got, hg]; rfl)))

/-- The index has been read. -/
theorem gather_index {x : State} {b : Place} {next : State → List Nat → Res} (hg : p.got ≠ []) :
    gather (heldBy p t .t) x 4 [some b] next = next x (heldBy p t .t).got :=
  gather_done (by rw [heldBy_got]; exact List.length_pos_iff.mpr hg)

/-- The index and the element have been read. -/
theorem gather_element {x : State} {n v w : Nat} {b a : Place} {next : State → List Nat → Res} (hg : p.got = [v, w]) :
    gather (heldBy p t .t) x n [some b, some a] next = next x [v, w] := by
  rw [gather_done (by rw [heldBy_got, hg]; rfl), heldBy_got, hg]

theorem gthx_single (hr : ReadySingle s core .t p t) (ho : p.outs = []) (hi : p.instr = .gthx y r)
    (hda : tAddr (heldBy p t .t) r.d (heldBy p t .t).baseD (esBytes r.opm) true = .addr da)
    (haa : tAddr (heldBy p t .t) r.a (heldBy p t .t).baseA (esBytes r.opm) false = .addr aa)
    (hba : tAddr (heldBy p t .t) r.b (heldBy p t .t).baseB 4 false = .addr ba) :
    let h := heldBy p t .t
    let es := esBytes r.opm
    let check (rs : Ranges) (k : AccKind) (x n : Nat) : Except AccFault Place := checkAccess (singleState s core .t t) core t rs k x n n
    (∀ f, check Ranges.spads .store da es = .error f → SingleFails s core .t h t f)
      ∧ (∀ d f, check Ranges.spads .store da es = .ok d → check Ranges.spads .load ba 4 = .error f → SingleFails s core .t h t f)
      ∧ ∀ d b, check Ranges.spads .store da es = .ok d → check Ranges.spads .load ba 4 = .ok b →
        (p.got = [] → ReadsNext s core .t h t b 4)
          ∧ (p.got ≠ [] → indexDropped h r → SingleSends s core .t h t (fun _ => 0) [(d, List.replicate es (some 0))])
          ∧ (∀ f, p.got ≠ [] → ¬ indexDropped h r → check Ranges.noTx .load (rowAddr h r aa) es = .error f → SingleFails s core .t h t f)
          ∧ (∀ a, p.got ≠ [] → ¬ indexDropped h r → check Ranges.noTx .load (rowAddr h r aa) es = .ok a →
            (p.got.length = 1 → ReadsNext s core .t h t a es)
              ∧ (∀ x v, p.got = [x, v] → SingleSends s core .t h t (fun _ => 0) [(d, (leBytes es v).map some)])) := by
  intro h es check
  have hx : singleRes s core .t p t = tGather h (runningState s core .t t h) := tSingle_res hr (k := .gthx) (by rw [hi]; rfl) ho
  have hf : h.fields = r := heldBy_fields hi rfl
  unfold tGather at hx
  simp only [hf] at hx
  refine ⟨fun f hd => ?_, fun d f hd hb => ?_, fun d b hd hb => ?_⟩
  · rw [operand_fault (rs := (TKind.gthx).dRange) hda hd] at hx
    exact singleFails_of hr hx
  · rw [operand_at (rs := (TKind.gthx).dRange) hda hd, operand_fault hba hb] at hx
    exact singleFails_of hr hx
  rw [operand_at (rs := (TKind.gthx).dRange) hda hd, operand_at hba hb] at hx
  dsimp only at hx
  refine ⟨reads_first hr hx, fun hg hdrop => ?_, fun f hg hkeep ha => ?_, fun a hg hkeep ha => ?_⟩
  · rw [gather_index hg, tIndex_dropped hdrop] at hx
    refine singleSends_put hr (hx.trans ?_)
    show putAll _ [(d, (List.replicate es 0).map some)] = _
    rw [List.map_replicate]
    rfl
  · rw [gather_index hg, tIndex_kept hkeep] at hx
    dsimp only at hx
    rw [tIndexed_addr haa, operand_fault (rs := (TKind.gthx).aRange) rfl ha] at hx
    exact singleFails_of hr hx
  · rw [gather_index hg, tIndex_kept hkeep] at hx
    dsimp only at hx
    rw [tIndexed_addr haa, operand_at (rs := (TKind.gthx).aRange) rfl ha] at hx
    refine ⟨reads_second hr hx, fun x v hxv => singleSends_put hr (hx.trans (gather_element hxv))⟩

end indexed

section scatter
variable {s : State} {core : Nat} {p : RecProg} {t : Task} {y : Syn} {r : Rec} {da aa ba : Nat} {k : TKind} {access : AccKind}
  {put : State → Place → List Byte → Res}

/-- The source of a scatter: A is formed and checked before anything else goes on (R115). -/
def tSource (k : TKind) (p : RecProg) (s : State) (next : Place → Res) : Res :=
  match tOperand s (tAddr p p.fields.a p.baseA (esBytes p.fields.opm) false) k.aRange .load (esBytes p.fields.opm) with
  | .skip => tSkip p s
  | .fault f => f.res s
  | .at a => next a

/-- The index at B, as an operand, and the target at D that it selects. -/
def indexOperand (p : RecProg) (s : State) : OpRes := tOperand s (tAddr p p.fields.b p.baseB 4 false) Ranges.spads .load 4
def targetOperand (k : TKind) (access : AccKind) (p : RecProg) (s : State) : OpRes :=
  tOperand s (tIndexed p.fields (tAddr p p.fields.d p.baseD (esBytes p.fields.opm) true) (indexOf p)) k.dRange access (esBytes p.fields.opm)

/-- The element is read after the index, and delivered. -/
def elementThen (put : State → Place → List Byte → Res) (p : RecProg) (s : State) (b d a : Place) : Res :=
  gather p s (esBytes p.fields.opm) [some b, some a] (fun s got => put s d (leBytes (esBytes p.fields.opm) (got.getD 1 0)))

/-- What follows the index of a scatter. -/
def scatterThen (k : TKind) (access : AccKind) (put : State → Place → List Byte → Res) (p : RecProg) (b : Place) (s : State) (got : List Nat) : Res :=
  match tIndex p.fields (got.headD 0) with
  | none => tSource k p s (fun _ => .ok s)
  | some i =>
    match tOperand s (tIndexed p.fields (tAddr p p.fields.d p.baseD (esBytes p.fields.opm) true) i) k.dRange access (esBytes p.fields.opm) with
    | .skip => tSkip p s
    | .fault f => f.res s
    | .at d => tSource k p s (elementThen put p s b d)

theorem tScatter_noIndex {h : RecProg} {x : State} {f : AccFault} (hb : indexOperand h x = .fault f) :
    tScatter k access put h x = tSource k h x (fun _ => f.res x) := by
  unfold indexOperand at hb
  unfold tScatter
  simp only [hb]
  rfl

theorem tScatter_index {h : RecProg} {x : State} {b : Place} (hb : indexOperand h x = .at b) :
    tScatter k access put h x = gather h x 4 [some b] (scatterThen k access put h b) := by
  unfold indexOperand at hb
  unfold tScatter
  simp only [hb]
  rfl

theorem scatterThen_dropped {h : RecProg} {x : State} {b : Place} (hd : indexDropped h h.fields) :
    scatterThen k access put h b x h.got = tSource k h x (fun _ => .ok x) := by
  unfold scatterThen
  rw [tIndex_dropped hd]

theorem scatterThen_fault {h : RecProg} {x : State} {b : Place} {f : AccFault} (hd : ¬ indexDropped h h.fields) (ht : targetOperand k access h x = .fault f) :
    scatterThen k access put h b x h.got = f.res x := by
  unfold targetOperand at ht
  unfold scatterThen
  rw [tIndex_kept hd]
  simp only [ht]

theorem scatterThen_target {h : RecProg} {x : State} {b d : Place} (hd : ¬ indexDropped h h.fields) (ht : targetOperand k access h x = .at d) :
    scatterThen k access put h b x h.got = tSource k h x (elementThen put h x b d) := by
  unfold targetOperand at ht
  unfold scatterThen
  rw [tIndex_kept hd]
  simp only [ht]

theorem tSource_at {h : RecProg} {x : State} {rs : Ranges} {a : Place} {next : Place → Res} (hk : k.aRange = rs)
    (ha : tOperand x (tAddr h h.fields.a h.baseA (esBytes h.fields.opm) false) rs .load (esBytes h.fields.opm) = .at a) : tSource k h x next = next a := by
  unfold tSource
  rw [hk, ha]

theorem tSource_fault {h : RecProg} {x : State} {rs : Ranges} {f : AccFault} {next : Place → Res} (hk : k.aRange = rs)
    (ha : tOperand x (tAddr h h.fields.a h.baseA (esBytes h.fields.opm) false) rs .load (esBytes h.fields.opm) = .fault f) :
    tSource k h x next = f.res x := by
  unfold tSource
  rw [hk, ha]

/-- The body of SCTX and of SCACC. -/
theorem sctx_res (hr : ReadySingle s core .t p t) (ho : p.outs = []) (hi : p.instr = .sctx y r) :
    singleRes s core .t p t = tScatter .sctx .store tStore (heldBy p t .t) (runningState s core .t t (heldBy p t .t)) :=
  tSingle_res hr (k := .sctx) (by rw [hi]; rfl) ho

theorem scacc_res (hr : ReadySingle s core .t p t) (ho : p.outs = []) (hi : p.instr = .scacc y r) :
    singleRes s core .t p t = tScatter .scacc .load (tUpdate (heldBy p t .t)) (heldBy p t .t) (runningState s core .t t (heldBy p t .t)) :=
  tSingle_res hr (k := .scacc) (by rw [hi]; rfl) ho

theorem scatter_res (hr : ReadySingle s core .t p t) (ho : p.outs = []) (hi : p.instr = .sctx y r ∨ p.instr = .scacc y r) :
    ∃ k access put, k.aRange = Ranges.spads ∧ (heldBy p t .t).fields = r
      ∧ singleRes s core .t p t = tScatter k access put (heldBy p t .t) (runningState s core .t t (heldBy p t .t)) := by
  rcases hi with hi | hi
  · exact ⟨_, _, _, rfl, heldBy_fields hi rfl, sctx_res hr ho hi⟩
  · exact ⟨_, _, _, rfl, heldBy_fields hi rfl, scacc_res hr ho hi⟩

/-- SCTX and SCACC up to the target that an index selects: a fault of A goes before one of B, and where the bound drops the element only A is checked. -/
theorem scatter_single (hr : ReadySingle s core .t p t) (ho : p.outs = []) (hi : p.instr = .sctx y r ∨ p.instr = .scacc y r)
    (haa : tAddr (heldBy p t .t) r.a (heldBy p t .t).baseA (esBytes r.opm) false = .addr aa)
    (hba : tAddr (heldBy p t .t) r.b (heldBy p t .t).baseB 4 false = .addr ba) :
    let h := heldBy p t .t
    let check (x n : Nat) : Except AccFault Place := checkAccess (singleState s core .t t) core t Ranges.spads .load x n n
    (∀ f a, check ba 4 = .error f → check aa (esBytes r.opm) = .ok a → SingleFails s core .t h t f)
      ∧ (∀ f e, check ba 4 = .error f → check aa (esBytes r.opm) = .error e → SingleFails s core .t h t e)
      ∧ ∀ b, check ba 4 = .ok b →
        (p.got = [] → ReadsNext s core .t h t b 4)
          ∧ (∀ a, p.got ≠ [] → indexDropped h r → check aa (esBytes r.opm) = .ok a → SingleEffect s core .t h t)
          ∧ (∀ f, p.got ≠ [] → indexDropped h r → check aa (esBytes r.opm) = .error f → SingleFails s core .t h t f) := by
  obtain ⟨k, access, put, hk, rfl, hx⟩ := scatter_res hr ho hi
  intro h check
  refine ⟨fun f a hb ha => ?_, fun f e hb ha => ?_, fun b hb => ⟨?_, fun a hg hdrop ha => ?_, fun f hg hdrop ha => ?_⟩⟩
  · rw [tScatter_noIndex (operand_fault hba hb), tSource_at hk (operand_at haa ha)] at hx
    exact singleFails_of hr hx
  · rw [tScatter_noIndex (operand_fault hba hb), tSource_fault hk (operand_fault haa ha)] at hx
    exact singleFails_of hr hx
  · rw [tScatter_index (operand_at hba hb)] at hx
    exact reads_first hr hx
  · rw [tScatter_index (operand_at hba hb), gather_index hg, scatterThen_dropped hdrop, tSource_at hk (operand_at haa ha)] at hx
    exact singleEffect_none hr hx
  · rw [tScatter_index (operand_at hba hb), gather_index hg, scatterThen_dropped hdrop, tSource_fault hk (operand_fault haa ha)] at hx
    exact singleFails_of hr hx

/-- Where the index selects a target: it is checked before A, and the element that is read is put there. -/
theorem scatter_target (hr : ReadySingle s core .t p t) (hf : (heldBy p t .t).fields = r)
    (hx : singleRes s core .t p t = tScatter k access put (heldBy p t .t) (runningState s core .t t (heldBy p t .t)))
    (hda : tAddr (heldBy p t .t) r.d (heldBy p t .t).baseD (esBytes r.opm) true = .addr da)
    (haa : tAddr (heldBy p t .t) r.a (heldBy p t .t).baseA (esBytes r.opm) false = .addr aa)
    (hba : tAddr (heldBy p t .t) r.b (heldBy p t .t).baseB 4 false = .addr ba) {b : Place}
    (hb : checkAccess (singleState s core .t t) core t Ranges.spads .load ba 4 4 = .ok b) (hg : p.got ≠ []) (hkeep : ¬ indexDropped (heldBy p t .t) r) :
    let h := heldBy p t .t
    let es := esBytes r.opm
    let check (rs : Ranges) (k : AccKind) (x : Nat) : Except AccFault Place := checkAccess (singleState s core .t t) core t rs k x es es
    (∀ f, check k.dRange access (rowAddr h r da) = .error f → SingleFails s core .t h t f)
      ∧ (∀ d f, check k.dRange access (rowAddr h r da) = .ok d → check k.aRange .load aa = .error f → SingleFails s core .t h t f)
      ∧ (∀ d a, check k.dRange access (rowAddr h r da) = .ok d → check k.aRange .load aa = .ok a →
        (p.got.length = 1 → ReadsNext s core .t h t a es)
          ∧ (∀ x v, p.got = [x, v] → singleRes s core .t p t = put (runningState s core .t t h) d (leBytes es v))) := by
  subst hf
  intro h es check
  rw [tScatter_index (operand_at hba hb), gather_index hg] at hx
  refine ⟨fun f hd => ?_, fun d f hd ha => ?_, fun d a hd ha => ?_⟩
  · rw [scatterThen_fault hkeep (operand_fault (tIndexed_addr hda) hd)] at hx
    exact singleFails_of hr hx
  · rw [scatterThen_target hkeep (operand_at (tIndexed_addr hda) hd), tSource_fault rfl (operand_fault haa ha)] at hx
    exact singleFails_of hr hx
  · rw [scatterThen_target hkeep (operand_at (tIndexed_addr hda) hd), tSource_at rfl (operand_at haa ha)] at hx
    exact ⟨reads_second hr hx, fun x v hxv => hx.trans (gather_element hxv)⟩

/-- A place of a scratchpad that has been checked. -/
theorem checkAccess_spads {x : State} {n align a : Nat} {d : Place} (h : checkAccess x core t Ranges.spads .load a n align = .ok d) :
    ∃ c off, d = .spad c off := by
  unfold checkAccess at h
  simp only [Ranges.spads, Bool.false_eq_true, if_false] at h
  split_ifs at h <;> cases h <;> exact ⟨_, _, rfl⟩

/-- A store of any kind that joins the queue of a task put in place. -/
theorem queueChained_task (x : State) (k : Task) (id : Nat) (pl : Place) (bs : List (Option Byte)) (upd : Option ScUpdate) (chain : Nat) (whole : Bool) :
    ∃ e, queueChained (x.setHere k) id pl bs upd chain whole = x.setHere (k.setSeq x.cur.q { k.seq x.cur.q with
      stores := (k.seq x.cur.q).stores
        ++ [{ queuedStore x.cur.core x.cur.q (k.seq x.cur.q).head x.mcc id (fun _ => chain) (fun _ => whole) (pl, bs) with upd := upd }], early := e }) := by
  obtain ⟨e, he⟩ : ∃ e, (k.seq x.cur.q).dropEarly pl bs.length = { k.seq x.cur.q with early := e } := by
    unfold Seq.dropEarly
    split
    · exact ⟨(k.seq x.cur.q).early, rfl⟩
    · exact ⟨_, rfl⟩
  refine ⟨e, ?_⟩
  unfold queueChained
  simp only [State.me_setHere, he, State.setMe_setHere, State.setHere_cur, storeLat_eq]
  rfl

/-- An update joins the stores of T in the chain of its core (R120, R121). -/
theorem update_single (hr : ReadySingle s core .t p t) {d : Place} {bs : List Byte} (hp : PortMet (turnOf s core .t) d) (hd : ∃ c off, d = .spad c off)
    (hx : singleRes s core .t p t = tUpdate (heldBy p t .t) (runningState s core .t t (heldBy p t .t)) d bs) :
    SingleEffect s core .t (heldBy p t .t) { t with t := { t.t with stores := t.t.stores ++
      [{ id := (heldBy p t .t).issueId, place := d, bytes := bs.map some, since := s.mcc, lat := 0, pc := t.t.head, chain := 1000, whole := false,
         upd := some { ty := (heldBy p t .t).scType, op := (heldBy p t .t).scOp, val := BitVec.ofNat 32 (leNat bs) } }] } } := by
  obtain ⟨c, off, rfl⟩ := hd
  have hm : mayStore (runningState s core .t t (heldBy p t .t)) (.spad c off) = true := mayStore_running hp (fun _ a he => nomatch he)
  rw [tUpdate, if_pos hm] at hx
  have hid : curId (runningState s core .t t (heldBy p t .t)) = (heldBy p t .t).issueId := by
    rw [curId, me_running, runningTask, Task.seq_setSeq]
  obtain ⟨e, he⟩ := queueChained_task (turnOf s core .t) (runningTask t .t (heldBy p t .t)) (heldBy p t .t).issueId (.spad c off) (bs.map some)
    (some { ty := (heldBy p t .t).scType, op := (heldBy p t .t).scOp, val := BitVec.ofNat 32 (leNat bs) }) updateChain false
  rw [hid] at hx
  exact singleEffect_of hr (hx.trans (congrArg Res.ok he)) rfl rfl rfl rfl

end scatter

/-- Settles O37: GTHX reads its index after D, and SCTX and SCACC form their target from it; what is delivered joins the stores of T. -/
theorem transferIndexed : Obligations.TransferIndexed := by
  unfold Obligations.TransferIndexed
  intro s core p t y r da aa hr _ ho h es st check Reads bytes Stores Fails hda haa
  refine ⟨fun d a hi hd ha => mcx_single hr ho hi hda haa hd ha, ?_⟩
  intro ba hba k dropped row spads scatters
  have early (hi : scatters) := scatter_single hr ho hi haa hba
  refine ⟨fun hi => gthx_single hr ho hi hda haa hba, fun f a hi => (early hi).1 f a, fun f e hi => (early hi).2.1 f e, fun b hb => ?_⟩
  have index (hi : scatters) := (early hi).2.2 b hb
  refine ⟨fun hi => (index hi).1, fun a hi => (index hi).2.1 a, fun f hi => (index hi).2.2 f, fun hg hkeep hi => ?_, fun hg hkeep hi => ?_⟩
  · obtain ⟨h1, h2, h3⟩ := scatter_target hr (heldBy_fields hi rfl) (sctx_res hr ho hi) hda haa hba hb hg hkeep
    refine ⟨h1, h2, fun d a hd ha => ⟨(h3 d a hd ha).1, fun x v hxv => singleSends_put hr ((h3 d a hd ha).2 x v hxv)⟩⟩
  · obtain ⟨h1, h2, h3⟩ := scatter_target hr (heldBy_fields hi rfl) (scacc_res hr ho hi) hda haa hba hb hg hkeep
    refine ⟨h1, h2, fun d a hd ha => ⟨(h3 d a hd ha).1, fun x v hxv hp => ?_⟩⟩
    exact update_single hr hp (checkAccess_spads hd) ((h3 d a hd ha).2 x v hxv)

end Sys2Proof

/-! ### The heads of T's records (O35) -/

namespace Sys2Proof

open Sys2Proof.Machine

/-! #### Fields of a bit map (R112) -/

section map
variable (m : BitVec 1024)

/-- `n` bits of a map, from bit `lo` on. -/
def mapField (lo n : Nat) : Nat := (m.extractLsb' lo n).toNat

theorem bits_eq_mapField (lo n : Nat) : bits m.toNat lo n = mapField m lo n := by
  rw [mapField, BitVec.extractLsb'_toNat, Nat.shiftRight_eq_div_pow]
  rfl

theorem bmKind_bmEntry (j : Nat) : bmKind (bmEntry m j) = mapField m (16 * j + 13) 3 := by
  rw [← bits_eq_mapField, bmKind, bmEntry, bits, bits, pow_add 2 (16 * j), ← Nat.div_div_eq_div_mul]
  exact Nat.mod_mul_right_div_self _ (2 ^ 13) (2 ^ 3)

theorem bmPos_bmEntry (j : Nat) : bmPos (bmEntry m j) = mapField m (16 * j) 6 := by
  rw [← bits_eq_mapField, bmPos, bmEntry, bits, bits]
  exact Nat.mod_mod_of_dvd _ (by decide)

theorem foldl_if_add {α : Type} (P : α → Bool) (f : α → Nat) (l : List α) (a : Nat) :
    l.foldl (fun a j => if P j then a + f j else a) a = a + ((l.filter P).map f).sum := by
  induction l generalizing a with
  | nil => rfl
  | cons x l ih =>
    rw [List.foldl_cons, ih]
    cases hx : P x <;> simp [hx, Nat.add_assoc]

/-- The weights of the bits of an index that entries of one kind send on. -/
def kindSum (n l kind : Nat) : Nat :=
  (((List.range n).filter (fun j => mapField m (16 * j + 13) 3 == kind && l.testBit j)).map
    (fun j => 2 ^ mapField m (16 * j) 6)).sum

theorem bmSum_eq (n l kind : Nat) : bmSum m n l kind = kindSum m n l kind := by
  unfold bmSum kindSum upTo
  simp only [bmKind_bmEntry, bmPos_bmEntry, List.map_id]
  exact (foldl_if_add _ _ _ 0).trans (Nat.zero_add _)

theorem any_kind (n l kind : Nat) :
    (upTo n id).any (fun j => bmKind (bmEntry m j) == kind && l.testBit j) = true ↔ ∃ j, j < n ∧ mapField m (16 * j + 13) 3 = kind ∧ l.testBit j = true := by
  simp [upTo, bmKind_bmEntry]

theorem has_kind (n kind : Nat) :
    (upTo n id).any (fun j => bmKind (bmEntry m j) == kind) = true ↔ ∃ j, j < n ∧ mapField m (16 * j + 13) 3 = kind := by
  simp [upTo, bmKind_bmEntry]

/-- The logical index `l` is beyond the map, or selects an entry that has no place (R114). -/
def mapSkips (l : Nat) : Prop :=
  2 ^ mapField m 768 16 ≤ l ∨ ∃ j, j < mapField m 768 16 ∧ mapField m (16 * j + 13) 3 = 4 ∧ l.testBit j = true

/-- The address that a map forms in its own chip, before the term of the core (R114). -/
def mapOffset (base : Word) (l : Nat) : Nat :=
  (base.toNat + kindSum m (mapField m 768 16) l 2 * mapField m 832 64 + kindSum m (mapField m 768 16) l 0) % 2 ^ 48

variable {m} {base : Word} {l : Nat} {dest : Bool}

theorem mapAddr_skip (h : mapSkips m l) : mapAddr m base l dest = .skip := by
  unfold mapAddr bmNbits
  rw [bits_eq_mapField]
  rcases h with h | h
  · have hl : l / 2 ^ mapField m 768 16 ≠ 0 := (Nat.div_pos h (Nat.two_pow_pos _)).ne'
    simp [hl]
  · simp [(any_kind m _ l 4).mpr h]

/-- Of an index that is not skipped: in another chip, whose window a destination may have, or here. -/
theorem mapAddr_eq (h : ¬ mapSkips m l) :
    mapAddr m base l dest =
      if kindSum m (mapField m 768 16) l 3 ≠ mapField m 784 16 then
        if dest = true ∧ mapField m 896 64 ≠ 0 then
          .addr ((mapField m 896 64 + kindSum m (mapField m 768 16) l 3 * mapField m 960 64 + kindSum m (mapField m 768 16) l 0) % 2 ^ 48)
        else .skip
      else if ∃ j, j < mapField m 768 16 ∧ mapField m (16 * j + 13) 3 = 1 then
        if 0x7FFFFF < mapOffset m base l then .bad (mapOffset m base l)
        else .addr (0x8000000 + kindSum m (mapField m 768 16) l 1 * 0x800000 + mapOffset m base l)
      else .addr (mapOffset m base l) := by
  obtain ⟨hn, hk⟩ := not_or.mp h
  have hl : l / 2 ^ mapField m 768 16 = 0 := Nat.div_eq_of_lt (not_le.mp hn)
  unfold mapAddr bmNbits bmOwn bmChipwin bmChipstride bmSstride mapOffset
  simp only [bits_eq_mapField, bmSum_eq, any_kind, has_kind, Nat.reduceMul, hl, hk, ne_eq, not_true_eq_false, if_false, Bool.and_eq_true,
    decide_eq_true_eq, gt_iff_lt]
  rfl

end map

/-! #### The address of an operand (R39, R114) -/

/-- The steps of an operand from its base at the record's point. -/
def stepsAt (p : RecProg) (x : RecOperand) : Int := p.i0 * x.s0.toInt + p.i1 * x.s1.toInt + p.i2 * x.s2.toInt + p.i3 * x.s3.toInt

/-- Where BMX starts its logical indices. -/
def startIndex (p : RecProg) : Nat := match p.instr with | .bmx _ r => r.aux1.toNat | _ => 0

section address
variable {p : RecProg} {x : RecOperand} {base : Word} {size : Nat} {extra : Int} {dest : Bool}

theorem tAddr_eq : tAddr p x base size dest = recAddr p.map x base p.i0 p.i1 p.i2 p.i3 size (startIndex p) 0 dest := by
  unfold tAddr startIndex
  cases hi : p.instr with
  | bmx y r => simp only [RecProg.fields, hi]; rfl
  | _ => rfl

theorem tAddr_linear (hx : x.bm = false) : tAddr p x base size dest = .addr ((base.toNat + stepsAt p x * size) % 2 ^ 48).toNat := by
  simp only [tAddr_eq, recAddr, hx, Bool.false_eq_true, if_false, add_zero]
  rfl

theorem mAddr_linear (hx : x.bm = false) : mAddr p x base size extra dest = .addr ((base.toNat + (stepsAt p x + extra) * size) % 2 ^ 48).toNat := by
  simp only [mAddr, recAddr, hx, Bool.false_eq_true, if_false]
  rfl

theorem tAddr_mapped (hx : x.bm = true) : tAddr p x base size dest = mapAddr p.map base ((startIndex p + stepsAt p x) % 2 ^ 48).toNat dest := by
  simp only [tAddr_eq, recAddr, hx, if_true, add_zero]
  rfl

theorem mAddr_mapped (hx : x.bm = true) : mAddr p x base size extra dest = mapAddr p.map base ((stepsAt p x + extra) % 2 ^ 48).toNat dest := by
  simp only [mAddr, recAddr, hx, if_true, Nat.cast_zero, zero_add]
  rfl

end address

/-! #### A record begins, or is refused at its head (R39) -/

section head
variable {s : State} {i : Instr} {y : Syn} {t : Task} {prep : State → RecProg → Except Res (State × RecProg)}

theorem Entered.curId {k : Task} {ticks : Nat} {w : Wait} (h : Ready s i y t) (hk : Entered s i t ticks k w) : curId (s.setHere k) = w.id := by
  simp [Machine.curId, hk.prog.trans h.prog, hk.wait]

/-- The record as its head is checked: the checks see it at the sequencer's PC, with its counters at 0. -/
theorem startRecord_entered (h : Ready s i y t) {k : Task} {w : Wait} (he : entered s t y (encode i).length 0 = s.setHere k)
    (hk : Entered s i t 0 k w) {p : RecProg} (hp : prep (s.setHere k) (RecProg.start i s.me.pc (w.id + 1)) = .ok (s.setHere k, p)) :
    startRecord i y prep s = finish s.me.pc (.ok (s.setHere (k.setSeq s.cur.q { k.seq s.cur.q with
      pc := s.me.pc, prog := some p, nextId := w.id + 2,
      flights := (k.seq s.cur.q).flights ++ [{ id := w.id, sig := 0, took := w.took, region := (k.seq s.cur.q).regionNo }],
      wait := some { w with id := w.id + 1, took := 0 } }))) := by
  rw [startRecord, run_ok h, he]
  simp only [hk.headPc, hk.curId h, hp, State.me_setHere, hk.wait, State.setMe_setHere]

/-- What the checks of a head fill in leaves where the record stands, and its counters. -/
structure KeepsPlace (p p' : RecProg) : Prop where
  instr : p'.instr = p.instr
  pc : p'.pc = p.pc
  i0 : p'.i0 = p.i0
  i1 : p'.i1 = p.i1
  i2 : p'.i2 = p.i2
  i3 : p'.i3 = p.i3
  began : p'.began = p.began

/-- A record whose checks pass begins with what they fill in. -/
theorem begins_with (h : Ready s i y t) (hx : exec i s = startRecord i y prep s) (fill : Task → RecProg → RecProg)
    (hp : ∀ k w, Entered s i t 0 k w →
      prep (s.setHere k) (RecProg.start i s.me.pc (w.id + 1)) = .ok (s.setHere k, fill k (RecProg.start i s.me.pc (w.id + 1))))
    (hfill : ∀ k p, KeepsPlace p (fill k p)) :
    Begins s i t := by
  obtain ⟨k, w, he, hk⟩ := entered_spec s i y t 0
  have hf := hfill k (RecProg.start i s.me.pc (w.id + 1))
  obtain ⟨t', fl, n, hfin, htok⟩ := finish_ok s s.me.pc
    (k.setSeq s.cur.q { k.seq s.cur.q with
      pc := s.me.pc, prog := some (fill k (RecProg.start i s.me.pc (w.id + 1))), nextId := w.id + 2,
      flights := (k.seq s.cur.q).flights ++ [{ id := w.id, sig := 0, took := w.took, region := (k.seq s.cur.q).regionNo }],
      wait := some { w with id := w.id + 1, took := 0 } }) (by simp [hk.stream, h.stream]) (by simp)
  have hseq := htok.seq s.cur.q
  rw [Task.seq_setSeq, Task.seq_setSeq] at hseq
  refine ⟨t', _, (hx.trans (startRecord_entered h he hk (hp k w hk))).trans hfin, by rw [hseq], trivial, hf.instr, hf.pc,
    hf.i0, hf.i1, hf.i2, hf.i3, hf.began, ?_, by rw [hseq], ?_⟩
  · have hprog : (k.seq s.cur.q).prog = none := hk.prog.trans h.prog
    have hbare : bareTask (k.setSeq s.cur.q { k.seq s.cur.q with prog := none }) s.cur.q = bareTask t s.cur.q := by
      rw [← hprog, Task.setSeq_seq, hk.bare]
    rw [(htok.setSeq s.cur.q _).bare, hseq, Task.setSeq_setSeq, Task.setSeq_setSeq, ← hbare]
    exact bareTask_of_bareSeq rfl
  · rw [hseq]
    exact hk.seqno

/-- A record whose checks fail is refused, and nothing of it is done. -/
theorem refused_at_head (h : Ready s i y t) (hx : exec i s = startRecord i y prep s) {c : Cause} {faddr : Nat}
    (hp : ∀ k w, Entered s i t 0 k w → prep (s.setHere k) (RecProg.start i s.me.pc (w.id + 1)) = .error (.trap c faddr 0 (s.setHere k))) :
    TrapsPrecisely s i t c faddr := by
  obtain ⟨k, w, he, hk⟩ := entered_spec s i y t 0
  refine trap_of h hx ?_
  rw [he]
  simp only [hk.headPc, hk.curId h, hp k w hk]

end head

/-! #### The heads of T's records (R110, R112, R118) -/

section transferHead
variable {s : State} {i : Instr} {y : Syn} {r : Rec} {t : Task}

/-- What a record holds once its head has been checked: its bases, its map, and how it scatters. -/
def headFilled (q : SeqId) (m : BitVec 1024) (k : Task) (p : RecProg) : RecProg :=
  { p.readBases (k.seq q) with map := m, scType := k.scType, scOp := k.scOp }

/-- A record with an operand in a map. -/
def mapped (r : Rec) : Bool := r.d.bm || r.a.bm || r.b.bm

/-- The map that a record names. -/
def namedMap (t : Task) (r : Rec) : BitVec 1024 := Sparse.get 0 t.bm r.bmsel.toNat

/-- The map that it then holds. -/
def headMap (t : Task) (r : Rec) : BitVec 1024 := if mapped r then namedMap t r else 0

/-- The address of the first A element that is not mapped. -/
def firstA (t : Task) (r : Rec) : Nat := (recBase t.t r.a).toNat % 2 ^ 48

/-- The tag of a block of the scratchpad of the core that executes. -/
def ownTag (s : State) (a : Nat) : BitVec 16 := Sparse.get 0 (s.core s.cur.core).tags (a / 4096)

theorem fields_start (hr : i.record? = some r) (pc : BitVec 48) (id : Nat) : (RecProg.start i pc id).fields = r := by
  simp [RecProg.fields, RecProg.start, hr]

theorem namedMap_entered {k : Task} {w : Wait} (hk : Entered s i t 0 k w) : namedMap k r = namedMap t r := by
  unfold namedMap
  rw [hk.field (·.bm) (fun x => by cases s.cur.q <;> rfl)]

theorem firstA_entered (hq : s.cur.q = .t) {k : Task} {w : Wait} (hk : Entered s i t 0 k w) : firstA k r = firstA t r := by
  have hreg := hk.reg (r.a.base.extractLsb' 0 5).toNat
  rw [hq] at hreg
  unfold firstA recBase
  rw [show k.t.reg _ = t.t.reg _ from hreg]

theorem tagOf_own (k : Task) {a : Nat} (ha : a < 0x800000) : tagOf (s.setHere k) a = some (ownTag s a) := by
  unfold tagOf ownTag myCore
  rw [if_pos (inOwn_iff.mpr ha), State.tags_setHere, State.setHere_cur]

/-- At the head an operand without a map stands at its base. -/
theorem tAddr_first (hr : i.record? = some r) (hq : s.cur.q = .t) (ha : r.a.bm = false) (m : BitVec 1024) (k : Task) (pc : BitVec 48) (id size : Nat) :
    tAddr (headFilled s.cur.q m k (RecProg.start i pc id)) r.a (headFilled s.cur.q m k (RecProg.start i pc id)).baseA size false = .addr (firstA k r) := by
  have hbase : (headFilled s.cur.q m k (RecProg.start i pc id)).baseA = recBase k.t r.a := by
    show recBase (k.seq s.cur.q) (RecProg.start i pc id).fields.a = _
    rw [fields_start hr, hq]
    rfl
  have hsteps : stepsAt (headFilled s.cur.q m k (RecProg.start i pc id)) r.a = 0 := by simp [stepsAt, headFilled, RecProg.readBases, RecProg.start]
  rw [tAddr_linear ha, hsteps, hbase]
  unfold firstA
  congr 1
  omega

theorem tHead_entered (hr : i.record? = some r) {k : Task} {w : Wait} (hk : Entered s i t 0 k w) (id : Nat) :
    tHead (s.setHere k) (RecProg.start i s.me.pc id) =
      if (mapped r && !bmValid (namedMap t r)) = true then .error (.trap .illegalField s.me.pc.toNat 0 (s.setHere k))
      else
        match tagCheck (s.setHere k) (headFilled s.cur.q (headMap t r) k (RecProg.start i s.me.pc id)) with
        | some e => .error e
        | none => .ok (s.setHere k, headFilled s.cur.q (headMap t r) k (RecProg.start i s.me.pc id)) := by
  unfold headMap
  rw [← namedMap_entered hk]
  unfold tHead
  simp only [fields_start hr, State.here_setHere, State.me_setHere]
  rfl

/-- Without TCHK no tag is compared. -/
theorem tagCheck_off (hr : i.record? = some r) (ht : r.opm.getLsbD 4 = false) (x : State) (q : SeqId) (m : BitVec 1024) (k : Task) (pc : BitVec 48) (id : Nat) :
    tagCheck x (headFilled q m k (RecProg.start i pc id)) = none := by
  have hf : (headFilled q m k (RecProg.start i pc id)).fields = r := fields_start hr pc id
  unfold tagCheck
  simp only [hf, ht, Bool.false_eq_true, if_false]

/-- With TCHK the tag of the block of the first A element is compared. -/
theorem tagCheck_on (hr : i.record? = some r) (hq : s.cur.q = .t) (ha : r.a.bm = false) (ht : r.opm.getLsbD 4 = true) {k : Task} {w : Wait}
    (hk : Entered s i t 0 k w) (hown : firstA t r < 0x800000) (m : BitVec 1024) (id : Nat) :
    tagCheck (s.setHere k) (headFilled s.cur.q m k (RecProg.start i s.me.pc id)) =
      if ownTag s (firstA t r) = r.aux2.extractLsb' 16 16 then none
      else some (.trap .tagMismatch (ownTag s (firstA t r)).toNat 0 (s.setHere k)) := by
  have hf : (headFilled s.cur.q m k (RecProg.start i s.me.pc id)).fields = r := fields_start hr s.me.pc id
  unfold tagCheck
  simp only [hf, ht, if_true, tAddr_first hr hq ha, firstA_entered hq hk, tagOf_own k hown]

/-- The head of a record of T: the map that it names, then the tag of its first A element. -/
theorem transfer_head (hr : i.record? = some r) (hx : exec i s = startRecord i y tHead s) (hsp : inSpace s.cur.q i = (s.cur.q == .t)) (h : Ready s i y t) :
    ((mapped r = true → bmValid (namedMap t r) = true) → r.opm.getLsbD 4 = false → Begins s i t)
      ∧ (mapped r = true → bmValid (namedMap t r) = false → TrapsPrecisely s i t .illegalField s.me.pc.toNat)
      ∧ (mapped r = false → r.opm.getLsbD 4 = true → firstA t r < 0x800000 → ownTag s (firstA t r) = r.aux2.extractLsb' 16 16 → Begins s i t)
      ∧ (mapped r = false → r.opm.getLsbD 4 = true → firstA t r < 0x800000 → ownTag s (firstA t r) ≠ r.aux2.extractLsb' 16 16 →
          TrapsPrecisely s i t .tagMismatch (ownTag s (firstA t r)).toNat) := by
  have hq : s.cur.q = .t := beq_iff_eq.mp (hsp ▸ h.space)
  have ha (hm : mapped r = false) : r.a.bm = false := by simp [mapped] at hm; exact hm.1.2
  have hfill (k : Task) (p : RecProg) : KeepsPlace p (headFilled s.cur.q (headMap t r) k p) := ⟨rfl, rfl, rfl, rfl, rfl, rfl, rfl⟩
  refine ⟨fun hv ht => begins_with h hx (headFilled s.cur.q (headMap t r)) (fun k w hk => ?_) hfill, fun hm hv => refused_at_head h hx (fun k w hk => ?_),
    fun hm ht ho he => begins_with h hx (headFilled s.cur.q (headMap t r)) (fun k w hk => ?_) hfill, fun hm ht ho he => refused_at_head h hx (fun k w hk => ?_)⟩
  · have hok : (mapped r && !bmValid (namedMap t r)) = false := by
      cases hm : mapped r
      · rfl
      · simp [hv hm]
    rw [tHead_entered hr hk, hok, tagCheck_off hr ht]
    rfl
  · rw [tHead_entered hr hk, hm, hv]
    rfl
  · rw [tHead_entered hr hk, tagCheck_on hr hq (ha hm) ht hk ho, if_pos he, hm]
    rfl
  · rw [tHead_entered hr hk, tagCheck_on hr hq (ha hm) ht hk ho, if_neg he, hm]
    rfl

end transferHead

/-- Settles O35: a head checks its map and then its tag, and either begins or traps; an address is linear, or what its map gives. -/
theorem transferHeads : Obligations.TransferHeads := by
  unfold Obligations.TransferHeads
  refine ⟨fun s y r t => ⟨transfer_head rfl (exec_ldx ..) rfl, transfer_head rfl (exec_stx ..) rfl, transfer_head rfl (exec_cpx ..) rfl,
      transfer_head rfl (exec_mcx ..) rfl, transfer_head rfl (exec_gthx ..) rfl, transfer_head rfl (exec_sctx ..) rfl,
      transfer_head rfl (exec_bmx ..) rfl, transfer_head rfl (exec_scacc ..) rfl, transfer_head rfl (exec_zfx ..) rfl⟩,
    fun m base l dest => ?_, fun p x base size extra dest => ⟨fun hx => ⟨tAddr_linear hx, mAddr_linear hx⟩, fun hx => ⟨tAddr_mapped hx, mAddr_mapped hx⟩⟩⟩
  refine ⟨mapAddr_skip, fun hs hr hd hw => (mapAddr_eq hs).trans ?_, fun hs hr hd => (mapAddr_eq hs).trans ?_,
    fun hs hr hk => (mapAddr_eq hs).trans ?_, fun hs hr hk => (mapAddr_eq hs).trans ?_⟩
  · exact (if_pos hr).trans (if_pos ⟨hd, hw⟩)
  · exact (if_pos hr).trans (if_neg (fun ⟨hd', hw⟩ => hd.elim (fun h => by simp [h] at hd') hw))
  · exact (if_neg hr).trans (if_neg (fun ⟨j, hj, h1⟩ => hk j hj h1))
  · exact (if_neg hr).trans (if_pos hk)

end Sys2Proof

/-! ### BMLD, SCCFG and TAGX (O38) -/

namespace Sys2Proof

open Sys2Proof.Machine

/-! #### What a body sees (R25, R122) -/

section body
variable {s : State} {i : Instr} {y : Syn} {t k : Task} {ticks : Nat} {w : Wait}

/-- A timed task stays one when its results are written. -/
theorem Ready.timed (h : Ready s i y t) : isTimed t (t.seq s.cur.q) = timedHere s := by
  rw [dueWrites_only h.due, timedHere, State.me]
  cases s.cur.q <;> rfl

theorem Entered.timed (h : Ready s i y t) (hk : Entered s i t ticks k w) : timedHere (s.setHere k) = timedHere s := by
  rw [← h.timed, timedHere, State.here_setHere, State.me_setHere]
  exact hk.field (fun x => isTimed x (x.seq s.cur.q)) (fun x => by cases s.cur.q <;> rfl)

theorem Entered.part (hk : Entered s i t ticks k w) : k.part = t.part := hk.field (·.part) (fun x => by cases s.cur.q <;> rfl)

/-- The check sees the task of a body as the one before it. -/
theorem Entered.checkAccess (hk : Entered s i t ticks k w) (rs : Ranges) (a : AccKind) (x size align : Nat) :
    checkAccess (s.setHere k) s.cur.core k rs a x size align = checkAccess s s.cur.core t rs a x size align :=
  checkAccess_congr (.inr ⟨_, _, _, State.setHere_eq s k⟩) (hk.field (·.extents) (fun x => by cases s.cur.q <;> rfl)) hk.part _ _ _ _ _

/-- An access whose wheel stands at a position of its partition may issue. -/
theorem Entered.wheelKept (h : Ready s i y t) (hk : Entered s i t ticks k w) {pl : Place} (hm : timedHere s = true → WheelMet s t.part pl) :
    wheelKept (s.setHere k) pl = true := by
  unfold Machine.wheelKept
  rw [hk.timed h]
  cases ht : timedHere s with
  | false => rfl
  | true =>
    cases pl with
    | hbm a =>
      have hw : WheelMet (s.setHere k) t.part (.hbm a) := hm ht
      show (false || open1 _ _) = true
      rw [open1, State.here_setHere, hk.part]
      exact WheelMet.open (core := s.cur.core) (q := s.cur.q) hw
    | spad c off => rfl
    | tx a => rfl

end body

/-! #### BMLD (R116) -/

section setup
variable {s : State} {y : Syn} {o : E2} {t : Task}

/-- The address of form E2. -/
def addrE2 (t : Task) (o : E2) : Nat := (((t.t.reg o.xa.toNat).toNat + o.imm.toInt) % 2 ^ 48).toNat

/-- The granules of a map, as BMLD reads them from a place. -/
def mapPieces (o : E2) (p : Place) (a : Nat) : List LoadPiece :=
  (List.range 8).map (fun g => { place := p.add (16 * g), len := 16, dest := .bm (o.sub.extractLsb' 0 3).toNat g, addr := a + 16 * g })

theorem reg_entered_t {i : Instr} {k : Task} {ticks : Nat} {w : Wait} (hk : Entered s i t ticks k w) (hq : s.cur.q = .t) (r : Nat) :
    (s.setHere k).reg r = t.t.reg r := by
  have hr := hk.reg r
  rw [hq] at hr
  rw [State.reg, State.me_setHere, hq]
  exact hr

/-- The granules of a map lie in the stack of its first one. -/
theorem WheelMet.mapGranule {part : Nat} {p : Place} {a : Nat} (hc : checkAccess s s.cur.core t Ranges.noTx .load a 128 128 = .ok p)
    (hw : WheelMet s part p) {g : Nat} (hg : g < 8) : WheelMet s part (p.add (16 * g)) := by
  intro b hb
  cases p with
  | hbm pa =>
    obtain rfl := Place.hbm.inj hb
    have ha : pa % 128 = 0 := checkAccess_hbm_aligned (by decide) hc
    rw [show (pa + 16 * g) / 2 ^ 37 = pa / 2 ^ 37 by omega]
    exact hw pa rfl
  | spad c off => cases hb
  | tx b => cases hb

theorem bmld_loads {p : Place} (h : Ready s (.bmld y o) y t) (hc : checkAccess s s.cur.core t Ranges.noTx .load (addrE2 t o) 128 128 = .ok p)
    (hm : timedHere s = true → WheelMet s t.part p) : LoadsLater s (.bmld y o) y t 14 false (mapPieces o p (addrE2 t o)) := by
  have hq : s.cur.q = .t := beq_iff_eq.mp h.space
  refine effect_pend (f := id) h (exec_bmld y o s) (fun _ => rfl) (fun _ => rfl) (fun k w hk => ?_)
  have ha : e2Addr (s.setHere k) o = addrE2 t o := by rw [e2Addr, reg_entered_t hk hq]; rfl
  have hck := (hk.checkAccess Ranges.noTx .load (addrE2 t o) 128 128).trans hc
  simp only [ha, State.here_setHere, myCore, State.setHere_cur, hck]
  refine loadIssue_ok (fun l hl => ?_)
  obtain ⟨g, hg, rfl⟩ := List.mem_map.mp hl
  exact hk.wheelKept h (fun hT => (hm hT).mapGranule hc (List.mem_range.mp hg))

/-! #### SCCFG (R119) -/

theorem sccfg_effect (h : Ready s (.sccfg y o) y t) :
    Effect s (.sccfg y o) y s { t with scType := o.imm.extractLsb' 8 4, scOp := o.imm.extractLsb' 0 4 } (nextPc s (.sccfg y o)) 1 := by
  refine effect_task h (exec_sccfg y o s) (by cases s.cur.q <;> rfl) (fun k w hk =>
    ⟨{ k with scType := o.imm.extractLsb' 8 4, scOp := o.imm.extractLsb' 0 4 }, by simp, ?_, ?_⟩)
  · have hset (x : Task) : bareTask { x with scType := o.imm.extractLsb' 8 4, scOp := o.imm.extractLsb' 0 4 } s.cur.q
        = { bareTask x s.cur.q with scType := o.imm.extractLsb' 8 4, scOp := o.imm.extractLsb' 0 4 } := by
      cases s.cur.q <;> rfl
    rw [hset, hk.bare, hset]
  · cases s.cur.q <;> exact ⟨rfl, rfl, rfl, rfl, rfl⟩

/-! #### TAGX (R117) -/

/-- `n` entries of a sparse map, from `b` on, are set to one value. -/
theorem get_setRange {α : Type} [DecidableEq α] (d v : α) (b n j : Nat) (m : List (Nat × α)) :
    Sparse.get d ((upTo n id).foldl (fun m k => Sparse.set d (b + k) v m) m) j = if b ≤ j ∧ j < b + n then v else Sparse.get d m j := by
  simp only [upTo, List.map_id]
  induction n with
  | zero => simp
  | succ n ih =>
    rw [List.range_succ, List.foldl_append, List.foldl_cons, List.foldl_nil, Sparse.get_set, ih]
    grind

theorem tags_setTags (core b n : Nat) (tag : BitVec 16) (j : Nat) :
    Sparse.get 0 ((setTags s core b n tag).core core).tags j = if b ≤ j ∧ j < b + n then tag else Sparse.get 0 (s.core core).tags j := by
  unfold setTags
  rw [State.core_setCore_same]
  exact get_setRange 0 tag b n j _

theorem bank_setTags (core b n m : Nat) (tag : BitVec 16) : (setTags s core b n tag).bankOf m = s.bankOf m := by
  unfold setTags State.bankOf
  rw [State.core_setCore]
  split
  · next hm => rw [hm]
  · rfl

theorem spad_setTags (core b n m : Nat) (tag : BitVec 16) : ((setTags s core b n tag).core m).spad = (s.core m).spad := by
  unfold setTags
  rw [State.core_setCore]
  split
  · next hm => rw [hm]
  · rfl

/-- A core whose `n` blocks from `b` on are tagged. -/
def retagged (c : Core) (b n : Nat) (tag : BitVec 16) : Core :=
  { c with tags := (upTo n id).foldl (fun m k => Sparse.set 0 (b + k) tag m) c.tags }

theorem setTags_eq (core b n : Nat) (tag : BitVec 16) : setTags s core b n tag = s.setCore core (retagged (s.core core) b n tag) := rfl

theorem retagged_setTask (c : Core) (b n bank : Nat) (tag : BitVec 16) (k : Option Task) :
    retagged (c.setTask bank k) b n tag = (retagged c b n tag).setTask bank k := by
  unfold retagged Core.setTask
  split <;> rfl

/-- The tags of a core and its tasks change apart from each other. -/
theorem setTags_setHere (k : Task) (b n : Nat) (tag : BitVec 16) :
    setTags (s.setHere k) s.cur.core b n tag = (setTags s s.cur.core b n tag).setHere k := by
  calc setTags (s.setHere k) s.cur.core b n tag
      = s.setCore s.cur.core ((retagged (s.core s.cur.core) b n tag).setTask (s.bankOf s.cur.core) (some k)) := by
        rw [setTags_eq, State.setHere_eq, State.setTask, State.core_setCore_same, State.setCore_setCore, retagged_setTask]
    _ = (setTags s s.cur.core b n tag).setTask s.cur.core (s.bankOf s.cur.core) (some k) := by
        rw [setTags_eq, State.setTask, State.core_setCore_same, State.setCore_setCore]
    _ = (setTags s s.cur.core b n tag).setHere k := by
        rw [← bank_setTags s.cur.core b n s.cur.core tag]
        rfl

/-- Every earlier access of T has been performed (R103). -/
def tDone (s : State) (t : Task) : Prop :=
  t.t.stores = [] ∧ ∀ f ∈ s.flits, f.departed = false → f.core = s.cur.core → ∀ o ∈ f.owners, o.bank = s.bankOf s.cur.core → o.q ≠ .t

theorem mePerformed_entered {i : Instr} {k : Task} {ticks : Nat} {w : Wait} (hk : Entered s i t ticks k w) (hq : s.cur.q = .t) (hd : tDone s t) :
    mePerformed (s.setHere k) = true := by
  obtain ⟨hs, hf⟩ := hd
  have hst : (k.seq s.cur.q).stores = [] := by
    rw [hk.field (fun x => (x.seq s.cur.q).stores) (fun x => by cases s.cur.q <;> rfl), hq]
    exact hs
  have hno : s.flits.any (fun f => !f.departed && f.ofSeq s.cur.core (s.bankOf s.cur.core) .t) = false := by
    simp only [List.any_eq_false, Bool.and_eq_true, Bool.not_eq_true', Flit.ofSeq, beq_iff_eq, List.any_eq_true, not_and, not_exists]
    exact fun f hm h1 h2 o ho hb => hf f hm h1 h2 o ho hb
  unfold mePerformed myCore myBank
  rw [State.me_setHere, hst, State.setHere_flits, State.setHere_cur, State.bankOf_setHere, hq, hno]
  rfl

theorem checkAccess_ownBlock {core a : Nat} (ho : a < 0x800000) (ha : a % 4096 = 0) :
    checkAccess s core t Ranges.spads .store a 1 4096 = .ok (.spad core a) := by
  simp [checkAccess, inOwn_iff.mpr ho, ha, Ranges.spads]

/-- The address at which TAGX begins. -/
def tagAddr (t : Task) (o : E2) : Nat := (t.t.reg o.xa.toNat).toNat % 2 ^ 48

/-- How many blocks TAGX tags. -/
def tagCount (o : E2) : Nat := (o.imm.extractLsb' 16 8).toNat + 1

/-- In the core's own scratchpad the blocks are tagged where they lie in it, and nothing is tagged where they do not. -/
theorem tagx_body (hq : s.cur.q = .t) (hd : tDone s t) (ho : tagAddr t o < 0x800000) (ha : tagAddr t o % 4096 = 0) :
    ∃ body, exec (.tagx y o) s = run (.tagx y o) y 1 body s ∧ ∀ k w, Entered s (.tagx y o) t 1 k w → body (s.setHere k) =
      if tagAddr t o / 4096 + tagCount o ≤ 2048 then
        .ok ((setTags s s.cur.core (tagAddr t o / 4096) (tagCount o) (o.imm.extractLsb' 0 16)).setHere k)
      else .trap .extent (tagAddr t o) 0 (s.setHere k) := by
  refine ⟨_, exec_tagx y o s, fun k w hk => ?_⟩
  have hx : ((s.setHere k).reg o.xa.toNat).toNat % 2 ^ 48 = tagAddr t o := by rw [reg_entered_t hk hq]; rfl
  simp only [mePerformed_entered hk hq hd, if_true, hx, myCore, State.setHere_cur, checkAccess_ownBlock ho ha, setTags_setHere]
  rfl

theorem tagx_tags (h : Ready s (.tagx y o) y t) (hd : tDone s t) (ho : tagAddr t o < 0x800000) (ha : tagAddr t o % 4096 = 0)
    (hn : tagAddr t o / 4096 + tagCount o ≤ 2048) :
    ∃ s', exec (.tagx y o) s = .next s' ∧ After s s' t (nextPc s (.tagx y o)) ∧ SameMemory s s'
      ∧ ∀ b, Sparse.get 0 (s'.core s.cur.core).tags b
          = if tagAddr t o / 4096 ≤ b ∧ b < tagAddr t o / 4096 + tagCount o then o.imm.extractLsb' 0 16 else Sparse.get 0 (s.core s.cur.core).tags b := by
  have hq : s.cur.q = .t := beq_iff_eq.mp h.space
  have heff : Effect s (.tagx y o) y (setTags s s.cur.core (tagAddr t o / 4096) (tagCount o) (o.imm.extractLsb' 0 16)) t (nextPc s (.tagx y o)) 1 := by
    obtain ⟨body, hx, hb⟩ := tagx_body (y := y) hq hd ho ha
    obtain ⟨k, w, he, hk⟩ := entered_spec s (.tagx y o) y t 1
    refine effect_of h hx (by rw [he, hb k w hk, if_pos hn]) rfl (bank_setTags ..) ?_ ?_ hk.bare hk.pc hk.tick ?_
    · rw [hk.stream, h.stream]
    · rw [hk.wait]; rfl
    · rw [hk.seqno]; rfl
  obtain ⟨t', hexec, hbare, hpc, -, -, hwait⟩ := heff
  refine ⟨_, hexec, ⟨t', State.task?_setTask .., hbare, hpc, hwait⟩, ⟨fun a => rfl, fun n a => ?_⟩, fun b => ?_⟩
  · rw [State.spad_setTask, spad_setTags]
  · rw [State.tags_setTask, tags_setTags]

theorem tagx_traps (h : Ready s (.tagx y o) y t) (hd : tDone s t) (ho : tagAddr t o < 0x800000) (ha : tagAddr t o % 4096 = 0)
    (hn : 2048 < tagAddr t o / 4096 + tagCount o) : TrapsPrecisely s (.tagx y o) t .extent (tagAddr t o) := by
  have hq : s.cur.q = .t := beq_iff_eq.mp h.space
  obtain ⟨body, hx, hb⟩ := tagx_body (y := y) hq hd ho ha
  obtain ⟨k, w, he, hk⟩ := entered_spec s (.tagx y o) y t 1
  exact trap_of h hx (by rw [he, hb k w hk, if_neg (not_le.mpr hn)])

end setup

/-- Settles O38: BMLD leaves its loads, SCCFG changes the task, TAGX the tags of a core. -/
theorem transferSetup : Obligations.TransferSetup := by
  unfold Obligations.TransferSetup
  exact fun s y o t => ⟨fun p h hc hm => bmld_loads h hc hm, sccfg_effect,
    fun h hs hf ho ha => ⟨tagx_tags h ⟨hs, hf⟩ ho ha, tagx_traps h ⟨hs, hf⟩ ho ha⟩⟩

end Sys2Proof


namespace Sys2Proof

open Sys2Proof.Machine

/-! ### The arithmetic of V (O25 to O29) -/

/-! #### What an issue of V reads (R140) -/

/-- A reading of a task that the bookkeeping of issue leaves as it is. -/
def IssueBlind {α : Type} (g : Task → α) : Prop := ∀ x q, g (bareTask x q) = g x

/-! The registers, the special registers and the key are such readings, and all that is computed
from them. -/

theorem vSources_blind (i : Instr) : IssueBlind (vSources · i) := fun _ q => by cases q <;> rfl
theorem readsBad_blind (l : List VReg) : IssueBlind (readsBad · l) := fun _ q => by cases q <;> rfl
theorem b8p_blind : IssueBlind b8p := fun _ q => by cases q <;> rfl

section vrun
variable {s : State} {i : Instr} {y : Syn} {t k : Task} {w : Wait} {tys : List Nat} {body : Task → State → State}

theorem Entered.blind {α : Type} {g : Task → α} {ticks : Nat} (hk : Entered s i t ticks k w)
    (hg : IssueBlind g) : g k = g t :=
  hk.field g (fun x => hg x _)

theorem Entered.readsBad {ticks : Nat} (hk : Entered s i t ticks k w) :
    readsBad k (vSources k i) = readsBad t (vSources t i) := by
  rw [hk.blind (vSources_blind i), hk.blind (readsBad_blind _)]

/-- No binary8 type lacks its exponent (R70, R166). -/
theorem b8_ok {c : Bool} (h : c = true → b8p t ≠ 0) : (c && b8p t == 0) = false := by
  cases hc : c with
  | false => rfl
  | true => simpa using h hc

/-- The body of an instruction of V: its checks, and then its results. -/
def vBody (i : Instr) (tys : List Nat) (body : Task → State → State) (s : State) : Res :=
  if tys.any isB8 && b8p s.here == 0 then fieldTrap s i
  else if readsBad s.here (vSources s.here i) then eccTrap s
  else .ok (body s.here s)

theorem vBody_ok {ticks : Nat} (hk : Entered s i t ticks k w) (hb : tys.any isB8 = true → b8p t ≠ 0)
    (hs : readsBad t (vSources t i) = false) :
    vBody i tys body (s.setHere k) = .ok (body k (s.setHere k)) := by
  have hb8 := b8_ok hb
  rw [← hk.blind b8p_blind] at hb8
  simp only [vBody, State.here_setHere, hb8, hk.readsBad, hs, Bool.false_eq_true, if_false]

/-- An instruction of V whose types and sources are in order sets its results on their way. -/
theorem vrun_writes (h : Ready s i y t) (hx : exec i s = vrun i y tys body s) (hb : tys.any isB8 = true → b8p t ≠ 0)
    (hs : readsBad t (vSources t i) = false) {lat : Nat} {ws : List Write} {fl : Flags}
    (hbody : ∀ k w, Entered s i t 1 k w → body k (s.setHere k) = pendWrites (s.setHere k) lat ws fl) :
    WritesLater s i y t lat ws fl :=
  effect_pend (f := id) (body := vBody i tys body) h hx (fun _ => rfl) (fun _ => rfl)
    (fun k w hk => (vBody_ok hk hb hs).trans (congrArg Res.ok (hbody k w hk)))

/-- A source with a word in error traps (R344). -/
theorem vrun_ecc (h : Ready s i y t) (hx : exec i s = vrun i y tys body s) (hb : tys.any isB8 = true → b8p t ≠ 0)
    (hs : readsBad t (vSources t i) = true) : TrapsPrecisely s i t .eccUncorrectable (Config.eccAddr s.moves) := by
  refine trap_of (body := vBody i tys body) h hx ?_
  obtain ⟨k, w, he, hk⟩ := entered_spec s i y t 1
  have hb8 := b8_ok hb
  rw [← hk.blind b8p_blind] at hb8
  rw [he]
  simp only [vBody, State.here_setHere, hb8, hk.readsBad, hs, Bool.false_eq_true, if_false, if_true]
  rfl

/-- A binary8 type traps while B8P is 0 (R166). -/
theorem vrun_field (h : Ready s i y t) (hx : exec i s = vrun i y tys body s) (hb : tys.any isB8 = true)
    (hp : b8p t = 0) :
    TrapsPrecisely s i t .illegalField s.me.pc.toNat := by
  refine trap_of (body := vBody i tys body) h hx ?_
  obtain ⟨k, w, he, hk⟩ := entered_spec s i y t 1
  rw [he]
  simp only [vBody, State.here_setHere, hb, hk.blind b8p_blind, hp, beq_self_eq_true, Bool.and_self,
      if_true, fieldTrap, hk.headPc]

end vrun

/-! #### Element by element (R141) -/

/-- The results of the elements `sel`, as the operation gives them. -/
theorem vput_eq (s : State) (k : Task) (lat n w : Nat) (sel : List Nat) (r : Nat → Nat × Flags) :
    vput s k lat n w (sel.map (fun e => (e, r e)))
      = pendWrites s lat (elemWrites k n w (sel.map (fun e => (e, (r e).1))))
          (sel.foldl (fun fl e => fl ||| (r e).2) 0) := by
  simp only [vput, allFlags, List.map_map, List.foldl_map]
  rfl

theorem elemWrites_blind (n w : Nat) (l : List (Nat × Nat)) :
    IssueBlind (elemWrites · n w l) := fun _ q => by cases q <;> rfl

section elem
variable {s : State} {i : Instr} {y : Syn} {t : Task} {o : VOp} {isInt : Bool} {lat : Nat}
    {f : Task → Nat → Nat → Nat → Nat → Nat → Nat × Flags}

/-- The result of an element-wise operation at element `e`. -/
def elemResult (o : VOp) (isInt : Bool) (f : Task → Nat → Nat → Nat → Nat → Nat → Nat × Flags)
    (t : Task) (e : Nat) : Nat × Flags :=
  let w := typeBytes (vtype o isInt)
  f t (vtype o isInt) e (spanElem t o.vd.toNat w e) (spanElem t o.va.toNat w e) (vsrc t o.b isInt w e)

theorem elemResult_blind (hf : IssueBlind f) : IssueBlind (elemResult o isInt f) := fun x q => by
  unfold elemResult
  rw [hf x q]
  cases q <;> rfl

theorem selElems_blind (pred w : Nat) : IssueBlind (selElems · pred w) := fun _ q => by cases q <;> rfl

/-- An element-wise operation writes its result at each selected element, and the flags of all of
them. -/
theorem vElem_writes (hf : IssueBlind f) (hx : exec i s = vElem i y o isInt lat f s)
    {r : Nat → Nat × Flags} (hr : ∀ e, elemResult o isInt f t e = r e)
    (h : Ready s i y t) (hb : isB8 (vtype o isInt) = true → b8p t ≠ 0) (hs : readsBad t (vSources t i) = false) :
    let w := typeBytes (vtype o isInt)
    let sel := selElems t o.pred.toNat w
    WritesLater s i y t lat (elemWrites t o.vd.toNat w (sel.map (fun e => (e, (r e).1))))
        (sel.foldl (fun fl e => fl ||| (r e).2) 0) := by
  intro w sel
  refine vrun_writes h hx (by simpa using hb) hs (fun k z hk => ?_)
  rw [← hk.blind (elemWrites_blind _ _ _)]
  refine Eq.trans ?_ (vput_eq ..)
  rw [← funext hr, ← hk.blind (elemResult_blind hf),
      show sel = selElems k o.pred.toNat w from (hk.blind (selElems_blind _ _)).symm]
  rfl

end elem


/-! #### The floating-point group (R144) -/

section float
variable {s : State} {i : Instr} {y : Syn} {t : Task} {o : VOp} {lat : Nat}

/-- An element-wise operation in any state of its sources: it writes, or traps (R144, R166, R344). -/
theorem vElem_outcome {f : Task → Nat → Nat → Nat → Nat → Nat → Nat × Flags} {isInt : Bool}
    (hf : IssueBlind f) (hx : exec i s = vElem i y o isInt lat f s)
    {r : Nat → Nat × Flags} (hr : ∀ e, elemResult o isInt f t e = r e) (h : Ready s i y t) :
    let ty := vtype o isInt
    let sel := selElems t o.pred.toNat (typeBytes ty)
    ((isB8 ty = true → b8p t ≠ 0) → readsBad t (vSources t i) = false →
        WritesLater s i y t lat (elemWrites t o.vd.toNat (typeBytes ty) (sel.map (fun e => (e, (r e).1))))
          (sel.foldl (fun fl e => fl ||| (r e).2) 0))
      ∧ ((isB8 ty = true → b8p t ≠ 0) → readsBad t (vSources t i) = true →
          TrapsPrecisely s i t .eccUncorrectable (Config.eccAddr s.moves))
      ∧ (isB8 ty = true → b8p t = 0 → TrapsPrecisely s i t .illegalField s.me.pc.toNat) :=
  ⟨fun hb hs => vElem_writes hf hx hr h hb hs, fun hb hs => vrun_ecc h hx (by simpa using hb) hs,
      fun hb hp => vrun_field h hx (by simpa using hb) hp⟩

/-- The mode of a rounding depends on VCSR, the key and the position alone (R64, R143). -/
theorem vRound_blind (rm : Nat) (op : FVal → FVal → FVal → FVal × Flags) : IssueBlind (fun (t : Task) ty e d a b =>
    rounded (typeFmt t ty) (vmode t rm t.x31 e) false
      (op ((typeFmt t ty).decode d) ((typeFmt t ty).decode a) ((typeFmt t ty).decode b))) :=
  fun _ q => by cases q <;> rfl

theorem vExp2_blind (rm : Nat) :
    IssueBlind (fun (t : Task) ty e (_ _ : Nat) b =>
        exp2To (typeFmt t ty) (vmode t rm t.x31 e) ((typeFmt t ty).decode b)) :=
  fun _ q => by cases q <;> rfl

theorem vMinMax_blind (isMax : Bool) :
    IssueBlind (fun (t : Task) ty (_ _ : Nat) a b => (fMinMax (typeFmt t ty) isMax a b, (0 : Flags))) :=
  fun _ q => by cases q <;> rfl

/-- An operation that reads its operands and nothing else of the task. -/
theorem blind_of_operands (f : Nat → Nat → Nat → Nat → Nat → Nat × Flags) :
    IssueBlind (fun (_ : Task) => f) := fun _ _ => rfl

/-- VEXP2 of an integer raises UF beside NX where it does not raise OF (R71). -/
theorem exp2To_eq (f : Fmt) (mode : Mode) (x : FVal) :
    exp2To f mode x =
      let c := roundTo f mode false (fExp2 x).1
      let fl := c.2 ||| (fExp2 x).2
      (c.1, if x.isInt = true ∧ fl.getLsbD 0 = true ∧ fl.getLsbD 2 = false then fl ||| 2 else fl) := by
  have hnx : ∀ fl : Flags, (fl &&& fNX != 0) = fl.getLsbD 0 := by decide
  have hof : ∀ fl : Flags, (fl &&& fOF == 0) = !fl.getLsbD 2 := by decide
  simp only [exp2To, rounded, hnx, hof, Bool.and_eq_true, Bool.not_eq_true', and_assoc]
  split <;> rfl

end float

/-- Settles O25: each operation is element-wise, with its exact result rounded once, or with bits
alone. -/
theorem vectorFloat : Obligations.VectorFloat := by
  unfold Obligations.VectorFloat
  intro s y o t ty w f sel d a b mode Writes Rounds sign
  have rounds {i : Instr} {lat : Nat} (op : FVal → FVal → FVal → FVal × Flags)
      (hx : exec i s = vRound i y o lat op s) :
      Rounds i lat (fun e => op (f.decode (d e)) (f.decode (a e)) (f.decode (b e))) :=
    vElem_outcome (vRound_blind _ op) hx (fun _ => rfl)
  have bits {i : Instr} (g : Nat → Nat → Nat → Nat) (hx : exec i s = vBits i y o (fun _ => g) s) :
      Writes i 4 (fun e => (g ty (a e) (b e), 0)) :=
    vElem_outcome (blind_of_operands fun ty _ _ a b => (g ty a b, 0)) hx (fun _ => rfl)
  refine ⟨?add, ?sub, ?mul, ?fma, ?fms, ?div, ?sqrt, ?rcp, ?rsq, ?exp2, ?log2, ?min, ?max, ?abs, ?neg, ?mov⟩
  case add => exact rounds (fun _ a b => fAdd a b) (exec_vadd y o s)
  case sub => exact rounds (fun _ a b => fAdd a b.neg) (exec_vsub y o s)
  case mul => exact rounds (fun _ a b => fMul a b) (exec_vmul y o s)
  case fma => exact rounds (fun d a b => fFma d a b) (exec_vfma y o s)
  case fms => exact rounds (fun d a b => fFma d a b.neg) (exec_vfms y o s)
  case div => exact rounds (fun _ a b => fDiv a b) (exec_vdiv y o s)
  case sqrt => exact rounds (fun _ _ b => fSqrt b) (exec_vsqrt y o s)
  case rcp => exact rounds (fun _ _ b => fRcp b) (exec_vrcp y o s)
  case rsq => exact rounds (fun _ _ b => fRsq b) (exec_vrsq y o s)
  case exp2 => exact vElem_outcome (vExp2_blind _) (exec_vexp2 y o s) (fun e => exp2To_eq f (mode e) (f.decode (b e)))
  case log2 => exact rounds (fun _ _ b => fLog2 b) (exec_vlog2 y o s)
  case min => exact vElem_outcome (vMinMax_blind false) (exec_vmin y o s) (fun _ => rfl)
  case max => exact vElem_outcome (vMinMax_blind true) (exec_vmax y o s) (fun _ => rfl)
  case abs => exact bits (fun ty _ b => b % signBit ty) (exec_vabs y o s)
  case neg => exact bits (fun ty _ b => (b + signBit ty) % (2 * signBit ty)) (exec_vneg y o s)
  case mov => exact bits (fun _ _ b => b) (exec_vmov y o s)

/-! #### The integer and bitwise group (R145) -/

theorem foldl_no_flags (l : List Nat) : l.foldl (fun (fl : Flags) _ => fl ||| 0) 0 = 0 := by
  induction l with
  | nil => rfl
  | cons a l ih => exact ih

/-- A code is its number modulo the width of its type. -/
theorem intCode_eq (ty : Nat) (z : Int) : intCode ty z = (z % 2 ^ (8 * typeBytes ty)).toNat := by
  rw [intCode, wrap, Nat.cast_pow]
  rfl

theorem intCode_ofNat (ty n : Nat) : intCode ty n = n % 2 ^ (8 * typeBytes ty) := by
  rw [intCode, wrap, ← Int.natCast_emod, Int.toNat_natCast]

/-- An element-wise operation that raises no flag. -/
theorem vElem_writes_codes {s : State} {i : Instr} {y : Syn} {t : Task} {o : VOp} {isInt : Bool} {lat : Nat}
    {f : Task → Nat → Nat → Nat → Nat → Nat → Nat × Flags} (hf : IssueBlind f)
    (hx : exec i s = vElem i y o isInt lat f s) {r : Nat → Nat}
    (hr : ∀ e, elemResult o isInt f t e = (r e, 0)) (h : Ready s i y t) (hb : isB8 (vtype o isInt) = true → b8p t ≠ 0)
    (hs : readsBad t (vSources t i) = false) :
    let w := typeBytes (vtype o isInt)
    WritesLater s i y t lat (elemWrites t o.vd.toNat w ((selElems t o.pred.toNat w).map (fun e => (e, r e)))) 0 :=
  (congrArg (WritesLater s i y t lat _) (foldl_no_flags _)).mp
    (vElem_writes hf hx (r := fun e => (r e, 0)) hr h hb hs)

/-- An integer operation raises no flag (R60, R145). -/
theorem vInt_writes {s : State} {i : Instr} {y : Syn} {t : Task} {o : VOp} {f : Nat → Nat → Nat → Nat}
    (hx : exec i s = vInt i y o f s) {r : Nat → Nat}
    (hr : ∀ e, f (vtype o true) (spanElem t o.va.toNat (typeBytes (vtype o true)) e)
        (vsrc t o.b true (typeBytes (vtype o true)) e) = r e)
    (h : Ready s i y t) (hb : isB8 (vtype o true) = true → b8p t ≠ 0) (hs : readsBad t (vSources t i) = false) :
    let w := typeBytes (vtype o true)
    WritesLater s i y t 2 (elemWrites t o.vd.toNat w ((selElems t o.pred.toNat w).map (fun e => (e, r e)))) 0 :=
  vElem_writes_codes (blind_of_operands fun ty _ _ a b => (f ty a b, 0)) hx
    (fun e => congrArg (·, (0 : Flags)) (hr e)) h hb hs

/-- Settles O26: each operation is element-wise on the codes, and wraps or clamps its exact result. -/
theorem vectorInteger : Obligations.VectorInteger := by
  unfold Obligations.VectorInteger
  intro s y o t ty w sel a b Writes lo hi exact n
  have arith {i : Instr} (op : Int → Int → Int) (hx : exec i s = vArith i y o op s) : Writes i (exact op) :=
    vInt_writes hx (fun _ => intCode_eq ..)
  refine ⟨?add, ?sub, ?mul, ?and, ?or, ?xor, ?shl, ?shr, ?sra, ?min, ?max⟩
  case add => exact arith _ (exec_viadd y o s)
  case sub => exact arith _ (exec_visub y o s)
  case mul => exact arith _ (exec_vimul y o s)
  case and => exact vInt_writes (exec_vand y o s) (fun _ => rfl)
  case or => exact vInt_writes (exec_vor y o s) (fun _ => rfl)
  case xor => exact vInt_writes (exec_vxor y o s) (fun _ => rfl)
  case shl => exact vInt_writes (exec_vshl y o s) (fun _ => intCode_ofNat ..)
  case shr => exact vInt_writes (exec_vshr y o s) (fun _ => rfl)
  case sra => exact vInt_writes (exec_vsra y o s) (fun _ => intCode_eq ..)
  case min => exact vInt_writes (exec_vimin y o s) (fun _ => rfl)
  case max => exact vInt_writes (exec_vimax y o s) (fun _ => rfl)

/-! #### Compares, selection and predicates (R146 to R149) -/

section pred
variable {s : State} {i : Instr} {y : Syn} {t : Task}

/-- An instruction of V that reads neither a vector register nor the constant bank. -/
theorem vrun_writes_plain (hv : ∀ x, vSources x i = []) {body : Task → State → State}
    (hx : exec i s = vrun i y [] body s) (h : Ready s i y t) {lat : Nat}
    {ws : List Write}
    (hbody : ∀ k w, Entered s i t 1 k w → body k (s.setHere k) = pendWrites (s.setHere k) lat ws 0) : WritesLater s i y t lat ws 0 :=
  vrun_writes h hx (fun hb => nomatch hb) (by rw [hv]; exact readsBad_nil t) hbody

theorem predOp_blind {f : Task → BitVec 256} (hf : IssueBlind f) (pd : Nat) :
    IssueBlind (fun x => [Write.p (physP x pd) (laneMask x) (f x)]) := fun x q => by
  dsimp only
  rw [hf x q]
  cases q <;> rfl

/-- A predicate operation writes the lanes up to VLM1 (R148, R149). -/
theorem predOp_writes (hv : ∀ x, vSources x i = []) {pd : BitVec 4} {f : Task → BitVec 256}
    (hf : IssueBlind f) (hx : exec i s = predOp i y pd f s)
    (h : Ready s i y t) : WritesLater s i y t 3 [.p (physP t pd.toNat) (laneMask t) (f t)] 0 :=
  vrun_writes_plain hv hx h (fun k w hk => by rw [← hk.blind (predOp_blind hf pd.toNat)]; rfl)

/-- The lanes of a predicate up to VLM1, counted. -/
theorem popcount_lanes (t : Task) (a : BitVec 256) :
    popcount 256 (a &&& laneMask t).toNat =
      (List.range 256).countP (fun k => a.getLsbD k && decide (k ≤ t.vlm1)) := by
  rw [popcount, ← List.countP_eq_length_filter, upTo, List.map_id]
  refine List.countP_congr (fun k hk => ?_)
  have hk : k < 256 := List.mem_range.mp hk
  rw [BitVec.testBit_toNat, BitVec.getLsbD_and, laneMask, BitVec.getLsbD_ofNat, Nat.testBit_two_pow_sub_one]
  simp [hk]

theorem pcnt_blind (pa : BitVec 4) (xd : BitVec 5) :
    IssueBlind (fun x : Task =>
        [Write.x xd.toNat (BitVec.ofNat 64 (popcount 256 (x.pget pa.toNat &&& laneMask x).toNat))]) :=
  fun _ q => by cases q <;> rfl

/-- What VCMP writes. -/
def compareWrite (o : VOp) (t : Task) : List Write :=
  let ty := vtype o (vcmpIt o)
  let w := typeBytes ty
  [predWrite t (vcmpPd o) w ((selElems t o.pred.toNat w).map (fun e =>
    (e, vcond (vcmpCond o) (typeVal t ty (spanElem t o.va.toNat w e)) (typeVal t ty (vsrc t o.b (vcmpIt o) w e)))))]

theorem compareWrite_blind (o : VOp) : IssueBlind (compareWrite o) := fun _ q => by cases q <;> rfl

theorem vcmp_writes {o : VOp} (h : Ready s (.vcmp y o) y t) (hb : isB8 (vtype o (vcmpIt o)) = true → b8p t ≠ 0)
    (hs : readsBad t (vSources t (.vcmp y o)) = false) : WritesLater s (.vcmp y o) y t 3 (compareWrite o t) 0 :=
  vrun_writes h (exec_vcmp y o s) (by simpa using hb) hs
    (fun k w hk => by rw [← hk.blind (compareWrite_blind o)]; rfl)

/-- VSEL at one element: the lane of its selector decides (R147). -/
theorem vsel_blind (o : VOp) :
    IssueBlind (fun (t : Task) ty e (_ a b : Nat) =>
        (if (t.pget o.opx.toNat).getLsbD (e * typeBytes ty) then a else b, (0 : Flags))) :=
  fun _ q => by cases q <;> rfl

end pred

/-- Settles O27: a predicate operation writes its lanes at once, VCMP those of its elements, and
VSEL is element-wise. -/
theorem vectorPredicates : Obligations.VectorPredicates := by
  unfold Obligations.VectorPredicates
  intro s y o pd pa pb xd t lanes a b Sets
  have blind (g : BitVec 256 → BitVec 256 → BitVec 256) :
      IssueBlind (fun x : Task => g (x.pget pa.toNat) (x.pget pb.toNat)) := fun _ q => by cases q <;> rfl
  refine ⟨?and, ?or, ?xor, ?not, ?set, ?cnt, ?sel, ?cmp⟩
  case and => exact predOp_writes (fun _ => rfl) (blind (· &&& ·)) (exec_pand y pd pa pb s)
  case or => exact predOp_writes (fun _ => rfl) (blind (· ||| ·)) (exec_por y pd pa pb s)
  case xor => exact predOp_writes (fun _ => rfl) (blind (· ^^^ ·)) (exec_pxor y pd pa pb s)
  case not => exact predOp_writes (fun _ => rfl) (blind (fun a _ => ~~~ a)) (exec_pnot y pd pa s)
  case set => exact predOp_writes (fun _ => rfl) (fun _ _ => rfl) (exec_pset y pd pb s)
  case cnt =>
    intro h
    rw [← popcount_lanes]
    exact vrun_writes_plain (fun _ => rfl) (exec_pcnt y xd pa s) h
      (fun k w hk => by rw [← hk.blind (pcnt_blind pa xd)]; rfl)
  case sel => exact vElem_writes_codes (vsel_blind o) (exec_vsel y o s) (fun _ => rfl)
  case cmp => exact vcmp_writes

/-! #### Conversions and block scales (R150 to R153) -/

section conv
variable {s : State} {i : Instr} {y : Syn} {t : Task} {o : VOp} {tys : List Nat} {src dst lat : Nat}
    {f : Task → Nat → Nat → Nat × Flags}

/-- The result of a conversion at element `e`, from its code of type `src`. -/
def convResult (o : VOp) (src : Nat) (f : Task → Nat → Nat → Nat × Flags) (t : Task) (e : Nat) : Nat × Flags :=
  f t e (vsrc t o.b false (typeBytes src) e)

theorem convResult_blind (hf : IssueBlind f) : IssueBlind (convResult o src f) := fun x q => by
  unfold convResult
  rw [hf x q]
  cases q <;> rfl

/-- A conversion writes its results at the elements that the narrower type selects (R150). -/
theorem vConv_writes (hf : IssueBlind f) (hx : exec i s = vConv i y o tys src dst lat f s)
    {r : Nat → Nat × Flags} (hr : ∀ e, convResult o src f t e = r e)
    (h : Ready s i y t) (hb : tys.any isB8 = true → b8p t ≠ 0) (hs : readsBad t (vSources t i) = false) :
    let sel := selElems t o.pred.toNat (min (typeBytes src) (typeBytes dst))
    WritesLater s i y t lat (elemWrites t o.vd.toNat (typeBytes dst) (sel.map (fun e => (e, (r e).1))))
        (sel.foldl (fun fl e => fl ||| (r e).2) 0) := by
  intro sel
  refine vrun_writes h hx hb hs (fun k z hk => ?_)
  rw [← hk.blind (elemWrites_blind _ _ _)]
  refine Eq.trans ?_ (vput_eq ..)
  rw [← funext hr, ← hk.blind (convResult_blind hf),
      show sel = selElems k o.pred.toNat _ from (hk.blind (selElems_blind _ _)).symm]
  rfl

end conv

theorem convertCode_blind (o : VOp) :
    IssueBlind (fun (t : Task) e c => convertCode t o.opx.toNat o.ty.toNat (vmode t o.rm.toNat t.x31 e) c) :=
  fun _ q => by cases q <;> rfl

theorem quantise_blind (o : VOp) : IssueBlind (fun (t : Task) e c =>
    scaleTo t o.ty.toNat (vmode t o.rm.toNat t.x31 e) (satOf t o.ty.toNat) (fp32.decode c) (blockScale t o e)) :=
  fun _ q => by cases q <;> rfl

theorem dequantise_blind (o : VOp) : IssueBlind (fun (t : Task) e c =>
    scaleTo t 0 (vmode t o.rm.toNat t.x31 e) false (typeVal t o.ty.toNat c) (blockScale t o e)) :=
  fun _ q => by cases q <;> rfl

theorem roundOnto_blind (o : VOp) : IssueBlind (fun (t : Task) e c =>
    let r := roundType t o.ty.toNat (vmode t o.rm.toNat t.x31 e) (satOf t o.ty.toNat) (fp32.decode c)
    ((roundTo fp32 .rne false ((typeFmt t o.ty.toNat).decode r.1)).1, r.2)) :=
  fun _ q => by cases q <;> rfl

/-- Settles O28: each conversion takes the code of B at each element that its narrower type
selects. -/
theorem vectorConversions : Obligations.VectorConversions := by
  unfold Obligations.VectorConversions
  intro s y o t ty from1 mode sat into scale Writes
  have one (hb : isB8 ty = true → b8p t ≠ 0) : [ty].any isB8 = true → b8p t ≠ 0 := by simpa using hb
  refine ⟨?cvt, ?qnt, ?dqnt, ?srnd⟩
  case cvt =>
    intro hfrom h hb hs
    have hboth : [from1, ty].any isB8 = true → b8p t ≠ 0 := by simpa using fun ht => ht.elim hfrom hb
    exact vConv_writes (convertCode_blind o) (exec_vcvt y o s) (fun _ => rfl) h hboth hs
  case qnt => exact fun h hb hs => vConv_writes (quantise_blind o) (exec_vqnt y o s) (fun _ => rfl) h (one hb) hs
  case dqnt => exact fun h hb hs => vConv_writes (dequantise_blind o) (exec_vdqnt y o s) (fun _ => rfl) h (one hb) hs
  case srnd => exact fun h hb hs => vConv_writes (roundOnto_blind o) (exec_vsrnd y o s) (fun _ => rfl) h (one hb) hs

/-! #### Reductions and permutes (R154 to R156) -/

section reduce
variable {s : State} {i : Instr} {y : Syn} {t : Task} {o : VOp}

/-- The values of the selected elements, in element order. -/
def reduceInputs (o : VOp) (v : Nat → Nat × Flags) (t : Task) : List (Option (Nat × Flags)) :=
  (List.range (256 / typeBytes o.ty.toNat)).map (fun e =>
      if selected t o.pred.toNat (typeBytes o.ty.toNat) e then some (v e) else none)

theorem reduceInputs_blind (v : Nat → Nat × Flags) : IssueBlind (reduceInputs o v) := fun _ q => by cases q <;> rfl

/-- A reduction writes element 0 (R154). -/
theorem vReduce_writes {wr : Nat} {val : Task → Nat → Nat × Flags} {op : Nat → Nat → Nat × Flags}
    {empty : Nat} (hval : IssueBlind val)
    (hx : exec i s = vReduce i y o wr val op empty s) {v : Nat → Nat × Flags} (hv : ∀ e, val t e = v e)
    {g : Nat → Nat → Nat × Flags} (hg : ∀ a b, op a b = g a b) (h : Ready s i y t)
    (hb : isB8 o.ty.toNat = true → b8p t ≠ 0) (hs : readsBad t (vSources t i) = false) :
    let xs := reduceInputs o v t
    let r := reduceTree g (xs.map (fun x => x.map (fun v => v.1)))
    WritesLater s i y t 12 (elemWrites t o.vd.toNat wr [(0, r.1.getD empty)])
        (xs.foldl (fun fl x => match x with | some v => fl ||| v.2 | none => fl) r.2) := by
  intro xs r
  refine vrun_writes h hx (by simpa using hb) hs (fun k z hk => ?_)
  have hop : op = g := funext₂ hg
  have hvk : v = val k := (funext hv).symm.trans (hk.blind hval).symm
  have hxs : xs = reduceInputs o v k := (hk.blind (reduceInputs_blind v)).symm
  rw [← hk.blind (elemWrites_blind _ _ _)]
  simp only [r, hxs, hvk, ← hop]
  rfl

theorem operandB_blind (o : VOp) : IssueBlind (operandB o) := fun _ q => by cases q <;> rfl

theorem dotProduct_blind (o : VOp) : IssueBlind (fun (t : Task) e =>
    dotProduct o.ty.toNat (spanElem t o.va.toNat (typeBytes o.ty.toNat) e) (operandB o t e).1) :=
  fun _ q => by cases q <;> rfl

/-- A product of VDOT is rounded into FP32; with 16-bit operands that rounding raises no flag
(R155). -/
theorem dotProduct_eq (ty a b : Nat) :
    dotProduct ty a b =
      let p := fMul ((wideFmt ty).decode a) ((wideFmt ty).decode b)
      let c := roundTo fp32 .rne false p.1
      (c.1, if ty = 0 then c.2 ||| p.2 else p.2) := by
  unfold Machine.dotProduct rounded
  split <;> rfl

/-- A permute moves codes, and raises no flag (R156). -/
theorem vPermute_writes {f : Task → Nat → Nat → Nat → Nat} (hf : IssueBlind f)
    (hx : exec i s = vPermute i y o f s) {r : Nat → Nat}
    (hr : ∀ e, f t (typeBytes o.ty.toNat) (256 / typeBytes o.ty.toNat) e = r e) (h : Ready s i y t)
    (hb : isB8 o.ty.toNat = true → b8p t ≠ 0) (hs : readsBad t (vSources t i) = false) :
    let w := typeBytes o.ty.toNat
    WritesLater s i y t 6 (elemWrites t o.vd.toNat w ((selElems t o.pred.toNat w).map (fun e => (e, r e)))) 0 := by
  intro w
  refine (congrArg (WritesLater s i y t 6 _) (foldl_no_flags (selElems t o.pred.toNat w))).mp
      (vrun_writes h hx (by simpa using hb) hs (fun k z hk => ?_))
  rw [← hk.blind (elemWrites_blind _ _ _)]
  refine Eq.trans ?_ (vput_eq _ _ _ _ _ _ (fun e => (r e, 0)))
  rw [← funext hr, ← hk.blind hf, ← hk.blind (selElems_blind o.pred.toNat w)]
  rfl

end reduce

theorem vperm_blind (o : VOp) :
    IssueBlind (fun (t : Task) w n e => let j := vsrc t o.b false w e; if j < n then vaElem o t w j else 0) :=
  fun _ q => by cases q <;> rfl

theorem vslide_blind (o : VOp) : IssueBlind (fun (t : Task) w (n e : Nat) =>
    let j : Int := e + (vbNum o).toInt; if 0 ≤ j && j < n then vaElem o t w j.toNat else 0) :=
  fun _ q => by cases q <;> rfl

theorem vbcast_blind (o : VOp) :
    IssueBlind (fun (t : Task) w (_ _ : Nat) => vaElem o t w (vbNum o).toNat) := fun _ q => by cases q <;> rfl

theorem vzip_blind (o : VOp) : IssueBlind (fun (t : Task) w n e =>
    let h := if o.opx.getLsbD 0 then n / 2 else 0
    if e % 2 = 0 then vaElem o t w (e / 2 + h) else vsrc t o.b false w ((e - 1) / 2 + h)) :=
  fun _ q => by cases q <;> rfl

theorem vunzip_blind (o : VOp) : IssueBlind (fun (t : Task) w n e =>
    let j := 2 * e + (if o.opx.getLsbD 0 then 1 else 0)
    if j < n then vaElem o t w j else vsrc t o.b false w (j - n)) :=
  fun _ q => by cases q <;> rfl

/-- Settles O29: a reduction writes the root of its tree, a permute each of its selected elements. -/
theorem vectorReductions : Obligations.VectorReductions := by
  unfold Obligations.VectorReductions
  intro s y o t ty w n f a b Clean Reduces Permutes vb product
  have permutes {i : Instr} {g : Task → Nat → Nat → Nat → Nat} (hg : IssueBlind g)
      (hx : exec i s = vPermute i y o g s) {r : Nat → Nat}
      (hr : ∀ e, g t w n e = r e) : Permutes i r := fun ⟨h, hb, hs⟩ => vPermute_writes hg hx hr h hb hs
  refine ⟨?sum, ?max, ?min, ?dot, ?perm, ?slide, ?bcast, ?zip, ?unzip⟩
  case sum =>
    exact fun ⟨h, hb, hs⟩ => vReduce_writes (operandB_blind o) (exec_vrsum y o s) (fun _ => rfl)
        (fun _ _ => by rw [intCode_eq]) h hb hs
  case max =>
    exact fun ⟨h, hb, hs⟩ => vReduce_writes (operandB_blind o) (exec_vrmax y o s) (fun _ => rfl)
        (fun _ _ => rfl) h hb hs
  case min =>
    exact fun ⟨h, hb, hs⟩ => vReduce_writes (operandB_blind o) (exec_vrmin y o s) (fun _ => rfl)
        (fun _ _ => rfl) h hb hs
  case dot =>
    exact fun ⟨h, hb, hs⟩ => vReduce_writes (dotProduct_blind o) (exec_vdot y o s)
        (fun _ => dotProduct_eq ..) (fun _ _ => rfl) h hb hs
  case perm => exact permutes (vperm_blind o) (exec_vperm y o s) (fun _ => rfl)
  case slide =>
    exact permutes (vslide_blind o) (exec_vslide y o s)
        (fun e => by simp only [Bool.and_eq_true, decide_eq_true_eq]; rfl)
  case bcast => exact permutes (vbcast_blind o) (exec_vbcast y o s) (fun _ => rfl)
  case zip => exact permutes (vzip_blind o) (exec_vzip y o s) (fun _ => rfl)
  case unzip => exact permutes (vunzip_blind o) (exec_vunzip y o s) (fun _ => rfl)

end Sys2Proof

/-! ### Vector control (O32) -/

namespace Sys2Proof

open Sys2Proof.Machine

section control
variable {s : State} {i : Instr} {y : Syn} {t k : Task} {w : Wait}

/-- A register of V as the body of an instruction of V reads it. -/
theorem reg_entered_v {ticks : Nat} (hk : Entered s i t ticks k w) (hq : s.cur.q = .v) (r : Nat) :
    (s.setHere k).reg r = t.v.reg r := by
  have hr := hk.reg r
  rw [hq] at hr
  rw [State.reg, State.me_setHere, hq]
  exact hr

theorem vcsr_blind : IssueBlind Task.vcsr := fun _ q => by cases q <;> rfl
theorem vrb_blind : IssueBlind Task.vrb := fun _ q => by cases q <;> rfl

theorem Entered.rotN {ticks : Nat} (hk : Entered s i t ticks k w) :
    k.rotN = t.rotN := by rw [Task.rotN, hk.blind vrb_blind, Task.rotN]
theorem Entered.rotBase {ticks : Nat} (hk : Entered s i t ticks k w) :
    k.rotBase = t.rotBase := by rw [Task.rotBase, hk.blind vrb_blind, Task.rotBase]

/-- The clauses of VSETVL that OPX names (R162). -/
theorem vsetvlReg_writes {xd xa xb : BitVec 5} {opx : BitVec 4} (h : Ready s (.vsetvlReg y xd xa xb opx) y t) :
    WritesLater s (.vsetvlReg y xd xa xb opx) y t 1
      ((if opx.getLsbD 0 then [.vl ((t.v.reg xa.toNat).setWidth 8)] else []) ++
          (if opx.getLsbD 1 then [.vcsr (t.v.reg xb.toNat)] else [])
        ++ (if opx.getLsbD 2 then [.x xd.toNat t.vcsr] else [])) 0 := by
  have hq : s.cur.q = .v := beq_iff_eq.mp h.space
  refine vrun_writes_plain (fun _ => rfl) (exec_vsetvlReg y xd xa xb opx s) h (fun k w hk => ?_)
  rw [reg_entered_v hk hq, reg_entered_v hk hq, hk.blind vcsr_blind]

/-- A new region starts at base 0 (R163). -/
theorem vrbOf_zero (n : Nat) : vrbOf n 0 = BitVec.ofNat 64 (n * 2 ^ 16) := by rw [vrbOf, Nat.add_zero]

/-- What LOOPV writes: the rotation, and its count (R164). -/
def loopWrites (t : Task) (xc : BitVec 5) : List Write :=
  (if t.rotN = 0 then [] else [.vrb (vrbOf t.rotN ((t.rotBase + t.rotN - 1) % t.rotN))]) ++
      [.x xc.toNat (t.v.reg xc.toNat - 1)]

theorem loopv_body {xc : BitVec 5} {off : BitVec 20} (h : Ready s (.loopv y xc off) y t) :
    ∃ body, exec (.loopv y xc off) s = vrun (.loopv y xc off) y [] body s ∧
        ∀ k w, Entered s (.loopv y xc off) t 1 k w → body k (s.setHere k) =
      if t.v.reg xc.toNat - 1 = 0 then pendWrites (s.setHere k) 1 (loopWrites t xc) 0
      else setPc (pendWrites (s.setHere k) 1 (loopWrites t xc) 0) (branchTarget s.me.pc (off.signExtend 32)) := by
  have hq : s.cur.q = .v := beq_iff_eq.mp h.space
  refine ⟨_, exec_loopv y xc off s, fun k w hk => ?_⟩
  simp only [reg_entered_v hk hq, hk.headPc, hk.rotN, hk.rotBase, bne_iff_ne, ne_eq, ite_not]
  rfl

theorem loopv_target (head : BitVec 48) (off : BitVec 20) :
    branchTarget head (off.signExtend 32) = BitVec.ofInt 48 (head.toNat + 4 * off.toInt) := by
  rw [branchTarget_eq, BitVec.toInt_signExtend_of_le (by decide)]

theorem loopv_effect {xc : BitVec 5} {off : BitVec 20} (h : Ready s (.loopv y xc off) y t) :
    Effect s (.loopv y xc off) y s (withPend s t 1 (loopWrites t xc) 0 false [])
      (if t.v.reg xc.toNat - 1 = 0 then nextPc s (.loopv y xc off) else BitVec.ofInt 48
          (s.me.pc.toNat + 4 * off.toInt)) 1 := by
  obtain ⟨body, hx, hbody⟩ := loopv_body h
  have hs : readsBad t (vSources t (.loopv y xc off)) = false := readsBad_nil t
  have hb : [].any isB8 = true → b8p t ≠ 0 := by simp
  split
  · next hz => exact vrun_writes h hx hb hs (fun k w hk => by rw [hbody k w hk, if_pos hz])
  · next hz =>
    rw [← loopv_target]
    refine effect_pend_jump (f := id) (body := vBody _ [] body) h hx (fun _ => rfl) (fun _ => rfl) (fun k w hk => ?_)
    rw [vBody_ok hk hb hs, hbody k w hk, if_neg hz]
    rfl

end control

/-- Settles O32: each instruction writes what it names at tick 1; LOOPV also takes its branch while
the count is not 0. -/
theorem vectorControl : Obligations.VectorControl := by
  unfold Obligations.VectorControl
  intro s y t
  refine ⟨fun n h => ?setvl, fun xd xa xb opx h => vsetvlReg_writes h, fun n h => ?rotset,
      fun xc off h => loopv_effect h⟩
  case setvl => exact vrun_writes_plain (fun _ => rfl) (exec_vsetvl y n s) h (fun _ _ _ => rfl)
  case rotset =>
    rw [← vrbOf_zero]
    exact vrun_writes_plain (fun _ => rfl) (exec_rotset y n s) h (fun _ _ _ => rfl)

end Sys2Proof

/-! ### The two-parcel accesses of V (O30, O31) -/

namespace Sys2Proof

open Sys2Proof.Machine

/-! #### What an access sees (R157, R158) -/

/-- By how much the form moves the base register (R157). -/
def memOffset (m : VMode) (o : VMemOp) : Int :=
  match m with
  | .block => o.vb.toInt * 256
  | .strided => o.vb.toInt * typeBytes o.ty.toNat
  | .indexed => 0

/-- The elements that an access selects. -/
def memElems (t : Task) (o : VMemOp) : List Nat := selElems t o.pred.toNat (typeBytes o.ty.toNat)

/-- The address of a wide access (R157). -/
def blockAddr (t : Task) (o : VMemOp) : Nat := (((t.v.reg o.xa.toNat).toNat + o.vb.toInt * 256) % 2 ^ 48).toNat

/-- The address of element `e` at a stride (R157). -/
def stridedElem (t : Task) (o : VMemOp) (e : Nat) : Nat :=
  (((t.v.reg o.xa.toNat).toNat + o.vb.toInt * typeBytes o.ty.toNat + e * (t.v.reg o.opx.toNat).toNat) % 2 ^ 48).toNat

/-- The address of element `e` at its index (R157). -/
def indexedElem (t : Task) (o : VMemOp) (e : Nat) : Nat :=
  let w := typeBytes o.ty.toNat
  (((t.v.reg o.xa.toNat).toNat + sbits (spanElem t o.vb.toNat w e) 0 (8 * w) * w) % 2 ^ 48).toNat

/-- What a two-parcel form addresses. -/
def twoAccess (t : Task) (m : VMode) (o : VMemOp) : VAcc :=
  vAccess t m (typeBytes o.ty.toNat) o.pred.toNat (wrap 64 ((t.v.reg o.xa.toNat).toNat + memOffset m o))
      (t.v.reg o.opx.toNat).toNat o.vb.toNat

theorem twoAccess_block (t : Task) (o : VMemOp) :
    twoAccess t .block o = .block (blockAddr t o) := congrArg VAcc.block (wrap64_mod _)

theorem twoAccess_strided (t : Task) (o : VMemOp) :
    twoAccess t .strided o = .each ((memElems t o).map (fun e => (e, stridedElem t o e))) :=
  congrArg VAcc.each (List.map_congr_left (fun _ _ => by rw [wrap48_wrap64]; rfl))

theorem twoAccess_indexed (t : Task) (o : VMemOp) :
    twoAccess t .indexed o = .each ((memElems t o).map (fun e => (e, indexedElem t o e))) :=
  congrArg VAcc.each (List.map_congr_left (fun _ _ => by rw [wrap48_wrap64, memOffset, add_zero]; rfl))

/-- What is read of the vector registers: the data of a store, and the index (R344). -/
def memSources (t : Task) (isLoad : Bool) (m : VMode) (o : VMemOp) : List VReg :=
  (if isLoad then [] else [.v (physV t o.vd.toNat)]) ++ (m.idx o.vb.toNat).toList.map (fun n => .v (physV t n))

theorem vAccess_blind (m : VMode) (w pred base : Nat) (stride : Int) (n : Nat) :
    IssueBlind (vAccess · m w pred base stride n) :=
  fun _ q => by cases q <;> rfl

theorem memSources_blind (isLoad : Bool) (m : VMode) (o : VMemOp) :
    IssueBlind (memSources · isLoad m o) := fun _ q => by cases q <;> rfl

section body
variable {s : State} {i : Instr} {y : Syn} {t k : Task} {w : Wait} {isLoad : Bool} {m : VMode} {o : VMemOp}

/-- A two-parcel access: its checks of the type and of the registers it reads, and then its loads
or stores. -/
theorem vMemTwo_entered (hk : Entered s i t 1 k w) (hq : s.cur.q = .v) :
    vMemTwo (s.setHere k) i isLoad m o =
      if isB8 o.ty.toNat && b8p t == 0 then .trap .illegalField s.me.pc.toNat 0 (s.setHere k)
      else if readsBad t (memSources t isLoad m o) then eccTrap (s.setHere k)
      else if isLoad then vLoad (s.setHere k) (typeBytes o.ty.toNat) o.pred.toNat o.vd.toNat (twoAccess t m o)
      else vStore (s.setHere k) (typeBytes o.ty.toNat) o.pred.toNat o.vd.toNat (twoAccess t m o) := by
  have hacc : vAccess k m (typeBytes o.ty.toNat) o.pred.toNat
      (wrap 64 ((t.v.reg o.xa.toNat).toNat + memOffset m o)) (t.v.reg o.opx.toNat).toNat o.vb.toNat
      = twoAccess t m o := hk.blind (vAccess_blind _ _ _ _ _ _)
  have hsrc : (if isLoad then [] else spanRegs k o.vd.toNat 1) ++ (m.idx o.vb.toNat).toList.flatMap
      (fun n => spanRegs k n 1) = memSources t isLoad m o := by
    rw [← hk.blind (memSources_blind isLoad m o)]
    cases m <;> rfl
  rw [← hacc, ← hsrc, ← hk.blind b8p_blind, ← hk.blind (readsBad_blind _)]
  unfold vMemTwo vMem
  simp only [State.here_setHere, reg_entered_v hk hq, hk.headPc]
  cases m <;> rfl

/-- An access whose type and registers are in order. -/
theorem vMemTwo_clean (hk : Entered s i t 1 k w) (hq : s.cur.q = .v) (hb : isB8 o.ty.toNat = true → b8p t ≠ 0)
    (hs : readsBad t (memSources t isLoad m o) = false) :
    vMemTwo (s.setHere k) i isLoad m o =
      if isLoad then vLoad (s.setHere k) (typeBytes o.ty.toNat) o.pred.toNat o.vd.toNat (twoAccess t m o)
      else vStore (s.setHere k) (typeBytes o.ty.toNat) o.pred.toNat o.vd.toNat (twoAccess t m o) := by
  rw [vMemTwo_entered hk hq, b8_ok hb, hs]
  rfl

theorem vMemTwo_load (hk : Entered s i t 1 k w) (hq : s.cur.q = .v) (hb : isB8 o.ty.toNat = true → b8p t ≠ 0)
    (hs : readsBad t (memSources t true m o) = false) :
    vMemTwo (s.setHere k) i true m o =
      vLoad (s.setHere k) (typeBytes o.ty.toNat) o.pred.toNat o.vd.toNat (twoAccess t m o) :=
  vMemTwo_clean hk hq hb hs

theorem vMemTwo_store (hk : Entered s i t 1 k w) (hq : s.cur.q = .v) (hb : isB8 o.ty.toNat = true → b8p t ≠ 0)
    (hs : readsBad t (memSources t false m o) = false) :
    vMemTwo (s.setHere k) i false m o =
      vStore (s.setHere k) (typeBytes o.ty.toNat) o.pred.toNat o.vd.toNat (twoAccess t m o) :=
  vMemTwo_clean hk hq hb hs

/-- The data or an index in error traps (R344). -/
theorem vMemTwo_ecc (h : Ready s i y t) (hq : s.cur.q = .v)
    (hx : exec i s = run i y 1 (fun s => vMemTwo s i isLoad m o) s)
    (hb : isB8 o.ty.toNat = true → b8p t ≠ 0) (hs : readsBad t (memSources t isLoad m o) = true) :
    TrapsPrecisely s i t .eccUncorrectable (Config.eccAddr s.moves) := by
  obtain ⟨k, w, he, hk⟩ := entered_spec s i y t 1
  refine trap_of h hx ?_
  rw [he, vMemTwo_entered hk hq, b8_ok hb, hs]
  rfl

/-- The results that are due change neither the extents nor the partition of a task. -/
theorem Ready.extents (h : Ready s i y t) : t.extents = s.here.extents := by
  rw [dueWrites_only h.due]
  cases s.cur.q <;> rfl

theorem Ready.part (h : Ready s i y t) : t.part = s.here.part := by
  rw [dueWrites_only h.due]
  cases s.cur.q <;> rfl

theorem Entered.checkEach (h : Ready s i y t) (hk : Entered s i t 1 k w) (rs : Ranges) (a : AccKind)
    (n : Nat) (l : List (Nat × Nat)) :
    checkEach (s.setHere k) rs a n l = checkEach s rs a n l := by
  have hone (x : Nat) : Machine.checkAccess (s.setHere k) (myCore (s.setHere k)) (s.setHere k).here rs a x n n
      = Machine.checkAccess s (myCore s) s.here rs a x n n := by
    rw [State.here_setHere]
    exact (hk.checkAccess rs a x n n).trans (checkAccess_congr (.inl rfl) h.extents h.part ..)
  induction l with
  | nil => rfl
  | cons z l ih =>
    obtain ⟨e, x⟩ := z
    simp only [Machine.checkEach, ih, hone]

end body

/-! #### Loads (R96, R157 to R159) -/

theorem blockPieces_blind (w pred reg : Nat) (p : Place) (a : Nat) :
    IssueBlind (blockPieces · w pred reg p a) := fun _ q => by cases q <;> rfl
theorem elemPieces_blind (w reg : Nat) (addr : Nat → Nat) (ps : List (Nat × Place)) :
    IssueBlind (elemPieces · w reg addr ps) :=
  fun _ q => by cases q <;> rfl

/-- Checked elements, each with its address again. -/
theorem zip_addresses {s : State} {rs : Ranges} {a : AccKind} {n : Nat} {sel : List Nat}
    {addr : Nat → Nat} {ps : List (Nat × Place)}
    (hc : checkEach s rs a n (sel.map (fun e => (e, addr e))) = .ok ps) :
    ps.zip (sel.map (fun e => (e, addr e))) = ps.map (fun z => (z, (z.1, addr z.1))) := by
  have hf : sel = ps.map Prod.fst := by simpa [Function.comp_def] using (checkEach_fst hc).symm
  rw [hf, List.map_map]
  simpa [Function.comp_def] using List.zip_map' (f := id) (g := fun z : Nat × Place => (z.1, addr z.1)) (l := ps)

section loads
variable {s : State} {i : Instr} {y : Syn} {t k : Task} {w : Wait} {o : VMemOp}

/-- A place at which a timed load finds its wheel (R122). -/
def OnWheel (s : State) (t : Task) (p : Place) : Prop := timedHere s = true → WheelMet s t.part p

/-- A granule of a block lies in the stack of the block. -/
theorem OnWheel.granule {p : Place} {rs : Ranges} {ak : AccKind} {a : Nat} (hm : OnWheel s t p)
    (hc : checkAccess s s.cur.core t rs ak a 256 256 = .ok p)
    {g : Nat} (hg : g < 16) : OnWheel s t (p.add (16 * g)) := fun hT => by
  cases p with
  | hbm pa => exact (hm hT).granule (checkAccess_hbm_aligned (by decide) hc) hg
  | spad c off => exact fun a he => nomatch he
  | tx b => exact fun a he => nomatch he

theorem vLoad_block_entered (h : Ready s i y t) (hk : Entered s i t 1 k w) {n pred reg a : Nat} {p : Place}
    (hc : checkAccess s s.cur.core t Ranges.noTx .load a 256 256 = .ok p) (hm : OnWheel s t p) :
    vLoad (s.setHere k) n pred reg (.block a) =
      .ok (pendLoads (s.setHere k) 14 [] 0 false (blockPieces t n pred reg p a)) := by
  have hck := (hk.checkAccess Ranges.noTx .load a 256 256).trans hc
  unfold vLoad
  simp only [State.here_setHere, myCore, State.setHere_cur, hck, hk.blind (blockPieces_blind n pred reg p a)]
  refine loadIssue_ok (fun l hl => ?_)
  obtain ⟨g, hg, rfl⟩ := List.mem_map.mp hl
  exact hk.wheelKept h (hm.granule hc (List.mem_range.mp hg))

theorem vLoad_each_entered (h : Ready s i y t) (hk : Entered s i t 1 k w) {n pred reg : Nat}
    {sel : List Nat} {addr : Nat → Nat} {ps : List (Nat × Place)}
    (hc : checkEach s Ranges.noTx .load n (sel.map (fun e => (e, addr e))) = .ok ps)
    (hm : ∀ z ∈ ps, OnWheel s t z.2) :
    vLoad (s.setHere k) n pred reg (.each (sel.map (fun e => (e, addr e)))) =
      .ok (pendLoads (s.setHere k) 14 [] 0 true (elemPieces t n reg addr ps)) := by
  have hck := (hk.checkEach h Ranges.noTx .load n _).trans hc
  rw [← hk.blind (elemPieces_blind n reg addr ps)]
  unfold vLoad
  simp only [State.here_setHere, hck, zip_addresses hc, List.map_map]
  refine loadIssue_ok (fun l hl => ?_)
  obtain ⟨z, hz, rfl⟩ := List.mem_map.mp hl
  exact hk.wheelKept h (hm z hz)

/-- A wide load reads its granules (R96, R158). -/
theorem vld_loads (h : Ready s (.vld y (.two o)) y t) (hb : isB8 o.ty.toNat = true → b8p t ≠ 0) {p : Place}
    (hc : checkAccess s s.cur.core t Ranges.noTx .load (blockAddr t o) 256 256 = .ok p) (hm : OnWheel s t p) :
    LoadsLater s (.vld y (.two o)) y t 14 false
      (blockPieces t (typeBytes o.ty.toNat) o.pred.toNat o.vd.toNat p (blockAddr t o)) := by
  refine effect_pend (f := id) (body := fun s => vMemTwo s _ true .block o) h (exec_vld y (.two o) s)
      (fun _ => rfl) (fun _ => rfl) (fun k w hk => ?_)
  rw [vMemTwo_load (m := .block) hk (beq_iff_eq.mp h.space) hb (readsBad_nil t), twoAccess_block]
  exact vLoad_block_entered h hk hc hm

/-- A load of single elements, each at its own address. -/
theorem each_loads {m : VMode} (h : Ready s i y t) (hq : s.cur.q = .v)
    (hx : exec i s = run i y 1 (fun s => vMemTwo s i true m o) s)
    (hb : isB8 o.ty.toNat = true → b8p t ≠ 0) (hs : readsBad t (memSources t true m o) = false) {addr : Nat → Nat}
    (ha : twoAccess t m o = .each ((memElems t o).map (fun e => (e, addr e)))) {ps : List (Nat × Place)}
    (hc : checkEach s Ranges.noTx .load (typeBytes o.ty.toNat) ((memElems t o).map (fun e => (e, addr e))) = .ok ps)
    (hm : ∀ z ∈ ps, OnWheel s t z.2) :
    LoadsLater s i y t 14 true (elemPieces t (typeBytes o.ty.toNat) o.vd.toNat addr ps) := by
  refine effect_pend (f := id) h hx (fun _ => rfl) (fun _ => rfl) (fun k w hk => ?_)
  rw [vMemTwo_load hk hq hb hs, ha]
  exact vLoad_each_entered h hk hc hm

end loads

/-! #### KLD (R161) -/

section kld
variable {s : State} {y : Syn} {t : Task} {o : VMemOp}

/-- How many words KLD copies. -/
def kldCount (o : VMemOp) : Nat := o.vb.toNat + 1

/-- The address of its word `k`. -/
def kldAddr (t : Task) (o : VMemOp) (k : Nat) : Nat := ((t.v.reg o.xa.toNat).toNat + 4 * k) % 2 ^ 48

/-- What KLD reads: each run of words that lie in one granule (R96). -/
def kldPieces (t : Task) (o : VMemOp) (ps : List (Nat × Place)) : List LoadPiece :=
  let x := (t.v.reg o.xa.toNat).toNat
  ((List.range (kldCount o)).filter (fun k => k == 0 || (x + 4 * k) % 16 == 0)).filterMap (fun k => (ps[k]?).map (fun z =>
    { place := z.2, len := 4 * min (kldCount o - k) ((16 - (x + 4 * k) % 16) / 4),
        dest := .k (o.vd.toNat + k), addr := kldAddr t o k }))

theorem kldPieces_eq (t : Task) (o : VMemOp) (ps : List (Nat × Place)) :
    (kldRuns (t.v.reg o.xa.toNat).toNat (kldCount o)).filterMap (fun r => (ps[r.1]?).map (fun x =>
      { place := x.2, len := 4 * r.2, dest := .k (o.vd.toNat + r.1), addr := kldAddr t o r.1 }))
      = kldPieces t o ps := by
  unfold kldRuns kldPieces upTo
  rw [List.filterMap_map, List.map_id]
  rfl

theorem mem_kldPieces {ps : List (Nat × Place)} {l : LoadPiece} (hl : l ∈ kldPieces t o ps) :
    ∃ z ∈ ps, l.place = z.2 := by
  obtain ⟨k, -, hk⟩ := List.mem_filterMap.mp hl
  obtain ⟨z, hz, rfl⟩ := Option.map_eq_some_iff.mp hk
  exact ⟨z, List.mem_of_getElem? hz, rfl⟩

theorem kld_loads (h : Ready s (.kld y o) y t) {ps : List (Nat × Place)}
    (hc : checkEach s Ranges.noTx .load 4 ((List.range (kldCount o)).map (fun k => (k, kldAddr t o k))) = .ok ps)
    (hm : ∀ z ∈ ps, OnWheel s t z.2) :
    LoadsLater s (.kld y o) y t 14 false (kldPieces t o ps) := by
  have hq : s.cur.q = .v := beq_iff_eq.mp h.space
  refine effect_pend (f := id) h (exec_kld y o s) (fun _ => rfl) (fun _ => rfl) (fun k w hk => ?_)
  have hck := (hk.checkEach h Ranges.noTx .load 4 _).trans hc
  rw [← kldPieces_eq]
  simp only [reg_entered_v hk hq, kldAddr, kldCount, upTo] at hck ⊢
  rw [hck]
  refine loadIssue_ok (fun l hl => ?_)
  obtain ⟨z, hz, hp⟩ := mem_kldPieces (t := t) (o := o) (by rw [← kldPieces_eq]; exact hl)
  rw [hp]
  exact hk.wheelKept h (hm z hz)

end kld

/-- Settles O30: each load issues its pieces, with the lanes or the entries that they go to. -/
theorem vectorLoads : Obligations.VectorLoads := by
  unfold Obligations.VectorLoads
  intro s y o t ty w sel reg x lanes OnTime Each
  have each {i : Instr} {m : VMode} {addr : Nat → Int} (hsp : inSpace s.cur.q i = (s.cur.q == .v))
      (hx : exec i s = run i y 1 (fun s => vMemTwo s i true m o) s)
      (ha : twoAccess t m o = .each (sel.map (fun e => (e, (addr e % 2 ^ 48).toNat)))) :
      Each i (memSources t true m o) addr := by
    intro ps h hb at0
    have hq : s.cur.q = .v := beq_iff_eq.mp (hsp ▸ h.space)
    refine ⟨vMemTwo_ecc h hq hx hb, fun hs hc hm => ?_⟩
    have := each_loads h hq hx hb hs ha hc hm
    rwa [elemPieces_eq] at this
  refine ⟨fun p h hb => ?vld, ?vlds, ?vgath, fun ps h => ?kld⟩
  case vld =>
    intro a mask hc hm
    exact vld_loads h hb hc hm
  case vlds => exact each rfl (exec_vlds y (.two o) s) (twoAccess_strided t o)
  case vgath => exact each rfl (exec_vgath y (.two o) s) (twoAccess_indexed t o)
  case kld =>
    intro n at0 firsts hc hm
    exact kld_loads h hc hm

/-! #### The stores of one instruction (R158, R159) -/

section own
variable {s : State} {i : Instr} {y : Syn} {t k : Task} {w : Wait}

/-- A store outside the windows may issue where its port and its wheel let it (R122, R125). -/
theorem Entered.mayStore (h : Ready s i y t) (hk : Entered s i t 1 k w) {pl : Place} (hp : PortMet s pl)
    (hm : OnWheel s t pl) :
    mayStore (s.setHere k) pl = true := by
  have hpeer : peerOpen (s.setHere k) pl = true := by
    cases pl with
    | spad c off =>
      by_cases hc : c = s.cur.core
      · exact Bool.or_eq_true_iff.mpr (.inl (beq_iff_eq.mpr hc))
      · have hno : s.cur.core ∉ s.ports := hp c off rfl hc
        simp [peerOpen, myCore, hno]
    | hbm a => rfl
    | tx a => rfl
  rw [Machine.mayStore, hpeer, hk.wheelKept h hm]
  rfl

/-- A task with stores joined to those of `q`, and other reads ahead. -/
def storesJoined (k : Task) (q : SeqId) (sts : List PStore) (e : List Early) : Task :=
  k.setSeq q { k.seq q with stores := (k.seq q).stores ++ sts, early := e }

theorem curId_storesJoined (h : Ready s i y t) (hk : Entered s i t 1 k w) (sts : List PStore) (e : List Early) :
    curId (s.setHere (storesJoined k s.cur.q sts e)) = s.me.nextId := by
  simp [curId, storesJoined, hk.prog.trans h.prog, hk.wait, hk.id]

/-- The stores of an instruction join those of its sequencer, in their order. -/
theorem queueAll_entered (h : Ready s i y t) (hk : Entered s i t 1 k w) (chain : Place → Nat)
    (us : List (Place × List (Option Byte))) :
    ∃ e, queueAll chain us (s.setHere k)
      = s.setHere (storesJoined k s.cur.q
          (us.map (queuedStore s.cur.core s.cur.q s.me.pc s.mcc s.me.nextId chain (wholeLine us))) e) := by
  unfold queueAll
  generalize wholeLine us = whole
  suffices hgen : ∀ sts e0, ∃ e,
      us.foldl (fun s u => queueChained s (curId s) u.1 u.2 none (chain u.1) (whole u))
      (s.setHere (storesJoined k s.cur.q sts e0))
      = s.setHere (storesJoined k s.cur.q
          (sts ++ us.map (queuedStore s.cur.core s.cur.q s.me.pc s.mcc s.me.nextId chain whole)) e) by
    have hid : storesJoined k s.cur.q [] (k.seq s.cur.q).early = k := by
      rw [storesJoined, List.append_nil]
      exact Task.setSeq_seq k s.cur.q
    simpa only [hid, List.nil_append] using hgen [] (k.seq s.cur.q).early
  induction us with
  | nil => exact fun sts e0 => ⟨e0, by rw [List.map_nil, List.append_nil]; rfl⟩
  | cons u us ih =>
    intro sts e0
    obtain ⟨e, he⟩ := queueChained_setHere s (storesJoined k s.cur.q sts e0) s.me.nextId u.1 u.2 chain whole
    obtain ⟨e2, he2⟩ := ih (sts ++ [queuedStore s.cur.core s.cur.q s.me.pc s.mcc s.me.nextId chain whole u]) e
    refine ⟨e2, ?_⟩
    rw [List.foldl_cons, curId_storesJoined h hk, List.map_cons, List.append_cons, ← he2, he]
    simp only [storesJoined, Task.seq_setSeq, Task.setSeq_setSeq, hk.head, List.append_assoc]

theorem bareTask_withStoresOf (x : Task) (core : Nat) (q : SeqId) (head : BitVec 48) (since id : Nat)
    (chain : Place → Nat) (us : List (Place × List (Option Byte))) :
    bareTask (withStoresOf x core q head since id chain us) q =
      withStoresOf (bareTask x q) core q head since id chain us := by
  cases q <;> rfl

/-- Stores outside the windows, each of which may issue, join those of V. -/
theorem effect_stores (h : Ready s i y t) {body : State → Res} (hx : exec i s = run i y 1 body s)
    {us : List (Place × List (Option Byte))}
    (hb : ∀ k w, Entered s i t 1 k w → body (s.setHere k) = sendAll (s.setHere k) us)
    (hu : ∀ u ∈ us, notWindow u.1 = true ∧ PortMet s u.1 ∧ OnWheel s t u.1) :
    Effect s i y s (withStores s t s.me.nextId us) (nextPc s i) 1 := by
  refine effect_task h hx ?_ (fun k w hk => ?_)
  · simp [withStores, withStoresOf]
  obtain ⟨e, he⟩ := queueAll_entered h hk (fun _ => 0) us
  have hown := sendChained_own (s := s.setHere k) (chain := fun _ => 0) (fun u hu' => (hu u hu').1)
    (fun u hu' => hk.mayStore h (hu u hu').2.1 (hu u hu').2.2)
  refine ⟨_, (hb k w hk).trans (hown.trans (congrArg Res.ok he)), ?_, ?_⟩
  · rw [withStores, bareTask_withStoresOf, ← hk.bare, ← bareTask_withStoresOf]
    exact bareTask_of_bareSeq rfl
  · rw [storesJoined, Task.seq_setSeq]
    exact ⟨rfl, rfl, rfl, rfl, rfl⟩

end own

/-! #### Stores into windows (R99, R158, R223 to R227) -/

section windows
variable {s x x' : State} {u v : Seq}

/-- In `x` the turn is that of `s`, its task is there, and its sequencer stands where the issue of
its instruction has set `u`. -/
structure Issuing (s : State) (u : Seq) (x : State) : Prop where
  cur : x.cur = s.cur
  bank : x.bankOf s.cur.core = s.bankOf s.cur.core
  task : (x.task? s.cur.core (s.bankOf s.cur.core)).isSome = true
  issue : SameIssue x.me u

theorem Issuing.start (s : State) (k : Task) : Issuing s (k.seq s.cur.q) (s.setHere k) :=
  ⟨rfl, State.bankOf_setHere .., by rw [State.task?_setHere]; rfl,
      by rw [State.me_setHere]; exact ⟨rfl, rfl, rfl, rfl, rfl⟩⟩

theorem Issuing.setMe (h : Issuing s u x) (hv : SameIssue v x.me) : Issuing s u (x.setMe v) := by
  obtain ⟨h1, h2, h3, h4, h5⟩ := hv
  obtain ⟨k1, k2, k3, k4, k5⟩ := h.issue
  refine ⟨h.cur, (State.bankOf_setMe ..).trans h.bank, ?_, ?_⟩
  · rw [← h.bank, ← h.cur, State.setMe_eq, State.task?_setHere]
    rfl
  · rw [State.me_setMe]
    exact ⟨h1.trans k1, h2.trans k2, h3.trans k3, h4.trans k4, h5.trans k5⟩

theorem Issuing.of_cores (h : Issuing s u x) (hc : x'.cur = x.cur) (hk : x'.cores = x.cores) : Issuing s u x' := by
  have hs := SameTasks.of_cores hc hk
  refine ⟨hc.trans h.cur, (hs.bank _).trans h.bank, by rw [hs.task]; exact h.task, ?_⟩
  rw [show x'.me = x.me by simp only [State.me, State.here, hc, hs.bank, hs.task]]
  exact h.issue

theorem Issuing.queueChained (h : Issuing s u x) (id : Nat) (p : Place) (bs : List (Option Byte))
    (upd : Option ScUpdate) (chain : Nat) (whole : Bool) :
    Issuing s u (queueChained x id p bs upd chain whole) := by
  unfold Machine.queueChained
  refine h.setMe ?_
  unfold Seq.dropEarly
  split <;> exact ⟨rfl, rfl, rfl, rfl, rfl⟩

theorem Issuing.queueAll (h : Issuing s u x) (chain : Place → Nat)
    (us : List (Place × List (Option Byte))) : Issuing s u (queueAll chain us x) := by
  unfold Machine.queueAll
  exact List.foldlRecOn (motive := Issuing s u) us _ h (fun _ h _ _ => h.queueChained ..)

/-- A store into a window changes no core (R223 to R227). -/
theorem sendInto_cores {win core block lo : Nat} {o : Owner} {ps : List (Nat × Byte)}
    (h : sendInto win core block lo o ps x = .sent x') :
    x'.cur = x.cur ∧ x'.cores = x.cores := by
  unfold sendInto at h
  split at h
  · obtain rfl := TxRes.sent.inj h
    exact ⟨rfl, rfl⟩
  · split at h
    · cases h
    · obtain rfl := TxRes.sent.inj h
      split
      · exact ⟨(loopBack_blind _).cur _, (loopBack_blind _).cores _⟩
      · exact ⟨rfl, rfl⟩

theorem txStore_cores {id part addr : Nat} {ps : List (Nat × Byte)}
    (h : txStore x x.cur.core (x.bankOf x.cur.core) x.cur.q id part addr ps = .sent x') :
    x'.cur = x.cur ∧ x'.cores = x.cores := by
  cases hw : findTx x part addr with
  | none => simp [txStore, hw] at h
  | some win =>
    cases hd : Machine.deadPeer (x.txWin win) with
    | some m => simp [txStore, hw, hd] at h
    | none => exact sendInto_cores (txStore_eq hw hd ▸ h)

theorem Issuing.storeNamed (h : Issuing s u x) {p : Place} {bs : List (Option Byte)}
    (hs : storeNamed x p bs = .sent x') : Issuing s u x' := by
  cases p with
  | tx a =>
    obtain ⟨hc, hk⟩ := txStore_cores hs
    exact h.of_cores hc hk
  | spad c off =>
    obtain rfl := TxRes.sent.inj hs
    exact h.queueChained ..
  | hbm a =>
    obtain rfl := TxRes.sent.inj hs
    exact h.queueChained ..

theorem Issuing.sendUnits {last : State → State} (hl : ∀ x, Issuing s u x → Issuing s u (last x))
    (us : List (Place × List (Option Byte))) {n : Nat}
    (h : Issuing s u x) (hs : sendUnits last n us x = .ok x') : Issuing s u x' := by
  induction us generalizing x n with
  | nil =>
    obtain rfl := Res.ok.inj hs
    exact hl x h
  | cons z us ih =>
    obtain ⟨p, bs⟩ := z
    cases hr : Machine.storeNamed x p bs with
    | sent x1 =>
      simp only [Machine.sendUnits, hr] at hs
      exact ih (h.storeNamed hr) hs
    | stall => simp [Machine.sendUnits, hr] at hs
    | deadPeer m x1 => simp [Machine.sendUnits, hr] at hs

/-- Stores of which each goes as its window lets it leave the issue of their instruction as it
stands. -/
theorem Issuing.sendAll (h : Issuing s u x) {us : List (Place × List (Option Byte))}
    (hs : sendAll x us = .ok x') : Issuing s u x' :=
  h.sendUnits (fun _ h => h.queueAll ..) _ (sendChained_ok_iff.mp hs).2.2

/-- What closes an instruction sees the executing task as it is put in its place. -/
theorem closeWait_here {w : Wait} (hw : x.me.wait = some w) : closeWait (x.setHere x.here) = closeWait x := by
  have hwh : (x.setHere x.here).me.wait = some w := by rw [State.me_setHere]; exact hw
  unfold closeWait
  simp only [hw, hwh]
  rw [State.setMe_setHere, State.setMe_eq, State.me_setHere]
  rfl

theorem completed_issued_here {w : Wait} (hw : x.me.wait = some w) :
    completed (issued (x.setHere x.here)) = completed (issued x) := by
  have hwh : (x.setHere x.here).me.wait = some w := by rw [State.me_setHere]; exact hw
  unfold issued
  simp only [hw, hwh, State.here_setHere]
  split
  · simp only [completed, closeWait_here hw, State.bankOf_setHere, State.setHere_cur]
  · rw [State.setHere_setHere]
    rfl

/-- An instruction whose body leaves its issue as it stands is complete. -/
theorem Issuing.finish {head : BitVec 48} (h : Issuing s u x) (hr : u.stream = .running) (hw : u.wait.isSome = true) :
    ∃ t' fl n, finish head (.ok x) = .next (x.setHere t')
      ∧ TokensOnly (x.here.setSeq x.cur.q
          { x.me with wait := none, early := [], lastIssue := n, flights := fl }) t' := by
  obtain ⟨hstream, hwait, -, -, -⟩ := h.issue
  obtain ⟨w, hxw⟩ := Option.isSome_iff_exists.mp (hwait ▸ hw)
  have hp : present x = true := by rw [present, h.cur, h.bank]; exact h.task
  obtain ⟨t', fl, n, hf, ht⟩ := finish_ok x head x.here (hstream.trans hr) (hwait ▸ hw)
  refine ⟨t', fl, n, ?_, ht⟩
  rw [← hf]
  unfold Machine.finish
  simp only [hp, present_setHere, if_true, completed_issued_here hxw]

end windows

section send
variable {s : State} {i : Instr} {y : Syn} {t k : Task} {w : Wait} {o : VMemOp}

/-- An instruction whose stores all go completes in the state that they leave (R158). -/
theorem sends_leave (h : Ready s i y t) {body : State → Res} (hx : exec i s = run i y 1 body s)
    {us : List (Place × List (Option Byte))}
    (hb : ∀ k w, Entered s i t 1 k w → body (s.setHere k) = sendAll (s.setHere k) us) {s1 : State}
    (h1 : sendAll (enteredAt s t y i) us = .ok s1) :
    Leaves s i s1 s1.here := by
  obtain ⟨k, w, he, hk⟩ := entered_spec s i y t 1
  rw [enteredAt, he] at h1
  have hi := (Issuing.start s k).sendAll h1
  obtain ⟨t', fl, n, hf, ht⟩ := hi.finish (head := s.me.pc) (hk.stream.trans h.stream) (by rw [hk.wait]; rfl)
  have hq : s1.cur.q = s.cur.q := by rw [hi.cur]
  have hseq := ht.seq s.cur.q
  rw [hq, Task.seq_setSeq] at hseq
  refine ⟨t', ?_, ?_, ?_, by rw [hseq]⟩
  · rw [hx, run_ok h, he, hb k w hk, h1, hf, State.setHere_eq, hi.cur, hi.bank]
  · rw [ht.bare, hq]
    have hme : s1.here.seq s.cur.q = s1.me := by rw [State.me, hq]
    conv_rhs => rw [← Task.setSeq_seq s1.here s.cur.q, hme]
    exact bareTask_of_bareSeq rfl
  · rw [hseq]
    exact hi.issue.pc.trans hk.pc

/-- What an instruction does whose body is a list of stores. -/
theorem sends_of (h : Ready s i y t) {body : State → Res} (hx : exec i s = run i y 1 body s)
    {us : List (Place × List (Option Byte))}
    (hb : ∀ k w, Entered s i t 1 k w → body (s.setHere k) = sendAll (s.setHere k) us) :
    ((∀ u ∈ us, notWindow u.1 = true ∧ PortMet s u.1 ∧ OnWheel s t u.1) →
        Effect s i y s (withStores s t s.me.nextId us) (nextPc s i) 1)
      ∧ ∀ s1, sendAll (enteredAt s t y i) us = .ok s1 → Leaves s i s1 s1.here :=
  ⟨effect_stores h hx hb, fun _ h1 => sends_leave h hx hb h1⟩

/-! #### The bytes that a store of V writes (R157, R158) -/

/-- The bytes of the selected elements of a register. -/
def blockBytes (t : Task) (n pred reg : Nat) : List (Option Byte) :=
  (List.range 256).map (fun b => if selected t pred n (b / n) then some (storedByte t reg b) else none)

/-- The stores of single elements, each with the bytes of its own. -/
def elemStores (t : Task) (n reg : Nat) (ps : List (Nat × Place)) : List (Place × List (Option Byte)) :=
  ps.map (fun z => (z.2, (List.range n).map (fun b => some (storedByte t reg (z.1 * n + b)))))

theorem blockBytes_blind (n pred reg : Nat) : IssueBlind (blockBytes · n pred reg) := fun _ q => by cases q <;> rfl
theorem elemStores_blind (n reg : Nat) (ps : List (Nat × Place)) :
    IssueBlind (elemStores · n reg ps) := fun _ q => by cases q <;> rfl

theorem vStore_block_entered (hk : Entered s i t 1 k w) {n pred reg a : Nat} {p : Place}
    (hc : checkAccess s s.cur.core t Ranges.all .store a 256 256 = .ok p) :
    vStore (s.setHere k) n pred reg (.block a) = sendAll (s.setHere k) (blockUnits p (blockBytes t n pred reg)) := by
  have hck := (hk.checkAccess Ranges.all .store a 256 256).trans hc
  rw [← hk.blind (blockBytes_blind n pred reg)]
  unfold vStore
  simp only [State.here_setHere, myCore, State.setHere_cur, hck]
  rfl

theorem vStore_each_entered (h : Ready s i y t) (hk : Entered s i t 1 k w) {n pred reg : Nat}
    {l : List (Nat × Nat)} {ps : List (Nat × Place)}
    (hc : checkEach s Ranges.all .store n l = .ok ps) :
    vStore (s.setHere k) n pred reg (.each l) = sendAll (s.setHere k) (elemStores t n reg ps) := by
  have hck := (hk.checkEach h Ranges.all .store n l).trans hc
  rw [← hk.blind (elemStores_blind n reg ps)]
  unfold vStore
  simp only [State.here_setHere, hck]
  rfl

end send

/-- Settles O31: a store of V is the list of its granules or elements, which the shared operation
on stores takes. -/
theorem vectorStores : Obligations.VectorStores := by
  unfold Obligations.VectorStores
  intro s y o t ty w sel x byte Sends Clean Each
  have each {i : Instr} {m : VMode} {addr : Nat → Int} (hsp : inSpace s.cur.q i = (s.cur.q == .v))
      (hx : exec i s = run i y 1 (fun s => vMemTwo s i false m o) s) (idx : List VReg)
      (hidx : memSources t false m o = .v (physV t o.vd.toNat) :: idx)
      (ha : twoAccess t m o = .each (sel.map (fun e => (e, (addr e % 2 ^ 48).toNat)))) : Each i idx addr := by
    rintro ps ⟨h, hb, hs⟩ hc
    refine sends_of h hx (fun k z hk => ?_)
    rw [vMemTwo_store hk (beq_iff_eq.mp (hsp ▸ h.space)) hb (hidx ▸ hs), ha]
    exact vStore_each_entered h hk hc
  refine ⟨?vst, ?vsts, ?vscat⟩
  case vst =>
    rintro p ⟨h, hb, hs⟩ hc
    refine sends_of (body := fun s => vMemTwo s _ false .block o) h (exec_vst y (.two o) s) (fun k z hk => ?_)
    rw [vMemTwo_store (m := .block) hk (beq_iff_eq.mp h.space) hb hs, twoAccess_block]
    exact vStore_block_entered hk hc
  case vsts => exact each rfl (exec_vsts y (.two o) s) _ rfl (twoAccess_strided t o)
  case vscat => exact each rfl (exec_vscat y (.two o) s) _ rfl (twoAccess_indexed t o)

end Sys2Proof

/-! ### The matrix sequencer (O39, O40, O42) -/

namespace Sys2Proof

open Sys2Proof.Machine

/-! #### Accumulator banks and versions (R134, R178) -/

section banks
variable {t : Task} {a b c d : Nat}

theorem accKey_inj (hb : b < 2) (hd : d < 2) : accKey c d = accKey a b ↔ c = a ∧ d = b := by
  unfold accKey
  omega

theorem accBank_setAccBank (hb : b < 2) (hd : d < 2) (x : AccBank) :
    (t.setAccBank a b x).accBank c d = if c = a ∧ d = b then x else t.accBank c d := by
  simp only [Task.accBank, Task.setAccBank, Sparse.get_set, accKey_inj hb hd]

theorem ver_setVer (v : BitVec 16) : (t.setVer a v).ver c = if c = a then v else t.ver c := Sparse.get_set ..

theorem bareTask_setAccBank (q : SeqId) (x : AccBank) : bareTask (t.setAccBank a b x) q = (bareTask t q).setAccBank a b x := by
  cases q <;> rfl

theorem bareTask_setVer (q : SeqId) (v : BitVec 16) : bareTask (t.setVer a v) q = (bareTask t q).setVer a v := by
  cases q <;> rfl

theorem accBank_bareTask (q : SeqId) : (bareTask t q).accBank a b = t.accBank a b := by cases q <;> rfl
theorem ver_bareTask (q : SeqId) : (bareTask t q).ver a = t.ver a := by cases q <;> rfl

theorem seq_setVer (q : SeqId) (v : BitVec 16) : (t.setVer a v).seq q = t.seq q := by cases q <;> rfl

theorem seq_setAccBank (q : SeqId) (x : AccBank) : (t.setAccBank a b x).seq q = t.seq q := by cases q <;> rfl

/-- The task with the two banks of accumulator `a` exchanged, and its version advanced (R170). -/
def swapped (t : Task) (a : Nat) : Task :=
  ((t.setAccBank a 0 (t.accBank a 1)).setAccBank a 1 (t.accBank a 0)).setVer a (t.ver a + 1)

theorem bareTask_swapped (q : SeqId) : bareTask (swapped t a) q = swapped (bareTask t q) a := by
  simp only [swapped, bareTask_setVer, bareTask_setAccBank, accBank_bareTask, ver_bareTask]

theorem seq_swapped (q : SeqId) : (swapped t a).seq q = t.seq q := by
  simp only [swapped, seq_setVer, seq_setAccBank]

theorem accBank_swapped (hd : d < 2) :
    (swapped t a).accBank c d = if c = a then t.accBank a (1 - d) else t.accBank c d := by
  have hset : (swapped t a).accBank c d
      = ((t.setAccBank a 0 (t.accBank a 1)).setAccBank a 1 (t.accBank a 0)).accBank c d := rfl
  rw [hset, accBank_setAccBank one_lt_two hd, accBank_setAccBank two_pos hd]
  grind

/-- The task with banks `l` of accumulator `a` cleared (R179). -/
def cleared (t : Task) (a : Nat) (l : List Nat) : Task := l.foldl (fun t b => t.setAccBank a b AccBank.zero) t

theorem accBank_cleared {l : List Nat} (hl : ∀ b ∈ l, b < 2) (hd : d < 2) :
    (cleared t a l).accBank c d = if c = a ∧ d ∈ l then AccBank.zero else t.accBank c d := by
  induction l generalizing t with
  | nil => simp [cleared]
  | cons b l ih =>
    have hcons : cleared t a (b :: l) = cleared (t.setAccBank a b AccBank.zero) a l := rfl
    rw [hcons, ih (fun x hx => hl x (List.mem_cons_of_mem _ hx)), accBank_setAccBank (hl b List.mem_cons_self) hd]
    grind

theorem bareTask_cleared (l : List Nat) (q : SeqId) : bareTask (cleared t a l) q = cleared (bareTask t q) a l :=
  (List.foldl_hom (bareTask · q) (fun _ _ => (bareTask_setAccBank ..).symm)).symm

theorem seq_cleared (l : List Nat) (q : SeqId) : (cleared t a l).seq q = t.seq q := by
  induction l generalizing t with
  | nil => rfl
  | cons b l ih => exact ih.trans (seq_setAccBank q AccBank.zero)

/-- Clearing changes the accumulators alone. -/
theorem cleared_acc (l : List Nat) : cleared t a l = { t with acc := (cleared t a l).acc } := by
  induction l generalizing t with
  | nil => rfl
  | cons b l ih => exact ih (t := t.setAccBank a b AccBank.zero)

theorem mem_namedBanks {bank : BitVec 2} : b ∈ namedBanks bank ↔ (b = 0 ∧ bank ≠ 1) ∨ (b = 1 ∧ bank ≠ 0) := by
  unfold namedBanks
  split
  · next h => simp [h]
  · split
    · next h => simp [h]
    · next h0 h1 => simp only [List.mem_cons, List.not_mem_nil, or_false, ne_eq, h0, h1, not_false_eq_true, and_true]

theorem namedBanks_lt {bank : BitVec 2} : ∀ b ∈ namedBanks bank, b < 2 := fun b hb => by
  rcases mem_namedBanks.mp hb with ⟨rfl, -⟩ | ⟨rfl, -⟩ <;> omega

end banks

/-! #### Instructions that change the task by a function of it -/

section update
variable {s : State} {i : Instr} {y : Syn} {t : Task} {body : State → Res}

/-- An instruction of one tick whose body changes the task by `f`, which concerns no sequencer and no token. -/
theorem effect_update (h : Ready s i y t) (hx : exec i s = run i y 1 body s) {f : Task → Task}
    (hf : ∀ x, bareTask (f x) s.cur.q = f (bareTask x s.cur.q)) (hs : ∀ x, (f x).seq s.cur.q = x.seq s.cur.q)
    (hb : ∀ k w, Entered s i t 1 k w → body (s.setHere k) = .ok (s.setHere (f k))) :
    Effect s i y s (f t) (nextPc s i) 1 :=
  effect_task h hx (by rw [hs]) (fun k w hk =>
    ⟨f k, hb k w hk, by rw [hf, hk.bare, hf], by rw [hs]; exact ⟨rfl, rfl, rfl, rfl, rfl⟩⟩)

/-- An instruction whose body traps in the state that its issue leaves. -/
theorem traps_entered (h : Ready s i y t) {ticks : Nat} (hx : exec i s = run i y ticks body s) {c : Cause} {faddr : Nat}
    (hb : ∀ k w, Entered s i t ticks k w → body (s.setHere k) = .trap c faddr 0 (s.setHere k)) :
    TrapsPrecisely s i t c faddr := by
  obtain ⟨k, w, he, hk⟩ := entered_spec s i y t ticks
  exact trap_of h hx (by rw [he, hb k w hk])

/-- One instruction has one effect. -/
theorem Effect.unique {t2 t3 : Task} {pc pc' : BitVec 48} {n n' : Nat} (h2 : Effect s i y s t2 pc n) (h3 : Effect s i y s t3 pc' n') :
    bareTask t2 s.cur.q = bareTask t3 s.cur.q := by
  obtain ⟨x, hx, hbx, -⟩ := h2
  obtain ⟨z, hz, hbz, -⟩ := h3
  have hset := Host.Outcome.next.inj (hx.symm.trans hz)
  have htask := congrArg (fun u : State => u.task? s.cur.core (s.bankOf s.cur.core)) hset
  simp only [State.task?_setTask, Option.some.injEq] at htask
  rw [← hbx, ← hbz, htask]

end update

/-! #### ASWAP, AZERO, ACHK, AVSET and EPSSET (R170, R179, R180, R207) -/

section oneTick
variable {s : State} {y : Syn} {t : Task} {acc bank : BitVec 2} {o : E2}

theorem aswap_effect (h : Ready s (.aswap y acc) y t) :
    Effect s (.aswap y acc) y s (swapped t acc.toNat) (nextPc s (.aswap y acc)) 1 :=
  effect_update (f := (swapped · acc.toNat)) h (exec_aswap y acc s) (fun _ => bareTask_swapped _) (fun _ => seq_swapped _)
    (fun k w _ => by simp only [State.here_setHere, State.setHere_setHere]; rfl)

theorem azero_effect (h : Ready s (.azero y bank acc) y t) :
    Effect s (.azero y bank acc) y s (cleared t acc.toNat (namedBanks bank)) (nextPc s (.azero y bank acc)) 1 :=
  effect_update (f := (cleared · acc.toNat (namedBanks bank))) h (exec_azero y bank acc s) (fun _ => bareTask_cleared ..)
    (fun _ => seq_cleared ..) (fun k w _ => by simp only [State.here_setHere, State.setHere_setHere]; rfl)

theorem accBank_blind (a b : Nat) : IssueBlind (·.accBank a b) := fun _ q => accBank_bareTask q

/-- ACHK of banks whose checksums hold does nothing. -/
theorem achk_passes (h : Ready s (.achk y bank acc) y t) (hc : ∀ b ∈ namedBanks bank, (t.accBank acc.toNat b).check = none) :
    Effect s (.achk y bank acc) y s t (nextPc s (.achk y bank acc)) 1 := by
  refine effect_update (f := id) h (exec_achk y bank acc s) (fun _ => rfl) (fun _ => rfl) (fun k w hk => ?_)
  have hnone : (namedBanks bank).findSome? (fun b => ((k.accBank acc.toNat b).check).map (fun f => f + 2 ^ 16 * acc.toNat + 2 ^ 18 * b)) = none :=
    List.findSome?_eq_none_iff.mpr (fun b hb => by rw [hk.blind (accBank_blind _ b), hc b hb]; rfl)
  simp only [State.here_setHere, hnone, id]

/-- ACHK traps at the working bank, where it names that one alone. -/
theorem achk_traps {f : Nat} (h : Ready s (.achk y bank acc) y t) (hbank : bank = 0) (hf : (t.accBank acc.toNat 0).check = some f) :
    TrapsPrecisely s (.achk y bank acc) t .accCheck (f + 2 ^ 16 * acc.toNat) := by
  refine traps_entered h (exec_achk y bank acc s) (fun k w hk => ?_)
  rw [← hk.blind (accBank_blind _ 0)] at hf
  simp [namedBanks, hbank, hf]

theorem reg_entered_m {i : Instr} {k : Task} {ticks : Nat} {w : Wait} (hk : Entered s i t ticks k w) (hq : s.cur.q = .m) (r : Nat) :
    (s.setHere k).reg r = t.m.reg r := by
  have hr := hk.reg r
  rw [hq] at hr
  rw [State.reg, State.me_setHere, hq]
  exact hr

theorem avset_effect (h : Ready s (.avset y o) y t) :
    Effect s (.avset y o) y s (t.setVer (o.sub.extractLsb' 0 2).toNat ((t.m.reg o.xa.toNat).setWidth 16 + o.imm.setWidth 16))
      (nextPc s (.avset y o)) 1 := by
  have hq : s.cur.q = .m := beq_iff_eq.mp h.space
  exact effect_update (f := (·.setVer (o.sub.extractLsb' 0 2).toNat ((t.m.reg o.xa.toNat).setWidth 16 + o.imm.setWidth 16))) h
    (exec_avset y o s) (fun _ => bareTask_setVer ..) (fun _ => seq_setVer ..)
    (fun k w hk => by simp only [reg_entered_m hk hq, State.here_setHere, State.setHere_setHere])

theorem epsset_effect (h : Ready s (.epsset y o) y t) :
    Effect s (.epsset y o) y s { t with eps := Sparse.set 0 (o.sub.extractLsb' 0 3).toNat o.imm t.eps } (nextPc s (.epsset y o)) 1 :=
  effect_update (f := fun x => { x with eps := Sparse.set 0 (o.sub.extractLsb' 0 3).toNat o.imm x.eps }) h (exec_epsset y o s)
    (fun _ => by cases s.cur.q <;> rfl) (fun _ => by cases s.cur.q <;> rfl)
    (fun k w _ => by simp only [State.here_setHere, State.setHere_setHere])

end oneTick

/-! #### FDROP (R169, R187, R344) -/

section fdrop
variable {s : State} {y : Syn} {t : Task} {n : BitVec 5}

/-- The task without the `n` oldest words of its format queue. -/
def dropWords (t : Task) (n : Nat) : Task := dequeued { t with fq := t.fq.drop n } 4 n

theorem bareTask_dropWords (m : Nat) (q : SeqId) : bareTask (dropWords t m) q = dropWords (bareTask t q) m := by
  have hbad : (bareTask t q).bad = t.bad := by cases q <;> rfl
  unfold dropWords dequeued
  dsimp only
  rw [hbad]
  split <;> cases q <;> rfl

theorem seq_dropWords (m : Nat) (q : SeqId) : (dropWords t m).seq q = t.seq q := by
  unfold dropWords dequeued
  split <;> cases q <;> rfl

theorem fq_blind : IssueBlind Task.fq := fun _ q => by cases q <;> rfl
theorem bad_blind : IssueBlind Task.bad := fun _ q => by cases q <;> rfl

/-- One of the `m` oldest words of the format queue is in error. -/
def wordsBad (t : Task) (m : Nat) : Bool := t.bad.any (fun w => match w with | .fq i => i < m | _ => false)

theorem wordsBad_iff (m : Nat) : wordsBad t m = true ↔ ∃ i, i < m ∧ .fq i ∈ t.bad := by
  unfold wordsBad
  rw [List.any_eq_true]
  constructor
  · rintro ⟨w, hw, hm⟩
    cases w with
    | fq i => exact ⟨i, of_decide_eq_true hm, hw⟩
    | v | k | pq => cases hm
  · rintro ⟨i, hi, hb⟩
    exact ⟨_, hb, decide_eq_true hi⟩

/-- FDROP: with too few words it traps, as a missed tick where M is timed, and so it does with one in error among them. -/
theorem fdrop_body (h : Ready s (.fdrop y n) y t) :
    ∃ body, exec (.fdrop y n) s = run (.fdrop y n) y 1 body s ∧ ∀ k w, Entered s (.fdrop y n) t 1 k w → body (s.setHere k) =
      if t.fq.length < n.toNat + 1 then
        (if timedHere s then .trap .schedMiss (s.mcc - t.m.alignAt) 0 (s.setHere k) else .trap .fmtUnderflow (n.toNat + 1) 0 (s.setHere k))
      else if wordsBad t (n.toNat + 1) then eccTrap (s.setHere k)
      else .ok (s.setHere (dropWords k (n.toNat + 1))) := by
  have hq : s.cur.q = .m := beq_iff_eq.mp h.space
  refine ⟨_, exec_fdrop y n s, fun k w hk => ?_⟩
  have halign : sinceAlign (s.setHere k).me s.mcc = s.mcc - t.m.alignAt := by
    rw [State.me_setHere, hq, sinceAlign]
    exact congrArg (s.mcc - ·) (hk.field (·.m.alignAt) (fun x => by cases s.cur.q <;> rfl))
  have hbad : wordsBad k (n.toNat + 1) = wordsBad t (n.toNat + 1) := by rw [wordsBad, hk.blind bad_blind]; rfl
  rw [← hbad, ← hk.blind fq_blind, ← hk.timed h, ← halign]
  simp only [State.here_setHere, State.setHere_setHere, State.setHere_mcc]
  rfl

theorem fdrop_effect (h : Ready s (.fdrop y n) y t) (hn : n.toNat + 1 ≤ t.fq.length) (hb : ∀ k, k ≤ n.toNat → .fq k ∉ t.bad) :
    Effect s (.fdrop y n) y s (dropWords t (n.toNat + 1)) (nextPc s (.fdrop y n)) 1 := by
  obtain ⟨body, hx, hbody⟩ := fdrop_body h
  have hgood : ¬ wordsBad t (n.toNat + 1) = true := fun hw => by
    obtain ⟨i, hi, hm⟩ := (wordsBad_iff _).mp hw
    exact hb i (Nat.le_of_lt_succ hi) hm
  exact effect_update (f := (dropWords · (n.toNat + 1))) h hx (fun _ => bareTask_dropWords ..) (fun _ => seq_dropWords ..)
    (fun k w hk => by rw [hbody k w hk, if_neg (by omega), if_neg hgood])

theorem fdrop_ecc {k : Nat} (h : Ready s (.fdrop y n) y t) (hn : n.toNat + 1 ≤ t.fq.length) (hk : k ≤ n.toNat) (hb : .fq k ∈ t.bad) :
    TrapsPrecisely s (.fdrop y n) t .eccUncorrectable (Config.eccAddr s.moves) := by
  obtain ⟨body, hx, hbody⟩ := fdrop_body h
  have hw : wordsBad t (n.toNat + 1) = true := (wordsBad_iff _).mpr ⟨k, Nat.lt_succ_of_le hk, hb⟩
  exact traps_entered h hx (fun k w hk => by rw [hbody k w hk, if_neg (by omega), if_pos hw]; rfl)

theorem fdrop_few (h : Ready s (.fdrop y n) y t) (hn : t.fq.length < n.toNat + 1) :
    (timedHere s = false → TrapsPrecisely s (.fdrop y n) t .fmtUnderflow (n.toNat + 1))
      ∧ (timedHere s = true → TrapsPrecisely s (.fdrop y n) t .schedMiss (s.mcc - t.m.alignAt)) := by
  obtain ⟨body, hx, hbody⟩ := fdrop_body h
  exact ⟨fun ht => traps_entered h hx (fun k w hk => by rw [hbody k w hk, if_pos hn, ht]; rfl),
    fun ht => traps_entered h hx (fun k w hk => by rw [hbody k w hk, if_pos hn, ht]; rfl)⟩

/-- What becomes of a word in error when `m` words leave the head of the format queue (R344). -/
def wordLeft (m : Nat) : BadWord → Option BadWord
  | .fq i => if i < m then none else some (.fq (i - m))
  | w => some w

/-- No word in error is one of a parameter queue 4: there are the queues 1 to 3 (R271). -/
def NoQueueFour (t : Task) : Prop := ∀ i, .pq 4 i ∉ t.bad

theorem dropWords_eq (hp : NoQueueFour t) (m : Nat) : dropWords t m = { t with fq := t.fq.drop m, bad := t.bad.filterMap (wordLeft m) } := by
  unfold dropWords dequeued
  split
  · next h =>
    have hnil : t.bad = [] := List.isEmpty_iff.mp h
    cases t
    simp_all
  · refine congrArg (fun b => { t with fq := t.fq.drop m, bad := b }) (List.filterMap_congr (fun w hw => ?_))
    cases w with
    | pq e i =>
      have he : e ≠ 4 := fun he => hp i (he ▸ hw)
      exact if_neg he
    | fq i => rfl
    | v | k => rfl

end fdrop

/-! #### A word in error of a queue that no engine has -/

section stray

/-- M of core 0 holds one format word; a word in error is named in a parameter queue 4, which there is not. -/
def strayTask : Task := { placeTask .m with fq := [0], bad := [.pq 4 0] }
def strayState : State :=
  (placeAt { State.reset with cur := { core := 0, q := .m } } .m []).setTask 0 0 (some strayTask)

/-- There an instruction of M issues whose fields, SYN and cycle are in order. -/
theorem stray_ready {i : Instr} (hspace : inSpace .m i = true) (hfields : fieldsOk i = true) (hsyn : modeOk false .m 0 i = true)
    (hcycle : timing strayState strayState.here .m 0 i = .go) : Ready strayState i 0 strayTask where
  turn := by decide +kernel
  fresh := by decide +kernel
  space := hspace
  mode := fun _ => by decide +kernel
  fields := hfields
  syn := hsyn
  cycle := hcycle
  due := by decide +kernel
  tokens := by decide +kernel

theorem fdrop_stray : Ready strayState (.fdrop 0 0) 0 strayTask :=
  stray_ready (by decide) (by decide) (by decide) (by decide +kernel)

end stray

/-- Refutes O39: in `strayState` FDROP takes its one word, and the word in error `.pq 4 0` goes with it, where the statement keeps it: `dequeued` has 4 for
the format queue, and drops a word of that number among those of the parameter queues as well. No event brings such a word about (`NoQueueFour`); without
one the clause holds (`fdrop_effect` with `dropWords_eq`), and so do the others (`aswap_effect`, `azero_effect`, `achk_passes`, `achk_traps`,
`avset_effect`, `fdrop_ecc`, `fdrop_few`, `epsset_effect`). -/
theorem not_matrixOneTick : ¬ Obligations.MatrixOneTick := by
  unfold Obligations.MatrixOneTick
  intro hall
  obtain ⟨-, -, -, -, -, hdrop, -⟩ := hall strayState 0 0 0 ⟨0, 0, 0, 0⟩ 0 strayTask
  have hsays := hdrop fdrop_stray (by decide) (by decide)
  have hdoes := fdrop_effect fdrop_stray (by decide) (by decide)
  exact absurd (congrArg Task.bad (hsays.unique hdoes)) (by decide)

end Sys2Proof

namespace Sys2Proof

open Sys2Proof.Machine

/-! #### A record whose head changes the task, or reads (R39) -/

section head
variable {s : State} {i : Instr} {y : Syn} {t : Task} {prep : State → RecProg → Except Res (State × RecProg)}

/-- What the checks of a head leave: the state `s1` with the executing task `k1`, which is `t2` but for the bookkeeping of issue. -/
structure HeadLeaves (s : State) (w : Wait) (s1 : State) (k1 t2 : Task) : Prop where
  cur : s1.cur = s.cur
  bank : s1.bankOf s.cur.core = s.bankOf s.cur.core
  wait : (k1.seq s.cur.q).wait = some w
  stream : (k1.seq s.cur.q).stream = .running
  prog : (k1.seq s.cur.q).prog = none
  bare : bareTask k1 s.cur.q = bareTask t2 s.cur.q
  seqno : (k1.seq s.cur.q).seqno = (t2.seq s.cur.q).seqno

/-- The record stands at its PC, with what its checks have filled in. -/
theorem startRecord_headed (h : Ready s i y t) {k k1 t2 : Task} {w : Wait} (he : entered s t y (encode i).length 0 = s.setHere k)
    (hk : Entered s i t 0 k w) {s1 : State} (hl : HeadLeaves s w s1 k1 t2) {p : RecProg}
    (hp : prep (s.setHere k) (RecProg.start i s.me.pc (w.id + 1)) = .ok (s1.setHere k1, p)) :
    startRecord i y prep s = finish s.me.pc (.ok (s1.setHere (k1.setSeq s.cur.q { k1.seq s.cur.q with
      pc := s.me.pc, prog := some p, nextId := w.id + 2,
      flights := (k1.seq s.cur.q).flights ++ [{ id := w.id, sig := 0, took := w.took, region := (k1.seq s.cur.q).regionNo }],
      wait := some { w with id := w.id + 1, took := 0 } }))) := by
  rw [startRecord, run_ok h, he]
  simp only [hk.headPc, hk.curId h, hp, State.me_setHere, hl.cur, hl.wait, State.setMe_setHere]

theorem beginsWith_of (h : Ready s i y t) (hx : exec i s = startRecord i y prep s) {s1 : State} {t2 : Task} {P : RecProg → Prop}
    (hp : ∀ k w, entered s t y (encode i).length 0 = s.setHere k → Entered s i t 0 k w → ∃ k1 p,
      prep (s.setHere k) (RecProg.start i s.me.pc (w.id + 1)) = .ok (s1.setHere k1, p)
        ∧ KeepsPlace (RecProg.start i s.me.pc (w.id + 1)) p ∧ P p ∧ HeadLeaves s w s1 k1 t2) :
    BeginsWith s i s1 t2 P := by
  obtain ⟨k, w, he, hk⟩ := entered_spec s i y t 0
  obtain ⟨k1, p, hprep, hkeeps, hP, hl⟩ := hp k w he hk
  obtain ⟨t', fl, n, hfin, htok⟩ := finish_ok s1 s.me.pc
    (k1.setSeq s.cur.q { k1.seq s.cur.q with
      pc := s.me.pc, prog := some p, nextId := w.id + 2,
      flights := (k1.seq s.cur.q).flights ++ [{ id := w.id, sig := 0, took := w.took, region := (k1.seq s.cur.q).regionNo }],
      wait := some { w with id := w.id + 1, took := 0 } }) (by simp [hl.cur, hl.stream]) (by simp [hl.cur])
  rw [hl.cur] at htok
  have hseq := htok.seq s.cur.q
  rw [Task.seq_setSeq, Task.seq_setSeq] at hseq
  refine ⟨t', p, ?_, by rw [hseq], hP, hkeeps.instr, hkeeps.pc, hkeeps.i0, hkeeps.i1, hkeeps.i2, hkeeps.i3, hkeeps.began, ?_, by rw [hseq], ?_⟩
  · rw [hx, startRecord_headed h he hk hl hprep, hfin, State.setHere_eq, hl.cur, hl.bank]
  · have hbare : bareTask (k1.setSeq s.cur.q { k1.seq s.cur.q with prog := none }) s.cur.q = bareTask t2 s.cur.q := by
      rw [← hl.prog, Task.setSeq_seq, hl.bare]
    rw [(htok.setSeq s.cur.q _).bare, hseq, Task.setSeq_setSeq, Task.setSeq_setSeq, ← hbare]
    exact bareTask_of_bareSeq rfl
  · rw [hseq]
    exact hl.seqno

/-- A head that changes the task by `f`, which concerns no sequencer and no token. -/
theorem begins_update (h : Ready s i y t) (hx : exec i s = startRecord i y prep s) {f : Task → Task}
    (hf : ∀ x, bareTask (f x) s.cur.q = f (bareTask x s.cur.q)) (hs : ∀ x, (f x).seq s.cur.q = x.seq s.cur.q)
    (hp : ∀ k w, Entered s i t 0 k w → ∃ p, prep (s.setHere k) (RecProg.start i s.me.pc (w.id + 1)) = .ok (s.setHere (f k), p)
      ∧ KeepsPlace (RecProg.start i s.me.pc (w.id + 1)) p) :
    Begins s i (f t) := by
  refine beginsWith_of h hx (fun k w _ hk => ?_)
  obtain ⟨p, hprep, hkeeps⟩ := hp k w hk
  refine ⟨f k, p, hprep, hkeeps, trivial, rfl, rfl, ?_, ?_, ?_, ?_, ?_⟩
  · rw [hs, hk.wait]
  · rw [hs, hk.stream, h.stream]
  · rw [hs, hk.prog, h.prog]
  · rw [hf, hk.bare, hf]
  · rw [hs, hs, hk.seqno]
    rfl

/-- A record begins in one way. -/
theorem Begins.unique {t2 t3 : Task} (h2 : Begins s i t2) (h3 : Begins s i t3) : bareTask t2 s.cur.q = bareTask t3 s.cur.q := by
  obtain ⟨x, p, hx, -, -, -, -, -, -, -, -, -, hbx, -⟩ := h2
  obtain ⟨z, p', hz, -, -, -, -, -, -, -, -, -, hbz, -⟩ := h3
  have hset := Host.Outcome.next.inj (hx.symm.trans hz)
  have htask := congrArg (fun u : State => u.task? s.cur.core (s.bankOf s.cur.core)) hset
  simp only [State.task?_setTask, Option.some.injEq] at htask
  rw [← hbx, ← hbz, htask]

/-- A record whose checks fail is refused, with the flags of its trap (R178, R326). -/
theorem refused_flagged (h : Ready s i y t) (hx : exec i s = startRecord i y prep s) {c : Cause} {faddr flags : Nat}
    (hp : ∀ k w, Entered s i t 0 k w → prep (s.setHere k) (RecProg.start i s.me.pc (w.id + 1)) = .error (.trap c faddr flags (s.setHere k))) :
    ∃ t' : Task, exec i s
        = takeTrap (s.setTask s.cur.core (s.bankOf s.cur.core) (some t')) s.cur.core (s.bankOf s.cur.core) s.cur.q.num c faddr flags s.me.pc.toNat
      ∧ bareTask t' s.cur.q = bareTask t s.cur.q := by
  obtain ⟨k, w, he, hk⟩ := entered_spec s i y t 0
  have hf : exec i s = trapUndone (s.setHere k) s.me.pc c faddr flags := by
    rw [hx, startRecord, run_ok h, he]
    simp only [hk.headPc, hk.curId h, hp k w hk]
    rfl
  rw [trapUndone_fresh s k s.me.pc c faddr flags w hk.wait hk.op hk.sent] at hf
  refine ⟨_, hf.trans (trapHere_setHere s _ s.me.pc c faddr flags (by simp)), ?_⟩
  rw [bareTask_setPc, (undoWait_bare k s.cur.q _).1, hk.bare]

end head

/-! #### The heads of M's records (R169, R176 to R178, R364) -/

section matrixHead
variable {s x : State} {i : Instr} {y : Syn} {r : Rec} {t : Task} {K : MKind} {p : RecProg} {w : Word} {rest : List Word}

/-- The map that a record of M names is valid, where it needs one. -/
def MapOk (t : Task) (r : Rec) : Prop := mapped r = true → bmValid (mapSeenByM t r.bmsel.toNat) = true

/-- A record of M takes a format word. -/
abbrev takesWord (K : MKind) : Prop := K ≠ .asave ∧ K ≠ .aload

/-- The record with its bases and its map. -/
def mFilled (x : State) (p : RecProg) : RecProg :=
  { p.readBases x.me with map := if mapped p.fields then mapSeenByM x.here p.fields.bmsel.toNat else 0 }

/-- The record with its format word as well. -/
def wordHeld (x : State) (p : RecProg) (w : Word) : RecProg := { mFilled x p with fmt := w }

theorem fields_wordHeld : (wordHeld x p w).fields = p.fields := rfl

/-- The checks that a head makes once it has a word that fits its kind, and what it then holds. -/
def mRest (K : MKind) (x : State) (p : RecProg) : Except Res (State × RecProg) :=
  match K with
  | .gate =>
    match mReads x 8 ((gateEntries p.fields).map (fun e => .addr (wrap 48 (p.baseB.toNat + e.2)))) with
    | .error f => .error (f.res x)
    | .ok pls =>
      match readPlaces ownReader 8 (pls.filterMap id) x with
      | .error e => .error e.res
      | .ok z =>
        .ok (z.1.setHere (clearW (popWord z.1.here) false),
          { p with unitary := ((gateEntries p.fields).zip z.2).foldl (fun m e => Sparse.set 0 e.1.1 (BitVec.ofNat 64 (leNat e.2)) m) [] })
  | .mma =>
    match versionTrap x p with
    | some e => .error e
    | none =>
      match mmaTag x p none with
      | .error e => .error e
      | .ok b => .ok (x.setHere (popWord x.here), { p with lastBlock := b })
  | .adrn =>
    match versionTrap x p with
    | some e => .error e
    | none =>
      match (x.here.accBank (mAcc p.fields) 1).check with
      | some f => .error (.trap .accCheck (f + 2 ^ 16 * mAcc p.fields + 2 ^ 18) 0 x)
      | none => .ok (x.setHere (popWord x.here), p)
  | _ => .ok (x.setHere (popWord x.here), p)

/-- The word suits the record (R80, R176, R208). -/
def wordFits (K : MKind) (t : Task) (w : Word) (r : Rec) : Bool :=
  (if K = .gate then gateWordOk w else wordOk w) && (!(K == .mma || K == .adrn) || mmaShapeOk t w r (K = .mma))

theorem mHead_mapOk (hv : MapOk x.here p.fields) : (mapped p.fields && !bmValid (mapSeenByM x.here p.fields.bmsel.toNat)) = false := by
  cases hm : mapped p.fields with
  | false => rfl
  | true => simp [hv hm]

theorem mHead_image (hv : MapOk x.here p.fields) (hK : K = .asave ∨ K = .aload) : mHead K x p = .ok (x, mFilled x p) := by
  refine (if_neg (by rw [Bool.not_eq_true]; exact mHead_mapOk hv)).trans (if_pos ?_)
  rcases hK with rfl | rfl <;> rfl

/-- What follows the map check of a record that takes a word. -/
theorem mHead_queue (hv : MapOk x.here p.fields) (hK : takesWord K) :
    mHead K x p = match x.here.fq with
      | [] => if timedHere x then .error (.trap .schedMiss (sinceAlign x.me x.mcc) 0 x) else .error (.trap .fmtUnderflow 1 0 x)
      | w :: _ =>
        if x.here.bad.contains (.fq 0) then .error (eccTrap x)
        else if !(if K = .gate then gateWordOk w else wordOk w) then .error (.trap .illegalField p.pc.toNat 0 x)
        else if (K = .mma || K = .adrn) && !mmaShapeOk x.here w p.fields (K = .mma) then .error (.trap .illegalField p.pc.toNat 0 x)
        else mRest K x (wordHeld x p w) := by
  refine (if_neg (by rw [Bool.not_eq_true]; exact mHead_mapOk hv)).trans ((if_neg (by simpa [takesWord] using hK)).trans ?_)
  cases K <;> rfl

theorem mHead_empty (hv : MapOk x.here p.fields) (hK : takesWord K) (hq : x.here.fq = []) (ht : timedHere x = false) :
    mHead K x p = .error (.trap .fmtUnderflow 1 0 x) := by
  rw [mHead_queue hv hK, hq, ht]
  rfl

variable (hv : MapOk x.here p.fields) (hK : takesWord K) (hq : x.here.fq = w :: rest) (hb : .fq 0 ∉ x.here.bad)
include hv hK hq hb

theorem mHead_fits (hw : (if K = .gate then gateWordOk w else wordOk w) = true)
    (hs : K = .mma ∨ K = .adrn → mmaShapeOk x.here w p.fields (K = .mma) = true) : mHead K x p = mRest K x (wordHeld x p w) := by
  have hshape : ((K = .mma || K = .adrn) && !mmaShapeOk x.here w p.fields (K = .mma)) = false := by
    by_cases hk : K = .mma ∨ K = .adrn
    · simp only [hs hk, Bool.not_true, Bool.and_false]
    · rw [← Bool.decide_or, decide_eq_false hk, Bool.false_and]
  have hc : x.here.bad.contains (.fq 0) = false := by simpa using hb
  rw [mHead_queue hv hK, hq]
  simp only [hc, hw, hshape, Bool.not_true, Bool.false_eq_true, if_false]

theorem mHead_misfit (hg : K ≠ .gate) (hw : wordOk w = false) : mHead K x p = .error (.trap .illegalField p.pc.toNat 0 x) := by
  have hc : x.here.bad.contains (.fq 0) = false := by simpa using hb
  rw [mHead_queue hv hK, hq]
  simp only [hc, hg, hw, Bool.false_eq_true, if_false, Bool.not_false, if_true]

end matrixHead
end Sys2Proof

namespace Sys2Proof

open Sys2Proof.Machine

theorem popWord_eq (t : Task) : popWord t = dropWords t 1 := by rw [dropWords, List.drop_one]; rfl

theorem mapSeenByM_blind (n : Nat) : IssueBlind (mapSeenByM · n) := fun _ q => by cases q <;> rfl
theorem ver_blind (a : Nat) : IssueBlind (·.ver a) := fun _ q => ver_bareTask q
theorem mmaShapeOk_blind (w : Word) (r : Rec) (isMma : Bool) : IssueBlind (mmaShapeOk · w r isMma) := fun _ q => by cases q <;> rfl

section version
variable {x : State} {p : RecProg}

/-- The record asks for no version, or for the one that its accumulator has (R178). -/
def VersionOk (t : Task) (r : Rec) : Prop := r.opm.getLsbD 2 = true → t.ver (mAcc r) = r.stamp.extractLsb' 0 16

theorem versionTrap_none (hv : VersionOk x.here p.fields) : versionTrap x p = none := by
  refine if_neg (fun h => ?_)
  rw [Bool.and_eq_true, bne_iff_ne] at h
  exact h.2 (hv h.1)

theorem versionTrap_some {r : Rec} (hf : p.fields = r) (hb : r.opm.getLsbD 2 = true) (hne : x.here.ver (mAcc r) ≠ r.stamp.extractLsb' 0 16) :
    versionTrap x p = some (.trap .tagMismatch (x.here.ver (mAcc r)).toNat 4 x) := by
  subst hf
  exact if_pos (by rw [Bool.and_eq_true, bne_iff_ne]; exact ⟨hb, hne⟩)

/-- Without TCHK no tag is compared (R177). -/
theorem mmaTag_off {last : Option Nat} (ht : p.fields.aux2.getLsbD 9 = false) : mmaTag x p last = .ok none :=
  if_neg (by rw [ht]; exact Bool.false_ne_true)

end version

/-! #### The heads, instruction by instruction -/

section heads
variable {s : State} {i : Instr} {y : Syn} {r : Rec} {t : Task} {K : MKind} {w : Word} {rest : List Word}

theorem MapOk.entered {k : Task} {z : Wait} (hk : Entered s i t 0 k z) (hr : i.record? = some r) (hv : MapOk t r) (id : Nat) :
    MapOk (s.setHere k).here (RecProg.start i s.me.pc id).fields := by
  rw [State.here_setHere, fields_start hr]
  intro hm
  rw [hk.blind (mapSeenByM_blind _)]
  exact hv hm

/-- ASAVE and ALOAD take no word. -/
theorem image_begins (h : Ready s i y t) (hx : exec i s = startRecord i y (mHead K) s) (hr : i.record? = some r) (hv : MapOk t r)
    (hK : K = .asave ∨ K = .aload) : Begins s i t :=
  begins_update (f := id) h hx (fun _ => rfl) (fun _ => rfl) (fun _ _ hk =>
    ⟨_, mHead_image (hv.entered hk hr _) hK, rfl, rfl, rfl, rfl, rfl, rfl, rfl⟩)

/-- With an empty queue a record that takes a word traps (R169). -/
theorem word_underflow (h : Ready s i y t) (hx : exec i s = startRecord i y (mHead K) s) (hr : i.record? = some r) (hv : MapOk t r)
    (hK : takesWord K) (ht : timedHere s = false) (hq : t.fq = []) : TrapsPrecisely s i t .fmtUnderflow 1 :=
  refused_at_head h hx (fun _ _ hk =>
    mHead_empty (hv.entered hk hr _) hK (by rw [State.here_setHere, hk.blind fq_blind, hq]) (by rw [hk.timed h, ht]))

/-- The oldest word of the queue is whole. -/
structure HeadWord (t : Task) (w : Word) (rest : List Word) : Prop where
  queue : t.fq = w :: rest
  whole : .fq 0 ∉ t.bad

theorem HeadWord.entered (hw : HeadWord t w rest) {k : Task} {z : Wait} (hk : Entered s i t 0 k z) :
    (s.setHere k).here.fq = w :: rest ∧ .fq 0 ∉ (s.setHere k).here.bad := by
  rw [State.here_setHere, hk.blind fq_blind, hk.blind bad_blind]
  exact ⟨hw.queue, hw.whole⟩

variable (h : Ready s i y t) (hx : exec i s = startRecord i y (mHead K) s) (hr : i.record? = some r) (hv : MapOk t r) (hw : HeadWord t w rest)
include h hx hr hv hw

theorem word_illegal (hK : takesWord K) (hg : K ≠ .gate) (hok : wordOk w = false) : TrapsPrecisely s i t .illegalField s.me.pc.toNat :=
  refused_at_head h hx (fun _ _ hk => mHead_misfit (hv.entered hk hr _) hK (hw.entered hk).1 (hw.entered hk).2 hg hok)

/-- A record of one of the tile commands whose shape suits its word takes it, where nothing else is refused. -/
theorem word_begins (hK : takesWord K) (hg : K ≠ .gate) (hok : wordOk w = true) (hs : K = .mma ∨ K = .adrn → mmaShapeOk t w r (K = .mma) = true)
    (hrest : ∀ k z, Entered s i t 0 k z → ∀ p, p.fields = r → ∃ b, mRest K (s.setHere k) p = .ok (s.setHere (popWord k), { p with lastBlock := b })) :
    Begins s i (popWord t) := by
  refine begins_update (f := popWord) h hx (fun _ => by rw [popWord_eq, popWord_eq, bareTask_dropWords])
    (fun _ => by rw [popWord_eq, seq_dropWords]) (fun k z hk => ?_)
  have hshape : K = .mma ∨ K = .adrn → mmaShapeOk k w (RecProg.start i s.me.pc (z.id + 1)).fields (K = .mma) = true := fun hk' => by
    rw [fields_start hr, hk.blind (mmaShapeOk_blind w r _), hs hk']
  have hfit := mHead_fits (hv.entered hk hr (z.id + 1)) hK (hw.entered hk).1 (hw.entered hk).2 (by rw [if_neg hg, hok])
    (by rw [State.here_setHere]; exact hshape)
  obtain ⟨b, hb⟩ := hrest k z hk (wordHeld (s.setHere k) (RecProg.start i s.me.pc (z.id + 1)) w) (fields_start hr s.me.pc (z.id + 1))
  exact ⟨_, hfit.trans hb, rfl, rfl, rfl, rfl, rfl, rfl, rfl⟩

end heads

section kinds
variable {s : State} {y : Syn} {r : Rec} {t : Task} {w : Word} {rest : List Word}

/-- The columns of a record lie in a bank, and for MMA its width class and its depth are those of W (R176). -/
def ColumnsOk (r : Rec) : Prop := mCol0 r + (mNcol r - 1) * mCstep r ≤ 127
def TileOk (t : Task) (w : Word) (r : Rec) : Prop := is8 (fwB w) = t.w8 ∧ mK r ≤ (if t.w8 then 256 else 128)

theorem shape_mma (hc : ColumnsOk r) (ht : TileOk t w r) : mmaShapeOk t w r true = true := by
  obtain ⟨h8, hk⟩ := ht
  simp only [mmaShapeOk, decide_eq_true (show _ ≤ 127 from hc), h8, decide_eq_true hk, beq_self_eq_true, Bool.and_self, Bool.or_true]

theorem shape_adrn (hc : ColumnsOk r) : mmaShapeOk t w r false = true := by
  simp only [mmaShapeOk, decide_eq_true (show _ ≤ 127 from hc), Bool.not_false, Bool.true_or, Bool.and_self]

theorem mRest_wld (x : State) (p : RecProg) : mRest .wld x p = .ok (x.setHere (popWord x.here), p) := rfl

theorem wld_begins (h : Ready s (.wld y r) y t) (hv : MapOk t r) (hw : HeadWord t w rest) (hok : wordOk w = true) :
    Begins s (.wld y r) (popWord t) :=
  word_begins (K := .wld) h (exec_wld y r s) rfl hv hw (by decide) (by decide) hok (by simp)
    (fun k _ _ p _ => ⟨p.lastBlock, by rw [mRest_wld, State.here_setHere, State.setHere_setHere]⟩)

theorem mma_begins (h : Ready s (.mma y r) y t) (hv : MapOk t r) (hw : HeadWord t w rest) (hok : wordOk w = true) (hc : ColumnsOk r)
    (htile : TileOk t w r) (hver : VersionOk t r) (htag : r.aux2.getLsbD 9 = false) : Begins s (.mma y r) (popWord t) :=
  word_begins (K := .mma) h (exec_mma y r s) rfl hv hw (by decide) (by decide) hok (fun _ => shape_mma hc htile)
    (fun k z hk p hp => ⟨none, by
      have hver' : VersionOk (s.setHere k).here p.fields := by
        rw [State.here_setHere, hp, VersionOk, hk.blind (ver_blind _)]
        exact hver
      simp only [mRest, versionTrap_none hver', mmaTag_off (hp ▸ htag), State.here_setHere, State.setHere_setHere]⟩)

theorem adrn_begins (h : Ready s (.adrn y r) y t) (hv : MapOk t r) (hw : HeadWord t w rest) (hok : wordOk w = true) (hc : ColumnsOk r)
    (hver : VersionOk t r) (hsum : (t.accBank (mAcc r) 1).check = none) : Begins s (.adrn y r) (popWord t) :=
  word_begins (K := .adrn) h (exec_adrn y r s) rfl hv hw (by decide) (by decide) hok (fun _ => shape_adrn hc)
    (fun k z hk p hp => ⟨p.lastBlock, by
      have hver' : VersionOk (s.setHere k).here p.fields := by
        rw [State.here_setHere, hp, VersionOk, hk.blind (ver_blind _)]
        exact hver
      have hsum' : (k.accBank (mAcc p.fields) 1).check = none := by rw [hk.blind (accBank_blind _ 1), hp, hsum]
      simp only [mRest, versionTrap_none hver', hsum', State.here_setHere, State.setHere_setHere]⟩)

theorem mRest_mma_version {x : State} {p : RecProg} {e : Res} (he : versionTrap x p = some e) : mRest .mma x p = .error e := by
  simp only [mRest, he]

/-- MMA with another version than the record asks for traps, and its flags tell of the version (R178, R326). -/
theorem mma_version (h : Ready s (.mma y r) y t) (hv : MapOk t r) (hw : HeadWord t w rest) (hok : wordOk w = true) (hc : ColumnsOk r)
    (htile : TileOk t w r) (hb : r.opm.getLsbD 2 = true) (hne : t.ver (mAcc r) ≠ r.stamp.extractLsb' 0 16) :
    ∃ t' : Task, exec (.mma y r) s = takeTrap (s.setTask s.cur.core (s.bankOf s.cur.core) (some t')) s.cur.core (s.bankOf s.cur.core) 3
        .tagMismatch (t.ver (mAcc r)).toNat 4 s.me.pc.toNat
      ∧ bareTask t' .m = bareTask t .m := by
  have hq : s.cur.q = .m := beq_iff_eq.mp h.space
  have htrap := refused_flagged (c := .tagMismatch) (faddr := (t.ver (mAcc r)).toNat) (flags := 4) h (exec_mma y r s) (fun k z hk => ?_)
  · rw [hq] at htrap
    exact htrap
  · have hf := fields_start (i := .mma y r) (r := r) rfl s.me.pc (z.id + 1)
    have hshape : mmaShapeOk k w r true = true := by rw [hk.blind (mmaShapeOk_blind w r true), shape_mma hc htile]
    have hfit := mHead_fits (K := .mma) (hv.entered hk rfl (z.id + 1)) (by decide) (hw.entered hk).1 (hw.entered hk).2 hok
      (fun _ => by rw [State.here_setHere, hf]; exact hshape)
    have hver : versionTrap (s.setHere k) (wordHeld (s.setHere k) (RecProg.start (.mma y r) s.me.pc (z.id + 1)) w)
        = some (.trap .tagMismatch (t.ver (mAcc r)).toNat 4 (s.setHere k)) := by
      have hk' : (s.setHere k).here.ver (mAcc r) = t.ver (mAcc r) := by rw [State.here_setHere, hk.blind (ver_blind _)]
      rw [versionTrap_some (fields_wordHeld.trans hf) hb (by rw [hk']; exact hne), hk']
    exact hfit.trans (mRest_mma_version hver)

end kinds

end Sys2Proof

namespace Sys2Proof

open Sys2Proof.Machine

/-! #### The body of a single issue of M -/

section body
variable {s : State} {core : Nat} {q : SeqId} {p h : RecProg} {t : Task} {y : Syn} {r : Rec}

/-- What a single issue of each kind does, once its head is not repeated and no store is left of it. -/
def mBody : MKind → RecProg → State → Res
  | .wld => wldSingle
  | .mma => mmaSingle
  | .gate => gateSingle
  | .adrn => adrnSingle
  | .asave => asaveSingle
  | .aload => aloadSingle

theorem mSingle_eq {K : MKind} {x : State} (hrec : h.recheck = false) (houts : h.outs = []) : mSingle K h x = mBody K h (setProg x h) := by
  have hres : mResumed K (setProg x h) h = .ok h := if_pos (by rw [hrec]; rfl)
  unfold mSingle
  simp only [hres, houts]
  cases K <;> rfl

/-- The body of a single issue of M runs on the record as it is held. -/
theorem mSingle_res (hr : ReadySingle s core .m p t) {K : MKind} (hs : singleOf p.instr = mSingle K) (ho : p.outs = []) :
    singleRes s core .m p t = mBody K (heldBy p t .m) (runningState s core .m t (heldBy p t .m)) := by
  rw [singleRes, hs, mSingle_eq (heldBy_recheck.trans hr.kept) (heldBy_outs.trans ho), singleState_running]

/-- An operand of the running record is formed and checked as one of its task. -/
theorem operand_single (m : MapRes) (rs : Ranges) (k : AccKind) (n : Nat) :
    tOperand (runningState s core q t h) m rs k n = tOperand (singleState s core q t) m rs k n := by
  cases m with
  | skip | bad a => rfl
  | addr a =>
    unfold tOperand
    simp only [here_running, here_singleState, show myCore (runningState s core q t h) = core from rfl,
      show myCore (singleState s core q t) = core from rfl, checkAccess_single]

/-- A single issue whose body changes the task apart from the sequencer. -/
theorem singleEffect_running (hr : ReadySingle s core q p t) {t2 : Task}
    (hx : singleRes s core q p t = .ok ((turnOf s core q).setHere (runningTask t2 q (heldBy p t q)))) : SingleEffect s core q (heldBy p t q) t2 := by
  refine singleEffect_of hr hx ?_ ?_ ?_ ?_
  · simp [runningTask]
  · simp [runningTask]
  · simp [runningTask]
  · simp only [runningTask, Task.seq_setSeq, Task.setSeq_setSeq]
    exact bareTask_of_bareSeq rfl

theorem mReads_congr {x x' : State} {n : Nat} (hx : ∀ m, tOperand x m Ranges.noTx .load n = tOperand x' m Ranges.noTx .load n) (l : List MapRes) :
    mReads x n l = mReads x' n l := by
  induction l with
  | nil => rfl
  | cons m l ih => simp only [mReads, hx, ih]

theorem mReads_running (n : Nat) (l : List MapRes) : mReads (runningState s core q t h) n l = mReads (singleState s core q t) n l :=
  mReads_congr (fun m => operand_single m _ _ n) l

theorem mPlaces_running (n : Nat) (l : List (MapRes × List Byte)) :
    mPlaces (runningState s core q t h) n l = mPlaces (singleState s core q t) n l := by
  induction l with
  | nil => rfl
  | cons m l ih =>
    obtain ⟨m, bs⟩ := m
    simp only [mPlaces, operand_single, ih]

end body

/-! #### ADRN, ASAVE and ALOAD (R181, R182) -/

section drains
variable {s : State} {core : Nat} {p : RecProg} {t : Task} {y : Syn} {r : Rec}

/-- The bytes of the element in column `c` of the row at which `h` stands, drained from the visible bank (R75, R181). -/
def drained (t : Task) (h : RecProg) (r : Rec) (c : Nat) : List Byte :=
  let i := (mRow r.a h).toNat
  leBytes (codeBytes (fwO h.fmt)) (drain h.fmt (fwO h.fmt) (fwOP h.fmt) (fwOInf h.fmt)
    (drainMode h (t.m.reg 31 + BitVec.ofNat 64 (i * (r.aux2.extractLsb' 0 16).toNat + c))) ((t.accBank (mAcc r) 1).elem i c))

/-- Each column with the element address that it drains to. -/
def drainList (t : Task) (h : RecProg) (r : Rec) : List (MapRes × List Byte) :=
  (mCols r).zipIdx.map (fun x =>
    (mAddr h r.d h.baseD (codeBytes (fwO h.fmt)) (x.2 * (r.aux0.extractLsb' 0 16).toInt) true, drained t h r x.1))

/-- ADRN of a row in range whose elements may drain puts its columns at their places. -/
theorem adrnSingle_eq {h : RecProg} {x : State} (h0 : 0 ≤ mRow h.fields.a h) (h1 : mRow h.fields.a h < 128)
    (hov : fwOvfTrap h.fmt = true → ∀ c ∈ mCols h.fields, ((x.here.accBank (mAcc h.fields) 1).elem (mRow h.fields.a h).toNat c).s ≠ stOvf)
    {us : List (Place × List Byte)} (hp : mPlaces x (codeBytes (fwO h.fmt)) (drainList x.here h h.fields) = .ok us) :
    adrnSingle h x = putAll x (us.map (fun u => (u.1, u.2.map some))) := by
  have hrow : ¬ (!(decide (0 ≤ mRow h.fields.a h) && decide (mRow h.fields.a h < 128))) = true := by simp [h0, h1]
  have hno : ¬ (fwOvfTrap h.fmt && (mCols h.fields).any (fun c =>
      ((x.here.accBank (mAcc h.fields) 1).elem (mRow h.fields.a h).toNat c).s = stOvf)) = true := by
    cases ht : fwOvfTrap h.fmt with
    | false => exact Bool.false_ne_true
    | true => simpa using hov ht
  unfold drainList drained at hp
  unfold adrnSingle
  simp only [hrow, hno, hp, Bool.false_eq_true, if_false]

theorem drainList_running (h : RecProg) : drainList (runningTask t .m h) h r = drainList t h r := rfl

theorem adrn_single (hr : ReadySingle s core .m p t) (ho : p.outs = []) (hi : p.instr = .adrn y r) (h0 : 0 ≤ mRow r.a (heldBy p t .m))
    (h1 : mRow r.a (heldBy p t .m) < 128)
    (hov : fwOvfTrap (heldBy p t .m).fmt = true → ∀ c ∈ mCols r, ((t.accBank (mAcc r) 1).elem (mRow r.a (heldBy p t .m)).toNat c).s ≠ stOvf)
    {us : List (Place × List Byte)}
    (hp : mPlaces (singleState s core .m t) (codeBytes (fwO (heldBy p t .m).fmt)) (drainList t (heldBy p t .m) r) = .ok us) :
    SingleSends s core .m (heldBy p t .m) t (fun _ => 0) (us.map (fun u => (u.1, u.2.map some))) := by
  have hx := mSingle_res hr (K := .adrn) (by rw [hi]; rfl) ho
  obtain rfl : (heldBy p t .m).fields = r := heldBy_fields hi rfl
  refine singleSends_put hr (hx.trans (adrnSingle_eq h0 h1 ?_ ?_))
  · rw [here_running]
    exact hov
  · rw [here_running, drainList_running, mPlaces_running, hp]

theorem asave_single (hr : ReadySingle s core .m p t) (ho : p.outs = []) (hi : p.instr = .asave y r) {a : Nat} {d : Place}
    (ha : mAddr (heldBy p t .m) r.d (heldBy p t .m).baseD 64 0 true = .addr a)
    (hd : checkAccess (singleState s core .m t) core t Ranges.all .store a 64 64 = .ok d) :
    SingleSends s core .m (heldBy p t .m) t (fun _ => 0) (blockUnits d ((List.range 64).map (fun k =>
      some (accByte (t.accBank (mAcc r) (imageBank r)) (t.ver (mAcc r)) (64 * (heldBy p t .m).i0 + k))))) := by
  have hx := mSingle_res hr (K := .asave) (by rw [hi]; rfl) ho
  have hf : (heldBy p t .m).fields = r := heldBy_fields hi rfl
  refine singleSends_put hr (hx.trans ?_)
  show asaveSingle _ _ = _
  unfold asaveSingle
  simp only [hf, operand_at ha hd, here_running]
  rfl

/-- The bank and the version that the granules of 64 bytes of an image leave, the 64 bytes number `n` (R182). -/
def imageTaken (t : Task) (n : Nat) (got : List Nat) (r : Rec) : AccBank × BitVec 16 :=
  (got.flatMap (leBytes 16)).zipIdx.foldl (fun x b => setAccByte x.1 x.2 (64 * n + b.2) b.1) (t.accBank (mAcc r) (imageBank r), t.ver (mAcc r))

/-- The task with an image's bytes in their bank. -/
def imageLoaded (t : Task) (n : Nat) (got : List Nat) (r : Rec) : Task :=
  (t.setAccBank (mAcc r) (imageBank r) (imageTaken t n got r).1).setVer (mAcc r) (imageTaken t n got r).2

theorem imageTaken_running (h : RecProg) (n : Nat) (got : List Nat) : imageTaken (runningTask t .m h) n got r = imageTaken t n got r := rfl

theorem imageLoaded_running (h : RecProg) (n : Nat) (got : List Nat) :
    imageLoaded (runningTask t .m h) n got r = runningTask (imageLoaded t n got r) .m h := by
  rw [imageLoaded, imageTaken_running]
  rfl

/-- The four granules of 64 bytes. -/
theorem granules_get (d : Place) {n : Nat} (hn : n < 4) : (upTo 4 (fun g => some (d.add (16 * g))))[n]? = some (some (d.add (16 * n))) := by
  simp [upTo, hn]

/-- Of an image whose 64 bytes pass the check each granule is read, and then its bytes are taken in. -/
theorem aloadSingle_eq {h : RecProg} {x : State} {d : Place}
    (hd : tOperand x (mAddr h h.fields.a h.baseA 64 0 false) Ranges.noTx .load 64 = .at d) :
    aloadSingle h x = gather h x 16 (upTo 4 (fun g => some (d.add (16 * g)))) (fun x got =>
      .ok (x.setHere (imageLoaded x.here h.i0 got h.fields))) := by
  unfold aloadSingle
  simp only [hd]
  rfl

theorem aload_single (hr : ReadySingle s core .m p t) (ho : p.outs = []) (hi : p.instr = .aload y r) {a : Nat} {d : Place}
    (ha : mAddr (heldBy p t .m) r.a (heldBy p t .m).baseA 64 0 false = .addr a)
    (hd : checkAccess (singleState s core .m t) core t Ranges.noTx .load a 64 64 = .ok d) :
    (p.got.length < 4 → ReadsNext s core .m (heldBy p t .m) t (d.add (16 * p.got.length)) 16)
      ∧ (p.got.length = 4 → SingleEffect s core .m (heldBy p t .m) (imageLoaded t (heldBy p t .m).i0 (heldBy p t .m).got r)) := by
  obtain rfl : (heldBy p t .m).fields = r := heldBy_fields hi rfl
  have hx : singleRes s core .m p t = _ :=
    (mSingle_res hr (K := .aload) (by rw [hi]; rfl) ho).trans (aloadSingle_eq (operand_at ha hd))
  refine ⟨fun hg => readsNext_of hr (fun hp => hx.trans (gather_next hp ?_)), fun hg => ?_⟩
  · rw [heldBy_got, granules_get d hg]
  · rw [gather_done (by simp [upTo, heldBy_got, hg]), here_running, runningState, State.setHere_setHere] at hx
    rw [imageLoaded_running] at hx
    exact singleEffect_running hr hx

end drains

/-- Settles O42: ADRN drains each column of its row to the place of its element; ASAVE stores, and ALOAD takes in, 64 bytes of an image. -/
theorem matrixDrains : Obligations.MatrixDrains := by
  unfold Obligations.MatrixDrains
  intro s core p t y r hr _ ho h w st Stores i size visible image out
  exact ⟨fun us hi h0 h1 hov hp => adrn_single hr ho hi h0 h1 hov hp, fun a d hi ha hd => asave_single hr ho hi ha hd,
    fun a d hi ha hd => aload_single hr ho hi ha hd⟩

end Sys2Proof

namespace Sys2Proof

open Sys2Proof.Machine

/-! #### What the reads of a body leave of its task (R293) -/

section reads
variable {s x x' : State} {k : Task}

/-- The task of a sequencer that has read: stores of its own are performed, and granules are kept. -/
def afterReads (k : Task) (q : SeqId) (l : List PStore) (e : List Early) : Task := k.setSeq q { k.seq q with stores := l, early := e }

/-- `x` is what the executing sequencer's reads leave, where its task was `k`. -/
structure OwnReads (s : State) (k : Task) (x : State) : Prop where
  cur : x.cur = s.cur
  bank : x.bankOf s.cur.core = s.bankOf s.cur.core
  task : ∃ l e, x.task? s.cur.core (s.bankOf s.cur.core) = some (afterReads k s.cur.q l e)

theorem OwnReads.refl : OwnReads s k (s.setHere k) :=
  ⟨rfl, State.bankOf_setHere .., (k.seq s.cur.q).stores, (k.seq s.cur.q).early, (State.task?_setHere s k).trans (by rw [afterReads, Task.setSeq_seq])⟩

theorem OwnReads.here (h : OwnReads s k x) : ∃ l e, x.here = afterReads k s.cur.q l e := by
  obtain ⟨l, e, ht⟩ := h.task
  refine ⟨l, e, ?_⟩
  rw [State.here, h.cur, h.bank, ht]
  rfl

theorem afterReads_stores (q : SeqId) (l l' : List PStore) (e : List Early) :
    (afterReads k q l e).setSeq q { (afterReads k q l e).seq q with stores := l' } = afterReads k q l' e := by
  simp only [afterReads, Task.seq_setSeq, Task.setSeq_setSeq]

theorem afterReads_early (q : SeqId) (l : List PStore) (e e' : List Early) :
    (afterReads k q l e).setSeq q { (afterReads k q l e).seq q with early := e' } = afterReads k q l e' := by
  simp only [afterReads, Task.seq_setSeq, Task.setSeq_setSeq]

theorem OwnReads.readNow (h : OwnReads s k x) (pl : Place) (n : Nat) : OwnReads s k (readNow x pl n).1 := by
  obtain ⟨l, e, ht⟩ := h.task
  have hserved := served_sameTasks x x.here.part pl
  have htask := (hserved.task s.cur.core (s.bankOf s.cur.core)).trans ht
  obtain ⟨l', hdrain, -⟩ := drainAt_task (q := s.cur.q) htask x.me.nextId pl n
  have hpc := drainAt_samePc (core := s.cur.core) (q := s.cur.q) (served x x.here.part pl) x.me.nextId pl n
  have hread := (readNow_eq x pl n).1
  rw [h.cur, h.bank] at hread
  rw [hserved.bank, h.bank, ← hread] at hpc
  rw [afterReads_stores, ← hread] at hdrain
  exact ⟨(hpc.cur.trans hserved.cur).trans h.cur, ((hpc.bank _).trans (hserved.bank _)).trans h.bank, _, _, hdrain⟩

theorem OwnReads.setEarly (h : OwnReads s k x) (e : List Early) : OwnReads s k (x.setMe { x.me with early := e }) := by
  obtain ⟨l, e0, hhere⟩ := h.here
  refine ⟨h.cur, (State.bankOf_setMe ..).trans h.bank, l, e, ?_⟩
  rw [State.setMe_eq, State.me, State.setHere_eq, h.cur, h.bank, State.task?_setTask, hhere, afterReads_early]

/-- A read of one granule changes no more of the task than that. -/
theorem OwnReads.read (h : OwnReads s k x) (pl : Place) (hr : ownReader.read x pl = some x') : OwnReads s k x' := by
  simp only [ownReader] at hr
  split at hr
  · exact Option.some.inj hr ▸ (h.readNow _ _).setEarly _
  · cases hr

theorem OwnReads.readPlaces {n : Nat} {l : List Place} {z : State × List (List Byte)} (h : OwnReads s k x) (hr : readPlaces ownReader n l x = .ok z) :
    OwnReads s k z.1 := by
  have hkeep := readPlaces_keeps (P := OwnReads s k) (fun _ p _ hs hr => hs.read p hr) n l x h
  rw [hr] at hkeep
  exact hkeep

end reads

/-! #### The head of GATE (R208) -/

section gateHead
variable {s : State} {y : Syn} {r : Rec} {t : Task} {w : Word} {rest : List Word}

/-- A table of `a` rows of `b` entries, in its order. -/
theorem range_flatMap_map {α : Type} (f : Nat → α) (a b : Nat) :
    (List.range a).flatMap (fun i => (List.range b).map (fun j => f (i * b + j))) = (List.range (a * b)).map f := by
  induction a with
  | zero => simp
  | succ a ih => rw [List.range_succ, List.flatMap_append, ih, Nat.succ_mul, List.range_add, List.map_append]; simp

theorem gateEntries_addrs (base : Nat) : (gateEntries r).map (fun e => MapRes.addr (wrap 48 (base + e.2)))
    = (List.range (gateSize r * gateSize r)).map (fun k => MapRes.addr ((base + 8 * k) % 2 ^ 48)) := by
  rw [← range_flatMap_map, gateEntries, List.map_flatMap]
  simp only [upTo, List.map_id, List.map_map]
  refine List.flatMap_congr (fun i _ => List.map_congr_left (fun j _ => congrArg MapRes.addr ?_))
  simp only [wrap]
  omega

/-- A map that is written key by key, no key twice, holds the value of each. -/
theorem get_foldl_set {α : Type} [DecidableEq α] (d : α) {l : List (Nat × α)} (hl : (l.map Prod.fst).Nodup) {e : Nat × α} (he : e ∈ l) (m : List (Nat × α)) :
    Sparse.get d (l.foldl (fun m e => Sparse.set d e.1 e.2 m) m) e.1 = e.2 := by
  have hother : ∀ (l : List (Nat × α)) (m : List (Nat × α)), e.1 ∉ l.map Prod.fst →
      Sparse.get d (l.foldl (fun m e => Sparse.set d e.1 e.2 m) m) e.1 = Sparse.get d m e.1 := by
    intro l
    induction l with
    | nil => exact fun _ _ => rfl
    | cons a l ih =>
      intro m hn
      rw [List.map_cons, List.mem_cons, not_or] at hn
      rw [List.foldl_cons, ih _ hn.2, Sparse.get_set_other _ _ _ _ _ hn.1]
  induction l generalizing m with
  | nil => cases he
  | cons a l ih =>
    rw [List.map_cons, List.nodup_cons] at hl
    rcases List.mem_cons.mp he with rfl | he
    · rw [List.foldl_cons, hother l _ hl.1, Sparse.get_set_same]
    · exact ih hl.2 he _

/-- The entries of the unitary have keys of their own. -/
theorem gateEntries_keys : ((gateEntries r).map Prod.fst).Nodup := by
  have hg : gateSize r ∈ [1, 2, 4, 8] := by
    unfold gateSize
    have := (r.opm.extractLsb' 0 2).isLt
    interval_cases (r.opm.extractLsb' 0 2).toNat <;> decide
  unfold gateEntries
  generalize gateSize r = g at hg
  fin_cases hg <;> decide

/-- The unitary that a head holds once it has read its entries (R208). -/
def unitaryOf (r : Rec) (bss : List (List Byte)) : Sparse (BitVec 64) :=
  ((gateEntries r).zip bss).foldl (fun m e => Sparse.set 0 e.1.1 (BitVec.ofNat 64 (leNat e.2)) m) []

theorem gateEntries_get {i j : Nat} (hi : i < gateSize r) (hj : j < gateSize r) :
    (gateEntries r)[i * gateSize r + j]? = some (i * 8 + j, (i * gateSize r + j) * 8) := by
  have hdiv {i j : Nat} (hj : j < gateSize r) : (i * gateSize r + j) / gateSize r = i := by
    rw [Nat.mul_comm, Nat.mul_add_div (Nat.zero_lt_of_lt hj), Nat.div_eq_of_lt hj, Nat.add_zero]
  have hlist : gateEntries r = (List.range (gateSize r * gateSize r)).map (fun k => (k / gateSize r * 8 + k % gateSize r, k * 8)) := by
    rw [← range_flatMap_map, gateEntries]
    simp only [upTo, List.map_id]
    refine List.flatMap_congr (fun i _ => List.map_congr_left (fun j hj => ?_))
    have hj := List.mem_range.mp hj
    rw [hdiv hj, Nat.mul_add_mod_of_lt hj]
  have hlt : i * gateSize r + j < gateSize r * gateSize r := by nlinarith
  rw [hlist, List.getElem?_map, List.getElem?_range hlt, Option.map_some, hdiv hj, Nat.mul_add_mod_of_lt hj]

theorem zip_fst_sublist {α β : Type} (l : List α) (m : List β) : ((l.zip m).map Prod.fst).Sublist l := by
  induction l generalizing m with
  | nil => simp
  | cons a l ih =>
    cases m with
    | nil => simp
    | cons b m => exact (ih m).cons_cons a

theorem unitaryOf_get {bss : List (List Byte)} {i j : Nat} (hi : i < gateSize r) (hj : j < gateSize r) {bs : List Byte}
    (hbs : bss[i * gateSize r + j]? = some bs) : Sparse.get 0 (unitaryOf r bss) (i * 8 + j) = BitVec.ofNat 64 (leNat bs) := by
  have hfold : unitaryOf r bss = (((gateEntries r).zip bss).map (fun e => (e.1.1, BitVec.ofNat 64 (leNat e.2)))).foldl
      (fun m e => Sparse.set 0 e.1 e.2 m) [] := by rw [List.foldl_map]; rfl
  have hkeys : ((((gateEntries r).zip bss).map (fun e => (e.1.1, BitVec.ofNat 64 (leNat e.2)))).map Prod.fst).Nodup := by
    rw [List.map_map]
    exact (List.map_map (f := Prod.fst) (g := Prod.fst) ▸ gateEntries_keys.sublist ((zip_fst_sublist (gateEntries r) bss).map Prod.fst) : _)
  have hmem : (i * 8 + j, BitVec.ofNat 64 (leNat bs)) ∈ ((gateEntries r).zip bss).map (fun e => (e.1.1, BitVec.ofNat 64 (leNat e.2))) :=
    List.mem_map.mpr ⟨((i * 8 + j, (i * gateSize r + j) * 8), bs), List.mem_of_getElem? (List.getElem?_zip_eq_some.mpr ⟨gateEntries_get hi hj, hbs⟩), rfl⟩
  rw [hfold]
  exact get_foldl_set 0 hkeys hmem []

theorem mRest_gate {x : State} {p : RecProg} {pls : List (Option Place)} {z : State × List (List Byte)}
    (hreads : mReads x 8 ((gateEntries p.fields).map (fun e => .addr (wrap 48 (p.baseB.toNat + e.2)))) = .ok pls)
    (hz : readPlaces ownReader 8 (pls.filterMap id) x = .ok z) :
    mRest .gate x p = .ok (z.1.setHere (clearW (popWord z.1.here) false), { p with unitary := unitaryOf p.fields z.2 }) := by
  simp only [mRest, hreads, hz, unitaryOf]

/-- The places of the unitary's entries, in the order of their addresses (R208). -/
def unitaryAddrs (t : Task) (r : Rec) : List MapRes :=
  (List.range (gateSize r * gateSize r)).map (fun k => MapRes.addr (((recBase t.m r.b).toNat + 8 * k) % 2 ^ 48))

theorem encode_gate_length : (encode (.gate y r)).length = 16 := rfl

theorem baseB_entered {i : Instr} (hr : i.record? = some r) (hq : s.cur.q = .m) {k : Task} {z : Wait} (hk : Entered s i t 0 k z) (id : Nat) :
    (wordHeld (s.setHere k) (RecProg.start i s.me.pc id) w).baseB = recBase t.m r.b := by
  have hbase : (wordHeld (s.setHere k) (RecProg.start i s.me.pc id) w).baseB = recBase (s.setHere k).me r.b := by
    show recBase _ (RecProg.start i s.me.pc id).fields.b = _
    rw [fields_start hr]
  have hreg := hk.reg (r.b.base.extractLsb' 0 5).toNat
  rw [hq] at hreg
  rw [hbase, State.me_setHere, hq]
  unfold recBase
  rw [show (k.seq .m).reg _ = t.m.reg _ from hreg]

theorem tOperand_entered {i : Instr} {k : Task} {z : Wait} {ticks : Nat} (hk : Entered s i t ticks k z) (m : MapRes) (rs : Ranges) (a : AccKind) (n : Nat) :
    tOperand (s.setHere k) m rs a n = tOperand (s.setHere t) m rs a n := by
  cases m with
  | skip | bad c => rfl
  | addr c =>
    have hck : checkAccess (s.setHere k) s.cur.core k rs a c n n = checkAccess (s.setHere t) s.cur.core t rs a c n n :=
      (hk.checkAccess rs a c n n).trans (checkAccess_congr (.inr ⟨_, _, _, State.setHere_eq s t⟩) rfl rfl _ _ _ _ _).symm
    unfold tOperand
    simp only [State.here_setHere, myCore, State.setHere_cur, hck]

/-- GATE takes its word, reads its unitary, holds it, and clears W (R208). -/
theorem gate_begins (h : Ready s (.gate y r) y t) (hv : MapOk t r) (hw : HeadWord t w rest) (hok : gateWordOk w = true) {ps : List (Option Place)}
    {x : State × List (List Byte)} (hps : mReads (s.setHere t) 8 (unitaryAddrs t r) = .ok ps)
    (hx : readPlaces ownReader 8 (ps.filterMap id) (entered s t y 16 0) = .ok x) :
    BeginsWith s (.gate y r) x.1 (clearW (popWord x.1.here) false) (fun p => ∀ i j, i < gateSize r → j < gateSize r →
      ∀ bs, x.2[i * gateSize r + j]? = some bs → Sparse.get 0 p.unitary (i * 8 + j) = BitVec.ofNat 64 (leNat bs)) := by
  have hq : s.cur.q = .m := beq_iff_eq.mp h.space
  refine beginsWith_of h (exec_gate y r s) (fun k z he hk => ?_)
  rw [encode_gate_length] at he
  rw [he] at hx
  have hfit := mHead_fits (K := .gate) (hv.entered hk rfl (z.id + 1)) (by decide) (hw.entered hk).1 (hw.entered hk).2 hok (by simp)
  have hreads : mReads (s.setHere k) 8 ((gateEntries r).map (fun e => .addr (wrap 48
      ((wordHeld (s.setHere k) (RecProg.start (.gate y r) s.me.pc (z.id + 1)) w).baseB.toNat + e.2)))) = .ok ps := by
    rw [gateEntries_addrs, baseB_entered rfl hq hk, mReads_congr (fun m => tOperand_entered hk m _ _ 8)]
    exact hps
  have hown := OwnReads.refl.readPlaces hx
  obtain ⟨l, e, hhere⟩ := hown.here
  have hseq : ((clearW (popWord x.1.here) false).seq s.cur.q) = { k.seq s.cur.q with stores := l, early := e } := by
    have hclear : (clearW (popWord x.1.here) false).seq s.cur.q = (popWord x.1.here).seq s.cur.q := by cases s.cur.q <;> rfl
    rw [hclear, popWord_eq, seq_dropWords, hhere, afterReads, Task.seq_setSeq]
  refine ⟨_, _, hfit.trans (mRest_gate hreads hx), ⟨rfl, rfl, rfl, rfl, rfl, rfl, rfl⟩, fun i j hi hj bs hbs => unitaryOf_get hi hj hbs,
    hown.cur, hown.bank, ?_, ?_, ?_, rfl, rfl⟩
  · rw [hseq, ← hk.wait]
  · rw [hseq, ← h.stream, ← hk.stream]
  · rw [hseq, ← h.prog, ← hk.prog]

/-- What that leaves of the task, where each word in error is one of a queue that there is. -/
theorem gate_takes {l : List Place} {x : State × List (List Byte)} (hx : readPlaces ownReader 8 l (entered s t y 16 0) = .ok x)
    (hp : NoQueueFour t) (hw : t.fq = w :: rest) :
    clearW (popWord x.1.here) false
      = { x.1.here with fq := rest, bad := t.bad.filterMap (wordLeft 1), w := [], wfmt := [], w8 := false } := by
  obtain ⟨k, z, he, hk⟩ := entered_spec s (.gate y blankRec) y t 0
  rw [encode_gate_length] at he
  rw [he] at hx
  obtain ⟨l', e, hhere⟩ := (OwnReads.refl.readPlaces hx).here
  have hbad : x.1.here.bad = t.bad := by rw [hhere, ← hk.blind bad_blind]; cases s.cur.q <;> rfl
  have hfq : x.1.here.fq = w :: rest := by rw [hhere, ← hw, ← hk.blind fq_blind]; cases s.cur.q <;> rfl
  rw [popWord_eq, dropWords_eq (by rw [NoQueueFour, hbad]; exact hp), hbad, hfq]
  rfl

end gateHead
end Sys2Proof

namespace Sys2Proof

open Sys2Proof.Machine

/-! #### A granule that is read ahead (R293) -/

section ahead
variable {s : State} {core : Nat} {q : SeqId} {p : RecProg} {t : Task}

/-- A granule that the executing sequencer has read is kept with the others. -/
def keptAlso (x : State) (pl : Place) (bs : List Byte) : State :=
  x.setMe { x.me with early := x.me.early ++ [{ fetch := false, place := pl, bytes := bs }] }

/-- A single issue whose turn makes another of its reads keeps that granule. -/
theorem readsAhead_of (hr : ReadySingle s core q p t) {size n : Nat} {ps : List (Option Place)} {next : State → List Nat → Res} {pl : Place}
    (hx : singleRes s core q p t = gather (heldBy p t q) (runningState s core q t (heldBy p t q)) size ps next) (hn : s.pick = some n)
    (hpl : (((ps.drop p.got.length).filterMap id).filter (fun pl => ((singleState s core q t).me.earlyAt false pl size).isNone))[n]? = some pl) :
    ReadsAhead s core q (heldBy p t q) t pl := by
  intro hopen hcommit r
  obtain ⟨l, hl⟩ := readNow_running (s := s) (core := core) (q := q) (t := t) (h := heldBy p t q) pl.granule 16
  have hgot : (heldBy p t q).got = p.got := heldBy_got
  generalize heldBy p t q = h at hx hl hgot ⊢
  have hearly (pl : Place) : (runningState s core q t h).me.earlyAt false pl size = (singleState s core q t).me.earlyAt false pl size := by
    rw [me_running, me_singleState, runningTask, Task.seq_setSeq]
    rfl
  have hread : ownReader.read (runningState s core q t h) pl = some (keptAlso (readNow (runningState s core q t h) pl.granule 16).1 pl.granule r.2) := by
    simp only [ownReader, open1_running, ownCommitted_running, hopen, hcommit, Bool.and_self, if_true, hl.bytes]
    rfl
  unfold gather at hx
  simp only [hgot, hearly, show (runningState s core q t h).pick = some n from hn, Option.bind_some, hpl, hread] at hx
  generalize readNow (runningState s core q t h) pl.granule 16 = r' at hx hl
  have hme : r'.1.me = { (runningTask t q h).seq q with stores := l } := by rw [State.me, hl.cur, hl.here', Task.seq_setSeq]
  have hhere : (keptAlso r'.1 pl.granule r.2).here = (runningTask t q h).setSeq q
      { (runningTask t q h).seq q with stores := l, early := (t.seq q).early ++ [{ fetch := false, place := pl.granule, bytes := r.2 }] } := by
    rw [keptAlso, State.here_setMe, hl.cur, hl.here', Task.setSeq_setSeq, hme, runningTask, Task.seq_setSeq]
  have hsame : keptAlso r'.1 pl.granule r.2 = setProg (keptAlso r'.1 pl.granule r.2) h := by
    have hprog : r'.1.me.prog = some h := by rw [hme, runningTask, Task.seq_setSeq]
    rw [setProg, keptAlso, State.me_setMe, State.setMe_setMe, ← hprog]
  obtain ⟨t', fl, h1, h2⟩ := singleIssue_more hr (hx.trans (congrArg Res.more hsame)) hl.cur ((State.bankOf_setMe ..).trans hl.bank) hhere
  have hseq := h2.seq q
  rw [Task.seq_setSeq, Task.seq_setSeq] at hseq
  refine ⟨_, t', h1, State.task?_setTask .., ?_, ?_, ?_, ?_, ?_⟩
  · exact (hl.differ.same.setTask _ _ _).setTask _ _ _
  · rw [h2.bare, hl.here, Task.setSeq_setSeq, Task.setSeq_setSeq, Task.seq_setSeq, Task.seq_setSeq, runningTask, Task.setSeq_setSeq, Task.seq_setSeq]
    exact bareTask_of_bareSeq rfl
  · rw [hseq, hl.here, Task.seq_setSeq]
  · rw [hseq]
  · rw [hseq, runningTask, Task.seq_setSeq]

end ahead

/-! #### A single issue of GATE (R209, R210) -/

section gateSingle
variable {s x : State} {core : Nat} {p h : RecProg} {t : Task} {y : Syn} {r : Rec} {w : Word}

/-- How many groups a single issue of GATE takes. -/
def gateGroups (r : Rec) : Nat := (r.aux1.extractLsb' 0 3).toNat + 1

/-- `f` of each row of each group. -/
def eachRow {α : Type} (r : Rec) (f : Nat → Nat → α) : List α :=
  (List.range (gateGroups r)).flatMap (fun j => (List.range (gateSize r)).map (f j))

theorem length_eachRow {α : Type} (f : Nat → Nat → α) : (eachRow r f).length = gateGroups r * gateSize r := by
  simp [eachRow, List.length_flatMap]

theorem map_eachRow {α β : Type} (f : Nat → Nat → α) (g : α → β) : (eachRow r f).map g = eachRow r (fun j c => g (f j c)) := by
  simp only [eachRow, List.map_flatMap, List.map_map]
  rfl

theorem eachRow_congr {α : Type} {f g : Nat → Nat → α} (h : ∀ j < gateGroups r, ∀ c < gateSize r, f j c = g j c) : eachRow r f = eachRow r g :=
  List.flatMap_congr (fun j hj => List.map_congr_left (fun c hc => h j (List.mem_range.mp hj) c (List.mem_range.mp hc)))

theorem mem_eachRow {α : Type} {f : Nat → Nat → α} {a : α} : a ∈ eachRow r f ↔ ∃ j < gateGroups r, ∃ c < gateSize r, f j c = a := by
  simp [eachRow]

/-- The element of row `c` of group `j` (R210). -/
def gateAddr (h : RecProg) (r : Rec) (o : RecOperand) (base : Word) (step : BitVec 16) (dest : Bool) (j c : Nat) : MapRes :=
  mAddr h o base 8 (j * (r.aux1.extractLsb' 16 16).toInt + c * step.toInt) dest

/-- One amplitude with its entry of the unitary, in both temporaries (R209). -/
def gateTerm (alsb : Int) (u x : Nat) (e : AccRes × AccRes) : AccRes × AccRes :=
  (accumulate alsb (accumulate alsb e.1 (fMul (reOf u) (reOf x)).1) (fMul (imOf u) (imOf x)).1.neg,
    accumulate alsb (accumulate alsb e.2 (fMul (reOf u) (imOf x)).1) (fMul (imOf u) (reOf x)).1)

/-- The two temporaries of row `row` of group `j` (R209). -/
def gateSums (h : RecProg) (r : Rec) (amps : List Nat) (j row : Nat) : AccRes × AccRes :=
  (List.range (gateSize r)).foldl (fun e c =>
    gateTerm (fwAlsb h.fmt) (Sparse.get 0 h.unitary (row * 8 + c)).toNat (amps.getD (j * gateSize r + c) 0) e) (tmpZero, tmpZero)

theorem zipIdx_eq_map_range (xs : List Nat) : xs.zipIdx = (List.range xs.length).map (fun c => (xs.getD c 0, c)) := by
  refine List.ext_getElem (by simp) (fun n h1 h2 => ?_)
  have hn : n < xs.length := by simpa using h1
  simp [hn]

/-- The amplitudes of a group, where all have been read. -/
theorem group_getD {amps : List Nat} {g j : Nat} (hl : (j + 1) * g ≤ amps.length) :
    ((amps.drop (j * g)).take g).length = g ∧ ∀ c < g, ((amps.drop (j * g)).take g).getD c 0 = amps.getD (j * g + c) 0 := by
  rw [Nat.add_mul, Nat.one_mul] at hl
  refine ⟨by simp; omega, fun c hc => ?_⟩
  simp [List.getD_eq_getElem?_getD, hc]

theorem gateRow_eq {amps : List Nat} {j row : Nat} (hl : (j + 1) * gateSize r ≤ amps.length) :
    gateRow h row ((amps.drop (j * gateSize r)).take (gateSize r)) = gateSums h r amps j row := by
  obtain ⟨hlen, hget⟩ := group_getD hl
  unfold gateRow gateSums
  rw [zipIdx_eq_map_range, hlen, List.foldl_map]
  refine List.foldl_ext _ _ _ (fun e c hc => ?_)
  rw [hget c (List.mem_range.mp hc)]
  rfl

/-- What the temporaries of a single issue become: each row drained by RNE, at its element. -/
def gateStores (h : RecProg) (r : Rec) (amps : List Nat) : List (MapRes × List Byte) :=
  eachRow r (fun j row => (gateAddr h r r.d h.baseD (r.aux0.extractLsb' 16 16) true j row, drainPair h.fmt (gateSums h r amps j row)))

/-- A pair in a window goes as its two words. -/
def gateUnits (us : List (Place × List Byte)) : List (Place × List (Option Byte)) :=
  us.flatMap (fun u =>
    match u.1 with
    | .tx a => [(.tx a, (u.2.take 4).map some), (.tx (a + 4), (u.2.drop 4).map some)]
    | pl => [(pl, u.2.map some)])

/-- What GATE does with the amplitudes of its groups. -/
def gateThen (h : RecProg) (x : State) (amps : List Nat) : Res :=
  let r := h.fields
  let outs := eachRow r (fun j row => (gateAddr h r r.d h.baseD (r.aux0.extractLsb' 16 16) true j row,
    gateRow h row ((amps.drop (j * gateSize r)).take (gateSize r))))
  if fwOvfTrap h.fmt && outs.any (fun o => o.2.1.e.s = stOvf || o.2.2.e.s = stOvf) then .trap .accOvf 0 0 x
  else
    match mPlaces x 8 (outs.map (fun o => (o.1, drainPair h.fmt o.2))) with
    | .error f => f.res x
    | .ok us => putAll x (gateUnits us)

theorem gateSingle_eq {ps : List (Option Place)}
    (hps : mReads x 8 (eachRow h.fields (gateAddr h h.fields h.fields.a h.baseA (h.fields.aux0.extractLsb' 0 16) false)) = .ok ps) :
    gateSingle h x = gather h x 8 ps (gateThen h) := by
  unfold eachRow gateAddr gateGroups at hps
  unfold gateSingle
  simp only [upTo, List.map_id, hps]
  rfl

theorem length_mReads {n : Nat} {l : List MapRes} {ps : List (Option Place)} (hps : mReads x n l = .ok ps) : ps.length = l.length := by
  induction l generalizing ps with
  | nil => cases hps; rfl
  | cons m l ih =>
    simp only [mReads] at hps
    split at hps
    · cases hps
    all_goals
      cases hl : mReads x n l with
      | error f => rw [hl] at hps; cases hps
      | ok l' =>
        rw [hl] at hps
        cases hps
        rw [List.length_cons, List.length_cons, ih hl]

/-- Where no temporary has overflowed, or the word asks for no trap, each pair goes to its element. -/
theorem gateThen_eq {amps : List Nat} (hl : amps.length = gateGroups h.fields * gateSize h.fields)
    (hov : fwOvfTrap h.fmt = true → ∀ j < gateGroups h.fields, ∀ row < gateSize h.fields,
      (gateSums h h.fields amps j row).1.e.s ≠ stOvf ∧ (gateSums h h.fields amps j row).2.e.s ≠ stOvf)
    {us : List (Place × List Byte)} (hus : mPlaces x 8 (gateStores h h.fields amps) = .ok us) : gateThen h x amps = putAll x (gateUnits us) := by
  have houts : eachRow h.fields (fun j row => (gateAddr h h.fields h.fields.d h.baseD (h.fields.aux0.extractLsb' 16 16) true j row,
      gateRow h row ((amps.drop (j * gateSize h.fields)).take (gateSize h.fields))))
      = eachRow h.fields (fun j row => (gateAddr h h.fields h.fields.d h.baseD (h.fields.aux0.extractLsb' 16 16) true j row, gateSums h h.fields amps j row)) :=
    eachRow_congr (fun j hj row _ => by rw [gateRow_eq (by rw [hl]; exact Nat.mul_le_mul_right _ hj)])
  have hno : ¬ (fwOvfTrap h.fmt && (eachRow h.fields (fun j row => (gateAddr h h.fields h.fields.d h.baseD (h.fields.aux0.extractLsb' 16 16) true j row,
      gateSums h h.fields amps j row))).any (fun o => o.2.1.e.s = stOvf || o.2.2.e.s = stOvf)) = true := by
    rw [Bool.and_eq_true, List.any_eq_true]
    rintro ⟨ht, o, ho, hs⟩
    obtain ⟨j, hj, row, hrow, rfl⟩ := mem_eachRow.mp ho
    obtain ⟨h1, h2⟩ := hov ht j hj row hrow
    simp [h1, h2] at hs
  unfold gateThen
  simp only [houts]
  rw [if_neg hno, map_eachRow]
  unfold gateStores at hus
  simp only [hus]

/-- A single issue of GATE: its amplitudes are read, in their order or another of them ahead; then its pairs are stored, and no accumulator changes
(R209, R210; log 79). -/
theorem gate_single (hr : ReadySingle s core .m p t) (ho : p.outs = []) (hi : p.instr = .gate y r) {ps : List (Option Place)}
    (hps : mReads (singleState s core .m t) 8
      (eachRow r (gateAddr (heldBy p t .m) r r.a (heldBy p t .m).baseA (r.aux0.extractLsb' 0 16) false)) = .ok ps) :
    (∀ pl, ps[p.got.length]? = some (some pl) → ReadsNext s core .m (heldBy p t .m) t pl 8)
      ∧ (∀ n pl, s.pick = some n →
        (((ps.drop p.got.length).filterMap id).filter (fun pl => ((singleState s core .m t).me.earlyAt false pl 8).isNone))[n]? = some pl →
        ReadsAhead s core .m (heldBy p t .m) t pl)
      ∧ (∀ us, p.got.length = ps.length →
        (fwOvfTrap (heldBy p t .m).fmt = true → ∀ j < gateGroups r, ∀ row < gateSize r,
          (gateSums (heldBy p t .m) r (heldBy p t .m).got j row).1.e.s ≠ stOvf
            ∧ (gateSums (heldBy p t .m) r (heldBy p t .m).got j row).2.e.s ≠ stOvf) →
        mPlaces (singleState s core .m t) 8 (gateStores (heldBy p t .m) r (heldBy p t .m).got) = .ok us →
        SingleSends s core .m (heldBy p t .m) t (fun _ => 0) (gateUnits us)) := by
  obtain rfl : (heldBy p t .m).fields = r := heldBy_fields hi rfl
  have hlen := (length_mReads hps).trans (length_eachRow _)
  rw [← mReads_running (h := heldBy p t .m)] at hps
  have hx : singleRes s core .m p t = _ := (mSingle_res hr (K := .gate) (by rw [hi]; rfl) ho).trans (gateSingle_eq hps)
  refine ⟨fun pl hpl => readsNext_of hr (fun hp => hx.trans (gather_next hp (by rw [heldBy_got, hpl]))),
    fun n pl hn hpl => readsAhead_of hr hx hn hpl, fun us hg hov hus => ?_⟩
  rw [gather_done (by rw [heldBy_got, hg])] at hx
  refine singleSends_put hr (hx.trans (gateThen_eq (by rw [heldBy_got, hg, hlen]) hov ?_))
  rw [mPlaces_running, hus]

end gateSingle
end Sys2Proof

namespace Sys2Proof

open Sys2Proof.Machine

/-! #### The stray word at the head of a record -/

section stray

/-- A record of WLD that begins where the stray word in error is. -/
def strayRec : Rec := { blankRec with aux2 := 0x07F00000 }

theorem wld_stray : Ready strayState (.wld 0 strayRec) 0 strayTask :=
  stray_ready (by decide) (by decide) (by decide) (by decide +kernel)

end stray

/-- Refutes O40: as in O39, the word in error `.pq 4 0` is gone once the head of WLD has taken its format word, and the statement keeps it. Where there is
no such word (`NoQueueFour`) the heads are as stated: `popWord` takes what the statement says (`popWord_eq` with `dropWords_eq`, `gate_takes`) in
`wld_begins`, `mma_begins`, `adrn_begins` and `gate_begins`. The other clauses hold of every state (`image_begins`, `word_underflow`, `word_illegal`,
`mma_version`, and `gate_single` for the single issue). -/
theorem not_matrixHeads : ¬ Obligations.MatrixHeads := by
  unfold Obligations.MatrixHeads
  intro hall
  have hmap : mapped strayRec = true → bmValid (mapSeenByM strayTask strayRec.bmsel.toNat) = true := by decide
  obtain ⟨-, -, -, -, -, -, hword⟩ := hall.1 strayState 0 strayRec strayTask hmap
  have hsays := (hword 0 [] rfl (by decide)).1 wld_stray (by decide)
  have hdoes := wld_begins wld_stray hmap ⟨rfl, by decide⟩ (by decide)
  exact absurd (congrArg Task.bad (hsays.unique hdoes)) (by decide)

end Sys2Proof

/-! ### The two-parcel draws of V (O33) -/

namespace Sys2Proof

open Sys2Proof.Machine

section twoParcel
variable {s : State} {i : Instr} {y : Syn} {t k : Task} {o : VRndOp} {w : Wait}

theorem key_blind : IssueBlind Task.key := fun _ q => by cases q <;> rfl
theorem x31_blind : IssueBlind Task.x31 := fun _ q => by cases q <;> rfl
theorem rndSources_blind (d : RndKind) (o : VRndOp) (n : Nat) : IssueBlind (rndSources · d o n) := fun _ q => by
  cases q <;> cases d <;> rfl
theorem spanRegs_blind (n m : Nat) : IssueBlind (spanRegs · n m) := fun _ q => by cases q <;> rfl

/-- Issue leaves the registers of every sequencer as they are. -/
theorem reg_bareTask (t : Task) (q q' : SeqId) (r : Nat) : ((bareTask t q).seq q').reg r = (t.seq q').reg r := by
  cases q <;> cases q' <;> rfl

/-- One element of a draw reads the task but for the bookkeeping of issue, and the registers of its sequencer (R196). -/
theorem rndElem_blind (s : State) (key : Word) (d : RndKind) (o : VRndOp) (n : Nat) (pos : Word) (e : Nat) :
    IssueBlind (fun x => rndElem (s.setHere x) key d o n pos e) := fun x q => by
  unfold rndElem rndKey rndStream
  simp only [State.reg_setHere, State.here_setHere, reg_bareTask]
  cases q <;> cases d <;> rfl

/-- An instruction of V draws an element as a single issue of V does that reads the same task (R196, R200). -/
theorem rndElem_setHere (hq : s.cur.q = .v) (key : Word) (d : RndKind) (o : VRndOp) (n : Nat) (pos : Word) (e : Nat) :
    rndElem (s.setHere t) key d o n pos e = rndElem (singleState s s.cur.core .v t) key d o n pos e := by
  have hreg (r : Nat) : (s.setHere t).reg r = (singleState s s.cur.core .v t).reg r := by
    rw [State.reg_setHere, reg_singleState, hq]
    rfl
  have hhere : (s.setHere t).here = (singleState s s.cur.core .v t).here := by
    rw [State.here_setHere, singleState, State.here_setHere]
  unfold rndElem rndKey rndStream
  simp only [hreg, hhere]

/-- What an element of a draw is in the executing task, it is in the body of the instruction as well. -/
theorem rndElem_entered {d : RndKind} {n : Nat} {pos : Word} {c : Nat → Nat × Flags} {keep : Nat → Bool} (hq : s.cur.q = .v)
    (hk : Entered s i t 1 k w)
    (hc : ∀ e, rndElem (singleState s s.cur.core .v t) t.key d o n pos e = (c e, keep e)) (e : Nat) :
    rndElem (s.setHere k) t.key d o n pos e = (c e, keep e) := by
  rw [← hc, ← rndElem_setHere hq]
  exact hk.blind (rndElem_blind s t.key d o n pos e)

/-- The mask that VDROP writes besides the register: `l` says of each element whether it is kept (R198). -/
def drawMask (d : RndKind) (o : VRndOp) (l : List (Nat × Bool)) (t : Task) : List Write :=
  if d = .drop && o.opx != 0 then [predWrite t o.opx.toNat (typeBytes o.ty.toNat) l] else []

theorem drawMask_blind (d : RndKind) (o : VRndOp) (l : List (Nat × Bool)) : IssueBlind (drawMask d o l) := fun _ q => by
  cases q <;> rfl

/-- A draw whose elements are `c`, of which VDROP keeps `keep`, sends both on their way at once (R198). -/
theorem rndIssue_eq {d : RndKind} {n : Nat} {key pos : Word} {c : Nat → Nat × Flags} {keep : Nat → Bool}
    (hc : ∀ e, rndElem (s.setHere k) key d o n pos e = (c e, keep e)) :
    let w := typeBytes o.ty.toNat
    let sel := selElems k o.pred.toNat w
    rndIssue (s.setHere k) key d o n pos
      = pendWrites (s.setHere k) 8 (elemWrites k n w (sel.map (fun e => (e, (c e).1))) ++ drawMask d o (sel.map (fun e => (e, keep e))) k)
          (sel.foldl (fun fl e => fl ||| (c e).2) 0) := by
  unfold rndIssue allFlags
  simp only [hc, State.here_setHere, List.map_map, List.foldl_map]
  rfl

/-- A two-parcel draw writes its elements, and VDROP its mask, 8 ticks later (R196 to R198). -/
theorem draw_writes {d : RndKind} {c : Nat → Nat × Flags} {keep : Nat → Bool}
    (hx : exec i s = run i y 1 (fun s => rndRun s s.here.key d o o.vd.toNat s.here.x31) s) (hq : s.cur.q = .v)
    (hc : ∀ e, rndElem (singleState s s.cur.core .v t) t.key d o o.vd.toNat t.x31 e = (c e, keep e))
    (h : Ready s i y t) (hs : readsBad t (rndSources t d o o.vd.toNat) = false) :
    let w := typeBytes o.ty.toNat
    let sel := selElems t o.pred.toNat w
    WritesLater s i y t 8 (elemWrites t o.vd.toNat w (sel.map (fun e => (e, (c e).1))) ++ drawMask d o (sel.map (fun e => (e, keep e))) t)
      (sel.foldl (fun fl e => fl ||| (c e).2) 0) := by
  intro w sel
  refine effect_pend (f := id) h hx (fun _ => rfl) (fun _ => rfl) (fun k z hk => ?_)
  have hbad : readsBad k (rndSources k d o o.vd.toNat) = false := by
    rw [hk.blind (rndSources_blind d o o.vd.toNat), hk.blind (readsBad_blind _), hs]
  have hsel : sel = selElems k o.pred.toNat w := (hk.blind (selElems_blind _ _)).symm
  simp only [rndRun, State.here_setHere, hbad, Bool.false_eq_true, if_false, hk.blind key_blind, hk.blind x31_blind]
  rw [rndIssue_eq (rndElem_entered hq hk hc), ← hk.blind (elemWrites_blind _ _ _), ← hk.blind (drawMask_blind _ _ _), hsel]
  rfl

/-- VCAT's index depends on the task but for the bookkeeping of issue, and on the registers of its sequencer (R199). -/
theorem catDraw_blind (s : State) (o : VRndOp) : IssueBlind (fun x => catDraw (s.setHere x) o) := fun x q => by
  unfold catDraw rndKey rndStream
  simp only [State.reg_setHere, State.here_setHere, reg_bareTask]
  cases q <;> rfl

/-- VCAT writes its index into element 0, 12 ticks later (R199). -/
theorem vcat_writes (h : Ready s (.vcat y o) y t) (hs : readsBad t (spanRegs t o.vb.toNat 1) = false) :
    let r := catDraw (s.setHere t) o
    WritesLater s (.vcat y o) y t 12 (elemWrites t o.vd.toNat 4 [(0, r.1)]) r.2 := by
  intro r
  refine effect_pend (f := id) h (exec_vcat y o s) (fun _ => rfl) (fun _ => rfl) (fun k w hk => ?_)
  have hbad : readsBad k (spanRegs k o.vb.toNat 1) = false := by
    rw [hk.blind (spanRegs_blind o.vb.toNat 1), hk.blind (readsBad_blind _), hs]
  have hr : catDraw (s.setHere k) o = r := hk.blind (catDraw_blind s o)
  simp only [State.here_setHere, hbad, Bool.false_eq_true, if_false, hr]
  rw [← hk.blind (elemWrites_blind _ _ _)]
  rfl

end twoParcel

/-- Settles O33: each draw rounds, at every selected element, the value that it forms of the word at that element's position, and
VDROP puts what it keeps into its mask; VCAT writes the index that it draws. -/
theorem vectorDraws : Obligations.VectorDraws := by
  unfold Obligations.VectorDraws
  intro s y o t f w sel key stream word mode b old z Clean Writes
  have plain {i : Instr} {d : RndKind} (hd : d ≠ .drop) {r : Nat → FVal × Flags}
      (hx : exec i s = run i y 1 (fun s => rndRun s s.here.key d o o.vd.toNat s.here.x31) s) (hv : Ready s i y t → s.cur.q = .v)
      (hr : ∀ e, rndElem (singleState s s.cur.core .v t) t.key d o o.vd.toNat (t.v.reg 31) e = (rounded f (mode e) false (r e), true)) :
      Writes i d r := by
    intro ⟨h, hs⟩ c
    have := draw_writes hx (hv h) hr h hs
    simpa [drawMask, hd] using this
  refine ⟨?vz, ?vzacc, ?vunif, ?vdrop, ?vcat⟩
  case vz => exact plain (by decide) (exec_vz y _ s) (fun h => beq_iff_eq.mp h.space) (fun e => rndElem_z ..)
  case vzacc => exact plain (by decide) (exec_vzacc y _ s) (fun h => beq_iff_eq.mp h.space) (fun e => rndElem_zacc ..)
  case vunif => exact plain (by decide) (exec_vunif y _ s) (fun h => beq_iff_eq.mp h.space) (fun e => rndElem_unif ..)
  case vdrop =>
    intro ⟨h, hs⟩ pdrop keep c
    have hc (e : Nat) : rndElem (singleState s s.cur.core .v t) t.key .drop o o.vd.toNat (t.v.reg 31) e = (c e, keep e) := by
      refine (rndElem_drop ..).trans ?_
      change (if keep e then _ else _) = (if keep e then _ else _, keep e)
      cases keep e with
      | false => rfl
      | true => rfl
    have := draw_writes (exec_vdrop y _ s) (beq_iff_eq.mp h.space) hc h hs
    simpa [drawMask] using this
  case vcat => exact fun h hs => vcat_writes h hs

end Sys2Proof

namespace Sys2Proof

open Sys2Proof.Machine

/-! ### Windows of C (O21, O22) -/

/-! #### What the reads of a body leave beside the memories and the cores (R263, R293) -/

/-- A state without what a read of memory may change: the memories with their errors, what wheels and banks have served, and the cores. -/
def besideMemory (s : State) : State :=
  { s with hbm := [], poison := [], errs := [], eccstat := [], served := [], lastServed := [], servedAt := [], cores := [] }

theorem beside_findErrors (s : State) (a n : Nat) : besideMemory (findErrors s a n) = besideMemory s :=
  foldl_keeps besideMemory _ (fun s e => by split <;> rfl) _ s

theorem beside_storeLine (s : State) (a : Nat) (bs : List Byte) (whole : Bool) : besideMemory (storeLine s a bs whole) = besideMemory s := by
  unfold storeLine
  split
  · rfl
  · split
    · rfl
    · dsimp only
      split <;> exact beside_findErrors s _ _

theorem beside_storeHbm (whole : Bool) (n : Nat) (s : State) (a : Nat) (bs : List Byte) : besideMemory (storeHbm whole n s a bs) = besideMemory s := by
  induction n generalizing s a bs with
  | zero => rfl
  | succ n ih =>
    unfold storeHbm
    split
    · rfl
    · exact (ih _ _ _).trans (beside_storeLine s _ _ _)

theorem beside_performPiece (s : State) (p : Place) (bs : List Byte) (whole : Bool) : besideMemory (performPiece s p bs whole) = besideMemory s := by
  cases p with
  | spad c off => rfl
  | hbm a => exact beside_storeHbm whole _ s a bs
  | tx a => rfl

theorem beside_performStore (s : State) (st : PStore) : besideMemory (performStore s st) = besideMemory s := by
  unfold performStore
  split
  · exact foldl_keeps besideMemory _ (fun s r => beside_performPiece s _ _ _) _ s
  · exact beside_performPiece s _ _ _

theorem beside_correctAt (s : State) (p : Place) (n : Nat) : besideMemory (correctAt s p n) = besideMemory s := by
  cases p with
  | hbm a => exact foldl_keeps besideMemory correctLine (fun _ _ => rfl) _ s
  | spad c off => rfl
  | tx a => rfl

theorem beside_served (s : State) (part : Nat) (p : Place) : besideMemory (served s part p) = besideMemory s := by
  unfold served serveWheel
  cases p with
  | hbm a => dsimp only; split <;> rfl
  | spad c off => dsimp only; split <;> rfl
  | tx a => rfl

theorem beside_drainAt (s : State) (core bank : Nat) (q : SeqId) (id : Nat) (p : Place) (n : Nat) :
    besideMemory (drainAt s core bank q id p n) = besideMemory s := by
  unfold drainAt
  split
  · rfl
  · dsimp only
    split
    all_goals
      rw [beside_correctAt]
      exact foldl_keeps besideMemory performStore beside_performStore _ s

theorem beside_readNow (s : State) (p : Place) (n : Nat) : besideMemory (readNow s p n).1 = besideMemory s :=
  (beside_drainAt ..).trans (beside_served ..)

section reads
variable {s x : State} {k : Task}

/-- `x` is what reads of the executing sequencer leave of `s`, where its task was `k`. -/
structure TaskReads (s : State) (k : Task) (x : State) : Prop extends OwnReads s k x where
  beside : besideMemory x = besideMemory s

theorem TaskReads.refl : TaskReads s k (s.setHere k) := ⟨OwnReads.refl, rfl⟩

theorem TaskReads.read {x' : State} (h : TaskReads s k x) (p : Place) (hr : ownReader.read x p = some x') : TaskReads s k x' := by
  refine ⟨h.toOwnReads.read p hr, ?_⟩
  simp only [ownReader] at hr
  split at hr
  · obtain rfl := Option.some.inj hr
    exact (beside_readNow ..).trans h.beside
  · cases hr

theorem TaskReads.readSpan {core n m a : Nat} {t : Task} {rs : Ranges} {z : State × List (List Byte)} (h : TaskReads s k x)
    (hr : readSpan ownReader core t rs n m a x = .ok z) : TaskReads s k z.1 := by
  have hkeep := readSpan_keeps (P := TaskReads s k) (fun _ p _ hs hr => hs.read p hr) core t rs n m a x h
  rw [hr] at hkeep
  exact hkeep

theorem TaskReads.readTask {n m a : Nat} {rs : Ranges} {z : State × List Byte} (h : TaskReads s k x) (hr : readTask x rs n m a = .ok z) :
    TaskReads s k z.1 := by
  simp only [Machine.readTask, readAs] at hr
  cases hx : Machine.readSpan ownReader (myCore x) x.here rs n m a x with
  | error e => rw [hx] at hr; cases hr
  | ok r =>
    rw [hx] at hr
    obtain rfl := Except.ok.inj hr
    exact h.readSpan hx

theorem TaskReads.readMembers {n a : Nat} {z : State × List Nat} (h : TaskReads s k x) (hr : readMembers x n a = .ok z) : TaskReads s k z.1 := by
  simp only [Machine.readMembers, readNums] at hr
  cases hx : Machine.readSpan ownReader (myCore x) x.here Ranges.noTx 2 n a x with
  | error e => rw [hx] at hr; cases hr
  | ok r =>
    rw [hx] at hr
    obtain rfl := Except.ok.inj hr
    exact h.readSpan hx

/-- What does not depend on the memories and the cores is as it was. -/
theorem TaskReads.field {α : Type} (h : TaskReads s k x) (g : State → α) (hg : ∀ x, g (besideMemory x) = g x) : g x = g s := by
  rw [← hg x, h.beside, hg]

theorem TaskReads.out (h : TaskReads s k x) : x.out = s.out := h.field State.out (fun _ => rfl)
theorem TaskReads.rx (h : TaskReads s k x) : x.rx = s.rx := h.field State.rx (fun _ => rfl)
theorem TaskReads.mcc (h : TaskReads s k x) : x.mcc = s.mcc := h.field State.mcc (fun _ => rfl)

/-- The turn and the tasks are all that the relation asks of the cores. -/
theorem OwnReads.of_cores {x' : State} (h : OwnReads s k x) (hc : x'.cur = x.cur) (hk : x'.cores = x.cores) : OwnReads s k x' := by
  have hs := SameTasks.of_cores hc hk
  obtain ⟨l, e, ht⟩ := h.task
  exact ⟨hc.trans h.cur, (hs.bank _).trans h.bank, l, e, (hs.task _ _).trans ht⟩

end reads

/-! #### An instruction that ends with a register write -/

theorem bareTask_withReg (s : State) (t : Task) (r : Nat) (v : Word) : bareTask (withReg s t r v) s.cur.q = withReg s (bareTask t s.cur.q) r v := by
  unfold withReg Seq.setReg
  cases s.cur.q <;> dsimp only [Task.seq, Task.setSeq] <;> split <;> rfl

theorem sameIssue_setReg (u : Seq) (r : Nat) (v : Word) : SameIssue (u.setReg r v) u := by
  unfold Seq.setReg
  split <;> exact ⟨rfl, rfl, rfl, rfl, rfl⟩

theorem seq_withReg (s : State) (t : Task) (r : Nat) (v : Word) : (withReg s t r v).seq s.cur.q = (t.seq s.cur.q).setReg r v :=
  Task.seq_setSeq ..

section ends
variable {s s0 : State} {i : Instr} {y : Syn} {t k t1 t2 : Task} {w : Wait} {r : Nat} {v : Word} {body : State → Res}

/-- A body that ends with the executing task changed completes its instruction. -/
theorem completes_of {pc : BitVec 48} (hx : exec i s = finish s.me.pc (.ok (s0.setHere t1))) (hc : s0.cur = s.cur)
    (hb : s0.bankOf s.cur.core = s.bankOf s.cur.core) (hr : (t1.seq s.cur.q).stream = .running) (hw : (t1.seq s.cur.q).wait.isSome = true)
    (ht : bareTask t1 s.cur.q = bareTask t2 s.cur.q) (hp : (t1.seq s.cur.q).pc = pc) : Completes s i s0 t2 pc := by
  obtain ⟨t', fl, n, hf, hs⟩ := finish_ok s0 s.me.pc t1 (by rwa [hc]) (by rwa [hc])
  rw [hc] at hs
  have hseq := hs.seq s.cur.q
  rw [Task.seq_setSeq] at hseq
  refine ⟨t', ?_, ?_, by rw [hseq]; exact hp, by rw [hseq]⟩
  · rw [hx, hf, State.setHere_eq, hc, hb]
  · rw [hs.bare, ← ht]
    cases s.cur.q <;> rfl

/-- After reads, and changes beside the cores. -/
theorem leaves_setReg (h : Ready s i y t) (hx : exec i s = run i y 1 body s) (hk : Entered s i t 1 k w)
    (ho : OwnReads s k s0) (hb : body (enteredAt s t y i) = .ok (s0.setReg r v)) : Leaves s i s0 (withReg s s0.here r v) := by
  obtain ⟨l, e, hhere⟩ := ho.here
  have hq : s0.cur.q = s.cur.q := by rw [ho.cur]
  have hreg : s0.setReg r v = s0.setHere (withReg s s0.here r v) := by rw [State.setReg, State.setMe_eq, withReg, State.me, hq]
  have hsame : SameIssue ((withReg s s0.here r v).seq s.cur.q) (afterReads k s.cur.q l e |>.seq s.cur.q) := by
    rw [seq_withReg, hhere]
    exact sameIssue_setReg _ r v
  rw [afterReads, Task.seq_setSeq] at hsame
  refine completes_of (by rw [hx, run_ok h]; exact congrArg (finish s.me.pc) (hb.trans (congrArg Res.ok hreg))) ho.cur ho.bank ?_ ?_ rfl ?_
  · exact hsame.stream.trans (hk.stream.trans h.stream)
  · rw [hsame.wait]
    exact congrArg Option.isSome hk.wait
  · exact hsame.pc.trans hk.pc

/-- Without reads: the ticks and SEQNO have moved too. -/
theorem effect_setReg_beside (h : Ready s i y t) (hx : exec i s = run i y 1 body s) (hc : s0.cur = s.cur) (hk : s0.cores = s.cores)
    (hb : ∀ k w, entered s t y (encode i).length 1 = s.setHere k → Entered s i t 1 k w → body (s.setHere k) = .ok ((s0.setHere k).setReg r v)) :
    Effect s i y s0 (withReg s t r v) (nextPc s i) 1 := by
  obtain ⟨k, w, he, hk'⟩ := entered_spec s i y t 1
  have hreg : (s0.setHere k).setReg r v = s0.setHere (withReg s k r v) := by rw [State.setReg_setHere, withReg, hc]
  have hsame : SameIssue ((withReg s k r v).seq s.cur.q) (k.seq s.cur.q) := by
    rw [seq_withReg]
    exact sameIssue_setReg _ r v
  have hno : ((withReg s t r v).seq s.cur.q).seqno = (t.seq s.cur.q).seqno := by
    rw [seq_withReg]
    exact (sameIssue_setReg _ r v).seqno
  refine effect_of h hx (by rw [he, hb k w he hk', hreg]) hc ((SameTasks.of_cores hc hk).bank _) ?_ ?_ ?_ ?_ ?_ ?_
  · exact hsame.stream.trans (hk'.stream.trans h.stream)
  · rw [hsame.wait, hk'.wait]; rfl
  · rw [bareTask_withReg, hk'.bare, ← bareTask_withReg]
  · exact hsame.pc.trans hk'.pc
  · exact hsame.tick.trans hk'.tick
  · rw [hsame.seqno, hno, hk'.seqno]; rfl

/-- The executing task with the PC of its sequencer at `pc`. -/
def atPc (s : State) (pc : BitVec 48) : Task := s.here.setSeq s.cur.q { s.me with pc := pc }

theorem setPc_eq (s : State) (pc : BitVec 48) : setPc s pc = s.setHere (atPc s pc) := State.setMe_eq ..

theorem bareTask_atPc (s : State) (pc : BitVec 48) : bareTask (atPc s pc) s.cur.q = bareTask s.here s.cur.q := by
  unfold atPc State.me
  cases s.cur.q <;> rfl

theorem seq_atPc (s : State) (pc : BitVec 48) : (atPc s pc).seq s.cur.q = { s.me with pc := pc } := Task.seq_setSeq ..

/-- An instruction that was waiting, and whose body ends with the executing task changed. -/
theorem resumed_completes {ticks : Nat} (h : Resumes s i y w) (hx : exec i s = run i y ticks body s) (hc : s0.cur = s.cur) (hk : s0.cores = s.cores)
    (hb : body (s.setHere (atPc s (nextPc s i))) = .ok (s0.setHere t1)) (hs : SameIssue (t1.seq s.cur.q) ((atPc s (nextPc s i)).seq s.cur.q))
    (ht : bareTask t1 s.cur.q = bareTask t2 s.cur.q) : Completes s i s0 t2 (nextPc s i) := by
  rw [seq_atPc] at hs
  refine completes_of (by rw [hx, run_resumes h, setPc_eq, hb]) hc ((SameTasks.of_cores hc hk).bank _) ?_ ?_ ht hs.pc
  · exact hs.stream.trans (running_of_mayIssue h.turn)
  · exact (congrArg Option.isSome (hs.wait.trans h.waiting)).trans rfl

theorem resumed_setReg {ticks : Nat} (h : Resumes s i y w) (hx : exec i s = run i y ticks body s) (hc : s0.cur = s.cur) (hk : s0.cores = s.cores)
    (hb : body (s.setHere (atPc s (nextPc s i))) = .ok ((s0.setHere (atPc s (nextPc s i))).setReg r v)) :
    Completes s i s0 (withReg s s.here r v) (nextPc s i) := by
  have hreg : (s0.setHere (atPc s (nextPc s i))).setReg r v = s0.setHere (withReg s (atPc s (nextPc s i)) r v) := by
    rw [State.setReg_setHere, withReg, hc]
  refine resumed_completes h hx hc hk (hb.trans (congrArg Res.ok hreg)) ?_ ?_
  · rw [seq_withReg]
    exact sameIssue_setReg _ r v
  · rw [bareTask_withReg, bareTask_atPc, ← bareTask_withReg]

/-- The waiting phase of a resumed instruction as its body sees it. -/
theorem curOp_resumed (h : Resumes s i y w) : curOp (s.setHere (atPc s (nextPc s i))) = w.op := by
  simp only [curOp, State.me_setHere, seq_atPc, h.waiting]

theorem curOp_entered {ticks : Nat} (hk : Entered s i t ticks k w) : curOp (s.setHere k) = .none := by
  simp only [curOp, State.me_setHere, hk.wait, hk.op]

end ends

/-! #### Messages, and the entries of windows -/

/-- The messages of a list, each under its condition, join those that are there. -/
theorem sayWhere_out {α : Type} (c : α → Bool) (m : α → Msg) (l : List α) (s : State) :
    l.foldl (fun s x => if c x then s.say (m x) else s) s = { s with out := s.out ++ (l.filter c).map m } := by
  induction l generalizing s with
  | nil => simp
  | cons x l ih =>
    rw [List.foldl_cons, ih, List.filter_cons]
    cases c x <;> simp [State.say]

/-- The leases that a window's members have granted, as they are returned. -/
def leaseReturns (w : TxWin) : List Msg := (w.members.zipIdx.filter (fun x => w.granted.getLsbD x.2)).map (fun x => Msg.leaseReturn x.1 w.rx)

theorem returnLeases_eq (s : State) (win : Nat) : returnLeases s win = { s with out := s.out ++ leaseReturns (s.txWin win) } :=
  sayWhere_out (fun x : Nat × Nat => (s.txWin win).granted.getLsbD x.2) (fun x => .leaseReturn x.1 (s.txWin win).rx) _ s

theorem Machine.State.rxWin_setRx (s : State) (n m : Nat) (r : RxWin) : (s.setRx n r).rxWin m = if m = n then r else s.rxWin m :=
  Sparse.get_set ..

theorem Machine.State.setRx_setRx (s : State) (n : Nat) (r r' : RxWin) : (s.setRx n r).setRx n r' = s.setRx n r' := by
  simp only [State.setRx, Sparse.set_set]

section here
variable (s : State) (k : Task) (n : Nat)

@[simp] theorem Machine.State.txWin_setHere : (s.setHere k).txWin n = s.txWin n := rfl
@[simp] theorem Machine.State.rxWin_setHere : (s.setHere k).rxWin n = s.rxWin n := rfl
theorem Machine.State.setTx_setHere (w : TxWin) : (s.setHere k).setTx n w = (s.setTx n w).setHere k := rfl
theorem Machine.State.setRx_setHere (r : RxWin) : (s.setHere k).setRx n r = (s.setRx n r).setHere k := rfl
theorem returnLeases_setHere : returnLeases (s.setHere k) n = (returnLeases s n).setHere k := by
  rw [returnLeases_eq, returnLeases_eq]
  rfl

end here

/-! #### WUNMAP (R221) -/

section unmap
variable {s : State} {y : Syn} {o : COp} {t k : Task} {w : Wait}

theorem winStatus_1 : winStatus 1 0 = 1 := rfl
theorem winStatus_2 : winStatus 2 0 = 2 := rfl

/-- What WUNMAP does first, in terms of its handle. -/
theorem wunmapBody_entered (h : Ready s (.wunmap y o) y t) (he : entered s t y (encode (.wunmap y o)).length 1 = s.setHere k)
    (hk : Entered s (.wunmap y o) t 1 k w) :
    wunmapBody o (s.setHere k)
      = if 2048 ≤ addrC t.c o then .ok ((s.setHere k).setReg o.sd.toNat 2)
        else if addrC t.c o < 1024 then
          (if (s.txWin (addrC t.c o % 1024)).mapped = false ∨ (s.txWin (addrC t.c o % 1024)).part ≠ t.part then .ok ((s.setHere k).setReg o.sd.toNat 1)
           else unmapTx (s.setHere k) (addrC t.c o % 1024) o.sd.toNat)
        else if (s.rxWin (addrC t.c o % 1024)).state = 0 ∨ (s.rxWin (addrC t.c o % 1024)).part ≠ t.part then .ok ((s.setHere k).setReg o.sd.toNat 1)
        else recallGoOn (beginRecall (s.setHere k) (addrC t.c o % 1024)) (addrC t.c o % 1024) 0 o.sd.toNat true := by
  have ha : opAddr (s.setHere k) o = addrC t.c o := he ▸ opAddr_of_c (beq_iff_eq.mp h.space) 1
  unfold wunmapBody
  simp only [curOp_entered hk, ha, State.here_setHere, hk.part, State.txWin_setHere, State.rxWin_setHere, winStatus_1, winStatus_2,
    Bool.or_eq_true, Bool.not_eq_eq_eq_not,
    Bool.not_true, bne_iff_ne, decide_eq_true_eq]

theorem unmapTx_free {s : State} {win sd : Nat} (hf : ∀ f ∈ s.flits, f.win ≠ win) :
    unmapTx s win sd = .ok (((returnLeases s win).setTx win TxWin.free).setReg sd 0) := by
  unfold unmapTx
  rw [if_neg]
  simpa using hf

/-- The entry of a window whose recall has begun, and of one whose recall is over. -/
def recallingWin (r : RxWin) (gt : Nat) : RxWin := { r with recallGt := gt + 1, silent := [] }
def recalledWin (r : RxWin) : RxWin := { r with state := 2, recallGt := 0 }

/-- A recall of a window without a lease. -/
theorem beginRecall_none {s : State} {rx : Nat} (hl : (s.rxWin rx).leases = []) (hr : (s.rxWin rx).recallGt = 0) :
    beginRecall s rx = s.setRx rx (recallingWin (s.rxWin rx) s.gt) := by
  unfold beginRecall
  simp [hl, hr, recallingWin]

/-- A recall for WUNMAP with no lease left frees the entry. -/
theorem recallGoOn_frees {s : State} {rx addr sd : Nat} (hl : (s.rxWin rx).leases = []) :
    recallGoOn s rx addr sd true = .ok ((s.setRx rx RxWin.free).setReg sd (BitVec.ofNat 64 (65536 * (s.rxWin rx).silent.length))) := by
  unfold recallGoOn endRecall
  simp [hl]

theorem beginRecall_frees {s : State} {rx addr sd : Nat} (hl : (s.rxWin rx).leases = []) (hr : (s.rxWin rx).recallGt = 0) :
    recallGoOn (beginRecall s rx) rx addr sd true = .ok ((s.setRx rx RxWin.free).setReg sd 0) := by
  have hwin : (s.setRx rx (recallingWin (s.rxWin rx) s.gt)).rxWin rx = recallingWin (s.rxWin rx) s.gt :=
    (State.rxWin_setRx ..).trans (if_pos rfl)
  rw [beginRecall_none hl hr, recallGoOn_frees (by rw [hwin]; exact hl), hwin, State.setRx_setRx]
  rfl

section ready
variable (h : Ready s (.wunmap y o) y t)
include h

theorem wunmap_reserved (ha : 2048 ≤ addrC t.c o) :
    Effect s (.wunmap y o) y s (withReg s t o.sd.toNat 2) (nextPc s (.wunmap y o)) 1 :=
  effect_setReg_beside h (exec_wunmap y o s) rfl rfl (fun k w he hk => by rw [wunmapBody_entered h he hk, if_pos ha])

theorem wunmap_tx_unmapped (ha : addrC t.c o < 1024)
    (hu : (s.txWin (addrC t.c o % 1024)).mapped = false ∨ (s.txWin (addrC t.c o % 1024)).part ≠ t.part) :
    Effect s (.wunmap y o) y s (withReg s t o.sd.toNat 1) (nextPc s (.wunmap y o)) 1 :=
  effect_setReg_beside h (exec_wunmap y o s) rfl rfl (fun k w he hk => by
    rw [wunmapBody_entered h he hk, if_neg (by omega), if_pos ha, if_pos hu])

theorem wunmap_tx (ha : addrC t.c o < 1024) (hm : (s.txWin (addrC t.c o % 1024)).mapped = true) (hp : (s.txWin (addrC t.c o % 1024)).part = t.part)
    (hf : ∀ f ∈ s.flits, f.win ≠ addrC t.c o % 1024) :
    Effect s (.wunmap y o) y ((returnLeases s (addrC t.c o % 1024)).setTx (addrC t.c o % 1024) TxWin.free) (withReg s t o.sd.toNat 0)
      (nextPc s (.wunmap y o)) 1 := by
  have hr := returnLeases_eq s (addrC t.c o % 1024)
  refine effect_setReg_beside h (exec_wunmap y o s) (by rw [hr]; rfl) (by rw [hr]; rfl) (fun k w he hk => ?_)
  rw [wunmapBody_entered h he hk, if_neg (by omega), if_pos ha, if_neg (by simp [hm, hp]), unmapTx_free (s := s.setHere k) hf, returnLeases_setHere,
    State.setTx_setHere]

theorem wunmap_rx_unmapped (h1 : 1024 ≤ addrC t.c o) (h2 : addrC t.c o < 2048)
    (hu : (s.rxWin (addrC t.c o % 1024)).state = 0 ∨ (s.rxWin (addrC t.c o % 1024)).part ≠ t.part) :
    Effect s (.wunmap y o) y s (withReg s t o.sd.toNat 1) (nextPc s (.wunmap y o)) 1 :=
  effect_setReg_beside h (exec_wunmap y o s) rfl rfl (fun k w he hk => by
    rw [wunmapBody_entered h he hk, if_neg (by omega), if_neg (by omega), if_pos hu])

theorem wunmap_rx (h1 : 1024 ≤ addrC t.c o) (h2 : addrC t.c o < 2048) (hs : (s.rxWin (addrC t.c o % 1024)).state ≠ 0)
    (hp : (s.rxWin (addrC t.c o % 1024)).part = t.part) (hl : (s.rxWin (addrC t.c o % 1024)).leases = [])
    (hr : (s.rxWin (addrC t.c o % 1024)).recallGt = 0) :
    Effect s (.wunmap y o) y (s.setRx (addrC t.c o % 1024) RxWin.free) (withReg s t o.sd.toNat 0) (nextPc s (.wunmap y o)) 1 := by
  refine effect_setReg_beside h (exec_wunmap y o s) rfl rfl (fun k w he hk => ?_)
  rw [wunmapBody_entered h he hk, if_neg (by omega), if_neg (by omega), if_neg (by simp [hs, hp]), beginRecall_frees (s := s.setHere k) hl hr,
    State.setRx_setHere]

end ready

/-- WUNMAP of a receive window that waited for its recall. -/
theorem wunmap_recalled {rx addr : Nat} (h : Resumes s (.wunmap y o) y w) (hw : w.op = .recall rx addr true) (hl : (s.rxWin rx).leases = []) :
    Completes s (.wunmap y o) (s.setRx rx RxWin.free) (withReg s s.here o.sd.toNat (BitVec.ofNat 64 (65536 * (s.rxWin rx).silent.length)))
      (nextPc s (.wunmap y o)) := by
  refine resumed_setReg h (exec_wunmap y o s) rfl rfl ?_
  unfold wunmapBody
  simp only [curOp_resumed h, hw]
  exact recallGoOn_frees hl

end unmap

/-! #### LRECALL (R98, R222) -/

section lrecall
variable {s x : State} {y : Syn} {o : COp} {t k : Task} {w : Wait}

/-- Stores of an instruction in its waiting phase join those of its sequencer. -/
theorem queueAll_waiting (hp : (k.seq x.cur.q).prog = none) (hw : (k.seq x.cur.q).wait = some w) (chain : Place → Nat)
    (us : List (Place × List (Option Byte))) :
    ∃ e, queueAll chain us (x.setHere k) = x.setHere (storesJoined k x.cur.q
      (us.map (queuedStore x.cur.core x.cur.q (k.seq x.cur.q).head x.mcc w.id chain (wholeLine us))) e) := by
  unfold queueAll
  generalize wholeLine us = whole
  induction us generalizing k with
  | nil =>
    refine ⟨(k.seq x.cur.q).early, ?_⟩
    rw [List.map_nil, storesJoined, List.append_nil]
    exact congrArg x.setHere (Task.setSeq_seq k x.cur.q).symm
  | cons u us ih =>
    have hid : curId (x.setHere k) = w.id := by simp only [curId, State.me_setHere, hp, hw]
    obtain ⟨e, he⟩ := queueChained_setHere x k w.id u.1 u.2 chain whole
    rw [List.foldl_cons, hid, he]
    obtain ⟨e2, he2⟩ := ih (k := k.setSeq x.cur.q { k.seq x.cur.q with
      stores := (k.seq x.cur.q).stores ++ [queuedStore x.cur.core x.cur.q (k.seq x.cur.q).head x.mcc w.id chain whole u], early := e })
      (by rw [Task.seq_setSeq]; exact hp) (by rw [Task.seq_setSeq]; exact hw)
    refine ⟨e2, he2.trans (congrArg x.setHere ?_)⟩
    simp only [storesJoined, Task.seq_setSeq, Task.setSeq_setSeq, List.map_cons, List.append_assoc, List.singleton_append]

/-- FAILMAP as the stores of its four granules. -/
def failStores (p : Place) (n : Nat) : List (Place × List (Option Byte)) :=
  (List.range 4).map (fun g => (p.add (16 * g), (leBytes 16 (n / 2 ^ (128 * g))).map some))

theorem storeFailmap_eq (s : State) (p : Place) (n : Nat) : storeFailmap s p n = queueAll (fun _ => 0) (failStores p n) s := rfl

/-- Without a silent source it is 0. -/
theorem failStores_zero (p : Place) : failStores p 0 = (List.range 4).map (fun g => (p.add (16 * g), List.replicate 16 (some 0))) := by
  have hz : (leBytes 16 0).map some = List.replicate 16 (some 0) := by decide
  simp only [failStores, Nat.zero_div, hz]

/-- A recall for LRECALL with no lease left: the entry is RECALLED, and FAILMAP is stored. -/
theorem recallGoOn_stores {rx addr sd : Nat} {p : Place} (hl : (s.rxWin rx).leases = [])
    (hc : checkAccess s s.cur.core s.here Ranges.noTx .store (addr + 64) 64 64 = .ok p) :
    recallGoOn s rx addr sd false
      = .ok ((queueAll (fun _ => 0) (failStores p (failMap (s.rxWin rx).silent)) (s.setRx rx (recalledWin (s.rxWin rx)))).setReg sd
          (BitVec.ofNat 64 (65536 * (s.rxWin rx).silent.length))) := by
  unfold recallGoOn endRecall
  simp only [hl, List.isEmpty_nil, if_true, Bool.false_eq_true, if_false, myCore, hc, storeFailmap_eq, recalledWin]

/-- FAILMAP and the status join the executing task, whose issue stays as it was. -/
theorem failmap_joins (hp : (k.seq x.cur.q).prog = none) (hw : (k.seq x.cur.q).wait = some w) (us : List (Place × List (Option Byte))) (r : Nat) (v : Word) :
    ∃ k', (queueAll (fun _ => 0) us (x.setHere k)).setReg r v = x.setHere k' ∧ SameIssue (k'.seq x.cur.q) (k.seq x.cur.q)
      ∧ bareTask k' x.cur.q
        = withReg x (withStoresOf (bareTask k x.cur.q) x.cur.core x.cur.q (k.seq x.cur.q).head x.mcc w.id (fun _ => 0) us) r v := by
  obtain ⟨e, he⟩ := queueAll_waiting hp hw (fun _ => 0) us
  rw [he, State.setReg_setHere]
  refine ⟨_, rfl, ?_, ?_⟩
  · rw [Task.seq_setSeq, storesJoined, Task.seq_setSeq]
    obtain ⟨h1, h2, h3, h4, h5⟩ := sameIssue_setReg { k.seq x.cur.q with stores := _, early := _ } r v
    exact ⟨h1, h2, h3, h4, h5⟩
  · rw [← bareTask_withStoresOf, ← bareTask_withReg, ← withReg, bareTask_withReg, bareTask_withReg]
    exact congrArg (withReg x · r v) (bareTask_of_bareSeq rfl)

theorem noProg_of_mayIssue (h : mayIssue s = true) : s.me.prog = none := by
  simp only [mayIssue, Bool.and_eq_true] at h
  simpa using h.1.2

/-- LRECALL that waited for its recall. -/
theorem lrecall_recalled {rx addr : Nat} {p : Place} (h : Resumes s (.lrecall y o) y w) (hw : w.op = .recall rx addr false)
    (hl : (s.rxWin rx).leases = []) (hc : checkAccess s s.cur.core s.here Ranges.noTx .store (addr + 64) 64 64 = .ok p) :
    Completes s (.lrecall y o) (s.setRx rx (recalledWin (s.rxWin rx)))
      (withReg s (withStoresOf s.here s.cur.core .c s.me.head s.mcc w.id (fun _ => 0) (failStores p (failMap (s.rxWin rx).silent))) o.sd.toNat
        (BitVec.ofNat 64 (65536 * (s.rxWin rx).silent.length))) (nextPc s (.lrecall y o)) := by
  have hq : s.cur.q = .c := beq_iff_eq.mp h.space
  generalize hk : atPc s (nextPc s (.lrecall y o)) = k
  have hseq : k.seq s.cur.q = { s.me with pc := nextPc s (.lrecall y o) } := hk ▸ seq_atPc ..
  have hbare : bareTask k s.cur.q = bareTask s.here s.cur.q := hk ▸ bareTask_atPc ..
  have hck : checkAccess (s.setHere k) s.cur.core (s.setHere k).here Ranges.noTx .store (addr + 64) 64 64 = .ok p := by
    rw [State.here_setHere]
    refine (checkAccess_congr (.inr ⟨_, _, _, State.setHere_eq s k⟩) ?_ ?_ _ _ _ _ _).trans hc <;> · subst hk; unfold atPc; cases s.cur.q <;> rfl
  obtain ⟨k', hk', hs, hb⟩ := failmap_joins (x := s.setRx rx (recalledWin (s.rxWin rx))) (k := k) (w := w)
    ((congrArg Seq.prog hseq).trans (noProg_of_mayIssue h.turn)) ((congrArg Seq.wait hseq).trans h.waiting)
    (failStores p (failMap (s.rxWin rx).silent)) o.sd.toNat (BitVec.ofNat 64 (65536 * (s.rxWin rx).silent.length))
  refine resumed_completes (t1 := k') h (exec_lrecall y o s) rfl rfl ?_ (hk ▸ hs) ?_
  · have hop := curOp_resumed h
    rw [hk] at hop ⊢
    unfold lrecallBody
    simp only [hop, hw]
    rw [recallGoOn_stores (s := s.setHere k) hl hck, State.rxWin_setHere, State.setRx_setHere, hk']
  · refine hb.trans ?_
    rw [bareTask_withReg, ← hq, bareTask_withStoresOf]
    show withReg s (withStoresOf (bareTask k s.cur.q) s.cur.core s.cur.q (k.seq s.cur.q).head s.mcc w.id (fun _ => 0) _) _ _ = _
    rw [hbare, hseq]

/-- An instruction that completes, in the terms of `After`. -/
theorem Completes.after {s0 : State} {i : Instr} {t2 : Task} {pc : BitVec 48} (h : Completes s i s0 t2 pc) :
    ∃ t', exec i s = .next (s0.setTask s.cur.core (s.bankOf s.cur.core) (some t'))
      ∧ After s (s0.setTask s.cur.core (s.bankOf s.cur.core) (some t')) t2 pc := by
  obtain ⟨t', hx, hb, hp, hw⟩ := h
  exact ⟨t', hx, t', State.task?_setTask .., hb, hp, hw⟩

/-- The entry of a window that had no lease to recall. -/
def emptiedWin (r : RxWin) : RxWin := { r with state := 2, silent := [], recallGt := 0 }

theorem beginRecall_stores {rx addr sd : Nat} {p : Place} (hl : (x.rxWin rx).leases = []) (hr : (x.rxWin rx).recallGt = 0)
    (hc : checkAccess x x.cur.core x.here Ranges.noTx .store (addr + 64) 64 64 = .ok p) :
    recallGoOn (beginRecall x rx) rx addr sd false
      = .ok ((queueAll (fun _ => 0) (failStores p 0) (x.setRx rx (emptiedWin (x.rxWin rx)))).setReg sd 0) := by
  have hwin : (x.setRx rx (recallingWin (x.rxWin rx) x.gt)).rxWin rx = recallingWin (x.rxWin rx) x.gt :=
    (State.rxWin_setRx ..).trans (if_pos rfl)
  rw [beginRecall_none hl hr, recallGoOn_stores (s := x.setRx rx (recallingWin (x.rxWin rx) x.gt)) (by rw [hwin]; exact hl) hc, hwin, State.setRx_setRx]
  rfl

/-- Stores that join see the executing task as it is put in its place. -/
theorem queueAll_here (chain : Place → Nat) {us : List (Place × List (Option Byte))} (hne : us ≠ []) :
    queueAll chain us (x.setHere x.here) = queueAll chain us x := by
  cases us with
  | nil => exact absurd rfl hne
  | cons u us =>
    have hme : (x.setHere x.here).me = x.me := State.me_setHere ..
    have hid : curId (x.setHere x.here) = curId x := by rw [curId, curId, hme]
    have hq (id : Nat) (b : Bool) : queueChained (x.setHere x.here) id u.1 u.2 none (chain u.1) b = queueChained x id u.1 u.2 none (chain u.1) b := by
      unfold queueChained
      rw [hme, State.setMe_setHere, State.setMe_eq]
      rfl
    unfold queueAll
    rw [List.foldl_cons, List.foldl_cons, hid, hq]

/-- After reads, and changes beside the cores. -/
theorem leaves_stores_setReg {i : Instr} {body : State → Res} {us : List (Place × List (Option Byte))} {r : Nat} {v : Word} (h : Ready s i y t)
    (hx : exec i s = run i y 1 body s) (hk : Entered s i t 1 k w) (ho : OwnReads s k x) (hm : x.mcc = s.mcc) (hne : us ≠ [])
    (hb : body (enteredAt s t y i) = .ok ((queueAll (fun _ => 0) us x).setReg r v)) :
    Leaves s i x (withReg s (withStores s x.here s.me.nextId us) r v) := by
  obtain ⟨l, e, hhere⟩ := ho.here
  have hseq : x.here.seq s.cur.q = { k.seq s.cur.q with stores := l, early := e } := by rw [hhere, afterReads, Task.seq_setSeq]
  have hw : (x.here.seq s.cur.q).wait = some w := (congrArg Seq.wait hseq).trans hk.wait
  obtain ⟨k', hk', hs, hb'⟩ := failmap_joins (x := x) (k := x.here) (w := w)
    (by rw [ho.cur, hseq]; exact hk.prog.trans h.prog) (by rw [ho.cur]; exact hw) us r v
  rw [queueAll_here _ hne] at hk'
  rw [ho.cur] at hs hb'
  rw [hk'] at hb
  refine completes_of (t1 := k') (by rw [hx, run_ok h]; exact congrArg (finish s.me.pc) hb) ho.cur ho.bank ?_ ?_ ?_ ?_
  · rw [hs.stream, hseq]; exact hk.stream.trans h.stream
  · rw [hs.wait, hw]; rfl
  · rw [hb', bareTask_withReg, withStores, bareTask_withStoresOf, hseq, hm, ← hk.head, ← hk.id, withReg, withReg, ho.cur]
  · rw [hs.pc, hseq]; exact hk.pc

section fresh
variable {r : State × List Byte} {p : Place} (h : Ready s (.lrecall y o) y t)
  (hr : readTask (enteredAt s t y (.lrecall y o)) Ranges.noTx 128 1 (addrC t.c o) = .ok r)
  (hc : checkAccess r.1 s.cur.core t Ranges.noTx .store (addrC t.c o + 64) 64 64 = .ok p)
include h hr hc

/-- What the reads of LRECALL leave, and what it does then in terms of the entry's number. -/
theorem lrecallBody_entered :
    ∃ k w, Entered s (.lrecall y o) t 1 k w ∧ TaskReads s k r.1
      ∧ checkAccess r.1 r.1.cur.core r.1.here Ranges.noTx .store (addrC t.c o + 64) 64 64 = .ok p
      ∧ lrecallBody o (enteredAt s t y (.lrecall y o))
        = if 1024 ≤ leNat (r.2.take 64) then .ok (r.1.setReg o.sd.toNat 2)
          else if (s.rxWin (leNat (r.2.take 64))).state ≠ 1 ∨ (s.rxWin (leNat (r.2.take 64))).part ≠ t.part then .ok (r.1.setReg o.sd.toNat 1)
          else recallGoOn (beginRecall r.1 (leNat (r.2.take 64))) (leNat (r.2.take 64)) (addrC t.c o) o.sd.toNat false := by
  obtain ⟨k, w, he, hk⟩ := entered_spec s (.lrecall y o) y t 1
  have ha : opAddr (s.setHere k) o = addrC t.c o := he ▸ opAddr_of_c (beq_iff_eq.mp h.space) 1
  rw [enteredAt, he] at hr ⊢
  have ht := TaskReads.refl.readTask hr
  obtain ⟨l, e, hhere⟩ := ht.here
  have hpart : r.1.here.part = t.part := by rw [hhere, ← hk.part]; unfold afterReads; cases s.cur.q <;> rfl
  have hext : r.1.here.extents = t.extents := by
    rw [hhere, ← hk.field (·.extents) (fun x => by cases s.cur.q <;> rfl)]; unfold afterReads; cases s.cur.q <;> rfl
  have hck : checkAccess r.1 r.1.cur.core r.1.here Ranges.noTx .store (addrC t.c o + 64) 64 64 = .ok p := by
    rw [ht.cur]
    exact (checkAccess_congr (.inl rfl) hext hpart _ _ _ _ _).trans hc
  have hrx (n : Nat) : r.1.rxWin n = s.rxWin n := by rw [State.rxWin, ht.rx]; rfl
  refine ⟨k, w, hk, ht, hck, ?_⟩
  unfold lrecallBody
  simp only [curOp_entered hk, ha, hr, myCore, hck, hpart, hrx, winStatus_1, winStatus_2, Bool.or_eq_true, bne_iff_ne]

theorem lrecall_reserved (hd : 1024 ≤ leNat (r.2.take 64)) : Leaves s (.lrecall y o) r.1 (withReg s r.1.here o.sd.toNat 2) := by
  obtain ⟨k, w, hk, ht, -, hb⟩ := lrecallBody_entered h hr hc
  exact leaves_setReg h (exec_lrecall y o s) hk ht.toOwnReads (hb.trans (if_pos hd))

theorem lrecall_unmapped (hd : leNat (r.2.take 64) < 1024)
    (hu : (s.rxWin (leNat (r.2.take 64))).state ≠ 1 ∨ (s.rxWin (leNat (r.2.take 64))).part ≠ t.part) :
    Leaves s (.lrecall y o) r.1 (withReg s r.1.here o.sd.toNat 1) := by
  obtain ⟨k, w, hk, ht, -, hb⟩ := lrecallBody_entered h hr hc
  exact leaves_setReg h (exec_lrecall y o s) hk ht.toOwnReads (hb.trans ((if_neg (by omega)).trans (if_pos hu)))

/-- LRECALL of a window without a lease. -/
theorem lrecall_unleased (hd : leNat (r.2.take 64) < 1024) (hs : (s.rxWin (leNat (r.2.take 64))).state = 1)
    (hp : (s.rxWin (leNat (r.2.take 64))).part = t.part) (hl : (s.rxWin (leNat (r.2.take 64))).leases = [])
    (hg : (s.rxWin (leNat (r.2.take 64))).recallGt = 0) :
    Leaves s (.lrecall y o) (r.1.setRx (leNat (r.2.take 64)) (emptiedWin (s.rxWin (leNat (r.2.take 64)))))
      (withReg s (withStores s r.1.here s.me.nextId (failStores p 0)) o.sd.toNat 0) := by
  obtain ⟨k, w, hk, ht, hck, hb⟩ := lrecallBody_entered h hr hc
  generalize leNat (r.2.take 64) = d at *
  have hwin : r.1.rxWin d = s.rxWin d := by rw [State.rxWin, ht.rx]; rfl
  rw [if_neg (by omega), if_neg (by simp [hs, hp]), beginRecall_stores (by rw [hwin]; exact hl) (by rw [hwin]; exact hg) hck, hwin] at hb
  exact leaves_stores_setReg h (exec_lrecall y o s) hk (ht.toOwnReads.of_cores rfl rfl) ht.mcc (by simp [failStores]) hb

end fresh

end lrecall

/-- Settles O22: each status is the register write that ends the body; a window that is freed or RECALLED is the one change beside it. -/
theorem windowEnds : Obligations.WindowEnds := by
  unfold Obligations.WindowEnds
  intro s y o t a k SaysU
  refine ⟨fun h => ⟨wunmap_reserved h, wunmap_tx_unmapped h, fun ha hm hp hf => ?_, wunmap_rx_unmapped h, wunmap_rx h⟩,
    fun w rx addr h hw hl => wunmap_recalled h hw hl, fun w rx addr p h hw hl hc => lrecall_recalled h hw hl hc,
    fun x p h hr hc => ⟨lrecall_reserved h hr hc, lrecall_unmapped h hr hc, fun hd hs hp hl hg => ?_⟩⟩
  · refine ⟨_, wunmap_tx h ha hm hp hf, (State.txWin_setTx ..).trans (if_pos rfl), ?_⟩
    rw [returnLeases_eq]
    exact ⟨rfl, rfl, rfl⟩
  · obtain ⟨t', hx, hafter⟩ := (lrecall_unleased h hr hc hd hs hp hl hg).after
    rw [failStores_zero] at hafter
    exact ⟨_, hx, hafter, SameOutside.setTask ⟨rfl, rfl, rfl, rfl, rfl, fun _ => ⟨rfl, rfl⟩⟩ _ _ _,
      (State.rxWin_setRx x.1 _ _ (emptiedWin _)).trans (if_pos rfl)⟩

/-! #### The descriptor of WMAP (R216, R217, R219) -/

section head
variable {s : State} {part d : Nat}

/-- The entry that a descriptor names is not one to be mapped. -/
def WmapBusy (s : State) (part d : Nat) : Prop :=
  if wIsRx d then (s.rxWin (wIndex d)).state ≠ 0 ∧ ¬ ((s.rxWin (wIndex d)).state = 2 ∧ (s.rxWin (wIndex d)).part = part)
  else s.txWin (wIndex d) ≠ TxWin.free

/-- A descriptor is bad for windows of both kinds, for a receive window, and for a transmit window. -/
def DescOdd (d : Nat) : Prop :=
  bits d 320 192 ≠ 0 ∨ bits d 200 56 ≠ 0 ∨ bits d 32 8 ≠ 0 ∨ bits d 26 5 ≠ 0 ∨ bits d 10 5 ≠ 0 ∨ wLog d < 12 ∨ 32 < wLog d
    ∨ 64 < wCount d

def RxOdd (s : State) (d : Nat) : Prop :=
  bits d 128 64 ≠ 0 ∨ wAllow d ≠ 0 ∨ wSlots d ≠ 0 ∨ d.testBit 31 = true ∨ wLoop d ≠ 0
    ∨ ((wLBase d).testBit 63 = false
        ∧ (wLBase d % 2 ^ wLog d ≠ 0 ∨ s.populated (wLBase d) (2 ^ wLog d) = false ∨ s.stackReady (wLBase d / 2 ^ 37) = false))
    ∨ ((wLBase d).testBit 63 = true
        ∧ (bits (wLBase d) 57 6 ≠ 0 ∨ bits (wLBase d) 23 25 ≠ 0 ∨ bits (wLBase d) 0 23 % 2 ^ wLog d ≠ 0 ∨ 23 < wLog d))

def TxOdd (s : State) (part d : Nat) : Prop :=
  wCount d = 0 ∨ bits d 186 6 ≠ 0 ∨ wAllow d = 0 ∨ 64 ≤ wSlots d ∨ wLoop d = 3
    ∨ wLBase d % 2 ^ wLog d ≠ 0 ∨ wLBase d < 0x100000000 ∨ 0x200000000 < wLBase d + 2 ^ wLog d
    ∨ (∃ e ∈ s.tx, e.2.part = part ∧ wLBase d < e.2.lbase + e.2.size ∧ e.2.lbase < wLBase d + 2 ^ wLog d)
    ∨ ((Sparse.get 0 s.slotOwner (wSlots d)).getLsbD 7 = true ∧ ((Sparse.get 0 s.slotOwner (wSlots d)).extractLsb' 0 6).toNat ≠ part)

theorem rxBaseOk_iff : rxBaseOk s d = true ↔
    ¬ (((wLBase d).testBit 63 = false
        ∧ (wLBase d % 2 ^ wLog d ≠ 0 ∨ s.populated (wLBase d) (2 ^ wLog d) = false ∨ s.stackReady (wLBase d / 2 ^ 37) = false))
      ∨ ((wLBase d).testBit 63 = true
        ∧ (bits (wLBase d) 57 6 ≠ 0 ∨ bits (wLBase d) 23 25 ≠ 0 ∨ bits (wLBase d) 0 23 % 2 ^ wLog d ≠ 0 ∨ 23 < wLog d))) := by
  unfold rxBaseOk
  cases hb : (wLBase d).testBit 63 <;> simp [hb, and_assoc]

theorem txBaseOk_iff : txBaseOk s part d = true ↔
    ¬ (wLBase d % 2 ^ wLog d ≠ 0 ∨ wLBase d < 0x100000000 ∨ 0x200000000 < wLBase d + 2 ^ wLog d
      ∨ ∃ e ∈ s.tx, e.2.part = part ∧ wLBase d < e.2.lbase + e.2.size ∧ e.2.lbase < wLBase d + 2 ^ wLog d) := by
  have overlap : s.tx.all (fun e => e.2.part != part || e.2.lbase + e.2.size ≤ wLBase d || wLBase d + 2 ^ wLog d ≤ e.2.lbase) = true
      ↔ ¬ ∃ e ∈ s.tx, e.2.part = part ∧ wLBase d < e.2.lbase + e.2.size ∧ e.2.lbase < wLBase d + 2 ^ wLog d := by
    simp only [List.all_eq_true, Bool.or_eq_true, bne_iff_ne, decide_eq_true_eq, not_exists, not_and]
    refine forall_congr' (fun e => forall_congr' (fun _ => ?_))
    omega
  unfold txBaseOk
  simp only [Bool.and_eq_true, beq_iff_eq, Config.txBase, Config.txTop, overlap, not_or, not_lt, ne_eq, not_not, and_assoc]
  exact and_congr_right (fun _ => and_congr decide_eq_true_iff (and_congr_left (fun _ => decide_eq_true_iff)))

theorem slotsetForeign_iff {set : Nat} : slotsetForeign s part set = true ↔
    (Sparse.get 0 s.slotOwner set).getLsbD 7 = true ∧ ((Sparse.get 0 s.slotOwner set).extractLsb' 0 6).toNat ≠ part := by
  simp [slotsetForeign]

/-- The fields of a descriptor. -/
theorem wShape_iff : wShape d = true ↔ ¬ DescOdd d ∧
    if wIsRx d then ¬ (bits d 128 64 ≠ 0 ∨ wAllow d ≠ 0 ∨ wSlots d ≠ 0 ∨ d.testBit 31 = true ∨ wLoop d ≠ 0)
    else ¬ (wCount d = 0 ∨ bits d 186 6 ≠ 0 ∨ wAllow d = 0 ∨ 64 ≤ wSlots d ∨ wLoop d = 3) := by
  unfold wShape DescOdd
  cases wIsRx d <;> simp [and_assoc]

theorem descOdd_iff :
    (!wShape d || (if wIsRx d then !rxBaseOk s d else !txBaseOk s part d || slotsetForeign s part (wSlots d))) = true
      ↔ DescOdd d ∨ (if wIsRx d then RxOdd s d else TxOdd s part d) := by
  rw [Bool.or_eq_true, Bool.not_eq_true', ← Bool.not_eq_true, wShape_iff]
  cases hk : wIsRx d
  · simp only [Bool.false_eq_true, if_false, Bool.or_eq_true, Bool.not_eq_true', ← Bool.not_eq_true, txBaseOk_iff, slotsetForeign_iff, TxOdd,
      not_and_or, not_not,
      or_assoc]
  · simp only [if_true, Bool.not_eq_true', ← Bool.not_eq_true, rxBaseOk_iff, RxOdd]
    tauto

theorem wmapBusy_iff : (if wIsRx d then !((s.rxWin (wIndex d)).state == 0 || ((s.rxWin (wIndex d)).state == 2 && (s.rxWin (wIndex d)).part == part))
    else s.txWin (wIndex d) != TxWin.free) = true ↔ WmapBusy s part d := by
  unfold WmapBusy
  cases wIsRx d with
  | false => simp
  | true =>
    simp only [if_true, Bool.not_eq_true', Bool.or_eq_false_iff, Bool.and_eq_false_iff, beq_eq_false_iff_ne, not_and_or, ne_eq]

theorem wmapHead_busy (h : WmapBusy s part d) : wmapHead s part d = some 1 := by
  unfold wmapHead
  exact if_pos (wmapBusy_iff.mpr h)

theorem wmapHead_odd (h : ¬ WmapBusy s part d) (ho : DescOdd d ∨ (if wIsRx d then RxOdd s d else TxOdd s part d)) : wmapHead s part d = some 2 := by
  unfold wmapHead
  exact (if_neg (fun hb => h (wmapBusy_iff.mp hb))).trans (if_pos (descOdd_iff.mpr ho))

theorem wmapHead_none_iff : wmapHead s part d = none ↔
    ¬ WmapBusy s part d ∧ ¬ DescOdd d ∧ ¬ (if wIsRx d then RxOdd s d else TxOdd s part d) := by
  by_cases hb : WmapBusy s part d
  · simp [wmapHead_busy hb, hb]
  · by_cases ho : DescOdd d ∨ (if wIsRx d then RxOdd s d else TxOdd s part d)
    · rw [wmapHead_odd hb ho]
      simp only [reduceCtorEq, false_iff]
      tauto
    · have hn : wmapHead s part d = none := by
        unfold wmapHead
        exact (if_neg (fun h => hb (wmapBusy_iff.mp h))).trans (if_neg (fun h => ho (descOdd_iff.mp h)))
      simp only [hn, true_iff]
      tauto

end head

/-! #### The members of a window (R219, R220) -/

section members
variable {s : State} {part d m pos : Nat} {ms : List Nat}

/-- What a member has to be. -/
def GoodPeer (s : State) (part d m : Nat) : Prop :=
  m < 512 ∧ (∀ a, a < 3 → placeOn m a < ringSize s a) ∧ s.disabled.getLsbD m = false
    ∧ ((s.part part).csrVal (0x118 + m / 64)).getLsbD (m % 64) = true
    ∧ (if wIsRx d then (∀ p, firstHop s m = some p → portReady s p = true ∨ portReady s (p + 1) = true)
        else ∃ p ∈ exitPorts s (wSlots d) m, portReady s p = true)

/-- The check of a member of the window. -/
def peerPasses (s : State) (part d m : Nat) : Bool := if wIsRx d then peerOk s part m else txPeerOk s part (wSlots d) m

theorem inDomain_iff : inDomain s m = true ↔ m < 512 ∧ ∀ a, a < 3 → placeOn m a < ringSize s a := by
  simp only [inDomain, Bool.and_eq_true, decide_eq_true_eq, List.all_eq_true, List.mem_cons, List.not_mem_nil, or_false]
  refine and_congr_right (fun _ => forall_congr' (fun a => imp_congr_left ?_))
  omega

theorem peerKnown_iff : peerKnown s part m = true ↔ m < 512 ∧ (∀ a, a < 3 → placeOn m a < ringSize s a) ∧ s.disabled.getLsbD m = false
    ∧ ((s.part part).csrVal (0x118 + m / 64)).getLsbD (m % 64) = true := by
  simp only [peerKnown, Bool.and_eq_true, inDomain_iff, Bool.not_eq_true', inGroup, decide_eq_true_eq]
  tauto

theorem peerPasses_iff : peerPasses s part d m = true ↔ GoodPeer s part d m := by
  unfold peerPasses GoodPeer
  cases wIsRx d
  · simp only [Bool.false_eq_true, if_false, txPeerOk, Bool.and_eq_true, peerKnown_iff, List.any_eq_true, and_assoc]
  · simp only [if_true, peerOk, Bool.and_eq_true, peerKnown_iff, and_assoc]
    cases firstHop s m <;> simp [hopReady]

theorem listOk_iff : listOk ms = true ↔ ms.Nodup ∧ ∀ m ∈ ms, m < 1024 := by
  simp [listOk, and_comm]

/-- The first member that fails a check is found, with its position. -/
theorem find_zipIdx_first {f : Nat → Bool} (hm : ms[pos]? = some m) (hf : f m = false) (hb : ∀ j x, j < pos → ms[j]? = some x → f x = true) :
    ms.zipIdx.find? (fun x => !f x.1) = some (m, pos) := by
  obtain ⟨hlt, hget⟩ := List.getElem?_eq_some_iff.mp hm
  refine List.find?_eq_some_iff_getElem.mpr ⟨by simp [hf], pos, by simpa using hlt, by simp [hget], fun j hj => ?_⟩
  simpa using hb j _ hj (List.getElem?_eq_getElem (hj.trans hlt))

theorem find_zipIdx_none {f : Nat → Bool} (h : ∀ m ∈ ms, f m = true) : ms.zipIdx.find? (fun x => !f x.1) = none :=
  List.find?_eq_none.mpr (fun x hx => by simp [h x.1 (List.fst_mem_of_mem_zipIdx hx)])

theorem wmapCheck_list (h : ¬ ms.Nodup ∨ ∃ m ∈ ms, 1024 ≤ m) : wmapCheck s part d ms = some 2 := by
  have hl : listOk ms = false := by
    rw [← Bool.not_eq_true, listOk_iff]
    rcases h with h | ⟨m, hm, hb⟩
    · exact fun hn => h hn.1
    · exact fun hn => absurd (hn.2 m hm) (by omega)
  unfold wmapCheck
  simp [hl, winStatus_2]

/-- Every member of the domain can be reached through the slots of a transmit window. -/
def Reachable (s : State) (d : Nat) (ms : List Nat) : Prop := wIsRx d = false → ∀ m ∈ ms, inDomain s m = true → exitPorts s (wSlots d) m ≠ []

/-- A receive window of this module takes the copies that a transmit window loops back. -/
def LoopTaken (s : State) (d : Nat) : Prop :=
  (s.rxWin (wRx d)).state = 1
    ∧ (if (s.rxWin (wRx d)).sources = [] then
        s.modNum < 512 ∧ ((s.part (s.rxWin (wRx d)).part).csrVal (0x118 + s.modNum / 64)).getLsbD (s.modNum % 64) = true
      else s.modNum ∈ (s.rxWin (wRx d)).sources)
    ∧ wRxOff d + 2 ^ wLog d ≤ (s.rxWin (wRx d)).size

theorem loopTaken_iff : ((s.rxWin (wRx d)).state == 1 && rxAllows s (s.rxWin (wRx d)) s.modNum && wRxOff d + 2 ^ wLog d ≤ (s.rxWin (wRx d)).size) = true
    ↔ LoopTaken s d := by
  unfold LoopTaken rxAllows inGroup
  cases (s.rxWin (wRx d)).sources <;> simp [and_assoc]

section good
variable (hn : ms.Nodup) (hb : ∀ m ∈ ms, m < 1024)
include hn hb

theorem wmapCheck_unreachable (hk : wIsRx d = false) (h : ∃ m ∈ ms, inDomain s m = true ∧ exitPorts s (wSlots d) m = []) :
    wmapCheck s part d ms = some 2 := by
  unfold wmapCheck
  simp only [listOk_iff.mpr ⟨hn, hb⟩, hk]
  simp [h, winStatus_2]

/-- The first member that fails its check. -/
theorem wmapCheck_found (hr : Reachable s d ms) {x : Nat × Nat} (hf : ms.zipIdx.find? (fun x => !peerPasses s part d x.1) = some x) :
    wmapCheck s part d ms = some (winStatus 3 x.2) := by
  unfold wmapCheck
  unfold peerPasses at hf
  simp only [listOk_iff.mpr ⟨hn, hb⟩]
  cases hk : wIsRx d with
  | false =>
    have hreach : ms.any (fun m => inDomain s m && (exitPorts s (wSlots d) m).isEmpty) = false := by
      simpa using fun m hm hd => by simpa using hr hk m hm hd
    simp only [hk, Bool.false_eq_true, if_false] at hf
    simp only [hreach, hf, Bool.not_true, Bool.false_eq_true, if_false]
  | true =>
    simp only [hk, if_true] at hf
    simp only [hf, Bool.not_true, Bool.false_eq_true, if_false, if_true]

theorem wmapCheck_peer (hr : Reachable s d ms) (hm : ms[pos]? = some m) (hf : ¬ GoodPeer s part d m)
    (hbefore : ∀ j x, j < pos → ms[j]? = some x → GoodPeer s part d x) : wmapCheck s part d ms = some (winStatus 3 pos) :=
  wmapCheck_found hn hb hr (find_zipIdx_first (f := peerPasses s part d) hm (by rw [← Bool.not_eq_true, peerPasses_iff]; exact hf)
    (fun j x hj hx => peerPasses_iff.mpr (hbefore j x hj hx)))

theorem wmapCheck_loop (hk : wIsRx d = false) (hp : ∀ m ∈ ms, GoodPeer s part d m) (hl : wLoop d ≠ 0) (hx : ¬ LoopTaken s d) :
    wmapCheck s part d ms = some (winStatus 4 0xFF) := by
  have hreach : ms.any (fun m => inDomain s m && (exitPorts s (wSlots d) m).isEmpty) = false := by
    refine List.any_eq_false.mpr (fun m hm he => ?_)
    obtain ⟨-, -, -, -, hport⟩ := hp m hm
    simp only [Bool.and_eq_true, List.isEmpty_iff] at he
    simp [hk, he.2] at hport
  have hfind := find_zipIdx_none (f := peerPasses s part d) (fun m hm => peerPasses_iff.mpr (hp m hm))
  unfold peerPasses at hfind
  simp only [hk, Bool.false_eq_true, if_false] at hfind
  rw [← loopTaken_iff, Bool.not_eq_true] at hx
  unfold wmapCheck
  simp only [listOk_iff.mpr ⟨hn, hb⟩, hk, hreach, hfind, hx]
  simp [hl]

end good
end members

/-! #### WMAP: the status, the receive window, and the leases asked (R219, R220) -/

section wait
variable {x : State} {t : Task} {head : BitVec 48}

theorem stallWith_setHere (w : Wait) :
    ∃ w', stallWith (x.setHere t) w = x.setHere (t.setSeq x.cur.q { t.seq x.cur.q with wait := some w' }) := by
  unfold stallWith
  simp only [State.me_setHere, State.setMe_setHere]
  exact ⟨_, rfl⟩

theorem issuedWaiting_setHere : ∃ t', issuedWaiting (x.setHere t) = x.setHere t' ∧ TokensOnly t t' := by
  unfold issuedWaiting
  split
  · split
    · exact ⟨t, rfl, .refl t⟩
    · exact issued_eq x t
  · exact ⟨t, rfl, .refl t⟩

theorem settleMe_setHere : ∃ t' fl, settleMe (x.setHere t) = x.setHere t' ∧ TokensOnly (t.setSeq x.cur.q { t.seq x.cur.q with flights := fl }) t' := by
  obtain ⟨t', fl, hs, ht⟩ := settle_eq (x.setHere t) x.cur.core (x.bankOf x.cur.core) x.cur.q t (State.task?_setHere x t)
  refine ⟨t', fl, ?_, ht⟩
  unfold settleMe
  rw [State.bankOf_setHere, State.setHere_cur, hs, State.setHere_eq, State.setHere_eq, State.setTask_setTask]

theorem timedHere_setHere_wait (h : timedHere x = false) (u : Seq) (hu : u.timed = x.me.timed) : timedHere (x.setHere (x.here.setSeq x.cur.q u)) = false := by
  unfold timedHere isTimed at h ⊢
  rw [State.here_setHere, State.me_setHere, Task.seq_setSeq, hu]
  cases x.cur.q <;> exact h

/-- An untimed sequencer whose instruction waits stands at its head parcel; beside its task nothing changes. -/
theorem finish_wait {w : Wait} (hw : x.me.wait = some w) (ht : timedHere x = false) (kind addr sent : Nat) (op : OpProg) :
    ∃ t', finish head (.wait kind op addr sent x) = .next (x.setHere t') ∧ (t'.seq x.cur.q).pc = head := by
  obtain ⟨w', hstall⟩ := stallWith_setHere (x := x) (t := x.here.setSeq x.cur.q { x.me with pc := head })
    { w with kind := kind, op := op, addr := addr, sent := sent }
  rw [Task.seq_setSeq, Task.setSeq_setSeq, ← State.setMe_eq] at hstall
  obtain ⟨t1, h1, ht1⟩ := issuedWaiting_setHere (x := x) (t := x.here.setSeq x.cur.q { x.me with pc := head, wait := some w' })
  obtain ⟨t2, fl, h2, ht2⟩ := settleMe_setHere (x := x) (t := t1)
  have hme : (x.setMe { x.me with pc := head }).me.wait = some w := by rw [State.me_setMe]; exact hw
  have huntimed := (congrArg timedHere hstall).trans (timedHere_setHere_wait ht _ rfl)
  have hsettled := congrArg (fun z => settleMe (issuedWaiting z)) hstall
  refine ⟨t2, ?_, ?_⟩
  · unfold finish
    dsimp only
    rw [hme]
    refine (if_neg (fun h => ?_)).trans (congrArg Host.Outcome.next (hsettled.trans ((congrArg settleMe h1).trans h2)))
    exact Bool.false_ne_true (huntimed.symm.trans (Bool.and_eq_true_iff.mp h).1)
  · rw [ht2.seq, Task.seq_setSeq]
    exact (congrArg Seq.pc (ht1.seq x.cur.q)).trans (by rw [Task.seq_setSeq])

end wait

/-- The entry of a transmit window that asks its members. -/
def askingWin (s : State) (part d : Nat) (ms : List Nat) : TxWin :=
  { TxWin.free with part := part, lbase := wLBase d, size := 2 ^ wLog d, rx := wRx d, rxOff := wRxOff d, allow := wAllow d, slotset := wSlots d,
                    failtrap := d.testBit 31, loop := wLoop d, members := ms, asker := askerOf s, askedGt := s.gt }

/-- The messages of a list join those that are there. -/
theorem sayAll_out {α : Type} (m : α → Msg) (l : List α) (s : State) : l.foldl (fun s x => s.say (m x)) s = { s with out := s.out ++ l.map m } := by
  have said := sayWhere_out (fun _ => true) m l s
  simpa only [if_true, List.filter_true] using said

theorem askLeases_eq (s : State) (part d : Nat) (ms : List Nat) :
    askLeases s part d ms = { s.setTx (wIndex d) (askingWin s part d ms) with
      out := s.out ++ ms.map (fun m => Msg.leaseAsk m (wRx d) (wRxOff d + 2 ^ wLog d)) } :=
  sayAll_out ..

section wmap
variable {s z : State} {y : Syn} {o : COp} {t : Task} {r : State × List Byte} {ms : List Nat}

/-- The checks of WMAP do not look at the cores. -/
theorem wmapHead_setHere (s : State) (k : Task) (part d : Nat) : wmapHead (s.setHere k) part d = wmapHead s part d := rfl
theorem wmapCheck_setHere (s : State) (k : Task) (part d : Nat) (ms : List Nat) : wmapCheck (s.setHere k) part d ms = wmapCheck s part d ms := rfl

section fresh
variable (h : Ready s (.wmap y o) y t) (hr : readTask (enteredAt s t y (.wmap y o)) Ranges.noTx 64 1 (addrC t.c o) = .ok r)
include h hr

/-- What the first read of WMAP leaves, and what follows it in terms of the descriptor. -/
theorem wmapBody_entered : ∃ k w, Entered s (.wmap y o) t 1 k w ∧ TaskReads s k r.1
    ∧ wmapBody o (enteredAt s t y (.wmap y o)) = match wmapHead s t.part (leNat r.2) with
      | some v => .ok (r.1.setReg o.sd.toNat v)
      | none =>
        match readMembers r.1 (wCount (leNat r.2)) (wList (leNat r.2)) with
        | .error e => e.res
        | .ok l =>
          match wmapCheck s t.part (leNat r.2) l.2 with
          | some v => .ok (l.1.setReg o.sd.toNat v)
          | none =>
            if wIsRx (leNat r.2) then .ok ((mapRx l.1 t.part (leNat r.2) l.2).1.setReg o.sd.toNat (mapRx l.1 t.part (leNat r.2) l.2).2)
            else .wait 7 (.wmap (wIndex (leNat r.2))) 0 0 (askLeases l.1 t.part (leNat r.2) l.2) := by
  obtain ⟨k, w, he, hk⟩ := entered_spec s (.wmap y o) y t 1
  have ha : opAddr (s.setHere k) o = addrC t.c o := he ▸ opAddr_of_c (beq_iff_eq.mp h.space) 1
  rw [enteredAt, he] at hr ⊢
  refine ⟨k, w, hk, TaskReads.refl.readTask hr, ?_⟩
  unfold wmapBody
  simp only [curOp_entered hk, ha, hr, State.here_setHere, hk.part, wmapHead_setHere, wmapCheck_setHere] <;> rfl

/-- The descriptor alone decides the status. -/
theorem wmap_head {v : Word} (hh : wmapHead s t.part (leNat r.2) = some v) : Leaves s (.wmap y o) r.1 (withReg s r.1.here o.sd.toNat v) := by
  obtain ⟨k, w, hk, ht, hb⟩ := wmapBody_entered h hr
  rw [hh] at hb
  exact leaves_setReg h (exec_wmap y o s) hk ht.toOwnReads hb

section checked
variable (hh : wmapHead s t.part (leNat r.2) = none) (hm : readMembers r.1 (wCount (leNat r.2)) (wList (leNat r.2)) = .ok (z, ms))
include hh hm

/-- What the second read leaves, and what follows it. -/
theorem wmapBody_listed : ∃ k w, Entered s (.wmap y o) t 1 k w ∧ TaskReads s k z
    ∧ wmapBody o (enteredAt s t y (.wmap y o)) = match wmapCheck s t.part (leNat r.2) ms with
      | some v => .ok (z.setReg o.sd.toNat v)
      | none =>
        if wIsRx (leNat r.2) then .ok ((mapRx z t.part (leNat r.2) ms).1.setReg o.sd.toNat (mapRx z t.part (leNat r.2) ms).2)
        else .wait 7 (.wmap (wIndex (leNat r.2))) 0 0 (askLeases z t.part (leNat r.2) ms) := by
  obtain ⟨k, w, hk, ht, hb⟩ := wmapBody_entered h hr
  rw [hh, hm] at hb
  exact ⟨k, w, hk, ht.readMembers hm, hb⟩

/-- A check on this module fails. -/
theorem wmap_check {v : Word} (hc : wmapCheck s t.part (leNat r.2) ms = some v) : Leaves s (.wmap y o) z (withReg s z.here o.sd.toNat v) := by
  obtain ⟨k, w, hk, ht, hb⟩ := wmapBody_listed h hr hh hm
  rw [hc] at hb
  exact leaves_setReg h (exec_wmap y o s) hk ht.toOwnReads hb

variable (hc : wmapCheck s t.part (leNat r.2) ms = none)
include hc

/-- A receive window: what the mapping leaves beside the cores. -/
theorem wmap_rx {s0 : State} {v : Word} (hx : wIsRx (leNat r.2) = true) (hmap : z.rx = s.rx → mapRx z t.part (leNat r.2) ms = (s0, v))
    (hcur : s0.cur = z.cur) (hcores : s0.cores = z.cores) : Leaves s (.wmap y o) s0 (withReg s s0.here o.sd.toNat v) := by
  obtain ⟨k, w, hk, ht, hb⟩ := wmapBody_listed h hr hh hm
  rw [hc, hmap ht.rx] at hb
  exact leaves_setReg h (exec_wmap y o s) hk (ht.toOwnReads.of_cores hcur hcores) (hb.trans (if_pos hx))

/-- A transmit window asks every member. -/
theorem wmap_asks (hx : wIsRx (leNat r.2) = false) (hq : timedHere s = false) :
    ∃ t', exec (.wmap y o) s = .next ((askLeases z t.part (leNat r.2) ms).setHere t') ∧ (t'.seq s.cur.q).pc = s.me.pc := by
  obtain ⟨k, w, hk, ht, hb⟩ := wmapBody_listed h hr hh hm
  rw [hc, if_neg (by simp [hx])] at hb
  have ho : OwnReads s k (askLeases z t.part (leNat r.2) ms) := ht.toOwnReads.of_cores (by rw [askLeases_eq]; rfl) (by rw [askLeases_eq]; rfl)
  obtain ⟨l, e, hhere⟩ := ho.here
  have hseq : (askLeases z t.part (leNat r.2) ms).me = { k.seq s.cur.q with stores := l, early := e } := by
    rw [State.me, ho.cur, hhere, afterReads, Task.seq_setSeq]
  have htimed : timedHere (askLeases z t.part (leNat r.2) ms) = false := by
    rw [← hk.timed h, timedHere, State.here_setHere, State.me_setHere] at hq
    rw [timedHere, hseq, hhere, ← hq]
    unfold afterReads isTimed
    cases s.cur.q <;> rfl
  obtain ⟨t', hf, hpc⟩ := finish_wait (head := s.me.pc) (w := w) (by rw [hseq]; exact hk.wait) htimed 7 0 0
    (.wmap (wIndex (leNat r.2)))
  rw [ho.cur] at hpc
  exact ⟨t', (exec_wmap y o s).trans ((run_ok h 1 _).trans ((congrArg (finish s.me.pc) hb).trans hf)), hpc⟩

end checked
end fresh

/-! #### The answers (R220 step 4, R219 codes 4 and 5) -/

/-- A window that is freed is so whatever the cores hold. -/
theorem freeAsked_setHere (s : State) (k : Task) (win : Nat) : freeAsked (s.setHere k) win = (freeAsked s win).setHere k := by
  have e (s : State) := sayWhere_out (fun x : Nat × Nat => (s.txWin win).granted.getLsbD x.2) (fun x => .leaseReturn x.1 (s.txWin win).rx)
    (s.txWin win).members.zipIdx s
  unfold freeAsked
  dsimp only
  rw [e, e]
  rfl

theorem getLsbD_mask {w : TxWin} {j : Nat} (hj : j < w.members.length) (hl : w.members.length ≤ 64) : w.mask.getLsbD j = true := by
  simp only [TxWin.mask, BitVec.getLsbD_ofNat, Nat.testBit_two_pow_sub_one, Bool.and_eq_true, decide_eq_true_eq]
  omega

/-- The first member without a lease is the one that the status names. -/
theorem find_missing {w : TxWin} {pos : Nat} (hp : pos < w.members.length) (hl : w.members.length ≤ 64)
    (hb : ∀ j, j < pos → w.granted.getLsbD j = true) (hg : w.granted.getLsbD pos = false) :
    (upTo 64 id).find? (fun i => (w.mask &&& ~~~ w.granted).getLsbD i) = some pos := by
  unfold upTo
  rw [List.map_id]
  refine List.find?_eq_some_iff_getElem.mpr ⟨by simp [getLsbD_mask hp hl, hg]; omega, pos, by simp; omega, by simp, fun j hj => ?_⟩
  simp [hb j hj]

section resumed
variable {w : Wait} {win : Nat} (h : Resumes s (.wmap y o) y w) (hw : w.op = .wmap win)
include h hw

theorem wmapBody_resumed : wmapBody o (s.setHere (atPc s (nextPc s (.wmap y o)))) = wmapGoOn (s.setHere (atPc s (nextPc s (.wmap y o)))) win o.sd.toNat := by
  unfold wmapBody
  simp only [curOp_resumed h, hw]

/-- All members have granted. -/
theorem wmap_granted (hg : (s.txWin win).granted = (s.txWin win).mask) :
    Completes s (.wmap y o) (s.setTx win { s.txWin win with mapped := true, asker := 0 }) (withReg s s.here o.sd.toNat 0) (nextPc s (.wmap y o)) := by
  refine resumed_setReg h (exec_wmap y o s) rfl rfl ((wmapBody_resumed h hw).trans ?_)
  unfold wmapGoOn
  simp only [State.txWin_setHere, hg, if_true]
  rfl

/-- A member has refused, or has not answered in time: the entry is free. -/
theorem wmap_freed {pos : Nat} (hp : pos < (s.txWin win).members.length) (hb : ∀ j, j < pos → (s.txWin win).granted.getLsbD j = true)
    (hg : (s.txWin win).granted.getLsbD pos = false) (hl : (s.txWin win).members.length ≤ 64)
    (hd : (s.txWin win).mask &&& ~~~ ((s.txWin win).granted ||| (s.txWin win).refused) = 0 ∨ (s.txWin win).askedGt + 10000 ≤ s.gt) :
    Completes s (.wmap y o) (freeAsked s win)
      (withReg s s.here o.sd.toNat (winStatus (if (s.txWin win).refused.getLsbD pos then 4 else 5) pos)) (nextPc s (.wmap y o)) := by
  have hne : (s.txWin win).granted ≠ (s.txWin win).mask := fun e => by
    have := getLsbD_mask hp hl
    rw [← e, hg] at this
    cases this
  refine resumed_setReg h (exec_wmap y o s) (by rw [freeAsked_eq]; rfl) (by rw [freeAsked_eq]; rfl) ((wmapBody_resumed h hw).trans ?_)
  have hgt : (s.setHere (atPc s (nextPc s (.wmap y o)))).gt = s.gt := rfl
  unfold wmapGoOn
  simp only [State.txWin_setHere, hne, if_false, hgt, find_missing hp hl hb hg, Option.getD_some, freeAsked_setHere]
  exact if_pos (Bool.or_eq_true_iff.mpr (hd.imp decide_eq_true decide_eq_true))

/-- The freed entry, beside which no core and no memory changes. -/
theorem wmap_frees {pos code : Nat} (hp : pos < (s.txWin win).members.length) (hb : ∀ j, j < pos → (s.txWin win).granted.getLsbD j = true)
    (hg : (s.txWin win).granted.getLsbD pos = false) (hl : (s.txWin win).members.length ≤ 64)
    (hd : (s.txWin win).mask &&& ~~~ ((s.txWin win).granted ||| (s.txWin win).refused) = 0 ∨ (s.txWin win).askedGt + 10000 ≤ s.gt)
    (hcode : (if (s.txWin win).refused.getLsbD pos then 4 else 5) = code) :
    ∃ s0, Completes s (.wmap y o) s0 (withReg s s.here o.sd.toNat (BitVec.ofNat 64 (code + 256 * pos))) (nextPc s (.wmap y o))
      ∧ s0.txWin win = TxWin.free ∧ s0.cores = s.cores ∧ s0.hbm = s.hbm := by
  subst hcode
  refine ⟨_, wmap_freed h hw hp hb hg hl hd, (freeAsked_keeps s win).2, ?_⟩
  rw [freeAsked_eq]
  exact ⟨rfl, rfl⟩

end resumed
end wmap

section mapped
variable {s z : State} {part d : Nat} {ms : List Nat} (hz : z.rx = s.rx)
include hz

theorem rxWin_of_rx (n : Nat) : z.rxWin n = s.rxWin n := by rw [State.rxWin, hz, State.rxWin]

theorem mapRx_free (hs : (s.rxWin (wIndex d)).state = 0) :
    mapRx z part d ms = (z.setRx (wIndex d)
      { RxWin.free with state := 1, part := part, lbase := BitVec.ofNat 64 (wLBase d), size := 2 ^ wLog d, sources := ms }, 0) := by
  unfold mapRx
  simp only [rxWin_of_rx hz, hs, if_true]

theorem mapRx_otherSize (hs : (s.rxWin (wIndex d)).state = 2) (hn : (s.rxWin (wIndex d)).size ≠ 2 ^ wLog d) : mapRx z part d ms = (z, 2) := by
  unfold mapRx
  simp only [rxWin_of_rx hz, hs, OfNat.ofNat_ne_zero, if_false, bne_iff_ne, ne_eq, hn, not_false_eq_true, if_true, winStatus_2]

/-- The entry of a receive window that is mapped again. -/
def remappedWin (r : RxWin) (base : Word) : RxWin :=
  { r with state := 1, lbase := base, epoch := r.epoch + 1, leases := r.released, released := [], silent := [], barred := [] }

theorem mapRx_again (hs : (s.rxWin (wIndex d)).state = 2) (hn : (s.rxWin (wIndex d)).size = 2 ^ wLog d) :
    ∃ out, mapRx z part d ms = ({ z.setRx (wIndex d) (remappedWin (s.rxWin (wIndex d)) (BitVec.ofNat 64 (wLBase d))) with out := out }, 0) := by
  unfold mapRx
  dsimp only
  rw [rxWin_of_rx hz, if_neg (by rw [hs]; decide), if_neg (by simp [hn]), sayAll_out]
  exact ⟨_, rfl⟩

end mapped

/-- What lies beside the memory, the partitions and the flits may differ. -/
theorem SameOutside.beside {x x' : State} (h1 : x'.hbm = x.hbm) (h2 : x'.errs = x.errs) (h3 : x'.parts = x.parts) (h4 : x'.flits = x.flits)
    (h5 : x'.landings = x.landings) (h6 : x'.cores = x.cores) : SameOutside x x' :=
  ⟨h1, h2, h3, h4, h5, fun n => by simp only [State.core, h6, and_self]⟩

/-- Settles O21: the checks in their order decide the status; a receive window is mapped in the entry, a transmit window asks its members, and the
answers map it or free it. -/
theorem windowMapping : Obligations.WindowMapping := by
  unfold Obligations.WindowMapping
  intro s y o t r ms z i d k n base rx Says busy odd oddRx oddTx peer
  refine ⟨fun h hr => ⟨fun hb => wmap_head h hr (wmapHead_busy hb), fun hb ho => wmap_head h hr (wmapHead_odd hb ho), wmapHead_none_iff,
    fun hh hm => ⟨fun hl => wmap_check h hr hh hm (wmapCheck_list hl), fun hk hn hlt hu => wmap_check h hr hh hm (wmapCheck_unreachable hn hlt hk hu),
      fun pos m hn hlt hreach hp hbad hbefore => wmap_check h hr hh hm (wmapCheck_peer hn hlt hreach hp hbad hbefore),
      fun hk hn hlt hp hl hx => wmap_check h hr hh hm (wmapCheck_loop hn hlt hk hp hl hx), fun v hc => wmap_check h hr hh hm hc,
      fun hc hk hs => wmap_rx h hr hh hm hc hk (fun hz => mapRx_free hz hs) rfl rfl, fun hc hk hs hn => ?again,
      fun hc hk hs hn => wmap_rx h hr hh hm hc hk (fun hz => mapRx_otherSize hz hs hn) rfl rfl, fun hc hk hq => ?asks⟩⟩,
    fun w win h hw => ⟨wmap_granted h hw, fun pos hp hb hg hl hd hf => wmap_frees h hw hp hb hg hl (.inl hd) (by rw [if_pos hf]),
      fun pos hp hb hg hl hd hf => wmap_frees h hw hp hb hg hl (.inr hd) (by rw [hf]; rfl)⟩⟩
  case again =>
    obtain ⟨_, _, _, ht, -⟩ := wmapBody_listed h hr hh hm
    obtain ⟨out, hmap⟩ := mapRx_again (part := t.part) (ms := ms) ht.rx hs hn
    obtain ⟨t', hx, hafter⟩ := (wmap_rx h hr hh hm hc hk (fun _ => hmap) rfl rfl).after
    have hwin := (State.rxWin_setRx z k k (remappedWin rx (BitVec.ofNat 64 base))).trans (if_pos rfl)
    exact ⟨_, hx, hafter, (SameOutside.beside rfl rfl rfl rfl rfl rfl).setTask _ _ _, congrArg RxWin.state hwin, congrArg RxWin.epoch hwin,
      congrArg RxWin.lbase hwin⟩
  case asks =>
    obtain ⟨_, _, _, ht, -⟩ := wmapBody_listed h hr hh hm
    obtain ⟨t', hx, hpc⟩ := wmap_asks h hr hh hm hc hk hq
    rw [askLeases_eq] at hx
    have hwin := (State.txWin_setTx z k k (askingWin z t.part d ms)).trans (if_pos rfl)
    refine ⟨_, hx, ?_, ?_, congrArg TxWin.mapped hwin, congrArg TxWin.members hwin, congrArg TxWin.lbase hwin,
      (SameOutside.beside rfl rfl rfl rfl rfl rfl).setTask _ _ _⟩
    · rw [State.me_setHere]
      exact (congrArg (fun c : Ctx => (t'.seq c.q).pc) ht.cur).trans hpc
    · exact congrArg (· ++ ms.map (fun m => Msg.leaseAsk m (wRx d) (wRxOff d + n))) ht.out

end Sys2Proof

namespace Sys2Proof

open Sys2Proof.Machine

/-! ### Flits (O46) -/

/-! #### The ports of a first hop (R233) -/

section ports
variable {s : State} {set m port : Nat}

/-- The lower port of the direction in which a route along an axis begins. -/
def axisPort (s : State) (m a : Nat) : Nat :=
  4 * a + (if 2 * ((placeOn m a + ringSize s a - placeOn s.modNum a) % ringSize s a) ≤ ringSize s a then 0 else 2)

theorem firstHop_some_iff {p : Nat} : firstHop s m = some p ↔
    ∃ a, a < 3 ∧ placeOn m a ≠ placeOn s.modNum a ∧ (∀ b, b < a → placeOn m b = placeOn s.modNum b) ∧ axisPort s m a = p := by
  have hr : [0, 1, 2] = List.range 3 := rfl
  unfold firstHop
  rw [hr, Option.map_eq_some_iff]
  simp only [List.find?_range_eq_some, List.mem_range, bne_iff_ne, Bool.not_eq_true', bne_eq_false_iff_eq]
  exact exists_congr (fun a => ⟨fun ⟨⟨hn, hl, hb⟩, hp⟩ => ⟨hl, hn, hb, hp⟩, fun ⟨hl, hn, hb, hp⟩ => ⟨⟨hn, hl, hb⟩, hp⟩⟩)

/-- The two ports of a direction. -/
theorem mem_axisPorts {a : Nat} : port = axisPort s m a ∨ port = axisPort s m a + 1 ↔
    port / 4 = a ∧ (port / 2 % 2 = 0 ↔ 2 * ((placeOn m a + ringSize s a - placeOn s.modNum a) % ringSize s a) ≤ ringSize s a) := by
  unfold axisPort
  split
  · next h => simp only [h, iff_true]; omega
  · next h => simp only [h, iff_false]; omega

theorem mem_exitPorts : port ∈ exitPorts s set m ↔ slotAt s set port = true ∧ ∃ a, a < 3 ∧ placeOn m a ≠ placeOn s.modNum a
    ∧ (∀ b, b < a → placeOn m b = placeOn s.modNum b) ∧ port / 4 = a
    ∧ (port / 2 % 2 = 0 ↔ 2 * ((placeOn m a + ringSize s a - placeOn s.modNum a) % ringSize s a) ≤ ringSize s a) := by
  unfold exitPorts
  simp only [← mem_axisPorts]
  cases hh : firstHop s m with
  | none =>
    refine iff_of_false List.not_mem_nil (fun ⟨_, a, hl, hn, hb, _⟩ => ?_)
    have := firstHop_some_iff.mpr ⟨a, hl, hn, hb, rfl⟩
    rw [hh] at this
    cases this
  | some p =>
    simp only [List.mem_filter, List.mem_cons, List.not_mem_nil, or_false]
    rw [and_comm]
    refine and_congr_right (fun _ => ⟨fun hp => ?_, fun ⟨a, hl, hn, hb, hp⟩ => ?_⟩)
    · obtain ⟨a, hl, hn, hb, rfl⟩ := firstHop_some_iff.mp hh
      exact ⟨a, hl, hn, hb, hp⟩
    · obtain rfl := Option.some.inj (hh.symm.trans (firstHop_some_iff.mpr ⟨a, hl, hn, hb, rfl⟩))
      exact hp

end ports

/-! #### What settling leaves (R26, R296) -/

theorem task?_setTask_iff (s : State) (n b m c : Nat) (x : Option Task) :
    (s.setTask n b x).task? m c = if m = n ∧ (c = 0 ↔ b = 0) then x else s.task? m c := by
  simp only [State.task?, State.setTask, State.core_setCore, Core.task?, Core.setTask]
  by_cases hm : m = n <;> by_cases hb : b = 0 <;> by_cases hc : c = 0 <;> simp [hm, hb, hc]

/-- Only cores differ, and of them neither a scratchpad nor the failure words of a task. -/
structure Settled (s s' : State) : Prop where
  same : s' = { s with cores := s'.cores }
  spad : ∀ n, (s'.core n).spad = (s.core n).spad
  failw : ∀ n b, (s'.task? n b).map Task.failw = (s.task? n b).map Task.failw

theorem Settled.refl (s : State) : Settled s s := ⟨rfl, fun _ => rfl, fun _ _ => rfl⟩

theorem Settled.trans {s u v : State} (h : Settled s u) (k : Settled u v) : Settled s v :=
  ⟨by rw [k.same, h.same], fun n => (k.spad n).trans (h.spad n), fun n b => (k.failw n b).trans (h.failw n b)⟩

theorem Settled.fold {α : Type} (f : State → α → State) (hf : ∀ s a, Settled s (f s a)) (l : List α) (s : State) : Settled s (l.foldl f s) :=
  List.foldlRecOn (motive := Settled s) l f (.refl s) (fun _ h a _ => h.trans (hf _ a))

theorem settle_settled (s : State) (core bank : Nat) (q : SeqId) : Settled s (settle s core bank q) := by
  cases ht : s.task? core bank with
  | none =>
    unfold settle
    simp only [ht]
    exact .refl s
  | some t =>
    obtain ⟨t', fl, he, ho⟩ := settle_eq s core bank q t ht
    have hf : t'.failw = t.failw := by rw [ho]; cases q <;> rfl
    rw [he]
    refine ⟨rfl, fun n => State.spad_setTask .., fun n b => ?_⟩
    rw [task?_setTask_iff]
    split
    · next h =>
      obtain ⟨rfl, hb⟩ := h
      have : s.task? n b = s.task? n bank := by simp only [State.task?, Core.task?, hb]
      rw [this, ht]
      exact congrArg some hf
    · rfl

theorem settleFlit_settled (s : State) (f : Flit) : Settled s (settleFlit s f) := by
  unfold settleFlit
  split
  · exact .refl s
  · exact Settled.fold _ (fun s _ => Settled.fold _ (fun s _ => settle_settled s _ _ _) _ s) _ s

theorem Settled.sameMemory {s s' : State} (h : Settled s s') : SameMemory s s' :=
  ⟨fun a => by rw [h.same], fun n a => by rw [h.spad]⟩

/-- What does not depend on the cores is as it was. -/
theorem Settled.field {s s' : State} (h : Settled s s') {α : Type} (g : State → α) (hg : ∀ x c, g { x with cores := c } = g x) : g s' = g s := by
  rw [h.same, hg]

/-! #### Departure (R224, R228, R233) -/

section depart
variable {s : State} {f : Flit} {m port : Nat}

/-- The first element that meets one of two conditions is the first that meets both, where it does. -/
theorem find_and {α : Type} {p q : α → Bool} {l : List α} {a : α} (h : l.find? p = some a) (hq : q a = true) :
    l.find? (fun x => p x && q x) = some a := by
  induction l with
  | nil => cases h
  | cons x l ih =>
    rw [List.find?_cons] at h ⊢
    cases hp : p x with
    | true =>
      rw [hp] at h
      obtain rfl := Option.some.inj h
      simp [hq]
    | false =>
      rw [hp] at h
      simpa using ih h

/-- The loop-back of a flit joins the landings, where its receive window is mapped and is not the ring. -/
def loopLanding (s : State) (f : Flit) : Landing :=
  let w := s.txWin f.win
  let off := w.rxOff + f.block * 64
  { src := s.modNum, path := 1024 * f.win + f.core, rx := w.rx, part := (s.rxWin w.rx).part, ack := false, base := rxPlace (s.rxWin w.rx) off 0,
    mask := f.mask, data := f.data, order := f.order, coll := none }

theorem loopBack_lands (h : isRing s (s.txWin f.win).rx = false) :
    loopBack s f = { s with landings := s.landings ++
      (if (s.rxWin (s.txWin f.win).rx).state = 1 ∧ (s.txWin f.win).rxOff + f.block * 64 + 64 ≤ (s.rxWin (s.txWin f.win).rx).size
        then [loopLanding s f] else []) } := by
  unfold loopBack landWindow
  simp only [h, Bool.and_eq_true, decide_eq_true_eq, Bool.false_eq_true, if_false]
  split
  · rfl
  · rw [List.append_nil]

/-- The ports by which the copy may leave. -/
theorem mem_openPorts (hc : f.copies.getLsbD m = true) (hr : (s.txWin f.win).recalled = 0)
    (ho : ∀ g ∈ s.flits, g.id < f.id → g.win = f.win → g.core = f.core → g.copies.getLsbD m = false) :
    (openPorts s f m).contains port = true ↔ port ∈ exitPorts s (s.txWin f.win).slotset ((s.txWin f.win).members.getD m 0) ∧ portReady s port = true := by
  have hfirst : pathFirst s f m = true := by
    rw [pathFirst, Bool.not_eq_true', List.any_eq_false]
    intro g hg hx
    simp only [Bool.and_eq_true, decide_eq_true_eq, beq_iff_eq] at hx
    obtain ⟨⟨⟨hid, hw⟩, hcore⟩, hcopy⟩ := hx
    rw [ho g hg hid hw hcore] at hcopy
    cases hcopy
  rw [List.contains_iff_mem]
  unfold openPorts
  simp only [hc, hr, hfirst, beq_self_eq_true, Bool.and_self, if_true, List.mem_filter]

/-- The members behind the first hop of position `m`, and the copies that are left once theirs has departed. -/
def hopMembers (s : State) (f : Flit) (m : Nat) : List Nat :=
  (List.range (s.txWin f.win).members.length).filter (fun j =>
    f.copies.getLsbD j && firstHop s ((s.txWin f.win).members.getD j 0) == firstHop s ((s.txWin f.win).members.getD m 0))

def copiesLeft (s : State) (f : Flit) (m : Nat) : BitVec 64 := (hopMembers s f m).foldl (fun c j => c &&& ~~~ (memberBit j)) f.copies

theorem sharedHop_eq (s : State) (f : Flit) (m : Nat) : sharedHop s f m = hopMembers s f m := by
  unfold sharedHop hopMembers upTo
  simp only [List.map_id]

/-- The copy as it goes out. -/
def departMsg (s : State) (f : Flit) (m port : Nat) : Msg :=
  .flit port ((hopMembers s f m).map (fun j => ((s.txWin f.win).members.getD j 0, Sparse.get 0 (s.txWin f.win).epochs j))) (s.txWin f.win).rx
    ((s.txWin f.win).rxOff + f.block * 64) f.mask f.data f.order

/-- The flit with `left` copies that have yet to depart. -/
def withLeft (gt : Nat) (left : BitVec 64) (g : Flit) : Flit :=
  { g with isOpen := false, copies := left, departed := left == 0, departGt := if left == 0 then gt else g.departGt }

/-- What a departure leaves: the message, the flit with the copies that are left, and after the last one the loop-back. -/
theorem departCopy_eq (hf : s.flits.find? (fun g => g.id == f.id) = some f) (hc : f.copies.getLsbD m = true)
    (hl : (s.txWin f.win).loop ≠ 2 ∨ isRing s (s.txWin f.win).rx = false) :
    departCopy s f.id m port = { s with
      out := s.out ++ [departMsg s f m port]
      flits := s.flits.map (fun g => if g.id == f.id then withLeft s.gt (copiesLeft s f m) g else g)
      landings := s.landings ++ (if (s.txWin f.win).loop = 2 ∧ copiesLeft s f m = 0 ∧ (s.rxWin (s.txWin f.win).rx).state = 1
        ∧ (s.txWin f.win).rxOff + f.block * 64 + 64 ≤ (s.rxWin (s.txWin f.win).rx).size then [loopLanding s f] else []) } := by
  unfold departCopy
  rw [find_and hf hc]
  dsimp only
  rw [sharedHop_eq]
  change (if (copiesLeft s f m == 0 && (s.txWin f.win).loop == 2) = true then _ else _) = _
  by_cases h : copiesLeft s f m = 0 ∧ (s.txWin f.win).loop = 2
  · obtain ⟨h0, h2⟩ := h
    have hring : isRing s (s.txWin f.win).rx = false := hl.resolve_left (not_not.mpr h2)
    rw [if_pos (by simp [h0, h2])]
    refine (loopBack_lands (s := (s.say (departMsg s f m port)).mapFlits (fun g => g.id == f.id) (withLeft s.gt (copiesLeft s f m))) hring).trans ?_
    simp only [h0, h2, true_and]
    rfl
  · rw [if_neg (by simpa using h), if_neg (by tauto), List.append_nil]
    rfl

theorem serveWheel_frame (s : State) (w part : Nat) : ∃ a b, serveWheel s w part = { s with lastServed := a, servedAt := b } := by
  unfold serveWheel
  split
  · exact ⟨_, _, rfl⟩
  · exact ⟨_, _, rfl⟩

theorem flitDeparture_eq (hf : s.flits.find? (fun g => g.id == f.id) = some f) :
    exec (.flitDeparture f.id ⟨m, port⟩) s = event s ((openPorts s f m).contains port && wheelOpen s 32 (s.txWin f.win).part)
      (.next (settleFlit (departCopy (serveWheel s 32 (s.txWin f.win).part) f.id m port) f)) := by
  rw [exec_flitDeparture]
  unfold execFlitDeparture
  rw [hf]

section open_
variable (hf : s.flits.find? (fun g => g.id == f.id) = some f) (hc : f.copies.getLsbD m = true)
  (hr : (s.txWin f.win).recalled = 0) (ho : ∀ g ∈ s.flits, g.id < f.id → g.win = f.win → g.core = f.core → g.copies.getLsbD m = false)
include hf hc hr ho

/-- A copy that may leave by a port departs. -/
theorem flitDeparture_goes (ha : alive s = true)
    (hp : port ∈ exitPorts s (s.txWin f.win).slotset ((s.txWin f.win).members.getD m 0)) (hready : portReady s port = true)
    (hw : wheelOpen s 32 (s.txWin f.win).part = true) (hl : (s.txWin f.win).loop ≠ 2 ∨ isRing s (s.txWin f.win).rx = false) :
    ∃ s', exec (.flitDeparture f.id ⟨m, port⟩) s = .next s' ∧ SameMemory s s' ∧ s'.out = s.out ++ [departMsg s f m port]
      ∧ s'.flits = s.flits.map (fun g => if g.id == f.id then withLeft s.gt (copiesLeft s f m) g else g)
      ∧ s'.landings = s.landings ++ (if (s.txWin f.win).loop = 2 ∧ copiesLeft s f m = 0 ∧ (s.rxWin (s.txWin f.win).rx).state = 1
        ∧ (s.txWin f.win).rxOff + f.block * 64 + 64 ≤ (s.rxWin (s.txWin f.win).rx).size then [loopLanding s f] else []) := by
  obtain ⟨a, b, he⟩ := serveWheel_frame s 32 (s.txWin f.win).part
  have hopen := (mem_openPorts hc hr ho).mpr ⟨hp, hready⟩
  refine ⟨_, (flitDeparture_eq hf).trans (event_of ha (by rw [hopen, hw]; rfl)), ?_⟩
  rw [he, departCopy_eq (s := { s with lastServed := a, servedAt := b }) hf hc hl]
  have hs := fun x => settleFlit_settled x f
  exact ⟨⟨(hs _).sameMemory.1, (hs _).sameMemory.2⟩, (hs _).field State.out (fun _ _ => rfl), (hs _).field State.flits (fun _ _ => rfl),
    (hs _).field State.landings (fun _ _ => rfl)⟩

theorem flitDeparture_stays (h : port ∉ exitPorts s (s.txWin f.win).slotset ((s.txWin f.win).members.getD m 0) ∨ portReady s port = false
    ∨ wheelOpen s 32 (s.txWin f.win).part = false) : exec (.flitDeparture f.id ⟨m, port⟩) s = .next s := by
  refine (flitDeparture_eq hf).trans (event_not ?_)
  rw [Bool.and_eq_false_iff, ← Bool.not_eq_true, mem_openPorts hc hr ho]
  rcases h with h | h | h
  · exact .inl (fun k => h k.1)
  · exact .inl (fun k => Bool.false_ne_true (h.symm.trans k.2))
  · exact .inr h

end open_
end depart

/-! #### Delivery (R226, R222) -/

section delivery
variable {s : State} (ha : alive s = true) {f : InFlit}

theorem takesFlit_iff : takesFlit s f = true ↔ (s.rxWin f.rx).state = 1 ∧ rxAllows s (s.rxWin f.rx) f.src = true ∧ (s.rxWin f.rx).epoch ≤ f.epoch
    ∧ f.src ∉ (s.rxWin f.rx).barred ∧ f.off + 64 ≤ (s.rxWin f.rx).size := by
  simp only [takesFlit, Bool.and_eq_true, beq_iff_eq, decide_eq_true_eq, Bool.not_eq_true', List.contains_eq_mem, decide_eq_false_iff_not, and_assoc]

/-- A flit of another module that a receive window takes, before its first granule has landed. -/
def takenLanding (s : State) (f : InFlit) : Landing :=
  { src := f.src, path := f.path, rx := f.rx, part := (s.rxWin f.rx).part, ack := true, base := rxPlace (s.rxWin f.rx) f.off 0, mask := f.mask,
    data := f.data, order := f.order, coll := none }

include ha

theorem flitDelivery_eq : exec (.flitDelivery f) s
    = .next (if takesFlit s f then landWindow s f.src f.path f.rx f.off true f.mask f.data f.order else sayAck s f.src false) :=
  (exec_flitDelivery f s).trans (event_of ha rfl)

theorem flitDelivery_refused (h : ¬ takesFlit s f = true) : exec (.flitDelivery f) s = .next (s.say (.ack (ackPort s f.src) f.src false)) := by
  rw [flitDelivery_eq ha, if_neg h]
  rfl

theorem flitDelivery_lands (h : takesFlit s f = true) (hr : isRing s f.rx = false) :
    exec (.flitDelivery f) s = .next { s with landings := s.landings ++ [takenLanding s f] } := by
  rw [flitDelivery_eq ha, if_pos h]
  unfold landWindow
  rw [if_neg (by simp [hr])]
  rfl

theorem flitDelivery_ring (h : takesFlit s f = true) (hr : isRing s f.rx = true) :
    exec (.flitDelivery f) s = .next (sayAck (ringFlit s f.off f.mask f.data f.src) f.src true) := by
  rw [flitDelivery_eq ha, if_pos h]
  unfold landWindow
  rw [if_pos hr]
  rfl

end delivery

/-! #### The named bytes of one event (R96) -/

/-- The byte that a list names for address `x`, where it is written from address `p` on. -/
def namedAt (L : List (Option Byte)) (p x : Nat) : Option Byte := if p ≤ x then (L[x - p]?).join else none

section runs
variable {a : Nat}

/-- A run of bytes in memory. -/
def putRun (a : Nat) (m : List Host.Cell) (r : Nat × List Byte) : List Host.Cell := putBytes m (a + r.1) r.2

theorem namedAt_named (bs : List Byte) (p x : Nat) (L : List (Option Byte)) (old : Byte) :
    (namedAt (bs.map some ++ L) p x).getD old
      = if p ≤ x ∧ x < p + bs.length then bs.getD (x - p) 0 else (namedAt L (p + bs.length) x).getD old := by
  unfold namedAt
  by_cases h : p ≤ x
  · by_cases hb : x < p + bs.length
    · have hlt : x - p < bs.length := by omega
      rw [if_pos h, if_pos ⟨h, hb⟩, List.getElem?_append_left (by simpa using hlt)]
      simp [List.getElem?_eq_getElem hlt]
    · rw [if_pos h, if_neg (by omega), if_pos (by omega), List.getElem?_append_right (by simp; omega), List.length_map, Nat.sub_sub]
  · rw [if_neg h, if_neg (by omega), if_neg (by omega)]

theorem namedAt_none (L : List (Option Byte)) (p x : Nat) : namedAt (none :: L) p x = namedAt L (p + 1) x := by
  unfold namedAt
  by_cases h : p + 1 ≤ x
  · obtain ⟨j, rfl⟩ : ∃ j, x = p + 1 + j := ⟨x - (p + 1), by omega⟩
    rw [if_pos (by omega), if_pos h, show p + 1 + j - p = j + 1 by omega, List.getElem?_cons_succ, Nat.add_sub_cancel_left]
  · rw [if_neg h]
    by_cases hp : p ≤ x
    · rw [if_pos hp, show x - p = 0 by omega]
      rfl
    · rw [if_neg hp]

theorem namedAt_before {L : List (Option Byte)} {p x : Nat} (h : x < p) : namedAt L p x = none := if_neg (by omega)

/-- The runs write the bytes that are named, and no other. -/
theorem getByte_runs (bs : List (Option Byte)) (k : Nat) (cur : List Byte) (hk : cur.length ≤ k) (m : List Host.Cell) (x : Nat) :
    getByte ((byteRuns k cur bs).foldl (putRun a) m) x = (namedAt (cur.map some ++ bs) (a + (k - cur.length)) x).getD (getByte m x) := by
  have nothing (p : Nat) : namedAt [] p x = none := by simp [namedAt]
  induction bs generalizing k cur m with
  | nil =>
    unfold byteRuns
    cases cur with
    | nil => simp [nothing]
    | cons b cur => simp only [List.isEmpty_cons, Bool.false_eq_true, if_false, List.foldl_cons, List.foldl_nil, putRun,
        getByte_putBytes, namedAt_named, nothing, Option.getD_none]
  | cons o bs ih =>
    cases o with
    | some b =>
      unfold byteRuns
      rw [ih (k + 1) (cur ++ [b]) (by simpa using hk)]
      simp
    | none =>
      have rest (m : List Host.Cell) : getByte ((byteRuns (k + 1) [] bs).foldl (putRun a) m) x = (namedAt (none :: bs) (a + k) x).getD (getByte m x) := by
        rw [ih (k + 1) [] (Nat.zero_le _), namedAt_none]
        rfl
      have hend : a + (k - cur.length) + cur.length = a + k := by omega
      rw [namedAt_named, hend]
      unfold byteRuns
      cases cur with
      | nil => simp only [List.isEmpty_nil, if_true, rest, List.length_nil]; rw [if_neg (by omega)]
      | cons b cur =>
        simp only [List.isEmpty_cons, Bool.false_eq_true, if_false, List.foldl_cons, rest, putRun, getByte_putBytes, hend]
        by_cases h : a + (k - (b :: cur).length) ≤ x ∧ x < a + k
        · rw [if_pos h, if_pos h, namedAt_before h.2, Option.getD_none]
        · rw [if_neg h, if_neg h]

end runs

section named
variable {s : State} {bs : List (Option Byte)} {whole : Bool}

/-- Runs of one event into HBM, without a poisoned line or symbols in error. -/
theorem performNamed_hbm (hp : s.poison = []) (he : s.errs = []) (a : Nat) :
    performNamed s (.hbm a) bs whole = { s with hbm := (byteRuns 0 [] bs).foldl (putRun a) s.hbm } := by
  unfold performNamed
  generalize byteRuns 0 [] bs = l
  induction l generalizing s with
  | nil => rfl
  | cons r l ih =>
    rw [List.foldl_cons, List.foldl_cons]
    have hone : performPiece s ((Place.hbm a).add r.1) r.2 whole = { s with hbm := putRun a s.hbm r } := storeHbm_bytes _ _ _ _ _ hp he (by omega)
    rw [hone, ih (s := { s with hbm := putRun a s.hbm r }) hp he]

theorem performNamed_hbm_bytes (hp : s.poison = []) (he : s.errs = []) (a x : Nat) :
    getByte (performNamed s (.hbm a) bs whole).hbm x = (namedAt bs a x).getD (getByte s.hbm x) := by
  rw [performNamed_hbm hp he]
  exact getByte_runs bs 0 [] (Nat.zero_le _) s.hbm x

/-- Runs of one event into a scratchpad. -/
theorem performNamed_spad_bytes (c a k x : Nat) :
    getByte ((performNamed s (.spad c a) bs whole).core k).spad x
      = if k = c then (namedAt bs a x).getD (getByte (s.core k).spad x) else getByte (s.core k).spad x := by
  have hone (s : State) (r : Nat × List Byte) : ((performPiece s ((Place.spad c a).add r.1) r.2 whole).core k).spad
      = if k = c then putRun a (s.core k).spad r else (s.core k).spad := by
    show ((storeSpad s c (a + r.1) r.2).core k).spad = _
    unfold storeSpad
    rw [State.core_setCore]
    split
    · next h => subst h; rfl
    · rfl
  unfold performNamed
  by_cases h : k = c
  · rw [if_pos h, ← List.foldl_hom (fun s : State => (s.core k).spad) (g₂ := putRun a) (fun s r => (hone s r).symm ▸ (if_pos h).symm)]
    exact getByte_runs bs 0 [] (Nat.zero_le _) _ x
  · rw [if_neg h, foldl_keeps (fun s : State => (s.core k).spad) _ (fun s r => (hone s r).trans (if_neg h))]

theorem performNamed_spad_hbm (c a : Nat) : (performNamed s (.spad c a) bs whole).hbm = s.hbm := by
  unfold performNamed
  exact foldl_keeps State.hbm (fun s (r : Nat × List Byte) => performPiece s ((Place.spad c a).add r.1) r.2 whole) (fun _ _ => rfl) _ s

theorem beside_performNamed (p : Place) : besideMemory (performNamed s p bs whole) = besideMemory s :=
  foldl_keeps besideMemory _ (fun s _ => beside_performPiece s _ _ _) _ s

end named

/-! #### Landing (R226, R293) -/

section landing
variable {s : State} {l : Landing} {g n : Nat} {rest : List Nat}

/-- The masked bytes of granule `g`. -/
theorem namedAt_granule {mask : BitVec 64} {data : BitVec 512} {a x : Nat} {old : Byte} :
    (namedAt (upTo 16 (fun i => if mask.getLsbD (16 * g + i) then some (data.extractLsb' (8 * (16 * g + i)) 8) else none)) (a + 16 * g) x).getD old
      = if a + 16 * g ≤ x ∧ x < a + 16 * g + 16 ∧ mask.getLsbD (x - a) = true then data.extractLsb' (8 * (x - a)) 8 else old := by
  unfold namedAt upTo
  by_cases h1 : a + 16 * g ≤ x
  · by_cases h2 : x < a + 16 * g + 16
    · have hx : 16 * g + (x - (a + 16 * g)) = x - a := by omega
      rw [if_pos h1, List.getElem?_map, List.getElem?_range (by omega)]
      simp only [Option.map_some, Option.join_some, hx, h1, h2, true_and]
      split <;> rfl
    · rw [if_pos h1, List.getElem?_eq_none (by simp; omega), if_neg (by omega)]
      rfl
  · rw [if_neg h1, if_neg (by omega)]
    rfl

theorem landGranule_hbm (hp : s.poison = []) (he : s.errs = []) {a : Nat} {mask : BitVec 64} {data : BitVec 512} :
    (∀ k, (landGranule s (.hbm a) mask data g).core k = s.core k)
      ∧ ∀ x, getByte (landGranule s (.hbm a) mask data g).hbm x = if a + 16 * g ≤ x ∧ x < a + 16 * g + 16 ∧ mask.getLsbD (x - a) = true
          then data.extractLsb' (8 * (x - a)) 8 else getByte s.hbm x := by
  refine ⟨fun k => ?_, fun x => (performNamed_hbm_bytes hp he _ _).trans namedAt_granule⟩
  show (performNamed s (.hbm (a + 16 * g)) _ _).core k = _
  rw [performNamed_hbm hp he]
  rfl

theorem landGranule_spad {c a : Nat} {mask : BitVec 64} {data : BitVec 512} :
    (landGranule s (.spad c a) mask data g).hbm = s.hbm
      ∧ ∀ k x, getByte ((landGranule s (.spad c a) mask data g).core k).spad x
        = if k = c ∧ a + 16 * g ≤ x ∧ x < a + 16 * g + 16 ∧ mask.getLsbD (x - a) = true
          then data.extractLsb' (8 * (x - a)) 8 else getByte (s.core k).spad x := by
  refine ⟨performNamed_spad_hbm _ _, fun k x => (performNamed_spad_bytes c _ k x).trans ?_⟩
  rw [namedAt_granule]
  by_cases hk : k = c
  · rw [if_pos hk]
    simp only [hk, true_and]
  · rw [if_neg hk, if_neg (fun h => hk h.1)]

theorem beside_landGranule (base : Place) (mask : BitVec 64) (data : BitVec 512) : besideMemory (landGranule s base mask data g) = besideMemory s :=
  beside_performNamed _

/-- The first landing of its path may go on. -/
theorem landReady_first (hl : s.landings[n]? = some l) (hc : l.coll = none) (hf : ∀ m ∈ s.landings.take n, m.src = l.src → m.path ≠ l.path) :
    landReady s n = true := by
  unfold landReady
  simp only [hl, hc, Option.isSome_none, Bool.and_false, Bool.false_and, Bool.or_false, Bool.not_eq_true', List.any_eq_false, Bool.and_eq_true, beq_iff_eq]
  exact fun m hm ⟨h1, h2⟩ => hf m hm h1 h2

/-- The state after the next granule of a flit. -/
def landedState (s : State) (n : Nat) (l : Landing) (g : Nat) (rest : List Nat) : State :=
  let x := landGranule s l.base l.mask l.data g
  if rest.isEmpty then landDone { x with landings := x.landings.eraseIdx n } { l with order := rest }
  else { x with landings := x.landings.set n { l with order := rest } }

theorem turnLand_goes (ha : alive s = true) (hl : s.landings[n]? = some l) (hf : ∀ m ∈ s.landings.take n, m.src = l.src → m.path ≠ l.path)
    (hc : l.coll = none) (ho : l.order = g :: rest) : turnLand n s = .next (landedState s n l g rest) := by
  unfold turnLand
  simp only [hl]
  rw [event_of ha (landReady_first hl hc hf), ho]
  simp only [hc]
  unfold landedState
  dsimp only
  split <;> simp_all

/-- Beside landings and messages it is the granule. -/
theorem landedState_memory (hc : l.coll = none) :
    (landedState s n l g rest).hbm = (landGranule s l.base l.mask l.data g).hbm
      ∧ ∀ k, (landedState s n l g rest).core k = (landGranule s l.base l.mask l.data g).core k := by
  unfold landedState landDone
  simp only [hc]
  split
  · split <;> exact ⟨rfl, fun _ => rfl⟩
  · exact ⟨rfl, fun _ => rfl⟩

theorem landed_beside : (landGranule s l.base l.mask l.data g).landings = s.landings ∧ (landGranule s l.base l.mask l.data g).out = s.out
    ∧ ackPort (landGranule s l.base l.mask l.data g) l.src = ackPort s l.src := by
  have hb : besideMemory (landGranule s l.base l.mask l.data g) = besideMemory s := beside_landGranule ..
  have hl := congrArg State.landings hb
  have ho := congrArg State.out hb
  have hp := congrArg (fun x => ackPort x l.src) hb
  exact ⟨hl, ho, hp⟩

theorem landedState_last (hc : l.coll = none) : (landedState s n l g []).landings = s.landings.eraseIdx n
    ∧ (landedState s n l g []).out = s.out ++ (if l.ack then [Msg.ack (ackPort s l.src) l.src true] else []) := by
  obtain ⟨hl, ho, hp⟩ := landed_beside (s := s) (l := l) (g := g)
  unfold landedState landDone
  simp only [hc, List.isEmpty_nil, if_true]
  cases l.ack with
  | false => exact ⟨congrArg (·.eraseIdx n) hl, ho.trans (List.append_nil _).symm⟩
  | true => exact ⟨congrArg (·.eraseIdx n) hl, congrArg₂ (fun out port => out ++ [Msg.ack port l.src true]) ho hp⟩

theorem landedState_more (hr : rest ≠ []) : (landedState s n l g rest).landings = s.landings.set n { l with order := rest }
    ∧ (landedState s n l g rest).out = s.out := by
  obtain ⟨hl, ho, -⟩ := landed_beside (s := s) (l := l) (g := g)
  unfold landedState
  rw [if_neg (by simpa using hr)]
  exact ⟨congrArg (·.set n { l with order := rest }) hl, ho⟩

end landing

/-! #### What the ring and the agent leave of flits and landings (R242, R245) -/

/-- A state without its memory, its cores and its ring. -/
def besideRing (s : State) : State := { besideMemory s with sorus := State.reset.sorus }

/-- Only memory, cores and the ring may differ. -/
def RingOnly (s s' : State) : Prop := besideRing s' = besideRing s

section ring
variable {s u v : State}

theorem RingOnly.refl (s : State) : RingOnly s s := rfl
theorem RingOnly.trans (h : RingOnly s u) (k : RingOnly u v) : RingOnly s v := Eq.trans k h
theorem RingOnly.sorus (s : State) (x : Sorus) : RingOnly s { s with sorus := x } := rfl
theorem RingOnly.of_memory (h : besideMemory u = besideMemory s) : RingOnly s u := by rw [RingOnly, besideRing, h, besideRing]

theorem RingOnly.ite {c : Prop} [Decidable c] (ha : RingOnly s u) (hb : RingOnly s v) : RingOnly s (if c then u else v) := by
  split
  · exact ha
  · exact hb

theorem RingOnly.fold {α : Type} (f : State → α → State) (hf : ∀ s a, RingOnly s (f s a)) (l : List α) (s : State) : RingOnly s (l.foldl f s) :=
  foldl_keeps besideRing f hf l s

theorem RingOnly.field {α : Type} (h : RingOnly s u) (g : State → α) (hg : ∀ x, g (besideRing x) = g x) : g u = g s := by rw [← hg u, h, hg]

theorem ringWrite_only (s : State) (off : Nat) (r : BitVec 256) : RingOnly s (ringWrite s off r) := by
  unfold ringWrite
  split
  · exact .of_memory (beside_performPiece ..)
  · exact .refl s

theorem ringTable_only (s : State) (t : SorStep) (m : Option Nat) (off : Nat) (r : BitVec 256) : RingOnly s (ringTable s t m off r) := by
  have writes := ringWrite_only s off r
  have stays := RingOnly.refl s
  have counts : RingOnly s (bad s) := .sorus s _
  have holds (t : Sorus) : RingOnly s { s with sorus := t } := .sorus s t
  unfold ringTable
  cases m with
  | none => exact .ite (.ite writes (.ite stays counts)) (.ite (holds _) (holds _))
  | some m => exact .ite (.ite writes (.ite stays counts)) (.ite (.ite counts (.ite stays (.ite counts writes))) (.ite counts writes))

theorem reviewStep_only (s : State) (n : Nat) : RingOnly s (reviewStep s n) := by
  unfold reviewStep
  split
  · exact .refl s
  · next t _ =>
    have waited (u : State) (m : Option Nat) : RingOnly u (t.held.foldl (fun s h => ringTable s t m h.1 h.2.1) u) :=
      RingOnly.fold _ (fun s h => ringTable_only s _ _ _ _) _ _
    exact (RingOnly.sorus s _).trans ((RingOnly.ite (waited _ _) (.refl _)).trans (.sorus _ _))

theorem review_only (n : Nat) (s : State) : RingOnly s (review n s) := by
  induction n generalizing s with
  | zero => exact .refl s
  | succ n ih =>
    have one : RingOnly s (s.sorus.steps.foldl (fun s t => reviewStep s t.step) s) := RingOnly.fold _ (fun s t => reviewStep_only s _) _ s
    unfold review
    exact .ite one (one.trans (ih _))

theorem openStep_only (s : State) (n : Nat) : RingOnly s (openStep s n) := by
  unfold openStep
  dsimp only
  split
  · exact .refl s
  · split <;> rfl

theorem ringArrive_only (s : State) (off : Nat) (r : BitVec 256) (direct : Option Nat) : RingOnly s (ringArrive s off r direct) := by
  have opened := openStep_only s (recStep r)
  have counts (u : State) : RingOnly u (bad u) := .sorus u _
  unfold ringArrive
  refine .ite (counts s) (opened.trans ?_)
  generalize openStep s (recStep r) = u
  dsimp only
  split
  · exact counts u
  · exact .ite (counts u) ((ringTable_only u _ _ _ _).trans (review_only _ _))

theorem ringFlit_only (s : State) (off : Nat) (mask : BitVec 64) (data : BitVec 512) (m : Nat) : RingOnly s (ringFlit s off mask data m) :=
  RingOnly.fold _ (fun s _ => .ite (.refl s) (.ite (ringArrive_only s _ _ _) (.sorus s _))) _ s

end ring

/-- A state without its landings too. -/
def besideLandings (s : State) : State := { besideRing s with landings := [] }

theorem loopBack_beside (s : State) (f : Flit) : besideLandings (loopBack s f) = besideLandings s := by
  unfold loopBack landWindow
  dsimp only
  split
  · split
    · exact congrArg (fun x : State => { x with landings := [] }) (ringFlit_only s _ _ _ _)
    · rfl
  · rfl

theorem loopBack_landings (s : State) (f : Flit) : s.landings <+: (loopBack s f).landings := by
  unfold loopBack landWindow
  dsimp only
  split
  · split
    · exact ((ringFlit_only s _ _ _ _).field State.landings (fun _ => rfl)) ▸ List.prefix_refl _
    · exact List.prefix_append _ _
  · exact List.prefix_refl _

/-- What the agent leaves of the disabled modules, of the flits and of the landings. -/
structure AgentSends (s s' : State) : Prop where
  disabled : s'.disabled = s.disabled
  next : s.nextFlit ≤ s'.nextFlit
  flits : ∀ g ∈ s'.flits, g ∈ s.flits ∨ s.nextFlit ≤ g.id
  landings : s.landings <+: s'.landings

section agent
variable {s u v : State}

theorem AgentSends.refl (s : State) : AgentSends s s := ⟨rfl, le_rfl, fun _ => .inl, List.prefix_refl _⟩

theorem AgentSends.trans (h : AgentSends s u) (k : AgentSends u v) : AgentSends s v :=
  ⟨k.disabled.trans h.disabled, h.next.trans k.next, fun g hg => (k.flits g hg).elim (h.flits g) (fun hn => .inr (h.next.trans hn)),
    h.landings.trans k.landings⟩

theorem AgentSends.of_landings (h : besideLandings u = besideLandings s) (hl : s.landings <+: u.landings) : AgentSends s u := by
  have hd := congrArg State.disabled h
  have hn := congrArg State.nextFlit h
  have hf := congrArg State.flits h
  exact ⟨hd, Nat.le_of_eq hn.symm, fun g hg => .inl (hf ▸ hg), hl⟩

theorem AgentSends.of_ring (h : RingOnly s u) : AgentSends s u :=
  .of_landings (congrArg (fun x : State => { x with landings := [] }) h) (h.field State.landings (fun _ => rfl) ▸ List.prefix_refl _)

theorem loopBack_sends (s : State) (f : Flit) : AgentSends s (loopBack s f) := .of_landings (loopBack_beside s f) (loopBack_landings s f)

theorem agentFlit_sends (s : State) (win off : Nat) (r : BitVec 256) : AgentSends s (agentFlit s win off r) := by
  have opened : ∀ f : Flit, f.id = s.nextFlit → AgentSends s { s with flits := s.flits ++ [f], nextFlit := s.nextFlit + 1 } :=
    fun f hf => ⟨rfl, Nat.le_succ _, fun g hg => (List.mem_append.mp hg).imp_right (fun h => by rw [List.mem_singleton.mp h, hf]), List.prefix_refl _⟩
  unfold agentFlit
  dsimp only
  split
  · exact (opened _ rfl).trans (loopBack_sends _ _)
  · exact opened _ rfl

theorem pumpOne_sends (n : Nat) (s : State) (x : SorSend) : AgentSends s (pumpOne n s x).1 := by
  induction n generalizing s x with
  | zero => exact .refl s
  | succ n ih =>
    unfold pumpOne
    split
    · exact .refl s
    · split
      · exact (agentFlit_sends s _ _ _).trans (ih _ _)
      · exact .refl s

theorem pumpList_sends (s : State) (l : List SorSend) : AgentSends s (pumpList s l).1 := by
  induction l generalizing s with
  | nil => exact .refl s
  | cons x xs ih =>
    unfold pumpList
    dsimp only
    split
    · exact (pumpOne_sends _ s x).trans (ih _)
    · exact pumpOne_sends _ s x

theorem agentWrites_sends (n : Nat) (s : State) : AgentSends s (agentWrites n s) := by
  induction n generalizing s with
  | zero => exact .refl s
  | succ n ih =>
    unfold agentWrites
    split
    · exact .refl s
    · split
      · exact (AgentSends.of_ring ((RingOnly.sorus s _).trans (ringArrive_only _ _ _ _))).trans (ih _)
      · exact .refl s

theorem agentRun_sends (s : State) : AgentSends s (agentRun s) :=
  ((pumpList_sends s _).trans (.of_ring (.sorus _ _))).trans (agentWrites_sends _ _)

end agent

/-! #### Members that die (R231) -/

/-- A window with other members dead. -/
def withDead (w : TxWin) (d : BitVec 64) : TxWin := { w with dead := d }

/-- What the death of members leaves: the flits keep their numbers, the tasks their failure words, and a dead member stays dead. -/
structure Killed (s s' : State) : Prop where
  ids : s'.flits.map Flit.id = s.flits.map Flit.id
  next : s'.nextFlit = s.nextFlit
  disabled : s'.disabled = s.disabled
  modNum : s'.modNum = s.modNum
  parts : s'.parts = s.parts
  rx : s'.rx = s.rx
  failw : ∀ n b, (s'.task? n b).map Task.failw = (s.task? n b).map Task.failw
  tx : ∀ n, ∃ d, s'.txWin n = withDead (s.txWin n) d ∧ ∀ i, (s.txWin n).dead.getLsbD i = true → d.getLsbD i = true

section killed
variable {s u v : State}

theorem Killed.of_flits (hi : u.flits.map Flit.id = s.flits.map Flit.id) (hn : u.nextFlit = s.nextFlit) (hd : u.disabled = s.disabled)
    (hm : u.modNum = s.modNum) (hp : u.parts = s.parts) (hr : u.rx = s.rx) (hf : ∀ n b, (u.task? n b).map Task.failw = (s.task? n b).map Task.failw)
    (ht : u.tx = s.tx) : Killed s u :=
  ⟨hi, hn, hd, hm, hp, hr, hf, fun n => ⟨(s.txWin n).dead, by rw [State.txWin, ht]; rfl, fun _ h => h⟩⟩

theorem Killed.refl (s : State) : Killed s s := .of_flits rfl rfl rfl rfl rfl rfl (fun _ _ => rfl) rfl

theorem Killed.trans (h : Killed s u) (k : Killed u v) : Killed s v := by
  refine ⟨k.ids.trans h.ids, k.next.trans h.next, k.disabled.trans h.disabled, k.modNum.trans h.modNum, k.parts.trans h.parts, k.rx.trans h.rx,
    fun n b => (k.failw n b).trans (h.failw n b), fun n => ?_⟩
  obtain ⟨d, hd, hkeep⟩ := h.tx n
  obtain ⟨d', hd', hkeep'⟩ := k.tx n
  exact ⟨d', by rw [hd', hd]; rfl, fun i hi => hkeep' i (by rw [hd]; exact hkeep i hi)⟩

theorem Killed.fold {α : Type} (f : State → α → State) (hf : ∀ s a, Killed s (f s a)) (l : List α) (s : State) : Killed s (l.foldl f s) :=
  List.foldlRecOn (motive := Killed s) l f (.refl s) (fun _ h a _ => h.trans (hf _ a))

theorem Settled.killed (h : Settled s u) : Killed s u :=
  .of_flits (h.field (fun x => x.flits.map Flit.id) (fun _ _ => rfl)) (h.field State.nextFlit (fun _ _ => rfl)) (h.field State.disabled (fun _ _ => rfl))
    (h.field State.modNum (fun _ _ => rfl)) (h.field State.parts (fun _ _ => rfl)) (h.field State.rx (fun _ _ => rfl)) h.failw
    (h.field State.tx (fun _ _ => rfl))

theorem loopBack_killed (s : State) (f : Flit) : Killed s (loopBack s f) := by
  have hb := loopBack_beside s f
  have hc := (loopBack_agentFrame s f).cores
  have hf := congrArg State.flits hb
  have hn := congrArg State.nextFlit hb
  have hd := congrArg State.disabled hb
  have hm := congrArg State.modNum hb
  exact .of_flits (congrArg (List.map Flit.id) hf) hn hd hm (loopBack_agentFrame s f).parts (loopBack_agentFrame s f).rx
    (fun n b => by simp only [State.task?, State.core, hc]) (loopBack_agentFrame s f).tx

theorem mapFlits_killed (s : State) (p : Flit → Bool) (g : Flit → Flit) (hg : ∀ f, (g f).id = f.id) : Killed s (s.mapFlits p g) := by
  refine .of_flits ?_ rfl rfl rfl rfl rfl (fun _ _ => rfl) rfl
  simp only [State.mapFlits, List.map_map]
  refine List.map_congr_left (fun f _ => ?_)
  simp only [Function.comp_apply]
  split
  · exact hg f
  · rfl

theorem setDead_killed (s : State) (win : Nat) (m : BitVec 64) :
    Killed s (s.setTx win (withDead (s.txWin win) ((s.txWin win).dead ||| m))) := by
  refine ⟨rfl, rfl, rfl, rfl, rfl, rfl, fun _ _ => rfl, fun n => ?_⟩
  rw [State.txWin_setTx]
  split
  · next h => subst h; exact ⟨_, rfl, fun i hi => by rw [BitVec.getLsbD_or, hi, Bool.true_or]⟩
  · exact ⟨_, rfl, fun _ h => h⟩

/-- The copies of a flit for members of a window that die are lost; after the last one it loops back. -/
def dyingFlit (gt : Nat) (m left : BitVec 64) (g : Flit) : Flit :=
  { g with lost := g.lost ||| (g.copies &&& m), copies := left, isOpen := g.isOpen && left != 0, departed := left == 0,
           departGt := if left == 0 then gt else g.departGt }

def loseCopies (m : BitVec 64) (s : State) (f : Flit) : State := s.mapFlits (fun g => g.id == f.id) (dyingFlit s.gt m (f.copies &&& ~~~ m))

def killFlit (m : BitVec 64) (loop : Nat) (s : State) (f : Flit) : State :=
  settleFlit (if (f.copies &&& ~~~ m) == 0 && loop == 2 then loopBack (loseCopies m s f) f else loseCopies m s f) f

theorem killMembers_eq (s : State) (win : Nat) (m : BitVec 64) :
    killMembers s win m = (s.flits.filter (fun f => f.win == win && f.copies &&& m != 0)).foldl (killFlit m (s.txWin win).loop)
      (s.setTx win (withDead (s.txWin win) ((s.txWin win).dead ||| m))) := rfl

theorem killFlit_killed (m : BitVec 64) (loop : Nat) (s : State) (f : Flit) : Killed s (killFlit m loop s f) := by
  have lost : Killed s (loseCopies m s f) := mapFlits_killed s _ _ (fun _ => rfl)
  unfold killFlit
  refine .trans ?_ (settleFlit_settled _ f).killed
  split
  · exact lost.trans (loopBack_killed _ f)
  · exact lost

theorem killMembers_killed (s : State) (win : Nat) (m : BitVec 64) : Killed s (killMembers s win m) := by
  rw [killMembers_eq]
  exact (setDead_killed s win m).trans (Killed.fold _ (killFlit_killed m _) _ _)

/-- The members are dead. -/
theorem killMembers_dead (s : State) (win : Nat) (m : BitVec 64) (i : Nat) (hi : m.getLsbD i = true) :
    ((killMembers s win m).txWin win).dead.getLsbD i = true := by
  rw [killMembers_eq]
  obtain ⟨d, hd, hkeep⟩ := (Killed.fold _ (killFlit_killed m (s.txWin win).loop) (s.flits.filter (fun f => f.win == win && f.copies &&& m != 0))
    (s.setTx win (withDead (s.txWin win) ((s.txWin win).dead ||| m)))).tx win
  rw [hd]
  refine hkeep i ?_
  rw [State.txWin_setTx, if_pos rfl]
  simp [withDead, hi]

/-- Without a loop-back after the last copy, the ring stays. -/
theorem killMembers_sorus (s : State) (win : Nat) (m : BitVec 64) (h : (s.txWin win).loop ≠ 2) : (killMembers s win m).sorus = s.sorus := by
  rw [killMembers_eq]
  refine foldl_keeps State.sorus _ (fun s f => ?_) _ _
  unfold killFlit
  simp only [beq_eq_false_iff_ne.mpr h, Bool.and_false, Bool.false_eq_true, if_false]
  exact (settleFlit_settled _ f).field State.sorus (fun _ _ => rfl)

end killed

/-! #### A disabled module (R231) -/

/-- The member dies in every window that names it. -/
def disableIn (m : Nat) (s : State) (e : Nat × TxWin) : State :=
  match e.2.members.idxOf? m with
  | some i => killMembers s e.1 (memberBit i)
  | none => s

theorem disableIn_killed (m : Nat) (s : State) (e : Nat × TxWin) : Killed s (disableIn m s e) := by
  unfold disableIn
  split
  · exact killMembers_killed s _ _
  · exact .refl s

theorem disableIn_dead {m : Nat} {s : State} {e : Nat × TxWin} {i : Nat} (hi : e.2.members.idxOf? m = some i) (hlt : i < 64) :
    ((disableIn m s e).txWin e.1).dead.getLsbD i = true := by
  unfold disableIn
  rw [hi]
  exact killMembers_dead s e.1 _ i (getLsbD_memberBit hlt)

theorem Killed.stays_dead {s s' : State} (h : Killed s s') {n i : Nat} (hd : (s.txWin n).dead.getLsbD i = true) :
    (s'.txWin n).dead.getLsbD i = true := by
  obtain ⟨d, hw, hkeep⟩ := h.tx n
  rw [hw]
  exact hkeep i hd

/-- The state in which the fabric interface knows the module as disabled. -/
def noteDisabled (s : State) (m : Nat) : State := { s with disabled := s.disabled ||| BitVec.ofNat 512 (2 ^ m) }

theorem memberDisabled_eq {s : State} (ha : alive s = true) {m : Nat} (hm : m < 512) :
    exec (.memberDisabled m) s = .next (agentRun (s.tx.foldl (disableIn m) (noteDisabled s m))) :=
  (exec_memberDisabled m s).trans (event_of ha (decide_eq_true hm))

theorem memberDisabled_kills {s : State} (ha : alive s = true) {m : Nat} (hm : m < 512) :
    ∃ s', exec (.memberDisabled m) s = .next s' ∧ s'.disabled.getLsbD m = true
      ∧ ∀ e ∈ s.tx, ∀ i, e.2.members.idxOf? m = some i → i < 64 → (s'.txWin e.1).dead.getLsbD i = true := by
  refine ⟨_, memberDisabled_eq ha hm, ?_, fun e he i hi hlt => ?_⟩
  · rw [(agentRun_sends _).disabled, (Killed.fold _ (disableIn_killed m) s.tx (noteDisabled s m)).disabled, noteDisabled, BitVec.getLsbD_or,
      BitVec.getLsbD_ofNat, Nat.testBit_two_pow_self]
    simp [hm]
  · rw [State.txWin, (agentRun_agentFrame _).tx]
    exact foldl_establishes (P := fun s => (s.txWin e.1).dead.getLsbD i = true) he (fun s => disableIn_dead hi hlt)
      (fun s x hs => (disableIn_killed m s x).stays_dead hs) _

/-! #### Failures of an acknowledgement (R229) -/

section notes
variable {s : State} {f : Flit} {b : BitVec 64}

def notedTask (f : Flit) (b : BitVec 64) (t : Task) : Task := { t with failw := orFail t.failw f.win b }
def notedSave (f : Flit) (b : BitVec 64) (x : Saved) : Saved := { x with failw := orFail x.failw f.win b }

/-- The failure word in one bank, or with the saved task that sent the store. -/
def noteBank (f : Flit) (b : BitVec 64) (s : State) (bank : Nat) : State :=
  if bank < 2 then
    match s.task? f.core bank with
    | none => s
    | some t => s.setTask f.core bank (some (notedTask f b t))
  else
    s.setPart (s.txWin f.win).part { s.part (s.txWin f.win).part with
      saved := (s.part (s.txWin f.win).part).saved.map (fun x => if x.core = f.core && x.bank + 2 = bank then notedSave f b x else x) }

theorem noteFailure_eq (s : State) (f : Flit) (b : BitVec 64) : noteFailure s f b = f.banks.foldl (noteBank f b) s := rfl

/-- Cores and partitions alone differ. -/
structure NotesOnly (s s' : State) : Prop where
  same : s' = { s with cores := s'.cores, parts := s'.parts }

theorem NotesOnly.field {s s' : State} (h : NotesOnly s s') {α : Type} (g : State → α) (hg : ∀ x c p, g { x with cores := c, parts := p } = g x) :
    g s' = g s := by rw [h.same, hg]

theorem noteBank_only (s : State) (bank : Nat) : NotesOnly s (noteBank f b s bank) := by
  unfold noteBank
  split
  · split <;> exact ⟨rfl⟩
  · exact ⟨rfl⟩

theorem noteFailure_only (s : State) (f : Flit) (b : BitVec 64) : NotesOnly s (noteFailure s f b) := by
  rw [noteFailure_eq]
  exact List.foldlRecOn (motive := NotesOnly s) f.banks (noteBank f b) ⟨rfl⟩ (fun u hu bank _ => ⟨by rw [(noteBank_only u bank).same, hu.same]⟩)

theorem noteBank_task {bank c : Nat} (hc : c < 2) :
    (noteBank f b s bank).task? f.core c = if c = bank then (s.task? f.core c).map (notedTask f b) else s.task? f.core c := by
  unfold noteBank
  by_cases hb : bank < 2
  · rw [if_pos hb]
    cases ht : s.task? f.core bank with
    | none =>
      by_cases h : c = bank
      · subst h; rw [if_pos rfl, ht]; rfl
      · rw [if_neg h]
    | some t =>
      dsimp only
      rw [task?_setTask_iff]
      by_cases h : c = bank
      · rw [if_pos ⟨rfl, by rw [h]⟩, if_pos h, h, ht]; rfl
      · rw [if_neg (by omega), if_neg h]
  · rw [if_neg hb, if_neg (by omega), State.task?_setPart]

theorem noteBank_saved {bank : Nat} : ((noteBank f b s bank).part (s.txWin f.win).part).saved
    = (s.part (s.txWin f.win).part).saved.map (fun x => if x.core = f.core ∧ x.bank + 2 = bank then notedSave f b x else x) := by
  unfold noteBank
  by_cases hb : bank < 2
  · have hid : (s.part (s.txWin f.win).part).saved.map (fun x => if x.core = f.core ∧ x.bank + 2 = bank then notedSave f b x else x)
        = (s.part (s.txWin f.win).part).saved := by
      conv_rhs => rw [← List.map_id (s.part (s.txWin f.win).part).saved]
      exact List.map_congr_left (fun x _ => if_neg (by omega))
    rw [if_pos hb, hid]
    split <;> rfl
  · rw [if_neg hb, State.part_setPart_same]
    exact List.map_congr_left (fun x _ => by simp only [Bool.and_eq_true, decide_eq_true_eq])

/-- Over a list of banks, each task of it is noted once. -/
theorem noteBanks_task {l : List Nat} (hl : l.Nodup) {c : Nat} (hc : c < 2) :
    (l.foldl (noteBank f b) s).task? f.core c = if c ∈ l then (s.task? f.core c).map (notedTask f b) else s.task? f.core c := by
  induction l generalizing s with
  | nil => rfl
  | cons bank l ih =>
    obtain ⟨hnot, hl⟩ := List.nodup_cons.mp hl
    rw [List.foldl_cons, ih hl, noteBank_task hc]
    by_cases h : c = bank
    · subst h
      rw [if_neg hnot, if_pos rfl, if_pos List.mem_cons_self]
    · simp only [h, if_false, List.mem_cons, false_or]

theorem noteBanks_saved {l : List Nat} (hl : l.Nodup) : ((l.foldl (noteBank f b) s).part (s.txWin f.win).part).saved
    = (s.part (s.txWin f.win).part).saved.map (fun x => if x.core = f.core ∧ x.bank + 2 ∈ l then notedSave f b x else x) := by
  induction l generalizing s with
  | nil => simp
  | cons bank l ih =>
    obtain ⟨hnot, hl⟩ := List.nodup_cons.mp hl
    have htx : (noteBank f b s bank).txWin f.win = s.txWin f.win := (noteBank_only s bank).field (State.txWin · f.win) (fun _ _ _ => rfl)
    have hrest := ih (s := noteBank f b s bank) hl
    rw [htx] at hrest
    rw [List.foldl_cons, hrest, noteBank_saved, List.map_map]
    refine List.map_congr_left (fun x _ => ?_)
    simp only [Function.comp_apply, List.mem_cons]
    by_cases h : x.core = f.core ∧ x.bank + 2 = bank
    · obtain ⟨h1, h2⟩ := h
      have hmem : ¬ (bank ∈ l) := hnot
      simp [h1, h2, hmem, notedSave]
    · rw [if_neg h]
      refine if_congr ?_ rfl rfl
      tauto

theorem banks_nodup (f : Flit) : f.banks.Nodup := by
  unfold Flit.banks upTo
  rw [List.map_id']
  exact List.nodup_range.filter _

theorem mem_banks {c : Nat} : c ∈ f.banks ↔ c < 4 ∧ f.owners.any (fun o => o.bank == c) = true := by
  unfold Flit.banks upTo
  rw [List.map_id', List.mem_filter, List.mem_range]

theorem noteFailure_task {c : Nat} (hc : c < 2) (ho : f.owners.any (fun o => o.bank == c) = true) :
    (noteFailure s f b).task? f.core c = (s.task? f.core c).map (notedTask f b) := by
  rw [noteFailure_eq, noteBanks_task (banks_nodup f) hc, if_pos (mem_banks.mpr ⟨by omega, ho⟩)]

theorem noteFailure_saved : ((noteFailure s f b).part (s.txWin f.win).part).saved = (s.part (s.txWin f.win).part).saved.map (fun x =>
    if x.core = f.core ∧ x.bank < 2 ∧ f.owners.any (fun o => o.bank == x.bank + 2) = true then notedSave f b x else x) := by
  rw [noteFailure_eq, noteBanks_saved (banks_nodup f)]
  refine List.map_congr_left (fun x _ => if_congr (and_congr_right (fun _ => ?_)) rfl rfl)
  rw [mem_banks]
  exact and_congr_left (fun _ => by omega)

end notes

/-! #### Acknowledgements (R227, R229, R231) -/

section ack
variable {s : State} {f : Flit} {bitmap : BitVec 64}

/-- The failed members of a flit. -/
def failedOf (s : State) (f : Flit) (bitmap : BitVec 64) : BitVec 64 := (bitmap &&& (s.txWin f.win).mask) ||| f.lost

/-- The state in which the failed members are dead, and the one in which the failures are noted too. -/
def ackKilled (s : State) (f : Flit) (bitmap : BitVec 64) : State :=
  killMembers { s with flits := s.flits.filter (fun g => g.id != f.id) } f.win (failedOf s f bitmap &&& ~~~ (s.txWin f.win).dead)

def ackNoted (s : State) (f : Flit) (bitmap : BitVec 64) : State := noteFailure (ackKilled s f bitmap) f (failedOf s f bitmap)

theorem ackFlit_eq (hc : f.core ≠ 512) :
    ackFlit s f bitmap = agentRun (if (s.txWin f.win).loop == 1 then loopBack (ackNoted s f bitmap) f else ackNoted s f bitmap) := by
  have hn : (f.core == agentCore) = false := beq_eq_false_iff_ne.mpr hc
  unfold ackFlit
  simp only [hn, Bool.false_eq_true, if_false]
  rfl

theorem ackKilled_killed : Killed { s with flits := s.flits.filter (fun g => g.id != f.id) } (ackKilled s f bitmap) := killMembers_killed ..

/-- What an acknowledged flit leaves. -/
structure FlitAcked (s : State) (f : Flit) (failed : BitVec 64) (s' : State) : Prop where
  gone : ∀ g ∈ s'.flits, g.id ≠ f.id
  failw : ∀ c, c < 2 → f.owners.any (fun o => o.bank == c) = true → ∀ t, s.task? f.core c = some t →
    ∃ t', s'.task? f.core c = some t' ∧ t'.failw = orFail t.failw f.win failed
  saved : (s'.part (s.txWin f.win).part).saved = (s.part (s.txWin f.win).part).saved.map (fun x =>
    if x.core = f.core ∧ x.bank < 2 ∧ f.owners.any (fun o => o.bank == x.bank + 2) = true then notedSave f failed x else x)
  loops : (s.txWin f.win).loop = 1 → (s.rxWin (s.txWin f.win).rx).state = 1
    → (s.txWin f.win).rxOff + f.block * 64 + 64 ≤ (s.rxWin (s.txWin f.win).rx).size → isRing s (s.txWin f.win).rx = false
    → loopLanding s f ∈ s'.landings

/-- Of the flit's window, only its dead members differ once the failures are noted. -/
theorem ackNoted_killed : ∃ d, (ackNoted s f bitmap).txWin f.win = withDead (s.txWin f.win) d := by
  obtain ⟨d, hd, -⟩ := (ackKilled_killed (s := s) (f := f) (bitmap := bitmap)).tx f.win
  exact ⟨d, ((noteFailure_only _ _ _).field (State.txWin · f.win) (fun _ _ _ => rfl)).trans hd⟩

theorem ackNoted_rx : (ackNoted s f bitmap).rx = s.rx :=
  ((noteFailure_only _ _ _).field State.rx (fun _ _ _ => rfl)).trans ackKilled_killed.rx

theorem ackNoted_ids : (ackNoted s f bitmap).flits.map Flit.id = (s.flits.filter (fun g => g.id != f.id)).map Flit.id :=
  (congrArg (List.map Flit.id) ((noteFailure_only _ _ _).field State.flits (fun _ _ _ => rfl))).trans ackKilled_killed.ids

theorem ackNoted_next : (ackNoted s f bitmap).nextFlit = s.nextFlit :=
  ((noteFailure_only _ _ _).field State.nextFlit (fun _ _ _ => rfl)).trans ackKilled_killed.next

/-- The state before the agent goes on: after a loop-back, where the window asks for one then. -/
def ackLooped (s : State) (f : Flit) (bitmap : BitVec 64) : State :=
  if (s.txWin f.win).loop == 1 then loopBack (ackNoted s f bitmap) f else ackNoted s f bitmap

theorem ackLooped_sends : AgentSends (ackNoted s f bitmap) (ackLooped s f bitmap) := by
  unfold ackLooped
  split
  · exact loopBack_sends _ f
  · exact .refl _

theorem ackLooped_frame : AgentFrame (ackNoted s f bitmap) (ackLooped s f bitmap) := .ite (loopBack_agentFrame _ f) (.refl _)

/-- The acknowledged flit is gone, and what the agent opens has a number of its own. -/
theorem ackFlit_gone (hid : f.id < s.nextFlit) : ∀ g ∈ (agentRun (ackLooped s f bitmap)).flits, g.id ≠ f.id := by
  intro g hg
  rcases (ackLooped_sends.trans (agentRun_sends _)).flits g hg with hold | hnew
  · have hmem := List.mem_map_of_mem (f := Flit.id) hold
    rw [ackNoted_ids, List.mem_map] at hmem
    obtain ⟨k, hk, he⟩ := hmem
    rw [← he]
    simpa using (List.mem_filter.mp hk).2
  · rw [ackNoted_next] at hnew
    omega

theorem ackFlit_failw {c : Nat} (hc : c < 2) (ho : f.owners.any (fun o => o.bank == c) = true) {t : Task} (ht : s.task? f.core c = some t) :
    ∃ t', (agentRun (ackLooped s f bitmap)).task? f.core c = some t' ∧ t'.failw = orFail t.failw f.win (failedOf s f bitmap) := by
  have hk : ((ackKilled s f bitmap).task? f.core c).map Task.failw = (s.task? f.core c).map Task.failw := ackKilled_killed.failw f.core c
  obtain ⟨u, hu, hw⟩ : ∃ u, (ackKilled s f bitmap).task? f.core c = some u ∧ u.failw = t.failw := by
    rw [ht, Option.map_some] at hk
    exact Option.map_eq_some_iff.mp hk
  have hn : (ackNoted s f bitmap).task? f.core c = some (notedTask f (failedOf s f bitmap) u) := by
    rw [ackNoted, noteFailure_task hc ho, hu]
    rfl
  refine ⟨notedTask f (failedOf s f bitmap) u, ?_, congrArg (orFail · f.win (failedOf s f bitmap)) hw⟩
  rw [← hn]
  simp only [State.task?, State.core, (ackLooped_frame.trans (agentRun_agentFrame _)).cores]

theorem ackFlit_saved : ((agentRun (ackLooped s f bitmap)).part (s.txWin f.win).part).saved = (s.part (s.txWin f.win).part).saved.map (fun x =>
    if x.core = f.core ∧ x.bank < 2 ∧ f.owners.any (fun o => o.bank == x.bank + 2) = true then notedSave f (failedOf s f bitmap) x else x) := by
  have hk := ackKilled_killed (s := s) (f := f) (bitmap := bitmap)
  have hpart : ((ackKilled s f bitmap).txWin f.win).part = (s.txWin f.win).part := by
    obtain ⟨d, hd, -⟩ := hk.tx f.win
    rw [hd]
    rfl
  have hnoted := noteFailure_saved (s := ackKilled s f bitmap) (f := f) (b := failedOf s f bitmap)
  have hold : (ackKilled s f bitmap).part (s.txWin f.win).part = s.part (s.txWin f.win).part := by simp only [State.part, hk.parts]
  rw [hpart, hold] at hnoted
  rw [← hnoted]
  simp only [State.part, (ackLooped_frame.trans (agentRun_agentFrame _)).parts]
  rfl

/-- The ring is what the ring's registers and the receive windows say. -/
theorem isRing_congr {s u : State} (hs : u.sorus = s.sorus) (hr : u.rx = s.rx) (n : Nat) : isRing u n = isRing s n := by
  simp only [isRing, ringWin, sorOwner, State.rxWin, hs, hr]

theorem loopLanding_noted : loopLanding (ackNoted s f bitmap) f = loopLanding s f := by
  obtain ⟨d, hd⟩ := ackNoted_killed (s := s) (f := f) (bitmap := bitmap)
  have hm : (ackNoted s f bitmap).modNum = s.modNum :=
    ((noteFailure_only _ _ _).field State.modNum (fun _ _ _ => rfl)).trans ackKilled_killed.modNum
  simp only [loopLanding, hd, hm, State.rxWin, ackNoted_rx, withDead]

theorem ackFlit_loops (hl : (s.txWin f.win).loop = 1) (hr : (s.rxWin (s.txWin f.win).rx).state = 1)
    (hsize : (s.txWin f.win).rxOff + f.block * 64 + 64 ≤ (s.rxWin (s.txWin f.win).rx).size) (hring : isRing s (s.txWin f.win).rx = false) :
    loopLanding s f ∈ (agentRun (ackLooped s f bitmap)).landings := by
  obtain ⟨d, hd⟩ := ackNoted_killed (s := s) (f := f) (bitmap := bitmap)
  have hs : (ackNoted s f bitmap).sorus = s.sorus :=
    ((noteFailure_only _ _ _).field State.sorus (fun _ _ _ => rfl)).trans (killMembers_sorus _ _ _ (by simp only [State.txWin] at hl ⊢; omega))
  refine (agentRun_sends _).landings.subset ?_
  have hwin : ∀ n, (ackNoted s f bitmap).rxWin n = s.rxWin n := fun n => by simp only [State.rxWin, ackNoted_rx]
  have hnot : isRing (ackNoted s f bitmap) ((ackNoted s f bitmap).txWin f.win).rx = false := by
    rw [isRing_congr hs ackNoted_rx, hd]
    exact hring
  rw [ackLooped, hl, if_pos (beq_self_eq_true 1), loopBack_lands hnot, hd, hwin, loopLanding_noted]
  refine List.mem_append_right _ ?_
  rw [if_pos]
  · exact List.mem_singleton.mpr rfl
  · exact ⟨hr, hsize⟩

theorem ackFlit_acked (hc : f.core ≠ 512) (hid : f.id < s.nextFlit) : FlitAcked s f (failedOf s f bitmap) (ackFlit s f bitmap) := by
  rw [show ackFlit s f bitmap = agentRun (ackLooped s f bitmap) from ackFlit_eq hc]
  exact ⟨ackFlit_gone hid, fun _ hb ho _ ht => ackFlit_failw hb ho ht, ackFlit_saved, ackFlit_loops⟩

/-- When an acknowledgement is late (R229). -/
def ackBound (s : State) (f : Flit) : Nat := f.departGt + ((s.part (s.txWin f.win).part).csrVal 0x102).toNat

section found
variable (hf : s.flits.find? (fun g => g.id == f.id) = some f) (hd : f.departed = true)
include hf hd

theorem flitAckArrival_eq :
    exec (.flitAckArrival f.id bitmap) s = event s (s.gt ≤ ackBound s f) (.next (ackFlit s f bitmap)) := by
  rw [exec_flitAckArrival]
  unfold execFlitAckArrival
  rw [hf]
  simp only [hd, Bool.true_and]
  rfl

theorem flitAckArrival_late (h : ackBound s f < s.gt) : exec (.flitAckArrival f.id bitmap) s = .next s :=
  (flitAckArrival_eq hf hd).trans (event_not (decide_eq_false (Nat.not_le.mpr h)))

theorem flitAckArrival_goes (ha : alive s = true) (h : s.gt ≤ ackBound s f) : exec (.flitAckArrival f.id bitmap) s = .next (ackFlit s f bitmap) :=
  (flitAckArrival_eq hf hd).trans (event_of ha (decide_eq_true h))

theorem ackTimeout_goes (ha : alive s = true) (h : ackBound s f ≤ s.gt) : exec (.ackTimeout f.id bitmap) s = .next (ackFlit s f bitmap) := by
  rw [exec_ackTimeout]
  unfold execAckTimeout
  rw [hf]
  exact event_of ha (by rw [hd, Bool.true_and]; exact decide_eq_true h)

end found
end ack

/-! #### What O46 says of each event -/

section clauses
variable {s : State}

/-- The flit that has departed keeps its place among the flits. -/
theorem departed_mem {f : Flit} {m : Nat} (hf : s.flits.find? (fun g => g.id == f.id) = some f) :
    ∃ g ∈ s.flits.map (fun g => if g.id == f.id then withLeft s.gt (copiesLeft s f m) g else g),
      g.id = f.id ∧ g.copies = copiesLeft s f m ∧ g.isOpen = false ∧ (g.departed = true ↔ g.copies = 0) := by
  refine ⟨withLeft s.gt (copiesLeft s f m) f, List.mem_map.mpr ⟨f, List.mem_of_find?_eq_some hf, if_pos (beq_self_eq_true f.id)⟩, rfl, rfl, rfl, ?_⟩
  exact beq_iff_eq

variable (ha : alive s = true)
include ha

/-- A landing takes its next granule, and goes after the last one. -/
theorem turnLand_granule {n g : Nat} {l : Landing} {rest : List Nat} (hl : s.landings[n]? = some l)
    (hf : ∀ m ∈ s.landings.take n, m.src = l.src → m.path ≠ l.path) (hc : l.coll = none) (ho : l.order = g :: rest)
    (hp : s.poison = []) (he : s.errs = []) :
    ∃ s', turnLand n s = .next s'
      ∧ (∀ a, l.base = .hbm a → (∀ k, s'.core k = s.core k) ∧ ∀ x, getByte s'.hbm x
        = if a + 16 * g ≤ x ∧ x < a + 16 * g + 16 ∧ l.mask.getLsbD (x - a) = true
          then l.data.extractLsb' (8 * (x - a)) 8 else getByte s.hbm x)
      ∧ (∀ c a, l.base = .spad c a → s'.hbm = s.hbm ∧ ∀ k x, getByte (s'.core k).spad x
        = if k = c ∧ a + 16 * g ≤ x ∧ x < a + 16 * g + 16 ∧ l.mask.getLsbD (x - a) = true
          then l.data.extractLsb' (8 * (x - a)) 8 else getByte (s.core k).spad x)
      ∧ (rest = [] → s'.landings = s.landings.eraseIdx n ∧ s'.out = s.out ++ (if l.ack then [Msg.ack (ackPort s l.src) l.src true] else []))
      ∧ (rest ≠ [] → s'.landings = s.landings.set n { l with order := rest } ∧ s'.out = s.out) := by
  obtain ⟨hhbm, hcore⟩ := landedState_memory (s := s) (n := n) (g := g) (rest := rest) hc
  refine ⟨_, turnLand_goes ha hl hf hc ho, fun a hb => ?_, fun c a hb => ?_, fun hr => ?_, landedState_more⟩
  · rw [hb] at hhbm hcore
    obtain ⟨hk, hx⟩ := landGranule_hbm (g := g) hp he (a := a) (mask := l.mask) (data := l.data)
    exact ⟨fun k => (hcore k).trans (hk k), fun x => hhbm ▸ hx x⟩
  · rw [hb] at hhbm hcore
    obtain ⟨hh, hx⟩ := landGranule_spad (s := s) (g := g) (c := c) (a := a) (mask := l.mask) (data := l.data)
    exact ⟨hhbm.trans hh, fun k x => hcore k ▸ hx k x⟩
  · subst hr
    exact landedState_last hc

end clauses

/-- A failure word takes the failed members (R229). -/
theorem get_orFail (m : Sparse Word) (win : Nat) (b : BitVec 64) : Sparse.get 0 (orFail m win b) (win / 16) = Sparse.get 0 m (win / 16) ||| b :=
  Sparse.get_set_same ..

/-- Each task that sent a store of the flit has its failures. -/
theorem FlitAcked.noted {s s' : State} {f : Flit} {failed : BitVec 64} (h : FlitAcked s f failed s') {o : Owner} (ho : o ∈ f.owners) (hb : o.bank < 2)
    {t : Task} (ht : s.task? f.core o.bank = some t) : ∃ t', s'.task? f.core o.bank = some t'
      ∧ Sparse.get 0 t'.failw (f.win / 16) = Sparse.get 0 t.failw (f.win / 16) ||| failed := by
  obtain ⟨t', ht', hw⟩ := h.failw o.bank hb (List.any_eq_true.mpr ⟨o, ho, beq_self_eq_true _⟩) t ht
  exact ⟨t', ht', by rw [hw, get_orFail]⟩

/-- Settles O46: a departure, a delivery, a granule, an acknowledgement and a disabled module, each by what its event leaves. The death of members keeps
the failure words and the numbers of flits, and so does what the agent then sends; so the notes of an acknowledgement stand in the end. -/
theorem flitEvents : Obligations.FlitEvents := by
  unfold Obligations.FlitEvents
  intro s ha
  refine ⟨fun _ _ _ => mem_exitPorts, fun f m port hf hc hr ho => ⟨fun hp hready hw hl => ?_, flitDeparture_stays hf hc hr ho⟩, fun f => ⟨?_, ?_, ?_⟩,
    fun n l g rest hl hf hc ho _ hp he => turnLand_granule ha hl hf hc ho hp he, fun f bitmap hf hd hid hcore => ?_, fun m hm => memberDisabled_kills ha hm⟩
  · obtain ⟨s', hs', hmem, hout, hflits, hlands⟩ := flitDeparture_goes hf hc hr ho ha hp hready hw hl
    exact ⟨s', hs', hmem, hout, hflits ▸ departed_mem hf, hlands⟩
  · exact fun h => flitDelivery_refused ha (mt takesFlit_iff.mp h)
  · exact fun h => flitDelivery_lands ha (takesFlit_iff.mpr h)
  · exact fun h => flitDelivery_ring ha (takesFlit_iff.mpr h)
  · have acked := ackFlit_acked (bitmap := bitmap) hcore hid
    refine ⟨fun h => ⟨_, flitAckArrival_goes hf hd ha h, ?_⟩, flitAckArrival_late hf hd, fun h => ⟨_, ackTimeout_goes hf hd ha h, ?_⟩⟩
    all_goals exact ⟨acked.gone, fun _ ho hb _ ht => acked.noted ho hb ht, acked.saved, acked.loops⟩

end Sys2Proof
